-- ==== Sys2Proof/Word.lean ====
section
/-! DEFINITION. The bit vectors of the K144 manual: cell, halfword, byte, buffer handle, pip, order lane. -/

namespace Sys2Proof

/-- The Gilin cell and the register word: 32 bits (05 R137). -/
abbrev Word := BitVec 32
/-- A halfword: 16 bits (05 R137). -/
abbrev Half := BitVec 16
/-- A byte. -/
abbrev Byte := BitVec 8
/-- A buffer handle of the host's pool: 24 bits (13 R385); 0xFF_FFFF is "no buffer" (R388). -/
abbrev Handle := BitVec 24
/-- An order lane, 0-255; 240-255 are ladder lanes (00 glossary, 03 R85). -/
abbrev Lane := BitVec 8
/-- A pip: the 16-bit sequence number of a lane (03 R84). -/
abbrev Pip := BitVec 16
/-- A control-port byte address: 26 bits, of which CTL_ADDR carries bits 25:2 (19 R508). -/
abbrev RegAddr := BitVec 26

end Sys2Proof
end

