-- ==== Sys2Proof/Syntax.lean ====
section
/-! DEFINITION. The commands of the K144: one constructor per row of spec/opcode_table.json, with the row's operands,
and the types of those operands. -/

namespace Sys2Proof

/-- A rank, 0-11 (00 R15). -/
abbrev Rank := Fin 12
/-- A seat of a rank, 0-12 (00 R15). -/
abbrev Seat := Fin 13
/-- A physical core of a rank, 0-12 (17 R472). -/
abbrev CoreNo := Fin 13
/-- A packet context of a core, 0-7 (00 R15). -/
abbrev CtxNo := Fin 8
/-- A port channel, 0-1023 (02 R47). -/
abbrev Chan := Fin 1024
/-- A host buffer pool, 0-7 (13). -/
abbrev Pool := Fin 8
/-- A steward, 0-3 (12 R358). -/
abbrev StwNo := Fin 4
/-- A switched power domain, 0-19, numbered as in chapter 16. -/
abbrev Dom := Fin 20

/-- Who reads or writes a register: the control port, a steward, or the debug path (02 R71, 12 R362). -/
inductive Req where
  | ctl
  | stw (s : StwNo)
  | dbg
deriving DecidableEq, Repr

/-- A Gilin context: a packet context of a core, the fault context of a core, or a steward's one context. -/
inductive Who where
  | pkt (r : Rank) (c : CoreNo) (k : CtxNo)
  | flt (r : Rank) (c : CoreNo)
  | stw (s : StwNo)
deriving DecidableEq, Repr

/-- The guard of an instruction (05 R157): none, "if pn" or "if not pn". -/
inductive Guard where
  | always
  | ifp (n : Fin 8)
  | ifnot (n : Fin 8)
deriving DecidableEq, Repr

/-- The issue of one Gilin instruction: the context that executes it and its guard. -/
structure Iss where
  who : Who
  guard : Guard
deriving DecidableEq, Repr

/-- The displacement of BR and BR.T: the 8-bit or the 16-bit form (05 R168). -/
inductive Disp where
  | r8 (d : Byte)
  | r16 (d : Half)
deriving DecidableEq, Repr

/-- The signals of one ingress segment lane at a CK_IN edge (02 R34). -/
structure Seg where
  ch : BitVec 10
  sop : Bool
  eop : Bool
  bytes : BitVec 6
  err : Bool
  fcsOk : Bool
  data : BitVec 512
deriving DecidableEq, Repr

/-- A link that carries packets and tokens: ingress to rank 0, rank n to rank n + 1, rank 1 to rank 11, rank 11 to
egress (03 R72, R98). -/
inductive Link where
  | ing
  | hop (n : Fin 11)
  | ladder
  | eg
deriving DecidableEq, Repr

/-- A unit a verdict message reaches (04 R107): a rank, egress, or the exception-queue logic of a rank. -/
inductive VUnit where
  | rank (r : Rank)
  | egress
  | excq (r : Rank)
deriving DecidableEq, Repr

/-- An island that restarts itself (17 R481). -/
inductive Isl where
  | ingress
  | egress
  | time
deriving DecidableEq, Repr

/-- The core a machine check stops: a packet core or a steward (11 R353). -/
inductive McTarget where
  | core (r : Rank) (c : CoreNo)
  | stw (s : StwNo)
deriving DecidableEq, Repr

/-- The core a debug run command names: a seat of a rank, or a steward (18 DBG_RUN_CMD). -/
inductive DbgTarget where
  | seat (r : Rank) (s : Seat)
  | stw (s : StwNo)
deriving DecidableEq, Repr

/-- Where a minimal-mode command block comes from (15 R440): the mailbox, or a CH 0 frame. -/
inductive MinVia where
  | mailbox
  | frame
deriving DecidableEq, Repr

/-- How a minimal-mode command that uses the flash comes, and whether the flash answers with an error (15 R440). -/
structure MinIn where
  via : MinVia
  err : Bool
deriving DecidableEq, Repr

/-- A request the host presents at the control port (19 R508). -/
structure CtlReq where
  we : Bool
  addr : BitVec 24
  wdata : Word
  be : BitVec 4
deriving DecidableEq, Repr


/-- The commands: each row of spec/opcode_table.json, in the table's order. -/
inductive Instr where
  /-- INGRESS_SEGMENT (R43): A segment accepted on an ingress lane: protocol checks, SOP stamping, head keeping and dispatch toward rank 0. -/
  | ingressSegment (l0 l1 : Option Seg)
  /-- PAUSE_EVENT (R49): Ingress emits one pause event for the lowest waiting channel whose pause state has changed. -/
  | pauseEvent
  /-- IN_PAUSE_NL_CHANGE (R51): IN_PAUSE_NL rises or falls at the first CK_IN edge 8 ns after the pool LOW sample that changes it. -/
  | inPauseNlChange
  /-- EGRESS_FRAME_START (R57): Egress starts a frame on a channel once credits, gate, guard and first tail beat allow. -/
  | egressFrameStart (ch : Chan) (lane : Lane)
  /-- EGRESS_SEGMENT (R34): Egress drives one segment of a started frame, consuming one credit. -/
  | egressSegment (port : Fin 2) (ch : Chan) (lane : Lane)
  /-- EG_CREDIT_RETURN (R58): A credit return adds segments to a channel's credit count, saturating at 4095. -/
  | egCreditReturn (ch : Chan) (cnt : Byte)
  /-- CH_ATTACH (R65): CH_CMD attach moves a DETACHED channel to ATTACHING or is refused. -/
  | chAttach (q : Req) (ch : Chan)
  /-- CH_DETACH (R65): CH_CMD detach moves an ATTACHED channel to DETACHING or is refused. -/
  | chDetach (q : Req) (ch : Chan)
  /-- CHANNEL_ATTACHED (R60): An ATTACHING channel whose HELD count is 0 enters ATTACHED and sets its CH_DONE bit. -/
  | channelAttached (ch : Chan)
  /-- CHANNEL_DETACHED (R61): A DETACHING channel whose drain conditions hold enters DETACHED and sets its CH_DONE bit. -/
  | channelDetached (ch : Chan)
  /-- BLK_DETACH_REQ (R68): A rise of BLK_DETACH_REQ while RUNNING starts the whole-block detach. -/
  | blkDetachReq
  /-- BLOCK_DETACHED (R68): When every channel is DETACHED and the free queue is empty, BLK_STATE becomes DETACHED, BLK_DETACH_ACK rises and all domains are turned off. -/
  | blockDetached
  /-- BLK_DETACH_REQ_FALL (R70): A fall of BLK_DETACH_REQ lets BLK_DETACH_ACK fall within 2 µs. -/
  | blkDetachReqFall
  /-- COUNTER_LO_READ (R71): A functional read of a counter's _LO word latches its upper word for that requester. -/
  | counterLoRead (q : Req) (addr : RegAddr)
  /-- COUNTER_HI_READ (R71): A read of a counter's _HI word returns the requester's latch, or the current upper word for a debug peek. -/
  | counterHiRead (q : Req) (addr : RegAddr)
  /-- HOP_TRANSFER (R72): A packet transfer arrives at a rank over a hop or the bypass link and takes a replay-buffer entry. -/
  | hopTransfer (l : Link)
  /-- SKIP_TOKEN (R92): A skip token from upstream is recorded as a skip mark. -/
  | skipToken (l : Link)
  /-- VERDICT_TOKEN (R109): A verdict token behind a packet is applied by the receiving island as a verdict message. -/
  | verdictToken (l : Link)
  /-- DISPATCH_SELECT (R80): The dispatcher selects a seat and context for the next packet by class order. -/
  | dispatchSelect (r : Rank)
  /-- CONTEXT_START (R167): Once the head mover's write completes, the context starts at vector-table entry 0 with reset banks. -/
  | contextStart (r : Rank) (c : CoreNo) (k : CtxNo)
  /-- HEAD_SLOT_WRITTEN (R336): A staged slot is written out to its banks and frees its staging buffer, releasing a held selection. -/
  | headSlotWritten (r : Rank) (c : CoreNo) (k : CtxNo) (sl : Fin 2)
  /-- GATE_RELEASE (R88): The gate releases one packet per cycle toward the next island when it holds a downstream credit, sending RELEASE to the ledger. -/
  | gateRelease (r : Rank)
  /-- GATE_PASS_MARK (R91): The gate passes a skip mark, advances NEXT and sends a skip token downstream. -/
  | gatePassMark (r : Rank)
  /-- RANK_PUNT_POP (R100): A functional read returns the oldest unpopped exception-queue entry and marks it popped. -/
  | rankPuntPop (q : Req) (r : Rank)
  /-- RANK_REINJ_REINJECT (R102): RANK_REINJ OP 1 reinjects a held entry into the target rank's reinject queue, or is refused. -/
  | rankReinjReinject (q : Req) (r : Rank) (idx : Fin 64) (target : Fin 16)
  /-- RANK_REINJ_DROP (R102): RANK_REINJ OP 2 drops a held entry and frees its tail, or is refused. -/
  | rankReinjDrop (q : Req) (r : Rank) (idx : Fin 64)
  /-- TURN_CAP_EXPIRY (R96): TURN reaching cap + 1 raises vector 11 and abandons any sleep. -/
  | turnCapExpiry (r : Rank) (c : CoreNo) (k : CtxNo)
  /-- TURN_HARD_LIMIT (R96): TURN reaching cap + 128 stops the context and hands it to the fault context for punt 0x80. -/
  | turnHardLimit (r : Rank) (c : CoreNo) (k : CtxNo)
  /-- VERDICT_MESSAGE (R107): Ingress issues the verdict message of a PENDING frame at the later of its EOP or truncation and its last tail write acceptance. -/
  | verdictMessage (lane : Lane) (pip : Pip)
  /-- VERDICT_ARRIVE (R108): A verdict message reaches a unit, which writes VERDICT and LEN into its copies and forfeits a bad packet where it lies. -/
  | verdictArrive (u : VUnit) (lane : Lane) (pip : Pip)
  /-- LEDGER_ENTRY (R120): The ledger accepts an ENTRY message into a free entry, waking a context that slept for room. -/
  | ledgerEntry (r : Rank) (idx : Fin 16384)
  /-- LEDGER_RELEASE (R120): A RELEASE message sets REL on the key's entries and applies the verdict it carries. -/
  | ledgerRelease (r : Rank)
  /-- LEDGER_DISCARD (R132): A DISCARD message discards the entries of a replayed packet's old key. -/
  | ledgerDiscard (r : Rank)
  /-- LEDGER_FORFEIT (R120): A FORFEIT message discards the entries of (lane, pip, rank) for any attempt. -/
  | ledgerForfeit (r : Rank)
  /-- LEDGER_VERDICT (R110): A VERDICT message sets VGOOD or discards the frame's entries, after earlier rank messages. -/
  | ledgerVerdict
  /-- LEDGER_FLUSH (R483): The ingress flush discards every ledger entry whose VGOOD is 0. -/
  | ledgerFlush
  /-- LEDGER_COMMIT (R124): The commit engine applies a due entry to its table once granted by the tile and frees it. -/
  | ledgerCommit (idx : Fin 16384)
  /-- LEDGER_PEAK_READ (R6): A functional read returns the peak fill and clears it. -/
  | ledgerPeakRead (q : Req)
  /-- LEDGER_UE_LOG_READ (R528): A functional read pops the oldest lost-entry key and reports OVF. -/
  | ledgerUeLogRead (q : Req)
  /-- NOP (R134): Does nothing. -/
  | nop (x : Iss)
  /-- DUP (R174): Duplicates the top cell. -/
  | dup (x : Iss)
  /-- DROP (R174): Discards the top cell. -/
  | drop (x : Iss)
  /-- SWAP (R174): Exchanges the top two cells. -/
  | swap (x : Iss)
  /-- OVER (R174): Copies the second cell to the top. -/
  | over (x : Iss)
  /-- ROT (R174): Rotates the third cell to the top. -/
  | rot (x : Iss)
  /-- NIP (R174): Discards the second cell. -/
  | nip (x : Iss)
  /-- TUCK (R174): Copies the top cell below the second. -/
  | tuck (x : Iss)
  /-- TWO_DUP (R174): 2DUP duplicates the top pair. -/
  | twoDup (x : Iss)
  /-- TWO_DROP (R174): 2DROP discards the top pair. -/
  | twoDrop (x : Iss)
  /-- TWO_SWAP (R174): 2SWAP exchanges the top two pairs. -/
  | twoSwap (x : Iss)
  /-- TWO_OVER (R174): 2OVER copies the second pair to the top. -/
  | twoOver (x : Iss)
  /-- MINUS_ROT (R174): −ROT rotates the top cell to third place. -/
  | minusRot (x : Iss)
  /-- PICK (R179): Copies the cell n below the top. -/
  | pick (x : Iss) (b : Byte)
  /-- DEPTH (R179): Pushes the operand depth. -/
  | depth (x : Iss)
  /-- PUT (R179): Pops v and overwrites the cell n below the new top. -/
  | put (x : Iss) (b : Byte)
  /-- LIT_N (R173): LIT.0–LIT.15 push a constant from the opcode. -/
  | litN (x : Iss) (n : Fin 16)
  /-- LIT8 (R173): Pushes the operand byte. -/
  | lit8 (x : Iss) (b : Byte)
  /-- LIT16 (R173): Pushes the operand halfword. -/
  | lit16 (x : Iss) (h : Half)
  /-- LIT32 (R173): Pushes the operand word. -/
  | lit32 (x : Iss) (w : Word)
  /-- ADD (R138): Adds modulo 2^32. -/
  | add (x : Iss)
  /-- SUB (R138): Subtracts modulo 2^32. -/
  | sub (x : Iss)
  /-- NEG (R138): Negates the top cell. -/
  | neg (x : Iss)
  /-- INC (R138): Adds 1. -/
  | inc (x : Iss)
  /-- DEC (R138): Subtracts 1. -/
  | dec (x : Iss)
  /-- AND (R138): Bitwise AND. -/
  | and (x : Iss)
  /-- OR (R138): Bitwise OR. -/
  | or (x : Iss)
  /-- XOR (R138): Bitwise XOR. -/
  | xor (x : Iss)
  /-- NOT (R138): Bitwise NOT. -/
  | not (x : Iss)
  /-- ANDN (R138): Clears in a the bits set in b. -/
  | andn (x : Iss)
  /-- SHL (R139): Shifts left by the stack count's bits 4:0. -/
  | shl (x : Iss)
  /-- SHR (R139): Shifts right logically by the stack count. -/
  | shr (x : Iss)
  /-- SAR (R139): Shifts right arithmetically by the stack count. -/
  | sar (x : Iss)
  /-- ROL (R139): Rotates left by the stack count. -/
  | rol (x : Iss)
  /-- ROR (R139): Rotates right by the stack count. -/
  | ror (x : Iss)
  /-- SHLI (R139): Shifts left by the immediate count. -/
  | shli (x : Iss) (b : Byte)
  /-- SHRI (R139): Shifts right logically by the immediate count. -/
  | shri (x : Iss) (b : Byte)
  /-- SARI (R139): Shifts right arithmetically by the immediate count. -/
  | sari (x : Iss) (b : Byte)
  /-- EXTR (R180): Extracts a zero-extended bit field. -/
  | extr (x : Iss) (pos len : Byte)
  /-- INS (R180): Inserts a bit field into a. -/
  | ins (x : Iss) (pos len : Byte)
  /-- CLZ (R138): Counts leading zeros. -/
  | clz (x : Iss)
  /-- POPC (R138): Counts set bits. -/
  | popc (x : Iss)
  /-- BSWAP32 (R138): Reverses the four bytes. -/
  | bswap32 (x : Iss)
  /-- BSWAP16 (R138): Swaps the low two bytes and clears the upper half. -/
  | bswap16 (x : Iss)
  /-- MUL (R138): Pushes the low 32 bits of the product. -/
  | mul (x : Iss)
  /-- MULH (R138): Pushes the high 32 bits of the signed product. -/
  | mulh (x : Iss)
  /-- MULHU (R138): Pushes the high 32 bits of the unsigned product. -/
  | mulhu (x : Iss)
  /-- MIN (R138): Signed minimum. -/
  | min (x : Iss)
  /-- MAX (R138): Signed maximum. -/
  | max (x : Iss)
  /-- CEQ (R181): Writes a = b to a predicate. -/
  | ceq (x : Iss) (p : Byte)
  /-- CNE (R181): Writes a ≠ b to a predicate. -/
  | cne (x : Iss) (p : Byte)
  /-- CLT (R181): Writes signed a < b. -/
  | clt (x : Iss) (p : Byte)
  /-- CLE (R181): Writes signed a ≤ b. -/
  | cle (x : Iss) (p : Byte)
  /-- CGT (R181): Writes signed a > b. -/
  | cgt (x : Iss) (p : Byte)
  /-- CGE (R181): Writes signed a ≥ b. -/
  | cge (x : Iss) (p : Byte)
  /-- CLTU (R181): Writes unsigned a < b. -/
  | cltu (x : Iss) (p : Byte)
  /-- CLEU (R181): Writes unsigned a ≤ b. -/
  | cleu (x : Iss) (p : Byte)
  /-- CGTU (R181): Writes unsigned a > b. -/
  | cgtu (x : Iss) (p : Byte)
  /-- CGEU (R181): Writes unsigned a ≥ b. -/
  | cgeu (x : Iss) (p : Byte)
  /-- CEQZ (R181): Writes a = 0. -/
  | ceqz (x : Iss) (p : Byte)
  /-- CNEZ (R181): Writes a ≠ 0. -/
  | cnez (x : Iss) (p : Byte)
  /-- CBIT (R181): Writes whether bit n of a is set. -/
  | cbit (x : Iss) (p : Byte)
  /-- CMASK (R181): Writes whether every bit of m is set in a. -/
  | cmask (x : Iss) (p : Byte)
  /-- CSER16 (R140): Writes whether a comes before b in 16-bit serial arithmetic. -/
  | cser16 (x : Iss) (p : Byte)
  /-- CSER32 (R140): Writes whether a comes before b in 32-bit serial arithmetic. -/
  | cser32 (x : Iss) (p : Byte)
  /-- PAND (R181): pd = pd AND pa. -/
  | pand (x : Iss) (b : Byte)
  /-- POR (R181): pd = pd OR pa. -/
  | por (x : Iss) (b : Byte)
  /-- PXOR (R181): pd = pd XOR pa. -/
  | pxor (x : Iss) (b : Byte)
  /-- PANDN (R181): pd = pd AND NOT pa. -/
  | pandn (x : Iss) (b : Byte)
  /-- PMOV (R181): pd = pa. -/
  | pmov (x : Iss) (b : Byte)
  /-- PNOT (R181): pd = NOT pa. -/
  | pnot (x : Iss) (b : Byte)
  /-- PSET (R146): Sets a predicate true. -/
  | pset (x : Iss) (p : Byte)
  /-- PCLR (R146): Sets a predicate false. -/
  | pclr (x : Iss) (p : Byte)
  /-- PPUSH (R137): Pushes a predicate as 0 or 1. -/
  | ppush (x : Iss) (p : Byte)
  /-- PPOP (R146): Sets a predicate from a popped cell. -/
  | ppop (x : Iss) (p : Byte)
  /-- PALL (R146): Pushes PRED with bit 0 set. -/
  | pall (x : Iss)
  /-- PLOAD (R146): Loads p7–p1 from a popped cell. -/
  | pload (x : Iss)
  /-- LD8 (R152): Loads a zero-extended byte. -/
  | ld8 (x : Iss)
  /-- LD8S (R152): Loads a sign-extended byte. -/
  | ld8s (x : Iss)
  /-- LD16 (R153): Loads a zero-extended halfword. -/
  | ld16 (x : Iss)
  /-- LD16S (R153): Loads a sign-extended halfword. -/
  | ld16s (x : Iss)
  /-- LD32 (R153): Loads a word. -/
  | ld32 (x : Iss)
  /-- ST8 (R156): Stores a byte. -/
  | st8 (x : Iss)
  /-- ST16 (R156): Stores a halfword. -/
  | st16 (x : Iss)
  /-- ST32 (R156): Stores a word. -/
  | st32 (x : Iss)
  /-- LDA32 (R147): Loads the word at A. -/
  | lda32 (x : Iss)
  /-- LDA32_PLUS (R147): LDA32+ loads the word at A and adds 4 to A. -/
  | lda32Plus (x : Iss)
  /-- STA32 (R147): Stores a word at A. -/
  | sta32 (x : Iss)
  /-- STA32_PLUS (R147): STA32+ stores a word at A and adds 4 to A. -/
  | sta32Plus (x : Iss)
  /-- LDA8_PLUS (R147): LDA8+ loads the byte at A and adds 1 to A. -/
  | lda8Plus (x : Iss)
  /-- STA8_PLUS (R147): STA8+ stores a byte at A and adds 1 to A. -/
  | sta8Plus (x : Iss)
  /-- LDB32_PLUS (R147): LDB32+ loads the word at B and adds 4 to B. -/
  | ldb32Plus (x : Iss)
  /-- STB32_PLUS (R147): STB32+ stores a word at B and adds 4 to B. -/
  | stb32Plus (x : Iss)
  /-- LDB32 (R147): Loads the word at B. -/
  | ldb32 (x : Iss)
  /-- STB32 (R147): Stores a word at B. -/
  | stb32 (x : Iss)
  /-- LDB8_PLUS (R147): LDB8+ loads the byte at B and adds 1 to B. -/
  | ldb8Plus (x : Iss)
  /-- STB8_PLUS (R147): STB8+ stores a byte at B and adds 1 to B. -/
  | stb8Plus (x : Iss)
  /-- LDH8 (R154): Loads a byte at HSLOT + offset. -/
  | ldh8 (x : Iss) (off : Half)
  /-- LDH16 (R154): Loads a halfword at HSLOT + offset in slot byte order. -/
  | ldh16 (x : Iss) (off : Half)
  /-- LDH32 (R154): Loads a word at HSLOT + offset in slot byte order. -/
  | ldh32 (x : Iss) (off : Half)
  /-- STH8 (R154): Stores a byte at HSLOT + offset. -/
  | sth8 (x : Iss) (off : Half)
  /-- STH16 (R154): Stores a halfword at HSLOT + offset in slot byte order. -/
  | sth16 (x : Iss) (off : Half)
  /-- STH32 (R154): Stores a word at HSLOT + offset in slot byte order. -/
  | sth32 (x : Iss) (off : Half)
  /-- LDHX (R182): Loads a byte at HSLOT + popped offset. -/
  | ldhx (x : Iss)
  /-- STHX (R182): Stores a byte at HSLOT + popped offset. -/
  | sthx (x : Iss)
  /-- LDC8 (R150): Reads a code-space byte. -/
  | ldc8 (x : Iss)
  /-- LDC32 (R150): Reads an aligned code-space word. -/
  | ldc32 (x : Iss)
  /-- SETA (R147): Loads register A. -/
  | seta (x : Iss)
  /-- SETB (R147): Loads register B. -/
  | setb (x : Iss)
  /-- BR (R185): Branches by a displacement, hinted not taken. -/
  | br (x : Iss) (d : Disp)
  /-- BR_T (R185): BR.T branches by a displacement, hinted taken. -/
  | brT (x : Iss) (d : Disp)
  /-- CALL (R186): Pushes the return address and jumps to an absolute address. -/
  | call (x : Iss) (addr : BitVec 24)
  /-- CALLI (R186): Pushes the return address and jumps to a popped address. -/
  | calli (x : Iss)
  /-- RET (R187): Returns to the popped return entry. -/
  | ret (x : Iss)
  /-- LOOP (R159): Pops a count and pushes a hardware loop level or skips the body. -/
  | loop (x : Iss) (d : Half)
  /-- LEXIT (R161): Pops the innermost loop level and continues at its END. -/
  | lexit (x : Iss)
  /-- JMPI (R186): Jumps to a popped address. -/
  | jmpi (x : Iss)
  /-- LCNT (R161): Pushes the innermost loop count. -/
  | lcnt (x : Iss)
  /-- DONE (R189): Ends the packet toward the order gate after its outstanding operations. -/
  | done (x : Iss)
  /-- DROPPKT (R189): Ends the packet and drops it with a skip mark. -/
  | droppkt (x : Iss)
  /-- PUNT (R100): Releases locks and punts the packet to the exception queue with a code. -/
  | punt (x : Iss) (b : Byte)
  /-- PACKET_END (R189): When every outstanding operation of an ending context is acknowledged, the packet ends and the context becomes free. -/
  | packetEnd (r : Rank) (c : CoreNo) (k : CtxNo)
  /-- EMIT (R192): Records a replica for an egress channel and class in rank 11. -/
  | emit (x : Iss)
  /-- SKIPTO (R193): Strips or inserts head bytes and adjusts LEN once the verdict is known. -/
  | skipto (x : Iss)
  /-- SETLANE (R192): Sets the lane of later replicas. -/
  | setlane (x : Iss)
  /-- LOOK (R301): Looks up a table entry and writes it on a hit. -/
  | look (x : Iss) (t : Byte)
  /-- LOOKW (R116): Looks up with the packet's own held ledger entries applied. -/
  | lookw (x : Iss) (t : Byte)
  /-- UPD (R113): Settling write of a table entry after the verdict is good. -/
  | upd (x : Iss) (t : Byte)
  /-- CNT (R196): Sends a deferred counter add to the ledger. -/
  | cnt (x : Iss) (t : Byte)
  /-- MTR (R306): Pushes a meter colour and sends a deferred charge to the ledger. -/
  | mtr (x : Iss) (t : Byte)
  /-- LRN (R196): Sends a deferred learn of a key and value to the ledger. -/
  | lrn (x : Iss) (t : Byte)
  /-- LOG (R196): Sends a deferred ring record to the ledger. -/
  | log (x : Iss) (t : Byte)
  /-- CAS (R197): Settling compare-and-swap that takes an entry lock, or a window test-and-set. -/
  | cas (x : Iss) (t : Byte)
  /-- UNLOCK (R197): Releases the context's lock on an entry. -/
  | unlock (x : Iss) (t : Byte)
  /-- WAIT (R200): Sleeps for n cycles, or on a steward until an interrupt or timeout. -/
  | wait (x : Iss)
  /-- WAIT_EXPIRY (R200): The WAIT count ends and the context becomes ready again. -/
  | waitExpiry (w : Who)
  /-- YIELD (R200): Lets the core's other ready contexts issue first. -/
  | yield (x : Iss)
  /-- SYS (R240): Raises vector 14 with the trap number. -/
  | sys (x : Iss) (b : Byte)
  /-- RTE (R250): Returns from the current exception after its level's outstanding operations. -/
  | rte (x : Iss)
  /-- EXCEPTION_RETURN (R251): RTE reads the frame, checks it and restores the lower level, or double-faults. -/
  | exceptionReturn (w : Who)
  /-- MFS (R164): Pushes a special register. -/
  | mfs (x : Iss) (i : Byte)
  /-- MTS (R164): Writes a special register. -/
  | mts (x : Iss) (i : Byte)
  /-- FENCE (R202): Waits until earlier stores, table writes and ledger messages are done. -/
  | fence (x : Iss)
  /-- DICE (R203): Steps the core's xorshift generator and pushes its state. -/
  | dice (x : Iss)
  /-- TIME (R204): Pushes the low 32 bits of the tick. -/
  | time (x : Iss)
  /-- BRK (R205): Raises vector 15 or halts under debug policy. -/
  | brk (x : Iss)
  /-- ILLEGAL_OPCODE (R170): A reserved opcode or page raises vector 1. -/
  | illegalOpcode (x : Iss) (op : Byte) (nxt : Byte)
  /-- HCMD (R264): Issues a helper command on a slot with two operands. -/
  | hcmd (x : Iss) (sl : Fin 4) (c : Byte)
  /-- HPUT (R266): Appends a word to the context's latest command on a slot. -/
  | hput (x : Iss) (sl : Fin 4)
  /-- HGET (R270): Takes the next result word of the context's oldest command at its level. -/
  | hget (x : Iss) (sl : Fin 4)
  /-- HWAIT (R252): Waits until every command of the context on the slot has completed. -/
  | hwait (x : Iss) (sl : Fin 4)
  /-- HSAVE (R256): Saves the slot's state to the owner's save area and reserves the slot. -/
  | hsave (x : Iss) (sl : Fin 4)
  /-- HREST (R256): Loads slot state and makes the caller the owner. -/
  | hrest (x : Iss) (sl : Fin 4)
  /-- HCAP (R272): Pushes the slot's capability word. -/
  | hcap (x : Iss) (sl : Fin 4)
  /-- HSYNC (R268): Waits until every command of the context on the slot is non-speculative and complete. -/
  | hsync (x : Iss) (sl : Fin 4)
  /-- CSUM16 (R208): Ones'-complement sum of a byte range on the byte engine. -/
  | csum16 (x : Iss)
  /-- MOVB (R209): Copies a byte range with overlap handled. -/
  | movb (x : Iss)
  /-- FILLB (R207): Fills a byte range with a value. -/
  | fillb (x : Iss)
  /-- CMPB (R209): Compares two byte ranges. -/
  | cmpb (x : Iss)
  /-- BYTE_ENGINE_COMPLETE (R218): The byte engine finishes an operation and the issuing context becomes eligible. -/
  | byteEngineComplete (r : Rank) (c : CoreNo)
  /-- STORE_BUFFER_RELEASE (R220): One retired store is released from the store buffer to the scratchpad. -/
  | storeBufferRelease (r : Rank) (c : CoreNo)
  /-- LOOKUP_RESULT (R222): A lookup result reaches the core and wakes its context, or is discarded if squashed. -/
  | lookupResult (w : Who)
  /-- TABLE_ACK (R113): A tile's acknowledgement or result of UPD, CAS or UNLOCK reaches the core and wakes the context. -/
  | tableAck (w : Who)
  /-- EXCEPTION_ENTRY (R247): An exception pushes a frame through the frame port and enters the handler at the next level. -/
  | exceptionEntry (w : Who)
  /-- LAZY_SAVE (R253): A handler's first command to an owned shared slot saves the slot state into the frame. -/
  | lazySave (r : Rank) (c : CoreNo) (k : CtxNo)
  /-- FAULT_CONTEXT_SERVICE (R258): The fault context serves a STOPPED context: kills, records, runs the fault program, punts and resets. -/
  | faultContextService (r : Rank) (c : CoreNo)
  /-- FAULT_PROGRAM_LIMIT (R259): The fault program reaches 256 cycles and ends with NESTED set. -/
  | faultProgramLimit (r : Rank) (c : CoreNo)
  /-- FAULTREC_INFO_CLEAR (R262): Writing 1 to VALID clears VALID and OVERRUN of a seat's fault record. -/
  | faultrecInfoClear (q : Req) (r : Rank) (s : Seat) (w : Word)
  /-- FAULTREC_COUNT_READ (R6): A functional read returns the seat's double-fault count and clears it. -/
  | faultrecCountRead (q : Req) (r : Rank) (s : Seat)
  /-- HELPER_RESULT (R270): A helper result word reaches the core, completing a command on its last word. -/
  | helperResult (r : Rank) (c : CoreNo) (k : CtxNo) (sl : Fin 4)
  /-- KILL_REPORT (R267): The report of a presented KILL reaches the core and frees the epoch. -/
  | killReport (r : Rank) (c : CoreNo) (k : CtxNo) (sl : Fin 4)
  /-- PARSE (R277): The parse helper walks the parse graph and returns status and fields. -/
  | parse (r : Rank) (c : CoreNo)
  /-- HASH_CRC32 (R280): The hash helper computes IEEE 802.3 CRC-32 over a range. -/
  | hashCrc32 (r : Rank) (c : CoreNo)
  /-- HASH_CRC32C (R280): The hash helper computes CRC-32C over a range. -/
  | hashCrc32c (r : Rank) (c : CoreNo)
  /-- HASH_SIPHASH (R280): The hash helper computes keyed SipHash-2-4 over a range. -/
  | hashSiphash (r : Rank) (c : CoreNo)
  /-- SEAL_START (R284): The seal helper begins an AES-GCM message with a key slot and IV. -/
  | sealStart (r : Rank)
  /-- SEAL_AAD (R284): The seal helper absorbs additional authenticated data. -/
  | sealAad (r : Rank)
  /-- SEAL_DATA (R284): The seal helper encrypts or decrypts data in place. -/
  | sealData (r : Rank)
  /-- SEAL_FINISH (R283): The seal helper writes or checks the tag and returns to idle. -/
  | sealFinish (r : Rank)
  /-- SEAL_KEY_LOAD (R282): RANK_SEAL_KSEL OP 1 loads a key slot from KDATA and advances its generation. -/
  | sealKeyLoad (q : Req) (r : Rank) (slot : Fin 1024) (size : Bool)
  /-- SEAL_KEY_INVALIDATE (R282): RANK_SEAL_KSEL OP 2 clears a key slot's VALID and advances its generation. -/
  | sealKeyInvalidate (q : Req) (r : Rank) (slot : Fin 1024)
  /-- GUEST_ISSUE (R285): The guest bay presents a command, HPUT word or restore word, accepted when READY is high. -/
  | guestIssue (r : Rank)
  /-- GUEST_KILL_NOTICE (R287): The bay presents a kill notice, or withdraws an unaccepted command. -/
  | guestKillNotice (r : Rank)
  /-- GUEST_COMMIT_NOTICE (R268): The bay presents COMMIT for a speculative command that has retired. -/
  | guestCommitNotice (r : Rank)
  /-- GUEST_RESULT (R288): A guest result transfer is taken for its command or discarded. -/
  | guestResult (r : Rank) (s : Seat) (k : CtxNo) (ep : Fin 16) (data : Word) (last err : Bool) (code : Byte)
  /-- GUEST_MIRROR_SAVE (R290): A SAVE transfer updates one word of a seat's state mirror. -/
  | guestMirrorSave (r : Rank) (s : Seat) (widx : Fin 16) (data : Word)
  /-- GUEST_LATE_ERROR (R289): A late error is logged and taints the named packet if its entry generation matches. -/
  | guestLateError (r : Rank) (tag : Half) (code : Byte)
  /-- GST_PG_CHANGE (R291): A change of guest power-good changes PRESENT and completes incomplete commands with 0xFE. -/
  | gstPgChange (pg : Bool)
  /-- RANK_GST_LATE_READ (R528): A functional read pops the oldest late error. -/
  | rankGstLateRead (q : Req) (r : Rank)
  /-- TILE_TRANSACTION (R323): A tile grants a requester by arbitration, park or fall-back and runs its beats. -/
  | tileTransaction (t : Fin 32)
  /-- OVERHOLD (R327): A transaction passes 16 beats and ends with an over-hold error. -/
  | overhold (t : Fin 32)
  /-- INSERT_SEQUENCER (R302): A half's insert sequencer searches again and writes a key into the lowest free way. -/
  | insertSequencer (half : Fin 2)
  /-- TILE_FAIL (R319): A tile enters FAILED, mirrored tables fail over and its source is asserted. -/
  | tileFail (t : Fin 32) (parity : Bool)
  /-- SCRUB_VISIT (R321): The scrub engine reads and rewrites a row, refreshing meters and expiring windows. -/
  | scrubVisit (t : Fin 32) (row : Half)
  /-- TBL_ROUND_OPEN (R314): Opens a new round, swapping staged banks, unless PLIVE is 1. -/
  | tblRoundOpen (q : Req)
  /-- PLIVE_CLEAR (R313): PLIVE becomes 0 when round PREV has no packet in flight. -/
  | pliveClear
  /-- TBL_CMD_READ_ENTRY (R317): TBL_CMD OP 1 reads a table entry into TBL_DATA. -/
  | tblCmdReadEntry (q : Req) (bank : Bool) (tid : Byte)
  /-- TBL_CMD_WRITE_ENTRY (R315): TBL_CMD OP 2 writes a table entry in an idle bank. -/
  | tblCmdWriteEntry (q : Req) (bank : Bool) (tid : Byte)
  /-- TBL_CMD_READ_ROWS (R327): TBL_CMD OP 3 reads rows of one tile. -/
  | tblCmdReadRows (q : Req) (len : Fin 32)
  /-- TBL_CMD_WRITE_ROWS (R315): TBL_CMD OP 4 writes rows of one tile outside live banks. -/
  | tblCmdWriteRows (q : Req) (len : Fin 32)
  /-- TBL_CMD_FAIL_TILE (R319): TBL_CMD OP 5 puts a tile into FAILED. -/
  | tblCmdFailTile (q : Req)
  /-- TBL_CMD_COMPLETE (R315): A table command ends, clearing BUSY and setting DONE and REASON. -/
  | tblCmdComplete
  /-- TBL_RELOC_WRITE (R320): A relocation entry write starts or ends a rebuild of a non-mirrored single-bank table. -/
  | tblRelocWrite (q : Req) (k : Fin 8) (w : Word)
  /-- TBL_UE_LOG_READ (R528): A functional read pops the oldest tile error. -/
  | tblUeLogRead (q : Req)
  /-- ECC_WRITEBACK (R331): A queued corrected word is written back in a free cycle of its bank. -/
  | eccWriteback (r : Rank) (c : CoreNo) (bank : Fin 8)
  /-- RANK_SP_OWNER_WRITE (R334): A bank handover request for a seat, accepted only for seat 12 or a drained seat. -/
  | rankSpOwnerWrite (q : Req) (r : Rank) (s : Seat) (w : Word)
  /-- SP_HANDOVER_EFFECT (R334): A pending bank handover takes effect once old accesses and tests are done. -/
  | spHandoverEffect (r : Rank) (s : Seat) (bank : Fin 8)
  /-- SP_CLEAR_END (R338): A seat's 4096-cycle scratchpad clear ends and its banks return to CORE. -/
  | spClearEnd (r : Rank) (c : CoreNo)
  /-- BGT_REGION_START (R340): Every INTERVAL cycles the background test saves the next 64-byte region. -/
  | bgtRegionStart (r : Rank) (c : CoreNo)
  /-- BGT_REGION_COMPLETE (R341): The region's March test ends or is aborted and the region is restored. -/
  | bgtRegionComplete (r : Rank) (c : CoreNo)
  /-- SP_TEST_START (R342): RANK_SP_TEST_CMD starts the full test of the seat's TEST-owned banks. -/
  | spTestStart (q : Req) (r : Rank) (s : Seat)
  /-- SP_TEST_COMPLETE (R342): The full test ends, leaving zeros and TEST_FAIL. -/
  | spTestComplete (r : Rank) (s : Seat)
  /-- SP_ACC_READ (R332): A steward access reads a STEWARD-owned scratchpad word into DATA. -/
  | spAccRead (q : Req) (r : Rank) (s : Seat)
  /-- SP_ACC_WRITE (R332): A steward access writes DATA to a STEWARD-owned scratchpad word. -/
  | spAccWrite (q : Req) (r : Rank) (s : Seat)
  /-- SP_ACC_COMPLETE (R333): A steward scratchpad access finishes in a free cycle and clears ACC_BUSY. -/
  | spAccComplete (r : Rank) (s : Seat)
  /-- MACHINE_CHECK (R353): A control-store parity or sequencing error stops and retires the core. -/
  | machineCheck (m : McTarget) (cause : Fin 16) (uaddr : BitVec 10)
  /-- RETIRED_CORE_GATED (R470): A retired core whose last slot is unbound is clock-gated. -/
  | retiredCoreGated (r : Rank) (c : CoreNo)
  /-- MC_PATCH_WRITE (R354): RANK_MC_PATCH_CMD OP 1 writes a patch word or map entry of seat 12. -/
  | mcPatchWrite (q : Req) (r : Rank) (s : Seat)
  /-- MC_PATCH_READ (R354): RANK_MC_PATCH_CMD OP 2 reads a patch word or map entry into DATA. -/
  | mcPatchRead (q : Req) (r : Rank) (s : Seat)
  /-- MC_PATCH_SET_LEVEL (R354): RANK_MC_PATCH_CMD OP 3 sets the patch level. -/
  | mcPatchSetLevel (q : Req) (r : Rank) (s : Seat)
  /-- MC_PATCH_INVALIDATE (R354): RANK_MC_PATCH_CMD OP 4 invalidates all map entries and sets the level to 0. -/
  | mcPatchInvalidate (q : Req) (r : Rank) (s : Seat)
  /-- RANK_MC_LOG_READ (R528): A functional read pops the oldest machine check. -/
  | rankMcLogRead (q : Req) (r : Rank)
  /-- RANK_SP_UE_LOG_READ (R528): A functional read pops the oldest scratchpad uncorrectable error. -/
  | rankSpUeLogRead (q : Req) (r : Rank)
  /-- RANK_REPAIR_LOG_READ (R528): A functional read pops the oldest faulty-row entry. -/
  | rankRepairLogRead (q : Req) (r : Rank)
  /-- SEAT_DRAIN (R355): RANK_SEAT_CMD OP 1 stops selection of a seat for rotation. -/
  | seatDrain (q : Req) (r : Rank) (s : Fin 16)
  /-- SEAT_DRAINED (R355): A draining seat with every context FREE and no slot bound reports DRAINED. -/
  | seatDrained (r : Rank)
  /-- SEAT_ROTATE (R355): RANK_SEAT_CMD OP 2 checks seat 12's control store to rotate it into the drained seat. -/
  | seatRotate (q : Req) (r : Rank) (s : Fin 16)
  /-- SEAT_ROTATION_COMPLETE (R355): After the check passes, the reserve takes the seat and the drained core becomes seat 12. -/
  | seatRotationComplete (r : Rank)
  /-- SEAT_CANCEL (R356): RANK_SEAT_CMD OP 3 cancels a rotation and resumes selection. -/
  | seatCancel (q : Req) (r : Rank) (s : Fin 16)
  /-- REGISTER_FABRIC_ACCESS (R362): The register fabric performs one queued steward, control-port or debug register access. -/
  | registerFabricAccess (present : Option CtlReq)
  /-- STW_SEM_READ (R366): A steward read claims a free semaphore or reports its owner. -/
  | stwSemRead (q : Req) (i : Fin 32)
  /-- STW_SEM_REL (R366): The owner's write frees a semaphore. -/
  | stwSemRel (q : Req) (i : Fin 32)
  /-- STEWARD_FAULT (R360): A steward stops, its bindings, votes and semaphores are released. -/
  | stewardFault (s : StwNo) (cause : Fin 16)
  /-- INTERRUPT_BIND (R376): An unbound deliverable source is bound to the eligible target with the lowest running level. -/
  | interruptBind
  /-- STEWARD_INTERRUPT_ENTRY (R369): A steward takes vector 19 when its delivered level exceeds its running level and threshold. -/
  | stewardInterruptEntry (s : StwNo)
  /-- IC_ENTER (R378): Pushes a level on the steward's priority stack or freezes it. -/
  | icEnter (q : Req) (s : StwNo) (lvl : Fin 16)
  /-- IC_EOI (R378): Pops the steward's priority stack or freezes it. -/
  | icEoi (q : Req) (s : StwNo) (lvl : Fin 16)
  /-- IC_STK_INIT (R379): Empties a steward's priority stack and clears FROZEN. -/
  | icStkInit (q : Req) (s : StwNo)
  /-- IC_MASK_SET (R375): Sets mask bits of sources. -/
  | icMaskSet (q : Req) (k : Fin 8) (w : Word)
  /-- IC_MASK_CLR (R375): Clears mask bits of sources. -/
  | icMaskClr (q : Req) (k : Fin 8) (w : Word)
  /-- IC_PEND_SET (R374): Sets software source latches permitted to the writer. -/
  | icPendSet (q : Req) (w : Half)
  /-- IC_PEND_CLR (R374): A steward clears software source latches. -/
  | icPendClr (q : Req) (w : Half)
  /-- IC_SRC_CFG_WRITE (R376): A steward sets a source's level, targets and moderation, ending bindings it invalidates. -/
  | icSrcCfgWrite (q : Req) (n : Byte) (w : Word)
  /-- MODERATION_EXPIRY (R380): A source's moderation timer runs out and it is no longer held. -/
  | moderationExpiry (n : Byte)
  /-- IC_HOST_DB_SET (R383): A steward sets host doorbell bits, raising BLK_IRQ. -/
  | icHostDbSet (q : Req) (b : Byte)
  /-- LIB_STATUS_CLEAR (R455): Clearing a BAD bit releases a rank held OFF and counts as a new vote event. -/
  | libStatusClear (q : Req) (w : Word)
  /-- BUF_ALLOC (R390): Ingress issues ALLOC for a pool whose store is below PREFETCH. -/
  | bufAlloc (p : Pool)
  /-- ALLOC_BACKOFF_EXPIRY (R390): A pool's 64-cycle ALLOC back-off ends. -/
  | allocBackoffExpiry (p : Pool)
  /-- BUF_LINK (R387): Ingress issues LINK from the previous buffer to the new one. -/
  | bufLink
  /-- BUF_FREE (R393): The free queue issues FREE for a chain start or the next link. -/
  | bufFree
  /-- BUF_RESPONSE (R386): An ALLOC or FREE response is taken in order, or discarded as stray. -/
  | bufResponse (st : Fin 4) (h : Handle)
  /-- BUF_WRITE_BEAT (R389): A tail write beat is accepted by the BPM. -/
  | bufWriteBeat
  /-- BUF_READ_REQUEST (R397): Egress requests one tail beat. -/
  | bufReadRequest (ch : Chan) (lane : Lane)
  /-- BUF_READ_DATA (R397): A read beat returns with data, next link and error flag. -/
  | bufReadData (data : BitVec 1024) (nxt : Handle) (err : Bool)
  /-- BUF_WRITE_ERROR (R399): The BPM reports a failed write to a buffer. -/
  | bufWriteError (h : Handle)
  /-- BUF_POOL_INPUT (R398): A change of a pool's WARN, LOW or EMPTY input is sampled. -/
  | bufPoolInput (warn low empty : Byte)
  /-- BUF_LATE_TIMEOUT (R399): A command outstanding 4096 CK_BUF cycles is logged as LATE. -/
  | bufLateTimeout
  /-- BUF_ERR_LOG_READ (R528): A functional read pops the oldest buffer-port error. -/
  | bufErrLogRead (q : Req)
  /-- TIME_REF_LOST (R403): TIME_REF missing for 1 µs: the DCO holds and REFLOST is set. -/
  | timeRefLost
  /-- TIME_REF_RETURN (R403): TIME_REF returns, the DCO relocks and REFLOST clears. -/
  | timeRefReturn
  /-- TIME_FREQ_WRITE (R405): Writes the frequency adjust, clamped to ±500 ppm. -/
  | timeFreqWrite (q : Req) (w : Word)
  /-- TIME_STEP (R406): TIME_ADJ_CMD OP 1 adds an offset to the time at one edge. -/
  | timeStep (q : Req)
  /-- TIME_SLEW (R406): TIME_ADJ_CMD OP 2 starts a slew of up to 1 ms. -/
  | timeSlew (q : Req)
  /-- SLEW_STEP (R406): Every 16 µs the slew adds or subtracts 1 ns, ending when the offset is spent. -/
  | slewStep
  /-- TIME_SET (R406): TIME_ADJ_CMD OP 3 loads the time. -/
  | timeSet (q : Req)
  /-- TIME_NOW_NS_READ (R421): A functional read captures time and tick for the companion registers. -/
  | timeNowNsRead (q : Req)
  /-- PPS_RISE (R410): PPS_OUT rises when the nanoseconds carry into the seconds. -/
  | ppsRise
  /-- PPS_FALL (R410): PPS_OUT falls after WIDTH µs. -/
  | ppsFall
  /-- SCHED_COMMIT (R414): SCHED_CMD OP 1 commits a table's admin copy and fixes its switch time. -/
  | schedCommit (q : Req) (t : Fin 64)
  /-- SCHED_CANCEL (R414): SCHED_CMD OP 2 cancels a pending switch. -/
  | schedCancel (q : Req) (t : Fin 64)
  /-- SCHED_SWITCH (R415): At the switch time the admin and operational copies exchange roles. -/
  | schedSwitch (t : Fin 64)
  /-- SCHED_ENTRY_WRITE (R413): A write to schedule entries or admin parameters, refused for operational or pending copies. -/
  | schedEntryWrite (q : Req) (addr : RegAddr) (w : Word)
  /-- POWER_ON_START (R434): VIN_CORE reaching its level with PORST_N high starts the start sequence. -/
  | powerOnStart
  /-- START_ATTEMPT_FAIL (R438): An attempt fails, is recorded, and leads to the next attempt or minimal mode. -/
  | startAttemptFail (code : Byte)
  /-- START_ATTEMPT_BEGIN (R437): 1 ms after a failure the next attempt begins at step 2 on its slot. -/
  | startAttemptBegin
  /-- CFG_START_OK (R436): Steward 0 marks the start good; the block becomes RUNNING and attaches channels. -/
  | cfgStartOk (q : Req) (ok : Bool)
  /-- START_TIMEOUT (R436): No CFG_START_OK within 2 s fails the attempt. -/
  | startTimeout
  /-- MINIMAL_STATUS (R440): Minimal-mode STATUS returns identity and boot records. -/
  | minimalStatus (via : MinVia)
  /-- MINIMAL_ERASE (R440): Minimal-mode ERASE erases 64 KiB sectors. -/
  | minimalErase (x : MinIn)
  /-- MINIMAL_WRITE (R440): Minimal-mode WRITE programs flash page by page. -/
  | minimalWrite (x : MinIn)
  /-- MINIMAL_READ (R440): Minimal-mode READ returns flash bytes. -/
  | minimalRead (x : MinIn)
  /-- MINIMAL_SETPREF (R440): Minimal-mode SETPREF writes a BCB naming the preferred slot. -/
  | minimalSetpref (x : MinIn)
  /-- MINIMAL_RESTART (R440): Minimal-mode RESTART replies and starts again. -/
  | minimalRestart (via : MinVia)
  /-- FLASH_READ (R441): FLASH_CMD OP 1 copies flash bytes to shared SRAM. -/
  | flashRead (q : Req)
  /-- FLASH_PROGRAM (R441): FLASH_CMD OP 2 programs up to a page, after the hold-up check. -/
  | flashProgram (q : Req)
  /-- FLASH_ERASE_4K (R441): FLASH_CMD OP 3 erases a 4 KiB sector, after the hold-up check. -/
  | flashErase4k (q : Req)
  /-- FLASH_ERASE_64K (R441): FLASH_CMD OP 4 erases a 64 KiB sector, after the hold-up check. -/
  | flashErase64k (q : Req)
  /-- FLASH_CANCEL (R442): FLASH_CMD OP 5 cancels a deferred command. -/
  | flashCancel (q : Req)
  /-- HOLDUP_CHANGE (R442): A new agreed HOLDUP value is taken and a deferred command is retried. -/
  | holdupChange (valid : Bool) (v : Byte)
  /-- FLASH_CMD_COMPLETE (R441): A flash command completes or times out, setting DONE or ERR. -/
  | flashCmdComplete (err : Bool)
  /-- PMC_VOTE_SET (R446): Sets the writer's vote bit on the named domains. -/
  | pmcVoteSet (q : Req) (w : Word)
  /-- PMC_VOTE_CLR (R446): Clears the writer's vote bit on the named domains. -/
  | pmcVoteClr (q : Req) (w : Word)
  /-- PMC_DOM_CFG_WRITE (R459): A steward sets a domain's TARGET state and P-level request. -/
  | pmcDomCfgWrite (q : Req) (d : Dom) (w : Word)
  /-- DOMAIN_ENTRY (R450): A domain whose vote byte is 0 begins entry into HOLD, REST or OFF. -/
  | domainEntry (d : Dom)
  /-- DOMAIN_ENTRY_COMPLETE (R451): An entry completes, replaying any wake latched during it. -/
  | domainEntryComplete (d : Dom)
  /-- DOMAIN_WAKE (R452): A domain not ON with a vote bit set begins its fixed wake sequence. -/
  | domainWake (d : Dom)
  /-- DOMAIN_WAKE_COMPLETE (R452): A wake ends and PG rises; a rank resets its gate NEXT values. -/
  | domainWakeComplete (d : Dom)
  /-- LIBRARY_RELOAD_COMPLETE (R455): A rank's reload from the program library ends, or its CRC check fails. -/
  | libraryReloadComplete (r : Rank)
  /-- BROWNOUT (R454): A REST rank's LDO stays below retention for 1 µs and the domain goes OFF with stores lost. -/
  | brownout (r : Rank)
  /-- PLEVEL_CHANGE_COMPLETE (R459): A P-level change finishes its supply and frequency steps. -/
  | plevelChangeComplete (r : Rank)
  /-- P0_CREDIT_EXHAUSTED (R460): A rank's P0 credit reaches 0 and P0 is barred. -/
  | p0CreditExhausted (r : Rank)
  /-- P0_CREDIT_RESTORED (R460): An exhausted credit rises back to 2000 ms and P0 is allowed again. -/
  | p0CreditRestored (r : Rank)
  /-- THERMAL_FORCE (R461): A sensor above 115 °C forces P2. -/
  | thermalForce (i : Fin 16) (temp : BitVec 11)
  /-- THERMAL_FORCE_END (R461): All sensors at 110 °C or less end the P2 force. -/
  | thermalForceEnd (i : Fin 16) (temp : BitVec 11)
  /-- THERMAL_LIMIT (R462): A sensor at 125 °C puts the block into BOXED within 10 µs. -/
  | thermalLimit (i : Fin 16) (temp : BitVec 11)
  /-- BOXED_ENTRY (R456): All votes cleared, all domains turned OFF and the PMC stopped. -/
  | boxedEntry
  /-- WAKE_N (R456): A filtered WAKE_N low starts a warm start in BOXED or sets the host vote on PD_CFG. -/
  | wakeN
  /-- REFCLK_LOST (R463): REFCLK fails its edge count; REFCLK DCOs hold and guarantees are suspended. -/
  | refclkLost
  /-- DCO_FAIL (R463): A DCO leaves ±1 % and its island self-restarts or pauses. -/
  | dcoFail (d : Fin 20)
  /-- CLOCK_STOP (R463): CK_CTL, CK_BUF, CK_GST or TCK shows no edge for 10 µs and its stop bit is set. -/
  | clockStop (k : Fin 4)
  /-- PORST (R523): A recognised PORST_N low holds the block as in a loss of VIN_CORE. -/
  | porst
  /-- VIN_CORE_LOSS (R525): VIN_CORE below 0.88 V for 1 µs clears AO and turns every domain off. -/
  | vinCoreLoss
  /-- CORE_WATCHDOG_EXPIRY (R468): A core with eligible contexts that issues nothing for 4096 cycles is retired. -/
  | coreWatchdogExpiry (r : Rank) (c : CoreNo)
  /-- STEWARD_WATCHDOG_EXPIRY (R477): A steward's watchdog expires and it takes a steward fault. -/
  | stewardWatchdogExpiry (s : StwNo)
  /-- WDOG_KICK_OWN (R477): FLT_WDOG_KICK OWN restarts the writer's steward watchdog. -/
  | wdogKickOwn (q : Req)
  /-- WDOG_KICK_BLK (R480): FLT_WDOG_KICK BLK restarts the block watchdog. -/
  | wdogKickBlk (q : Req)
  /-- BLOCK_WATCHDOG_EXPIRY (R480): The block watchdog expires, warning, failing a start or restarting stewards. -/
  | blockWatchdogExpiry
  /-- STW_RESTART (R478): FLT_STW_RESTART OP 1 resets and restarts a stopped steward. -/
  | stwRestart (q : Req) (s : StwNo)
  /-- STW_RELOAD_RESTART (R478): FLT_STW_RESTART OP 2 reloads a steward's instruction store then restarts it. -/
  | stwReloadRestart (q : Req) (s : StwNo) (src : Fin 512)
  /-- ISLAND_WATCHDOG_EXPIRY (R481): A request from ingress, egress or the timebase waits 2 µs for acknowledge. -/
  | islandWatchdogExpiry (i : Isl)
  /-- ISLAND_SELF_RESTART (R481): Ingress, egress or timebase restarts itself, keeping its retained set. -/
  | islandSelfRestart (i : Isl) (cause : Fin 4)
  /-- INGRESS_FLUSH (R483): After an ingress restart, the flush reaches each unit and forfeits its PENDING packets. -/
  | ingressFlush (u : VUnit)
  /-- ISLAND_PAUSE (R486): An island whose DCO fails stops its clock and keeps its state. -/
  | islandPause (d : Fin 20)
  /-- ISLAND_RESUME (R486): The relocked DCO restarts the paused island from the edge at which it stopped. -/
  | islandResume (d : Fin 20)
  /-- FLT_ISL_LOG_READ (R528): A functional read pops the oldest island event. -/
  | fltIslLogRead (q : Req)
  /-- RANK_CODE_LOAD (R492): RANK_CODE_CMD OP 1 copies the rank's library code into seat 12. -/
  | rankCodeLoad (q : Req) (r : Rank)
  /-- RANK_CODE_LOAD_COMPLETE (R492): The copy into seat 12 ends, clearing BUSY. -/
  | rankCodeLoadComplete (r : Rank)
  /-- RANK_CODE_COMMIT (R492): RANK_CODE_CMD OP 2 applies the library record once all seats run it. -/
  | rankCodeCommit (q : Req) (r : Rank)
  /-- TAP_RESET (R495): The TAP enters Test-Logic-Reset on wake, TRST_N or five TMS-high edges. -/
  | tapReset
  /-- IDCODE (R495): The IDCODE instruction shifts out the part identity. -/
  | idcode
  /-- DSTATUS (R495): The DSTATUS instruction shifts out the debug level, halt state and block state. -/
  | dstatus
  /-- BYPASS (R494): The BYPASS instruction selects the 1-bit register. -/
  | bypass
  /-- DACC_READ (R496): A DACC read of the debug address space, allowed by the debug level. -/
  | daccRead (addr : Word)
  /-- DACC_WRITE (R498): A DACC write of the debug address space, allowed by the debug level. -/
  | daccWrite (addr : Word) (w : Word)
  /-- DBG_HALT (R500): DBG_RUN_CMD OP 1 requests a halt of a core or steward. -/
  | dbgHalt (t : DbgTarget)
  /-- DBG_RESUME (R501): DBG_RUN_CMD OP 2 resumes a halted core. -/
  | dbgResume (t : DbgTarget)
  /-- DBG_STEP (R501): DBG_RUN_CMD OP 3 resumes one context for one group then halts again. -/
  | dbgStep (t : DbgTarget) (k : Fin 16)
  /-- CORE_HALTED (R500): A core with a halt request drains its pipeline and reports HALTED. -/
  | coreHalted (t : DbgTarget)
  /-- LOCK_HALT_TIMEOUT (R502): A lock still held 256 cycles after a halt request is broken and the core halts. -/
  | lockHaltTimeout (t : DbgTarget)
  /-- XTRIG_FIRE (R506): DBG_XTRIG FIRE fires cross-trigger channels, halting subscribers. -/
  | xtrigFire (m : BitVec 4)
  /-- XTRIG_RESUME (R506): DBG_XTRIG RESUME resumes subscribers of the named channels. -/
  | xtrigResume (m : BitVec 4)
  /-- DBG_XTRIG_IN (R506): A DBG_XTRIG_IN input fires its channel when enabled. -/
  | dbgXtrigIn (m : BitVec 4)
  /-- DBG_LOCK_LOG_READ (R528): A functional read pops the oldest broken lock and loads DBG_LOCK_IDX. -/
  | dbgLockLogRead
  /-- CTL_ERR_INFO_READ (R6): A functional read returns the first control-port failure and clears it. -/
  | ctlErrInfoRead (q : Req)
  /-- REGISTER_WRITE (R513): A write to a register with no row of its own takes effect, is ignored or answers CTL_ERR. -/
  | registerWrite (q : Req) (addr : RegAddr) (w : Word) (be : BitVec 4)
  /-- REFCLK_RETURN (R463): REFCLK returns after a loss, the REFCLK DCOs relock without a step and timing guarantees resume. -/
  | refclkReturn
  /-- IMAGE_LOADED (R434): The image read and the cross-section checks and scratchpad clear of steps 4–5 finish, and the stewards with code are released at their entry-0 addresses. -/
  | imageLoaded
  /-- RESERVE_TAKES_SEAT (R469): After the 1024-cycle parity check of seat 12 that follows a retirement, the reserve takes the retired seat and selection of the seat resumes, or a failed check retires the reserve. -/
  | reserveTakesSeat (r : Rank)
  /-- ISLAND_RESTART_COMPLETE (R481): At 8 µs into a self-restart the island's good signal rises, it serves again, IN_READY may return high, and ISL and FLT_ISL_LOG are set. -/
  | islandRestartComplete (i : Isl)
  /-- VOTED_FAULT_MASKED (R467): A fault in the triple-voted buffer-port state is masked by the vote, VOTED is set in FLT_BLK_EV and a buffer-port entry is made in FLT_ISL_LOG. -/
  | votedFaultMasked
deriving DecidableEq, Repr

end Sys2Proof
end

