-- ==== Sys2Proof/Decode.lean ====
section
/-! DEFINITION. The commands that a word spells by the table's bits: none, for no row of spec/opcode_table.json gives bits (the
K144 is a block, and its rows are commands and events). Beside it the reading of Gilin code bytes: opcode map, forms,
operands, guards (05 R157, R158, R168–R170). -/

namespace Sys2Proof

/-- The command whose bits are `w`: none, for no row of the table gives bits. -/
def decodeTableWord (_nbits _w : Nat) : Option Instr := none

/-! ### Gilin code bytes -/

/-- Bytes of an instruction by its opcode, guard apart (R168's forms N, B, H, A and W). -/
def opLen (op : Nat) : Nat :=
  if op = 0x22 then 5
  else if op = 0x84 then 4
  else if op = 0x21 || op = 0x35 || op = 0x36 || (0x74 ≤ op && op ≤ 0x79) || op = 0x82 || op = 0x83 || op = 0x87 then 3
  else if op = 0x0D || op = 0x0F || op = 0x20 || (0x32 ≤ op && op ≤ 0x34) || (0x40 ≤ op && op ≤ 0x59) || op = 0x80 || op = 0x81 ||
    op = 0x92 || (0xA0 ≤ op && op ≤ 0xA8) || op = 0xB2 || op = 0xB4 || op = 0xB5 || op = 0xC0 || op = 0xC8 || op = 0xD0 ||
    op = 0xD8 || op = 0xF0 then 2
  else 1

/-- The opcode map has no instruction at this byte (R170), or the byte that follows makes it illegal: an undefined
extension operation, a guard before a guard or before LOOP (R158, R169). -/
def illegalOp (op nxt : Nat) : Bool :=
  (0x5C ≤ op && op ≤ 0x5F) || (0x8B ≤ op && op ≤ 0x8F) || (0x96 ≤ op && op ≤ 0x9F) || (0xA9 ≤ op && op ≤ 0xAF) ||
  (0xBA ≤ op && op ≤ 0xBF) || (0xF1 ≤ op && op ≤ 0xFF) || (op = 0xF0 && 4 ≤ nxt) ||
  (0xE0 ≤ op && op ≤ 0xEF && ((0xE0 ≤ nxt && nxt ≤ 0xEF) || nxt = 0x87))

/-- Operand bytes 0–3 of an instruction. -/
structure Opnds where
  b0 : Byte
  b1 : Byte
  b2 : Byte
  b3 : Byte
deriving DecidableEq, Repr

/-- The operands little-endian (R168): a halfword, a 24-bit address, a word. -/
def Opnds.h (o : Opnds) : Half := o.b1 ++ o.b0
def Opnds.a (o : Opnds) : BitVec 24 := o.b2 ++ o.b1 ++ o.b0
def Opnds.w (o : Opnds) : Word := o.b3 ++ o.b2 ++ o.b1 ++ o.b0

/-- Row 0x0_ of the opcode map (R170). -/
def opRow0 (x : Iss) (o : Opnds) : List Instr :=
  [.nop x, .dup x, .drop x, .swap x, .over x, .rot x, .nip x, .tuck x, .twoDup x, .twoDrop x, .twoSwap x, .twoOver x,
   .minusRot x, .pick x o.b0, .depth x, .put x o.b0]

/-- Row 0x2_ of the opcode map (R170). -/
def opRow2 (x : Iss) (o : Opnds) : List Instr :=
  [.lit8 x o.b0, .lit16 x o.h, .lit32 x o.w, .add x, .sub x, .neg x, .inc x, .dec x, .and x, .or x, .xor x, .not x,
   .andn x, .shl x, .shr x, .sar x]

/-- Row 0x3_ of the opcode map (R170). -/
def opRow3 (x : Iss) (o : Opnds) : List Instr :=
  [.rol x, .ror x, .shli x o.b0, .shri x o.b0, .sari x o.b0, .extr x o.b0 o.b1, .ins x o.b0 o.b1, .clz x, .popc x,
   .bswap32 x, .bswap16 x, .mul x, .mulh x, .mulhu x, .min x, .max x]

/-- Row 0x4_ of the opcode map (R170). -/
def opRow4 (x : Iss) (o : Opnds) : List Instr :=
  [.ceq x o.b0, .cne x o.b0, .clt x o.b0, .cle x o.b0, .cgt x o.b0, .cge x o.b0, .cltu x o.b0, .cleu x o.b0,
   .cgtu x o.b0, .cgeu x o.b0, .ceqz x o.b0, .cnez x o.b0, .cbit x o.b0, .cmask x o.b0, .cser16 x o.b0,
   .cser32 x o.b0]

/-- Row 0x5_ of the opcode map (R170). -/
def opRow5 (x : Iss) (o : Opnds) : List Instr :=
  [.pand x o.b0, .por x o.b0, .pxor x o.b0, .pandn x o.b0, .pmov x o.b0, .pnot x o.b0, .pset x o.b0, .pclr x o.b0,
   .ppush x o.b0, .ppop x o.b0, .pall x, .pload x]

/-- Row 0x6_ of the opcode map (R170). -/
def opRow6 (x : Iss) (_o : Opnds) : List Instr :=
  [.ld8 x, .ld8s x, .ld16 x, .ld16s x, .ld32 x, .st8 x, .st16 x, .st32 x, .lda32 x, .lda32Plus x, .sta32 x,
   .sta32Plus x, .lda8Plus x, .sta8Plus x, .ldb32Plus x, .stb32Plus x]

/-- Row 0x7_ of the opcode map (R170). -/
def opRow7 (x : Iss) (o : Opnds) : List Instr :=
  [.ldb32 x, .stb32 x, .ldb8Plus x, .stb8Plus x, .ldh8 x o.h, .ldh16 x o.h, .ldh32 x o.h, .sth8 x o.h, .sth16 x o.h,
   .sth32 x o.h, .ldhx x, .sthx x, .ldc8 x, .ldc32 x, .seta x, .setb x]

/-- Row 0x8_ of the opcode map (R170). -/
def opRow8 (x : Iss) (o : Opnds) : List Instr :=
  [.br x (.r8 o.b0), .brT x (.r8 o.b0), .br x (.r16 o.h), .brT x (.r16 o.h), .call x o.a, .calli x, .ret x,
   .loop x o.h, .lexit x, .jmpi x, .lcnt x]

/-- Row 0x9_ of the opcode map (R170). -/
def opRow9 (x : Iss) (o : Opnds) : List Instr :=
  [.done x, .droppkt x, .punt x o.b0, .emit x, .skipto x, .setlane x]

/-- Row 0xA_ of the opcode map (R170). -/
def opRowA (x : Iss) (o : Opnds) : List Instr :=
  [.look x o.b0, .lookw x o.b0, .upd x o.b0, .cnt x o.b0, .mtr x o.b0, .lrn x o.b0, .log x o.b0, .cas x o.b0,
   .unlock x o.b0]

/-- Row 0xB_ of the opcode map (R170). -/
def opRowB (x : Iss) (o : Opnds) : List Instr :=
  [.wait x, .yield x, .sys x o.b0, .rte x, .mfs x o.b0, .mts x o.b0, .fence x, .dice x, .time x, .brk x]

/-- Rows 0xC_ and 0xD_: slot and function of a helper opcode. -/
def helperOp (x : Iss) (o : Opnds) (k : Nat) : Option Instr :=
  let sl : Fin 4 := ⟨k / 8 % 4, Nat.mod_lt _ (by decide)⟩
  ([.hcmd x sl o.b0, .hput x sl, .hget x sl, .hwait x sl, .hsave x sl, .hrest x sl, .hcap x sl, .hsync x sl] : List Instr)[k % 8]?

/-- The instruction of opcode `op` with its operands, an illegal one apart (R170). -/
def opInstr (x : Iss) (op : Nat) (o : Opnds) : Option Instr :=
  let k := op % 16
  match op / 16 with
  | 0x0 => (opRow0 x o)[k]?
  | 0x1 => some (.litN x ⟨k, Nat.mod_lt _ (by decide)⟩)
  | 0x2 => (opRow2 x o)[k]?
  | 0x3 => (opRow3 x o)[k]?
  | 0x4 => (opRow4 x o)[k]?
  | 0x5 => (opRow5 x o)[k]?
  | 0x6 => (opRow6 x o)[k]?
  | 0x7 => (opRow7 x o)[k]?
  | 0x8 => (opRow8 x o)[k]?
  | 0x9 => (opRow9 x o)[k]?
  | 0xA => (opRowA x o)[k]?
  | 0xB => (opRowB x o)[k]?
  | 0xC => helperOp x o k
  | 0xD => helperOp x o (16 + k)
  | 0xF => if k = 0 then ([.csum16 x, .movb x, .fillb x, .cmpb x] : List Instr)[o.b0.toNat]? else none
  | _ => none

/-- A guard prefix (R157). -/
def guardOf (op : Nat) : Option Guard :=
  if 0xE0 ≤ op && op ≤ 0xE7 then some (.ifp ⟨op % 8, Nat.mod_lt _ (by decide)⟩)
  else if 0xE8 ≤ op && op ≤ 0xEF then some (.ifnot ⟨op % 8, Nat.mod_lt _ (by decide)⟩)
  else none

/-- The instruction without its guard that bytes begin with, issued as `x`, and the bytes it takes; an illegal one raises
vector 1 (R170). -/
def decodePlain (x : Iss) (bs : List Byte) : Instr × Nat :=
  let b := fun i => bs.getD i 0
  let op := (b 0).toNat
  match (if illegalOp op (b 1).toNat then none else opInstr x op ⟨b 1, b 2, b 3, b 4⟩) with
  | some i => (i, opLen op)
  | none => (.illegalOpcode x (b 0) (b 1), 1)

/-- The instruction that code bytes begin with, for context `w`, and the bytes it takes, guard included (R157, R158). -/
def decodeGilin (w : Who) (bs : List Byte) : Instr × Nat :=
  let b := fun i => bs.getD i 0
  match guardOf (b 0).toNat with
  | none => decodePlain ⟨w, .always⟩ bs
  | some g =>
    if illegalOp (b 0).toNat (b 1).toNat then (.illegalOpcode ⟨w, .always⟩ (b 0) (b 1), 1)
    else
      let (i, n) := decodePlain ⟨w, g⟩ (bs.drop 1)
      (i, n + 1)

end Sys2Proof
end

