-- ==== Sys2Proof/Config.lean ====
section
/-! DEFINITION. What the manual leaves free: constants with no body, so that no proof can see a value of them.
Each is applied to State's plain counter `freeCount`, or to the operands it depends on. -/

namespace Sys2Proof

/-- The byte that a flash operation cut by a loss of VIN_CORE leaves behind (15 R443: "the operation's bytes are
undefined"). Log entry 8. -/
opaque Config.cutFlashByte : Nat → Byte

/-- Which of several free entries a unit takes where the manual only says "a free entry" (03 R100). Log entry 9. -/
opaque Config.freePick : Nat → Nat

/-- A word that the manual leaves undefined, such as HSLOT read in the fault context (06 R184). Log entry 21. -/
opaque Config.freeWord : Nat → Word

/-- A byte of AO memory whose place within its address range the manual does not give (16 R465). Log entry 10. -/
opaque Config.aoByte : Nat → Byte

/-- The parity nibble of a control-store word and the ROM words themselves: R346 gives the layout, Thabry the contents.
Log entry 11. -/
opaque Config.romWord : Nat → BitVec 96

/-- The value of a condition of the control-store sequencer at the n-th micro-instruction (11 R347 numbers the conditions in
COND and the manual does not name them). Log entry 100. -/
opaque Config.microCond : Nat → BitVec 5 → Bool

/-- How many packets ingress's dispatch queue toward rank 0 holds without being full (02 R37 names the queue and not its
depth). Log entry 81. -/
opaque Config.inQueue : Nat

/-- How many LINKs and tail beats wait at the buffer port without holding ingress back (02 R37). Log entry 81. -/
opaque Config.tailQueue : Nat

/-- How many messages a rank's link toward the ledger holds without being full (04 R127). Log entry 81. -/
opaque Config.ledLink : Nat

/-- The log2 of the flash device's size that its SFDP table gives (15 FLASH_INFO). Log entry 12. -/
opaque Config.flashSizeLog2 : Byte

/-- JTAG_MFR, the static manufacturer field of IDCODE (18 R494). -/
opaque Config.jtagMfr : BitVec 11

/-- GSTn_CAP, the static capability word the integrator ties at rank n's guest port (09 R290). -/
opaque Config.gstCap : Nat → Word

end Sys2Proof
end

