-- ==== Sys2Proof/Machine/Tab.lean ====
section
/-! DEFINITION. The two containers of State: a table (sorted list of key and value) and an addressed memory in one
canonical form (a list of Host.Cell), with the byte-order helpers of 00 R12. -/

namespace Sys2Proof.Machine

/-- A sparse table: keys rising; a key that is not listed holds the default its reader names. -/
abbrev Tab (α : Type) := List (Nat × α)

/-- The value listed at key `k`, if any. -/
def tfind {α : Type} : Tab α → Nat → Option α
  | [], _ => none
  | (i, v) :: t, k => if i = k then some v else tfind t k

/-- The value at key `k`; `d` where the table lists none. -/
def tget {α : Type} (d : α) (t : Tab α) (k : Nat) : α := (tfind t k).getD d

/-- List `v` at key `k`. -/
def tset {α : Type} : Tab α → Nat → α → Tab α
  | [], k, v => [(k, v)]
  | (i, w) :: t, k, v =>
    if k < i then (k, v) :: (i, w) :: t
    else if i = k then (k, v) :: t
    else (i, w) :: tset t k v

/-- Take key `k` out of the table. -/
def tdel {α : Type} : Tab α → Nat → Tab α
  | [], _ => []
  | (i, w) :: t, k => if i = k then tdel t k else (i, w) :: tdel t k

/-- Apply `f` to the value at key `k` (default `d`). -/
def tmod {α : Type} (d : α) (t : Tab α) (k : Nat) (f : α → α) : Tab α := tset t k (f (tget d t k))

/-- Apply `f` to every listed value. -/
def tmap {α : Type} (t : Tab α) (f : Nat → α → α) : Tab α := t.map (fun e => (e.1, f e.1 e.2))

/-- Keep the listed keys that `p` accepts. -/
def tkeep {α : Type} (t : Tab α) (p : Nat → α → Bool) : Tab α := t.filter (fun e => p e.1 e.2)

/-- The addressed memories: (address, byte), addresses strictly rising, no entry equal to the unlisted byte. -/
abbrev Mem := List Host.Cell

/-- The byte at address `a`; an unlisted address reads `d`. -/
def mget (d : Byte) (m : Mem) (a : Nat) : Byte := tget d m a

/-- Write one byte; writing the unlisted byte removes the entry. -/
def mset (d : Byte) : Mem → Nat → Byte → Mem
  | [], k, v => if v = d then [] else [(k, v)]
  | (i, w) :: t, k, v =>
    if k < i then (if v = d then (i, w) :: t else (k, v) :: (i, w) :: t)
    else if i = k then (if v = d then t else (k, v) :: t)
    else (i, w) :: mset d t k v

/-- Every address of `m` is above `a`, they strictly rise, and no listed byte is `d`. -/
def memAbove (d : Byte) : Option Nat → Mem → Bool
  | _, [] => true
  | lo, (i, v) :: t => (match lo with | none => true | some a => decide (a < i)) && decide (v ≠ d) && memAbove d (some i) t

/-- The canonical form of a memory whose unlisted byte is `d`. -/
def Mem.wf (d : Byte) (m : Mem) : Bool := memAbove d none m

/-- `n` bytes from address `a`. -/
def mread (d : Byte) (m : Mem) (a : Nat) : Nat → List Byte
  | 0 => []
  | n + 1 => mget d m a :: mread d m (a + 1) n

/-- Write the bytes `bs` from address `a`. -/
def mwrite (d : Byte) (m : Mem) (a : Nat) : List Byte → Mem
  | [] => m
  | b :: bs => mwrite d (mset d m a b) (a + 1) bs

/-- The cells of the bytes `bs` from address `a`, those equal to `d` left out. -/
def mcells (d : Byte) (a : Nat) : List Byte → Mem
  | [] => []
  | b :: bs => if b = d then mcells d (a + 1) bs else (a, b) :: mcells d (a + 1) bs

/-- Write a long block of bytes from `a` in one pass over the memory. -/
def mload (d : Byte) (m : Mem) (a : Nat) (bs : List Byte) : Mem :=
  m.filter (fun e => e.1 < a) ++ mcells d a bs ++ m.filter (fun e => a + bs.length ≤ e.1)

/-- The number whose little-endian bytes are given (00 R12). -/
def leNat : List Byte → Nat
  | [] => 0
  | b :: bs => b.toNat + 256 * leNat bs

/-- The number whose bytes are given in wire order, the first the most significant (05 R154). -/
def beNat (bs : List Byte) : Nat := leNat bs.reverse

/-- The `k` little-endian bytes of `n`. -/
def leBytes : Nat → Nat → List Byte
  | 0, _ => []
  | k + 1, n => BitVec.ofNat 8 n :: leBytes k (n / 256)

/-- The `k` bytes of `n` in wire order. -/
def beBytes (k n : Nat) : List Byte := (leBytes k n).reverse

/-- A little-endian 32-bit word at address `a`. -/
def mword (d : Byte) (m : Mem) (a : Nat) : Word := BitVec.ofNat 32 (leNat (mread d m a 4))

/-- The bits `hi` down to `lo` of a word, as a number. -/
def bits (w : Word) (hi lo : Nat) : Nat := w.toNat / 2 ^ lo % 2 ^ (hi + 1 - lo)

/-- Bit `i` of a word. -/
def bit (w : Word) (i : Nat) : Bool := w.toNat / 2 ^ i % 2 = 1

/-- `v` placed at bit `lo`. -/
def at_ (v lo : Nat) : Nat := v * 2 ^ lo

/-- A Boolean as 0 or 1. -/
def b2n (b : Bool) : Nat := if b then 1 else 0

/-- `bs` cut or filled with zero bytes to length `n`. -/
def fit (n : Nat) (bs : List Byte) : List Byte := (bs ++ List.replicate n 0).take n

/-- The list with its element `i` replaced. -/
def lset {α : Type} : List α → Nat → α → List α
  | [], _, _ => []
  | _ :: t, 0, v => v :: t
  | x :: t, i + 1, v => x :: lset t i v

/-- `bs` with the bytes `new` written from position `at`. -/
def overlay (bs : List Byte) (pos : Nat) (new : List Byte) : List Byte :=
  bs.take pos ++ new ++ bs.drop (pos + new.length)

/-- Remove the first element that `p` accepts. -/
def eraseFirst {α : Type} (p : α → Bool) : List α → List α
  | [] => []
  | x :: t => if p x then t else x :: eraseFirst p t

/-- Replace the first element that `p` accepts by its image. -/
def mapFirst {α : Type} (p : α → Bool) (f : α → α) : List α → List α
  | [] => []
  | x :: t => if p x then f x :: t else x :: mapFirst p f t

/-- Apply `f` to the state once for each element, in order. -/
def forEach {α σ : Type} (xs : List α) (s : σ) (f : α → σ → σ) : σ := xs.foldl (fun s x => f x s) s

end Sys2Proof.Machine
end

