-- ==== Sys2Proof/Machine/State.lean ====
section
/-! DEFINITION. The state of the K144 as plain data: every register, store, queue, mode and pin the manual gives the
block, and the queue of waiting commands. -/

namespace Sys2Proof.Machine

/-- Why a step can stop. No command of this model stops: the manual gives each an effect. -/
inductive Fault where
  /-- Raised by no meaning: kept because the host's interface names a fault type. Safe. -/
  | unspecified
deriving DecidableEq, Repr

/-- Why a command has no meaning. -/
inductive Refusal where
  /-- Raised only by an arm of exec that has no meaning yet; with every arm written, by none. Safe. -/
  | notModelled (mnemonic : String)
deriving DecidableEq, Repr

/-! ### Packets -/

/-- The metadata block of a packet (03 R82); LADDER is LANE ≥ 240. -/
structure Meta where
  inCh : BitVec 10
  lane : Lane
  reinj : Bool
  taint : Bool
  saf : Bool
  pip : Pip
  len : BitVec 14
  verdict : BitVec 2
  egCh : BitVec 10
  tc : BitVec 3
  rsv : BitVec 2
  egValid : Bool
  round : Byte
  attempt : BitVec 4
  puntRank : BitVec 4
  tsNs : Word
  tsSec : BitVec 48
  tail : Handle
  pool : BitVec 3
  puntCode : Byte
  user : List Byte
  /-- Bytes that SKIPTO has stripped less those it has inserted: LEN as ingress found it is LEN + `strip`. No byte of the
  block holds it; egress needs it to know the bytes held in the tail chain (06 R193; log entry 32). -/
  strip : Int
deriving DecidableEq, Repr

/-- The metadata block with every field 0. -/
def Meta.zero : Meta := ⟨0, 0, false, false, false, 0, 0, 0, 0, 0, 0, false, 0, 0, 0, 0, 0, 0xFFFFFF, 0, 0, [], 0⟩

/-- The head (256 bytes, 0 beyond a shorter frame) and the metadata block that travel together. -/
structure Pkt where
  head : List Byte
  md : Meta
deriving DecidableEq, Repr

/-- A replica recorded by EMIT (06 R192). -/
structure Replica where
  ch : BitVec 10
  tc : BitVec 3
  lane : Lane
deriving DecidableEq, Repr

/-- What a link between islands carries, oldest first. -/
inductive LinkItem where
  /-- A packet; `whole` says its head is complete (03 R77). -/
  | pkt (p : Pkt) (reps : List Replica) (whole : Bool)
  /-- Head bytes 64 and up of the frame (lane, pip), sent after its first segment (02 R43). -/
  | headSeg (lane : Lane) (pip : Pip) (bs : List Byte) (last : Bool)
  /-- A skip token (03 R92). -/
  | skip (lane : Lane) (pip : Pip)
  /-- A verdict token (04 R109). -/
  | verdict (lane : Lane) (pip : Pip) (v : BitVec 2) (len : BitVec 14)
deriving DecidableEq, Repr

/-! ### Ranks -/

/-- Where the packet of a replay-buffer entry is. -/
inductive EPhase where
  /-- Rank 0 still receives its head (03 R77). -/
  | filling
  /-- Dispatchable. -/
  | queued
  /-- Held by context `k` of physical core `c`, in slot `sl`. -/
  | inCtx (c k sl : Nat)
  /-- At the order gate, its slot still bound. -/
  | gate (c k sl : Nat)
  /-- The entry holds a skip mark that the full mark store could not take (03 R94). -/
  | mark
deriving DecidableEq, Repr

/-- One replay-buffer entry: the packet as received, the block's own metadata copy, and its place in the rank. -/
structure REntry where
  pkt : Pkt
  md : Meta
  phase : EPhase
  /-- Class queue: 0 replay, 1 ladder, 2 reinject, 3 other (03 R79). -/
  cls : Nat
  /-- Order of becoming dispatchable, then of reaching the gate. -/
  seq : Nat
  /-- The waiting packet is held outside the full mark store (03 R94). -/
  spilled : Bool
  reps : List Replica
  /-- Head bytes received so far (rank 0). -/
  got : Nat
deriving DecidableEq, Repr

/-- A skip mark; `held` names the replay-buffer entry that keeps it while the store is full; `own` says that a packet
of this rank left it, with its attempt and verdict, and not a token from upstream. -/
structure Mark where
  lane : Lane
  pip : Pip
  seq : Nat
  held : Option Nat
  own : Bool
  attempt : BitVec 4
  v : BitVec 2
deriving DecidableEq, Repr

/-- The block's record of one exception-queue entry; its bytes lie in the shared SRAM. -/
structure ExcE where
  md : Meta
  popped : Bool
  order : Nat
deriving DecidableEq, Repr

/-- A ledger entry (04 R118). -/
structure LEntry where
  lane : Lane
  pip : Pip
  rank : Nat
  attempt : BitVec 4
  used : Bool
  vgood : Bool
  rel : Bool
  op : BitVec 2
  table : Byte
  round : Byte
  seq : Nat
  payload : List Byte
  /-- The commit engine has made the commit's first write; the commit ends, and the entry is freed, once the second copy of the
  mirrored table is written too (10 R317). -/
  com : Bool
deriving DecidableEq, Repr

/-- A message on a rank's link to the ledger (04 R120); `vmark` marks the point at which the rank received a verdict
(04 R110). -/
inductive LMsg where
  | entry (e : LEntry)
  | release (lane : Lane) (pip : Pip) (attempt : BitVec 4) (v : BitVec 2)
  | discard (lane : Lane) (pip : Pip) (attempt : BitVec 4)
  | forfeit (lane : Lane) (pip : Pip)
  | vmark (lane : Lane) (pip : Pip)
  /-- The point at which the rank received the flush of an ingress self-restart (17 R483). -/
  | fmark
deriving DecidableEq, Repr

/-- A transfer waiting in the guest bay (09 R285). -/
inductive GXfer where
  /-- A command, with its TAG (R289). -/
  | cmd (ctx ep : Nat) (tag : BitVec 16)
  | put (ctx ep : Nat) (w : Word) (last : Bool)
  | restore (seat idx : Nat) (w : Word) (last : Bool)
deriving DecidableEq, Repr

/-- A key slot of the seal helper (09 R282). -/
structure SealKey where
  key : List Byte
  size : Bool
  valid : Bool
  gen : BitVec 4
deriving DecidableEq, Repr

/-- A command waiting at the rank's seal helper: the context key and its epoch. -/
structure HRef where
  ctx : Nat
  ep : Nat
deriving DecidableEq, Repr

/-- One rank. -/
structure RankSt where
  entries : Tab REntry
  gens : Tab (BitVec 9)
  seqNo : Nat
  reinjQ : List (Nat × Nat)
  lastSeat : Nat
  /-- The slots (core, context, slot) in the staging buffers: the head mover has not yet written all their words (11 R336). -/
  staging : List (Nat × Nat × Nat)
  /-- The physical core in each seat 0–12; 15 where the seat is empty. -/
  seats : List Nat
  next : Tab Pip
  marks : List Mark
  exc : Tab ExcE
  excSeq : Nat
  out : List LMsg
  sealQ : List HRef
  sealKeys : Tab SealKey
  sealSets : Tab (List Word)
  gq : List GXfer
  gkill : List HRef
  gcmt : List HRef
  mirror : Tab (List Word)
  gstCap : Word
  /-- The rank's NX map (05 R148). -/
  nx : Half
  /-- Rotation or drain: 0 none, 1 draining, 2 drained, 3 rotating; and the seat (11 R355). -/
  rot : Nat
  rotSeat : Nat
  /-- Seats whose replacement by the reserve is being checked (17 R469 steps 4 and 5). -/
  repl : List Nat
  /-- Code load of seat 12 in progress (17 R492). -/
  codeLoad : Bool
  /-- Faulty words (core, bank, word) whose rows the repair map has given a spare row since the start (11 R345). -/
  spares : List (Nat × Nat × Nat)
  /-- Times at which timed work of the rank ends: 0 the seat check of R355 or R469, 1 the code load, 16 + s the full test
  of seat s, 32 + c the clear of core c, 64 + c the next test region of core c. -/
  due : Tab Nat
deriving DecidableEq, Repr

/-! ### Gilin -/

/-- The states of a context (08 R235). -/
inductive CSt where
  | free | loading | run | sleep | entry | ret | ending | stopped
deriving DecidableEq, Repr

/-- A hardware-loop level (05 R159). -/
structure Lvl where
  start : Word
  fin : Word
  cnt : Word
deriving DecidableEq, Repr

/-- How a context ends its packet (06 R189). -/
inductive EndKind where
  | done | drop
  | punt (code : Byte)
deriving DecidableEq, Repr

/-- A beat group that a table operation wants from one tile. -/
structure Acc where
  tile : Nat
  row : Nat
  n : Nat
  /-- 0 read, 1 write, 2 read-modify-write. -/
  kind : Nat
  tag : Nat
  data : List Byte
deriving DecidableEq, Repr

/-- The table operations. -/
inductive TKind where
  | look | lookw | mtr | upd | cas | unlock | cnt | lrn | log
  | cmdRead | cmdWrite | rowsRead | rowsWrite
  /-- The second write of a commit or of a scrub visit on a mirrored table (10 R317). -/
  | copy
deriving DecidableEq, Repr

/-- A table operation on its way through the tiles (10). -/
structure TOp where
  id : Nat
  /-- Requester 0–14 (10 R294). -/
  req : Nat
  /-- The context key of the issuer. -/
  src : Nat
  kind : TKind
  table : Nat
  bank : Nat
  idx : Nat
  key : List Byte
  data : List Byte
  w0 : Word
  w1 : Word
  raddr : Word
  lvl : Nat
  phase : Nat
  node : Nat
  acc : List Acc
  got : Tab (List Byte)
  /-- The context no longer waits for the result. -/
  orphan : Bool
  /-- Waits in the insert sequencer of this half (10 R302). -/
  seqHalf : Option Nat
  /-- Waits for a lock on the entry (06 R197). -/
  locked : Bool
  /-- The turn hint of each tile at which a request of this operation waits after a lost arbitration (10 R326). -/
  hint : Tab Nat
  /-- Ended: result cell and data; `ue` for a lookup that punts its packet (10 R318). -/
  fin : Bool
  res : Word
  out : List Byte
  ue : Bool
  /-- The last read gave the second copy's data (04 R116, 10 R317). -/
  sec : Bool
deriving DecidableEq, Repr

/-- What a sleeping context waits for. -/
inductive Wait where
  | none
  /-- WAIT n: the half cycles of the core's clock that are left; `forever` for a steward's WAIT 0. -/
  | timer (half : Nat) (forever : Bool)
  /-- The verdict of its packet: UPD and CAS with the request to send then, SKIPTO with none. -/
  | verdict (op : Option TOp)
  /-- The table operation with this number. -/
  | top (id : Nat)
  /-- Room in the ledger for this entry (04 R127). -/
  | ledger (e : LEntry)
  /-- The byte engine. -/
  | engine
  /-- A helper, FENCE or HSAVE condition: the instruction issues again when it may have come about. `sent` says that its
  request has left the core (08 R242). -/
  | again (sent : Bool)
  /-- The lazy save of slot `sl` goes before the instruction; the context stays in RUN (08 R253). -/
  | lazy (sl : Nat)
  /-- A steward's register access (12 R362). -/
  | fabric
deriving DecidableEq, Repr

/-- An exception being taken (08 R247). -/
structure Exc where
  vec : Nat
  faultaddr : Word
  ret : Word
  abandoned : Bool
  sent : Bool
deriving DecidableEq, Repr

/-- The hidden registers of one handler level (08 R238). -/
structure Hidden where
  priv : Bool
  ofloor : Nat
  rfloor : Nat
deriving DecidableEq, Repr

/-- A helper command of a context (09 R264–R270). -/
structure HCmd where
  slot : Nat
  c : Byte
  a : Word
  b : Word
  need : Nat
  puts : List Word
  ep : Nat
  lvl : Nat
  spec : Bool
  committed : Bool
  /-- The guest has accepted the command transfer, or the on-block helper has taken the command. -/
  accepted : Bool
  killed : Bool
  /-- Result words that the helper has produced and that have not reached the core; how many it has produced in all;
  whether its last word is among them; the error of the last word. -/
  res : List Word
  cnt : Nat
  last : Bool
  err : Option Byte
  /-- Result words at the core that HGET has not taken; the last word has reached the core. -/
  rdy : List Word
  fin : Bool
  /-- The bytes that a parse or hash command reads, as its context saw them when it issued the command (09 R279); none where it
  might not read them (R271 code 2). -/
  inp : Option (List Byte)
  /-- Sent by an HCMD that a squash has removed (07 R223): its COMMIT never comes. -/
  sq : Bool
  /-- TAG of a guest command: allocation generation and index of the packet's replay-buffer entry (09 R289). -/
  tag : BitVec 16
deriving DecidableEq, Repr

/-- A context stopped by a double fault (08 R257): the kind, the vector and its FAULTADDR, the address that the fault record
names, and TURN when it stopped (R262). -/
structure Stop where
  kind : Nat
  vec : Nat
  addr : Word
  pc : Word
  turn : BitVec 13
deriving DecidableEq, Repr

/-- Where a context stands in its group (07 R215): the place of the last instruction issued, the instructions of the group
that follow it, and the address after it; and the groups it has issued since its pipeline was last empty, this one among them, 2 for more
(07 R219). -/
structure Grp where
  idx : Nat
  left : Nat
  next : Word
  flow : Nat
deriving DecidableEq, Repr

/-- One Gilin context: a packet context, a core's fault context, or a steward's context. Stacks list their top first. -/
structure Ctx where
  st : CSt
  pc : Word
  os : List Word
  rs : List Word
  ls : List Lvl
  pred : Byte
  a : Word
  b : Word
  msp : Word
  turn : BitVec 13
  elev : BitVec 2
  ie : Bool
  lazy : Bool
  faultaddr : Word
  cause : BitVec 5
  h1 : Hidden
  h2 : Hidden
  /-- The hidden floor stack of a steward; IDEPTH is its length (12 R369). -/
  floors : List (Nat × Nat)
  entry : Option Nat
  slot : Nat
  lastSlot : Option Nat
  wait : Wait
  /-- Length in bytes of the instruction the context sleeps in, guard included. -/
  wlen : Nat
  exc : Option Exc
  v11done : Bool
  v11pend : Bool
  trig : Bool
  /-- A fetch match has squashed the instruction at the pc, which issues without it the next time (18 R505). -/
  skip : Bool
  /-- The BRK at the pc has halted the core and raises vector 15 when it issues again (06 R205, 18 R504). -/
  brkSkip : Bool
  /-- A sequence of the control store that this context has begun and that goes on: its dispatch entry, the micro-address and the
  micro-stack (11 R347; log entry 100). -/
  useq : Option (Nat × Nat × List Nat)
  ending : Option EndKind
  /-- The double fault or hard limit that stopped the context. -/
  stop : Option Stop
  seq : Nat
  reps : List Replica
  setLane : Option Lane
  hs : List HCmd
  lastEp : Nat
  /-- Locks broken by debug whose later UNLOCK is without effect (18 R502). -/
  broken : List (Nat × Nat)
  /-- Cycles the fault program has run (08 R259). -/
  fcycles : Nat
  grp : Grp
deriving DecidableEq, Repr

/-- A store waiting in a core's store buffer (07 R220). -/
structure SbEnt where
  ctx : Nat
  addr : Nat
  bs : List Byte
deriving DecidableEq, Repr

/-- An operation of the byte engine (07 R218). -/
structure BeOp where
  ctx : Nat
  kind : Nat
  x : Word
  y : Word
  z : Word
deriving DecidableEq, Repr

/-- One Gilin core: its per-core registers and units. -/
structure Core where
  dseed : Word
  vbase : Word
  own2 : Option Nat
  own3 : Option Nat
  res2 : Option Nat
  res3 : Option Nat
  sbuf : List SbEnt
  beq : List BeOp
  stopq : List Nat
  svc : Option Nat
  svcRec : Bool
  /-- CK cycles since the last issued group while a context was eligible (17 R468); ns for a steward (R477). -/
  wdog : Nat
  halted : Bool
  haltReq : Bool
  /-- Cycles since the halt request, up to 256 (18 R502). -/
  haltCy : Nat
  /-- Context (and the steps left) that DBG_STEP lets issue (18 R501). -/
  stepCtx : Option Nat
  retired : Bool
  gated : Bool
  patch : Tab (BitVec 96)
  pmap : Tab Word
  plevel : Half
  /-- The sequencer of the control store (11 R347): its micro-address, its micro-stack of 4 entries, top first, and the
  machine check that has stopped it, by cause and micro-address (R353). -/
  uaddr : Nat
  ustk : List Nat
  mcheck : Option (Nat × Nat)
  /-- Background-test region in progress: its number and its saved 64 bytes (11 R340). -/
  bgt : Option (Nat × List Byte)
  /-- Helper commands waiting at slots 0 and 1. -/
  h0 : List HRef
  h1 : List HRef
  /-- Queued write-backs: bank and word address (11 R331). -/
  wb : Tab Nat
deriving DecidableEq, Repr

/-- The register access of a steward's load or store (12 R361): direction, control-port address, data, and the operand
stack (below a loaded value), A and B after the instruction. -/
structure StwAcc where
  we : Bool
  addr : RegAddr
  data : Word
  os : List Word
  a : Word
  b : Word
deriving DecidableEq, Repr

/-- One steward beyond its context and core (12). -/
structure Stw where
  started : Bool
  faulted : Bool
  /-- The priority stack, its top first (12 R378). -/
  prio : List Nat
  frozen : Bool
  fcause : Nat
  flevel : Nat
  nx : BitVec 64
  acc : Option StwAcc
  /-- Data of the last functional read that the steward made by a command of its own row. -/
  rd : Word
deriving DecidableEq, Repr

/-! ### Streams, ledger, tables, buffers -/

/-- The open-frame record of one ingress channel (02 R40–R46, 17 R483). -/
structure OpenF where
  discard : Bool
  md : Meta
  hasPip : Bool
  head : List Byte
  bytes : Nat
  errSeen : Bool
  dispatched : Bool
  handles : List Handle
  /-- Tail bytes not yet written as a beat, and the tail bytes written so far. -/
  tbuf : List Byte
  tpos : Nat
deriving DecidableEq, Repr

/-- A LINK command or a tail write beat that ingress has to hand to the buffer port, in order (13 R389, R391). -/
inductive WItem where
  | link (lane : Lane) (pip : Pip) (h h2 : Handle)
  | beat (lane : Lane) (pip : Pip) (h : Handle) (idx bytes : Nat) (data : List Byte)
deriving DecidableEq, Repr

/-- A verdict that ingress has to issue (04 R107). -/
structure VWait where
  lane : Lane
  pip : Pip
  v : BitVec 2
  len : BitVec 14
deriving DecidableEq, Repr

/-- A verdict message under way and the units it has not reached: ranks, egress, exception queues. -/
structure VMsg where
  lane : Lane
  pip : Pip
  v : BitVec 2
  len : BitVec 14
  ranks : List Nat
  eg : Bool
  excq : List Nat
  ledger : Bool
deriving DecidableEq, Repr

/-- Ingress. -/
structure Ingress where
  opn : Tab OpenF
  lanePip : Tab Pip
  vq : List VWait
  wq : List WItem
  vmsgs : List VMsg
  /-- Flush messages under way: the units each has not reached (17 R483). -/
  flush : List VMsg
  /-- Ingress waits for a handle of this channel's pool (13 R391). -/
  waitCh : Option Nat
  pauseSt : Tab Bool
  pauseLast : Tab Bool
  /-- Time of the channel's last pause event (02 R50). -/
  pauseAt : Tab Nat
  nl : Bool
  /-- Time at which IN_PAUSE_NL last rose (02 R51). -/
  nlAt : Nat
  /-- The changes of IN_PAUSE_NL that the samples of BUF_LOW have ordered and whose edge is still to come: the time of the
  edge and the level, oldest first (02 R51). -/
  nlq : List (Nat × Bool)
  /-- A handle that a frame on lane 0 of the edge held back has taken from its pool's store (13 R391). -/
  resv : Option (Nat × Handle)
deriving DecidableEq, Repr

/-- A frame at egress: a packet or one of its replicas (02 R53–R57). -/
structure EgF where
  md : Meta
  head : List Byte
  ch : Nat
  lane : Lane
  shared : Option Nat
  /-- 0 queued, 1 started, 2 to be stomped, 3 dropped while other copies still need the shared chain. -/
  st : Nat
  /-- Frame bytes sent, the CRC register over them, and the FCS once every byte before it has been sent (02 R55). -/
  sent : Nat
  crc : Word
  fcs : Option Word
  /-- Tail bytes that have arrived and are not yet sent; beats asked for; the buffer and beat asked next. -/
  tdata : List Byte
  tgot : Nat
  treq : Nat
  rdH : Handle
  rdBeat : Nat
  /-- Link of the buffer being read, once a beat of it has arrived. -/
  rdNext : Option Handle
  /-- A beat of it came back with BUF_RDD_ERR (13 R397). -/
  rdErr : Bool
  order : Nat
  /-- A replica (06 R192). -/
  rep : Bool
  /-- Held by the guard; its gate has closed while it was being sent (14 R416). -/
  gw : Bool
  overrun : Bool
deriving DecidableEq, Repr

/-- Egress. -/
structure Egress where
  frames : List EgF
  seqNo : Nat
  /-- Copies left of each shared chain (13 R395): TAIL's number, count. -/
  shared : Tab Nat
  credits : Tab (BitVec 12)
  /-- Segments driven at the CK_OUT edge in progress, per lane: the last one on each port lane. -/
  lastSeg : Tab Seg
deriving DecidableEq, Repr

/-- The ledger (04 R117). -/
structure Ledger where
  ent : Tab LEntry
  peak : Nat
  safLong : Bool
  safAll : Bool
deriving DecidableEq, Repr

/-- An entry lock (10 R310). -/
structure Lock where
  tile : Nat
  table : Nat
  idx : Nat
  owner : Nat
deriving DecidableEq, Repr

/-- The arbiter of one tile (10 R323, R324). -/
structure Arb where
  park : Option Nat
  /-- Free cycles in a row, 2 at most. -/
  freeCy : Nat
  /-- Last winner of each class. -/
  last : Tab Nat
  failed : Bool
  failCause : Nat
  ueRows : List Nat
deriving DecidableEq, Repr

/-- Table memory beyond its rows. -/
structure Tables where
  ops : List TOp
  opNo : Nat
  locks : List Lock
  arb : Tab Arb
  cls : Tab Nat
  /-- ABANK, PBANK and NEXT of each table. -/
  abank : Tab Bool
  pbank : Tab Bool
  rnext : Tab Nat
  cur : Byte
  prev : Byte
  plive : Bool
  refused : Bool
  busy : Bool
  cmdDone : Bool
  cmdReason : Nat
  /-- Time of the last round change (10 R313). -/
  roundAt : Nat
  /-- The rows (tile * 65536 + row) that the scrub engine has visited in this pass, as rising disjoint ranges from the
  first member to the last, the last left out (10 R321). -/
  visited : List (Nat × Nat)
  /-- The visits (tile, row) that the scrub engine requests and no arbiter has granted (10 R324). -/
  scrubReq : List (Nat × Nat)
deriving DecidableEq, Repr

/-- A command of the buffer port that waits for its response. -/
inductive BCmd where
  | alloc (p : Nat)
  | free (h : Handle) (owner : Byte) (item : Nat)
deriving DecidableEq, Repr

/-- A command that the buffer port presents and the BPM has not accepted (13 R385). -/
inductive BPres where
  | alloc (p : Nat)
  | free (item : Nat)
  | link
deriving DecidableEq, Repr

/-- The tail read that the buffer port presents (13 R385, R397): the frame's order, its channel and lane, the tail beat,
the buffer and its beat; `again` for a beat read once more for its link. -/
structure RdPres where
  order : Nat
  ch : Nat
  lane : Lane
  k : Nat
  h : Handle
  beat : Nat
  again : Bool
deriving DecidableEq, Repr

/-- A chain start in the free queue (13 R393). -/
structure FreeIt where
  id : Nat
  h : Handle
  owner : Byte
  lane : Lane
  pip : Pip
  held : Bool
  walking : Bool
  /-- Egress channels whose detach waits for this chain (02 R61). -/
  chs : List Nat
deriving DecidableEq, Repr

/-- The buffer port. -/
structure Buf where
  store : Tab (List Handle)
  backoff : Tab Nat
  outc : List (BCmd × Nat)
  /-- Read beats outstanding: the frame's order, the tail beat, the handle (13 R397). -/
  rdq : List (Nat × Nat × Handle)
  freeq : List FreeIt
  freeNo : Nat
  warn : Byte
  low : Byte
  empty : Byte
  /-- How many of the oldest outstanding commands have been logged as LATE (13 R399). -/
  lateN : Nat
  /-- The command that BUF_CMD presents while its READY is low, and the read that BUF_RD presents (13 R385). -/
  cmd : Option BPres
  rd : Option RdPres
deriving DecidableEq, Repr

/-! ### Interrupts, time, power, start, debug, control port -/

/-- The interrupt controller (12 R373–R381). -/
structure Ic where
  latches : BitVec 16
  bind : Tab Nat
  lastPend : List Nat
  /-- The moderation timers that run: the ns of CK_STW that are left (12 R380). -/
  timers : Tab Nat
  lastStw : Nat
deriving DecidableEq, Repr

/-- The timebase (14). -/
structure Time where
  sec : BitVec 48
  ns : Nat
  frac : Word
  tick : BitVec 64
  tickFrac : Word
  /-- Slew in progress: nanoseconds left, forward or back, time of the next step. -/
  slew : Option (Nat × Bool × Nat)
  locked : Bool
  refLost : Bool
  set : Bool
  restored : Bool
  refused : Bool
  ppsOut : Bool
  ppsFall : Nat
  /-- The nanoseconds have carried into the seconds and PPS_OUT has not yet risen for it. -/
  ppsDue : Bool
  capSec : Tab (BitVec 48)
  capFrac : Tab Word
  capTick : Tab Word
  /-- When the save list of PD_TIME was last saved, and whether AO memory holds one (16 R453). -/
  savedAt : Nat
  saved : Bool
  /-- What the copies of the time (in ns) and of the tick hold while PD_TIME is not ON (14 R408). -/
  copyNs : Nat
  copyTick : BitVec 64
deriving DecidableEq, Repr

/-- One gate-schedule table's operational state (14 R411–R415). -/
structure Sched where
  /-- Which of the two copies is operational. -/
  oper : Bool
  pend : Bool
  swSec : BitVec 48
  swNs : Nat
  wrRefused : Bool
deriving DecidableEq, Repr

/-- States of a switched power domain (16 R444). -/
inductive DSt where
  | off | on | hold | rest
deriving DecidableEq, Repr

/-- One power domain. -/
structure PDom where
  st : DSt
  vote : Byte
  /-- The CK_PMC cycle in which a write last set each vote bit (16 R464). -/
  setAt : Tab Nat
  /-- An entry in progress: its target; `st` is that target from the start of the entry on. -/
  entering : Option DSt
  waking : Bool
  /-- When the entry or the wake in progress ends. -/
  tdue : Nat
  /-- A rank waits for its reload from the program library (16 R455). -/
  loading : Bool
  latch : Bool
  lost : Bool
  bad : Bool
  plevel : Nat
  /-- P-level change under way: its target. -/
  pchg : Option Nat
  /-- Nanoseconds at P0 in each second, by the second's number (16 R460). -/
  p0 : Tab Nat
  exh : Bool
  paused : Bool
  restarting : Bool
  /-- When a pause or a self-restart may end; the cause of a self-restart and the frames lost in it (17 R481–R486). -/
  fdue : Nat
  rcause : Nat
  rlost : Nat
deriving DecidableEq, Repr

/-- The PMC beyond its domains (16). -/
structure Pm where
  /-- The P2 force is in force (R461). -/
  force : Bool
  /-- The entry into BOXED is under way; its end; a WAKE_N low latched during it (R456). -/
  boxing : Bool
  boxAt : Nat
  boxWake : Bool
  /-- A warm start waits for every sensor to read 110 °C or less (R457). -/
  coolWait : Bool
deriving DecidableEq, Repr

/-- A flash command in progress: kind, address, shared-SRAM address, length, requester is a steward. -/
structure FlCmd where
  kind : Nat
  addr : Nat
  sram : Nat
  len : Nat
  deferred : Bool
  /-- When a change of HOLDUP let a deferred command begin (15 R443). -/
  tried : Option Nat
deriving DecidableEq, Repr

/-- Start, image and flash (15). -/
structure Cfg where
  /-- Start phase: 0 none, 1 the image is being read, 2 waiting for CFG_START_OK, 3 started, 4 waiting for the next attempt,
  5 failed by a fault of steward 0. -/
  phase : Nat
  attempts : Nat
  slot : Nat
  prefB : Bool
  flash : Option FlCmd
  holdupTab : List Byte
  startAt : Nat
  cold : Bool
  /-- CH 0 frames handed to steward 0's ROM in minimal mode (15 R440). -/
  minQ : List (List Byte)
deriving DecidableEq, Repr

/-- Pins of the block that are not part of a stream. -/
structure Pins where
  detReq : Bool
  detAck : Bool
  gstPg : Bool
  porst : Bool
  vinCore : Bool
deriving DecidableEq, Repr

/-- The states of the TAP controller (18 R494; log entry 118). -/
inductive TapSt where
  | reset | idle | selDr | capDr | shiftDr | exit1Dr | pauseDr | exit2Dr | updDr
  | selIr | capIr | shiftIr | exit1Ir | pauseIr | exit2Ir | updIr
deriving DecidableEq, Repr

/-- What a debugger or a cross-trigger asks of a core: a halt, a resume, a step of context `k` (18 R500, R501). -/
inductive DbgOp where
  | halt | resume
  | step (k : Nat)
deriving DecidableEq, Repr

/-- The debug port (18). -/
structure Dbg where
  level : BitVec 2
  tap : TapSt
  /-- What Capture-IR last loaded (R495). -/
  irCap : BitVec 6
  ir : BitVec 6
  dr : List Bool
  accStatus : Nat
  accAddr : Word
  accData : Word
  accRead : Bool
  regs : Tab Word
  /-- Entry indexes of DBG_LOCK_LOG's entries, oldest first. -/
  lockIdx : List Nat
  xout : BitVec 4
  /-- The access of a paused island that waits in its crossing: a write, its address, its data (17 R487). -/
  pend : Option (Bool × Word × Word)
  /-- What has been asked of cores of paused islands, oldest first (17 R487). -/
  held : List (Nat × DbgOp)
deriving DecidableEq, Repr

/-- The control port and the register fabric (12 R362, 19 R508–R510). -/
structure Fab where
  ctl : Option CtlReq
  ack : Bool
  err : Bool
  rdata : Word
  /-- The debug access that waits for the fabric. -/
  dbg : Option (Bool × RegAddr × Word)
  /-- The requester served last: 0 cluster, 1 control port, 2 debug; and the steward served last. -/
  last : Nat
  lastStw : Nat
deriving DecidableEq, Repr

/-- A log register's entries, oldest first, and its OVF bit (00 R528). -/
structure Log where
  ents : List Word
  ovf : Bool
deriving DecidableEq, Repr

/-- The K144. -/
structure State where
  /-- The commands that wait, first in first out. -/
  pending : List Instr
  /-- Elapsed time in ns. -/
  now : Nat
  freeCount : Nat
  /-- BLK_STATE (19 R517). -/
  blk : BitVec 3
  regs : Tab Word
  counters : Tab (BitVec 64)
  latches : Tab Word
  lw : Tab Word
  logs : Tab Log
  pins : Pins
  chSt : Tab (BitVec 2)
  detaching : Bool
  sp : Mem
  code : Mem
  stwCode : Mem
  sram : Mem
  tile : Mem
  flash : Mem
  ao : Mem
  /-- Words with an ECC error: true uncorrectable, false a single bit. -/
  spErr : Tab Bool
  tileErr : Tab Bool
  sramErr : Tab Bool
  ledErr : Tab Bool
  /-- Words of the scratchpads with faulty bits: (core, bank, word); word w lies in row w / 8. -/
  spFaulty : List (Nat × Nat × Nat)
  /-- Seats (rank, seat) that have a bank with a FULL entry of the repair map; kept in AO (11 R344, R345; log entry 61). -/
  spFull : List (Nat × Nat)
  /-- Control-store words, map entries with bad parity: core key × 2048 + word (1024 + map entry). -/
  csErr : List Nat
  /-- Stack banks with bad parity: context key × 4 + 0 the operand stack, 1 the return stack, 2 the loop stack (17 R467). -/
  stkErr : List Nat
  ctxs : Tab Ctx
  cores : Tab Core
  ranks : Tab RankSt
  stw : Tab Stw
  links : Tab (List LinkItem)
  ing : Ingress
  eg : Egress
  led : Ledger
  tb : Tables
  buf : Buf
  ic : Ic
  time : Time
  sched : Tab Sched
  dom : Tab PDom
  pm : Pm
  cfg : Cfg
  dbg : Dbg
  fab : Fab
  sems : Tab (BitVec 3)
  /-- The block watchdog (17 R480): ns since its last start, and whether it has expired with no kick since. -/
  blkWdog : Nat
  blkWarn : Bool
deriving DecidableEq, Repr

/-- The state right after reset: VIN_CORE is up, BLK_STATE is COLD, every domain is OFF, every store is empty and every
register is at the value the manual gives (`regReset` in Ops) or at 0 (log entry 3). -/
def State.reset : State where
  pending := []
  now := 0
  freeCount := 0
  blk := 0
  regs := []
  counters := []
  latches := []
  lw := []
  logs := []
  pins := { detReq := false, detAck := false, gstPg := false, porst := true, vinCore := true }
  chSt := []
  detaching := false
  sp := []
  code := []
  stwCode := []
  sram := []
  tile := []
  flash := []
  ao := []
  spErr := []
  tileErr := []
  sramErr := []
  ledErr := []
  spFaulty := []
  spFull := []
  csErr := []
  stkErr := []
  ctxs := []
  cores := []
  ranks := []
  stw := []
  links := []
  ing := { opn := [], lanePip := [], vq := [], wq := [], vmsgs := [], flush := [], waitCh := none, pauseSt := [],
           pauseLast := [], pauseAt := [], nl := false, nlAt := 0, nlq := [], resv := none }
  eg := { frames := [], seqNo := 0, shared := [], credits := [], lastSeg := [] }
  led := { ent := [], peak := 0, safLong := false, safAll := false }
  tb := { ops := [], opNo := 0, locks := [], arb := [], cls := [], abank := [], pbank := [], rnext := [], cur := 0,
          prev := 0, plive := false, refused := false, busy := false, cmdDone := false, cmdReason := 0, roundAt := 0,
          visited := [], scrubReq := [] }
  buf := { store := [], backoff := [], outc := [], rdq := [], freeq := [], freeNo := 0, warn := 0, low := 0, empty := 0,
           lateN := 0, cmd := none, rd := none }
  ic := { latches := 0, bind := [], lastPend := [], timers := [], lastStw := 3 }
  time := { sec := 0, ns := 0, frac := 0, tick := 0, tickFrac := 0, slew := none, locked := false, refLost := false, set := false,
            restored := false, refused := false, ppsOut := false, ppsFall := 0, ppsDue := false, capSec := [], capFrac := [],
            capTick := [], savedAt := 0, saved := false, copyNs := 0, copyTick := 0 }
  sched := []
  dom := []
  pm := { force := false, boxing := false, boxAt := 0, boxWake := false, coolWait := false }
  cfg := { phase := 0, attempts := 0, slot := 0, prefB := false, flash := none, holdupTab := [0, 0, 0],
           startAt := 0, cold := true, minQ := [] }
  dbg := { level := 2, tap := .reset, irCap := 1, ir := 1, dr := [], accStatus := 0, accAddr := 0, accData := 0, accRead := false, regs := [], lockIdx := [],
           xout := 0, pend := none, held := [] }
  fab := { ctl := none, ack := false, err := false, rdata := 0, dbg := none, last := 2, lastStw := 3 }
  sems := []
  blkWdog := 0
  blkWarn := false

end Sys2Proof.Machine
end

