-- ==== Sys2Proof/Machine/Ops.lean ====
section
/-! DEFINITION. The named operations over the state: units found by key, memories, registers, counters, logs, domains,
the metadata block's bytes, the control port's errors. -/

namespace Sys2Proof.Machine

/-! ### Outcome -/

/-- Every command answers a next state (log entry 1). -/
abbrev Out := Host.Outcome State Fault Refusal

/-! ### Contexts and cores -/

/-- The table key of context `k` of physical core `c` of rank `r`; `k` = 8 is the fault context. -/
def pk (r c k : Nat) : Nat := (r * 13 + c) * 9 + k

/-- The table key of a context. -/
def whoKey : Who → Nat
  | .pkt r c k => pk r.val c.val k.val
  | .flt r c => pk r.val c.val 8
  | .stw s => 1404 + s.val

/-- The core of a context key. -/
def coreOf (key : Nat) : Nat := if key < 1404 then key / 9 else 156 + (key - 1404)

/-- The rank of a packet core's context key. -/
def rankOf (key : Nat) : Nat := key / 117

/-- The physical core number within its rank. -/
def coreNoOf (key : Nat) : Nat := key / 9 % 13

/-- The context number: 0–7, 8 in the fault context, 0 on a steward. -/
def ctxNoOf (key : Nat) : Nat := if key < 1404 then key % 9 else 0

/-- A steward's context. -/
def isStw (key : Nat) : Bool := 1404 ≤ key

/-- A fault context. -/
def isFlt (key : Nat) : Bool := key < 1404 && key % 9 = 8

/-- Where the memory stack of a context begins (08 R244, 12 R359). -/
def stackBase (key : Nat) : Nat :=
  if isStw key then 0x1B0000 + (key - 1404) * 0x4000 else 0x30000 + ctxNoOf key * 0x800

/-- Bytes of a context's memory-stack area. -/
def stackSize (key : Nat) : Nat := if isStw key then 0x4000 else 0x800

/-- The hidden registers cleared. -/
def Hidden.zero : Hidden := ⟨false, 0, 0⟩

/-- A context after the reset of 08 R260 (05 R164's Reset column; log entry 3 for what the manual gives no value). -/
def Ctx.init (key : Nat) : Ctx :=
  { st := .free, pc := 0, os := [], rs := [], ls := [], pred := 1, a := 0, b := 0,
    msp := BitVec.ofNat 32 (stackBase key + stackSize key), turn := 0, elev := 0, ie := false, lazy := false,
    faultaddr := 0, cause := 0, h1 := .zero, h2 := .zero, floors := [], entry := none, slot := 0, lastSlot := none,
    wait := .none, wlen := 0, exc := none, v11done := false, v11pend := false, trig := false, skip := false, brkSkip := false, useq := none, ending := none,
    stop := none, seq := 0, reps := [], setLane := none, hs := [], lastEp := 0, broken := [], fcycles := 0,
    grp := ⟨0, 0, 0, 0⟩ }

/-- The context at a key. -/
def State.ctx (s : State) (key : Nat) : Ctx := tget (Ctx.init key) s.ctxs key

/-- Put the context at a key. -/
def State.setCtx (s : State) (key : Nat) (c : Ctx) : State := { s with ctxs := tset s.ctxs key c }

/-- A core before any load: no owner of slots 2 and 3, everything else 0. -/
def Core.init : Core :=
  { dseed := 1, vbase := 0, own2 := none, own3 := none, res2 := none, res3 := none, sbuf := [], beq := [], stopq := [],
    svc := none, svcRec := false, wdog := 0, halted := false, haltReq := false, haltCy := 0, stepCtx := none, retired := false,
    gated := false, patch := [], pmap := [], plevel := 0, uaddr := 0, ustk := [], mcheck := none, bgt := none, h0 := [], h1 := [], wb := [] }

/-- The core at a key (rank r core c: 13 r + c; steward s: 156 + s). -/
def State.core (s : State) (key : Nat) : Core := tget Core.init s.cores key

/-- Put the core at a key. -/
def State.setCore (s : State) (key : Nat) (c : Core) : State := { s with cores := tset s.cores key c }

/-- A rank that holds no packet. -/
def RankSt.init : RankSt :=
  { entries := [], gens := [], seqNo := 0, reinjQ := [], lastSeat := 11, staging := [], seats := [], next := [], marks := [], exc := [],
    excSeq := 0, out := [], sealQ := [], sealKeys := [], sealSets := [], gq := [], gkill := [], gcmt := [], mirror := [],
    gstCap := 0, nx := 0, rot := 0, rotSeat := 0, repl := [], codeLoad := false, spares := [], due := [] }

/-- Rank `r`. -/
def State.rank (s : State) (r : Nat) : RankSt := tget RankSt.init s.ranks r

/-- Put rank `r`. -/
def State.setRank (s : State) (r : Nat) (x : RankSt) : State := { s with ranks := tset s.ranks r x }

/-- A steward not started. -/
def Stw.init : Stw :=
  { started := false, faulted := false, prio := [], frozen := false, fcause := 0, flevel := 0, nx := 0, acc := none,
    rd := 0 }

/-- Steward `i`. -/
def State.stwd (s : State) (i : Nat) : Stw := tget Stw.init s.stw i

/-- Put steward `i`. -/
def State.setStw (s : State) (i : Nat) (x : Stw) : State := { s with stw := tset s.stw i x }

/-- The physical core in seat `seat` of rank `r`, if any. -/
def State.seatCore (s : State) (r seat : Nat) : Option Nat :=
  match (s.rank r).seats[seat]? with
  | some c => if c < 13 then some c else none
  | none => none

/-- The seat that physical core `c` of rank `r` sits in. -/
def State.seatOf (s : State) (r c : Nat) : Option Nat := (List.range 13).find? (fun t => s.seatCore r t = some c)

/-- The seat number a core reports (00 R15); 0 where it has none. -/
def State.seatNo (s : State) (r c : Nat) : Nat := (s.seatOf r c).getD 0

/-- The core key in a seat; 159 + 1 (no core) where the seat is empty. -/
def State.seatKey (s : State) (r seat : Nat) : Nat :=
  match s.seatCore r seat with
  | some c => r * 13 + c
  | none => 160

/-! ### Power domains (16 R444) -/

/-- Domain numbers 12–19 in the order of chapter 16. -/
abbrev dIn : Nat := 12
abbrev dOut : Nat := 13
abbrev dTblN : Nat := 14
abbrev dTblS : Nat := 15
abbrev dStw : Nat := 16
abbrev dTime : Nat := 17
abbrev dCfg : Nat := 18
abbrev dDbg : Nat := 19

/-- A domain before the first start. -/
def PDom.init : PDom :=
  { st := .off, vote := 0, setAt := [], entering := none, waking := false, tdue := 0, loading := false, latch := false, lost := false,
    bad := false, plevel := 0, pchg := none, p0 := [], exh := false, paused := false, restarting := false,
    fdue := 0, rcause := 0, rlost := 0 }

/-- Domain `d`. -/
def State.pdom (s : State) (d : Nat) : PDom := tget PDom.init s.dom d

/-- Put domain `d`. -/
def State.setDom (s : State) (d : Nat) (x : PDom) : State := { s with dom := tset s.dom d x }

/-- The domain is ON (its PG is 1, 16 R458). -/
def State.isOn (s : State) (d : Nat) : Bool := (s.pdom d).st = .on

/-- The PMC itself: it has no domain of its own, and `pdom 20` holds its pause (17 R486). -/
abbrev dPmc : Nat := 20

/-- The time as the PMC counts it for its entries: it stands while CK_PMC is paused (17 R486). -/
def State.pmcNow (s : State) : Nat := if (s.pdom dPmc).paused then (s.pdom dPmc).fdue - 4100 else s.now

/-- How long before the end of an entry the clock stops: it is gated 0.06 µs after the start of an entry into HOLD, stopped 2.01 µs
after that of an entry into REST or OFF (16 R450 step 5). -/
def clockLeft : DSt → Nat
  | .hold => 40
  | _ => 1990

/-- The clock of the domain runs: it is ON, or an entry has not yet come to step 5 (16 R450). -/
def State.alive (s : State) (d : Nat) : Bool :=
  match (s.pdom d).entering with
  | some t => decide (s.pmcNow + clockLeft t < (s.pdom d).tdue)
  | none => s.isOn d

/-- The domain's clock runs, and its island serves: not paused (17 R486), not restarting itself (17 R481). -/
def State.runs (s : State) (d : Nat) : Bool := s.alive d && !(s.pdom d).paused && !(s.pdom d).restarting

/-- The domain leaves ON: its PG falls, and its crossings accept no new request (16 R450 step 1). -/
def State.leaving (s : State) (d : Nat) : Bool := (s.pdom d).entering.isSome

/-- The domain is ON and its island serves: it takes inputs (19 R522), and its crossings take what it asks for (01 R18, 16 R450 step 1). -/
def State.ready (s : State) (d : Nat) : Bool := s.runs d && !s.leaving d

/-- The clock of domain `d` has edges: not while its island is paused (17 R486), nor until the DCO of an island that restarts itself has
locked, 4.1 µs of the 8 µs (17 R481; log entry 120). -/
def State.clockRuns (s : State) (d : Nat) : Bool :=
  let x := s.pdom d
  s.alive d && !x.paused && !(x.restarting && decide (s.now + 3900 < x.fdue))

/-- A vote or a dependency arises for domain `d`: AO latches it during an entry (16 R451). -/
def State.voteEvent (s : State) (d : Nat) : State :=
  let x := s.pdom d
  if x.entering.isSome then s.setDom d { x with latch := true } else s

/-- The domain of a core key. -/
def coreDom (ck : Nat) : Nat := if ck < 156 then ck / 13 else dStw

/-! ### Registers, counters, logs -/

/-- Register addresses by region (19 R515). -/
def rkA (r off : Nat) : Nat := 0x1000000 + r * 0x100000 + off
def inA (off : Nat) : Nat := 0x600000 + off
def egA (off : Nat) : Nat := 0x700000 + off
def bufA (off : Nat) : Nat := 0x500000 + off
def tmA (off : Nat) : Nat := 0x400000 + off
def cfA (off : Nat) : Nat := 0x300000 + off
def icA (off : Nat) : Nat := 0x200000 + off
def swA (off : Nat) : Nat := 0x208000 + off
def pmA (off : Nat) : Nat := 0x100000 + off
def tbA (off : Nat) : Nat := 0x2000000 + off
def ldA (off : Nat) : Nat := 0x2080000 + off

/-- The reset value of the register at an address (00 R10): 0 but for the few the manual gives another value. -/
def regReset (a : Nat) : Word :=
  if 0x200000 ≤ a ∧ a < 0x200020 then 0xFFFFFFFF
  else if 0x100100 ≤ a ∧ a < 0x100150 then 0x101
  else if 0x1000000 ≤ a ∧ a < 0x1C00000 ∧ a % 0x100000 = 0x3024 then 0xF0000
  else 0

/-- The stored register at a byte address. -/
def State.reg (s : State) (a : Nat) : Word := tget (regReset a) s.regs a

/-- Store a register. -/
def State.setReg (s : State) (a : Nat) (w : Word) : State := { s with regs := tset s.regs a w }

/-- Store a number in a register. -/
def State.setRegN (s : State) (a n : Nat) : State := s.setReg a (BitVec.ofNat 32 n)

/-- Set bits of a register. -/
def State.orReg (s : State) (a n : Nat) : State := s.setReg a (s.reg a ||| BitVec.ofNat 32 n)

/-- Clear bits of a register. -/
def State.clrReg (s : State) (a n : Nat) : State := s.setReg a (s.reg a &&& ~~~ BitVec.ofNat 32 n)

/-- A field of a register. -/
def State.fld (s : State) (a hi lo : Nat) : Nat := bits (s.reg a) hi lo

/-- Replace the field of a register at bits `hi` down to `lo`. -/
def State.setFld (s : State) (a hi lo v : Nat) : State :=
  let m := (2 ^ (hi + 1 - lo) - 1) * 2 ^ lo
  s.setReg a ((s.reg a &&& ~~~ BitVec.ofNat 32 m) ||| BitVec.ofNat 32 (v % 2 ^ (hi + 1 - lo) * 2 ^ lo))

/-- The 64-bit counter whose _LO register is at `a` (02 R71). -/
def State.ctr (s : State) (a : Nat) : BitVec 64 := tget 0 s.counters a

/-- Add `n` to the counter at `a`. -/
def State.count (s : State) (a : Nat) (n : Nat := 1) : State :=
  if n = 0 then s else { s with counters := tset s.counters a (s.ctr a + BitVec.ofNat 64 n) }

/-- The log at `a`. -/
def State.log (s : State) (a : Nat) : Log := tget ⟨[], false⟩ s.logs a

/-- Enter `e` in the log at `a` of `cap` entries; a full log keeps its entries and sets OVF (00 R528). -/
def State.logAdd (s : State) (a cap : Nat) (e : Nat) : State :=
  let l := s.log a
  if l.ents.length < cap then { s with logs := tset s.logs a ⟨l.ents ++ [BitVec.ofNat 32 e], l.ovf⟩ }
  else { s with logs := tset s.logs a ⟨l.ents, true⟩ }

/-! ### Memories -/

/-- Scratchpad byte `x` of core key `ck`. -/
def spA (ck x : Nat) : Nat := ck * 0x40000 + x
/-- Code-space byte `x` of packet-core key `ck`. -/
def cdA (ck x : Nat) : Nat := ck * 0x10000 + x
/-- Code-space byte `x` of steward `i`. -/
def scA (i x : Nat) : Nat := i * 0x40000 + x
/-- Byte `x` of row `row` of tile `t`. -/
def tlA (t row x : Nat) : Nat := t * 0x200000 + row * 32 + x
/-- Exception-queue entry `k` of rank `r` in the shared SRAM (03, 12 R364). -/
def exA (r k : Nat) : Nat := 0x1C0000 + r * 0x5000 + k * 0x140

/-- RAM reads 0 where nothing has been written, code space and flash 0xFF (log entry 4). -/
def State.spR (s : State) (ck x n : Nat) : List Byte := mread 0 s.sp (spA ck x) n
def State.spW (s : State) (ck x : Nat) (bs : List Byte) : State := { s with sp := mwrite 0 s.sp (spA ck x) bs }
def State.codeR (s : State) (ck x n : Nat) : List Byte := mread 0xFF s.code (cdA ck x) n
def State.codeW (s : State) (ck x : Nat) (bs : List Byte) : State := { s with code := mwrite 0xFF s.code (cdA ck x) bs }
def State.scR (s : State) (i x n : Nat) : List Byte := mread 0xFF s.stwCode (scA i x) n
def State.scW (s : State) (i x : Nat) (bs : List Byte) : State :=
  { s with stwCode := mwrite 0xFF s.stwCode (scA i x) bs }
def State.srR (s : State) (x n : Nat) : List Byte := mread 0 s.sram x n
def State.srW (s : State) (x : Nat) (bs : List Byte) : State := { s with sram := mwrite 0 s.sram x bs }
def State.flR (s : State) (x n : Nat) : List Byte := mread 0xFF s.flash x n
def State.flW (s : State) (x : Nat) (bs : List Byte) : State := { s with flash := mwrite 0xFF s.flash x bs }
def State.aoR (s : State) (x n : Nat) : List Byte := mread 0 s.ao x n
def State.aoW (s : State) (x : Nat) (bs : List Byte) : State := { s with ao := mwrite 0 s.ao x bs }

/-- The ECC key of the scratchpad word at byte `x` of core `ck`. -/
def spWord (ck x : Nat) : Nat := ck * 0x8000 + x / 8

/-- The words that `n` bytes from `x` touch. -/
def wordsOf (x n : Nat) : List Nat := if n = 0 then [] else (List.range ((x + n - 1) / 8 - x / 8 + 1)).map (fun i => x / 8 + i)

/-- A store to the scratchpad: the check bits of the words it touches are made good (06 R183). -/
def State.spStore (s : State) (ck x : Nat) (bs : List Byte) : State :=
  let s1 := s.spW ck x bs
  { s1 with spErr := tkeep s1.spErr (fun w _ => !((wordsOf x bs.length).map (fun y => spWord ck (8 * y))).contains w) }

/-- Drop every byte of a memory from `lo` up to `hi` (they read the unlisted byte again). -/
def memClear (m : Mem) (lo hi : Nat) : Mem := m.filter (fun e => e.1 < lo || hi ≤ e.1)

/-- Write a long block of the shared SRAM; the check bits of the words it touches are made good. -/
def State.sramLoad (s : State) (x : Nat) (bs : List Byte) : State :=
  { s with sram := mload 0 s.sram x bs, sramErr := tkeep s.sramErr (fun w _ => !(decide (x / 8 ≤ w) && decide (w < (x + bs.length + 7) / 8))) }

/-- A little-endian number of the shared SRAM. -/
def State.srN (s : State) (x n : Nat) : Nat := leNat (s.srR x n)

/-! ### The repair map in AO memory (11 R344, 15 R425, 16 R465) -/

/-- SPMAP: 4 rows per bank of every seat, unless the row is there already; answers that the bank has no entry free. -/
def State.repairSp (s : State) (r seat bank row : Nat) : Bool × State :=
  let a := 0x100 + ((r * 13 + seat) * 8 + bank) * 8
  let w := 0x8000 + row % 512
  let ents := (List.range 4).map (fun i => (a + 2 * i, leNat (s.aoR (a + 2 * i) 2)))
  if ents.any (fun e => e.2 = w) then (false, s)
  else match ents.find? (fun e => decide (e.2 < 0x8000)) with
    | some e => (false, s.aoW e.1 (leBytes 2 w))
    | none => (true, s)

/-- TMAP: 8 rows per tile and the tile's FULL mark. -/
def State.repairTile (s : State) (tile row : Nat) : State :=
  let a := 0x100 + 10000 + tile * 32
  let m := fun (x : Nat) => x % 0x10000 + x / 0x80000000 * 0x80000000
  let ents := (List.range 8).map (fun i => (a + 4 * i, leNat (s.aoR (a + 4 * i) 4)))
  if ents.any (fun e => m e.2 = 0x80000000 + row) then s
  else match ents.find? (fun e => e.2 / 0x80000000 = 0) with
    | some e => s.aoW e.1 (leBytes 4 (e.2 / 0x40000000 % 2 * 0x40000000 + 0x80000000 + row))
    | none => s.aoW a (leBytes 4 (leNat (s.aoR a 4) ||| 0x40000000))

/-! ### The metadata block (03 R82) -/

/-- LADDER: the lane is 240–255. -/
def Meta.ladder (m : Meta) : Bool := decide (240 ≤ m.lane.toNat)

/-- The bytes of the metadata block. -/
def Meta.bytes (m : Meta) : List Byte :=
  leBytes 2 m.inCh.toNat ++ [m.lane] ++
  [BitVec.ofNat 8 (b2n m.ladder + 2 * b2n m.reinj + 4 * b2n m.taint + 8 * b2n m.saf)] ++
  leBytes 2 m.pip.toNat ++ leBytes 2 (m.len.toNat + 16384 * m.verdict.toNat) ++
  leBytes 2 (m.egCh.toNat + 1024 * m.tc.toNat + 8192 * m.rsv.toNat + 32768 * b2n m.egValid) ++
  [m.round, BitVec.ofNat 8 (m.attempt.toNat + 16 * m.puntRank.toNat)] ++
  leBytes 4 m.tsNs.toNat ++ leBytes 6 m.tsSec.toNat ++ leBytes 3 m.tail.toNat ++
  [BitVec.ofNat 8 m.pool.toNat, m.puntCode] ++ List.replicate 5 0 ++ fit 32 m.user

/-- Program fields as the bytes of a slot hold them; every block field from `m` (03 R82). -/
def Meta.withProg (m : Meta) (bs : List Byte) : Meta :=
  let w := leNat ((bs.drop 8).take 2)
  { m with egCh := BitVec.ofNat 10 w, tc := BitVec.ofNat 3 (w / 1024), rsv := BitVec.ofNat 2 (w / 8192),
           egValid := decide (w / 32768 % 2 = 1), user := (bs.drop 32).take 32 }

/-- The metadata block that 64 bytes hold. -/
def Meta.ofBytes (bs : List Byte) : Meta :=
  let n := fun (p k : Nat) => leNat ((bs.drop p).take k)
  let m : Meta :=
    { inCh := BitVec.ofNat 10 (n 0 2), lane := BitVec.ofNat 8 (n 2 1), reinj := decide (n 3 1 / 2 % 2 = 1),
      taint := decide (n 3 1 / 4 % 2 = 1), saf := decide (n 3 1 / 8 % 2 = 1), pip := BitVec.ofNat 16 (n 4 2),
      len := BitVec.ofNat 14 (n 6 2), verdict := BitVec.ofNat 2 (n 6 2 / 16384), egCh := 0, tc := 0, rsv := 0,
      egValid := false, round := BitVec.ofNat 8 (n 10 1), attempt := BitVec.ofNat 4 (n 11 1),
      puntRank := BitVec.ofNat 4 (n 11 1 / 16), tsNs := BitVec.ofNat 32 (n 12 4), tsSec := BitVec.ofNat 48 (n 16 6),
      tail := BitVec.ofNat 24 (n 22 3), pool := BitVec.ofNat 3 (n 25 1), puntCode := BitVec.ofNat 8 (n 26 1),
      user := [], strip := 0 }
  m.withProg bs

/-- "No buffer" (13 R388). -/
abbrev noBuf : Handle := 0xFFFFFF

/-- LEN as ingress found it. -/
def Meta.rxLen (m : Meta) : Nat := ((m.len.toNat : Int) + m.strip).toNat

/-- The tail chain a unit has to free: none where the frame ended at 256 bytes or less (13 R391). A flush forfeits a packet
without naming its length (17 R483): LEN stays 0 and its chain is freed. -/
def Meta.chain (m : Meta) : Option Handle :=
  if m.tail = noBuf then none
  else if m.verdict ≠ 0 ∧ m.rxLen ≠ 0 ∧ m.rxLen ≤ 256 then none
  else some m.tail

/-! ### Order of pips (03 R84) and serial numbers (05 R140) -/

/-- Pip `p` comes before pip `q`. -/
def pipBefore (p q : Pip) : Bool := 1 ≤ (q - p).toNat && (q - p).toNat ≤ 32767

/-- A comes before B among 32-bit serial numbers. -/
def serBefore (p q : Word) : Bool := 1 ≤ (q - p).toNat && (q - p).toNat ≤ 0x7FFFFFFF

/-- The ranks a lane visits (03 R85). -/
def onPath (lane : Lane) (r : Nat) : Bool := if 240 ≤ lane.toNat then r = 0 || r = 1 || r = 11 else r < 12

/-! ### The free queue (13 R393) -/

/-- The metadata block with a verdict and a length. -/
def Meta.judged (m : Meta) (v : BitVec 2) (len : BitVec 14) : Meta := { m with verdict := v, len := len }

/-- A verdict token of the frame (lane, pip) on a link. -/
def tokenOf (lane : Lane) (pip : Pip) : LinkItem → Option (BitVec 2 × BitVec 14)
  | .verdict l p v len => if l = lane ∧ p = pip then some (v, len) else none
  | _ => none

/-- Ingress still has the frame (lane, pip) open or its verdict to issue. -/
def State.atIngress (s : State) (lane : Lane) (pip : Pip) : Bool :=
  s.ing.opn.any (fun e => e.2.hasPip && !e.2.discard && decide (e.2.md.lane = lane) && decide (e.2.md.pip = pip)) ||
  s.ing.vq.any (fun w => decide (w.lane = lane) && decide (w.pip = pip))

/-- The verdict and LEN of a frame that ingress has issued and that may not have reached every unit (04 R107, R109); a
flush under way is the verdict of every frame that a restart of ingress has lost (17 R483). -/
def State.issuedOf (s : State) (lane : Lane) (pip : Pip) : Option (BitVec 2 × BitVec 14) :=
  match s.ing.vmsgs.find? (fun m => decide (m.lane = lane) && decide (m.pip = pip)) with
  | some m => some (m.v, m.len)
  | none =>
    match s.links.findSome? (fun e => e.2.findSome? (tokenOf lane pip)) with
    | some v => some v
    | none => if s.ing.flush.isEmpty || s.atIngress lane pip then none else some (2, 0)

/-- The metadata block once the verdict that ingress has issued is known. -/
def State.issuedMd (s : State) (m : Meta) : Meta :=
  if m.verdict ≠ 0 then m
  else match s.issuedOf m.lane m.pip with
    | some (v, len) => m.judged v len
    | none => m

/-- A unit hands a chain start to the free queue; it is held until ingress has issued the frame's verdict. `chs` are the
egress channels that dropped a copy of the frame. -/
def freeChainFor (owner : Nat) (chs : List Nat) (m0 : Meta) (s : State) : State :=
  let m := s.issuedMd m0
  match m.chain with
  | none => s
  | some h =>
    let it : FreeIt := { id := s.buf.freeNo, h := h, owner := BitVec.ofNat 8 owner, lane := m.lane, pip := m.pip,
                         held := decide (m.verdict = 0), walking := false, chs := chs }
    { s with buf := { s.buf with freeq := s.buf.freeq ++ [it], freeNo := s.buf.freeNo + 1 } }

/-- A unit other than egress frees the chain of a frame. -/
def freeChain (owner : Nat) (m : Meta) (s : State) : State := freeChainFor owner [] m s

/-- The pool's buffer size S (13 BUF_POOL_CFG). -/
def State.bufSize (s : State) (p : Nat) : Nat := 256 * 2 ^ s.fld (bufA (4 * p)) 2 0

/-- The pool's PREFETCH. -/
def State.prefetch (s : State) (p : Nat) : Nat := s.fld (bufA (4 * p)) 12 8

/-- Handles in a pool's store. -/
def State.handles (s : State) (p : Nat) : List Handle := tget [] s.buf.store p

/-- Every handle that ingress holds: its stores and the one kept for a frame whose edge waits (13 R390, R391). -/
def State.ownHandles (s : State) : List Handle :=
  (s.buf.store.map Prod.snd).flatten ++ (match s.ing.resv with | some (_, h) => [h] | none => [])

/-! ### Channels -/

/-- The state of channel `ch` (02 R60): 0 DETACHED, 1 ATTACHING, 2 ATTACHED, 3 DETACHING. -/
def State.chan (s : State) (ch : Nat) : BitVec 2 := tget 0 s.chSt ch
def State.setChan (s : State) (ch : Nat) (v : BitVec 2) : State := { s with chSt := tset s.chSt ch v }

/-- IN_CHMAP fields of channel `ch`. -/
def State.inMap (s : State) (ch : Nat) : Word := s.reg (inA (0x1000 + 4 * ch))
def State.laneOf (s : State) (ch : Nat) : Lane := BitVec.ofNat 8 (bits (s.inMap ch) 7 0)
def State.poolOf (s : State) (ch : Nat) : Nat := bits (s.inMap ch) 11 9

/-! ### The frames alive in the block (02 R63, 10 R313) -/

/-- A live frame: its channel, lane, pip and round. -/
structure Live where
  ch : Nat
  lane : Lane
  pip : Pip
  round : Byte
deriving DecidableEq, Repr

/-- The live frame of a metadata block. -/
def liveOf (m : Meta) : Live := ⟨m.inCh.toNat, m.lane, m.pip, m.round⟩

/-- The packets on a link. -/
def linkLive : List LinkItem → List Live
  | [] => []
  | .pkt p _ _ :: t => liveOf p.md :: linkLive t
  | _ :: t => linkLive t

/-- Live frames of a rank: replay entries, but for held marks and for packets forfeited already, as one in the fault context is till its
punt (02 R63, 04 R130). -/
def rankLive (x : RankSt) : List Live :=
  (x.entries.filter (fun e => decide (e.2.phase ≠ .mark) && decide (e.2.md.verdict ≠ 2))).map (fun e => liveOf e.2.md)

/-- The frame of an exception-queue entry. -/
def State.excLive (s : State) (r k : Nat) : Option Live := (tfind (s.rank r).exc k).map (fun e => liveOf e.md)

/-- Frames with a pip still at ingress (not dispatched). -/
def State.ingLive (s : State) : List Live :=
  (s.ing.opn.filter (fun e => e.2.hasPip && !e.2.discard && !e.2.dispatched)).map (fun e => liveOf e.2.md)

/-- Frames that ingress has dispatched, not held in an exception queue. -/
def State.moving (s : State) : List Live :=
  (s.links.map (fun e => linkLive e.2)).flatten ++ (s.ranks.map (fun e => rankLive e.2)).flatten ++
  (s.ranks.map (fun e => e.2.reinjQ.filterMap (fun q => s.excLive q.1 q.2))).flatten ++
  ((s.eg.frames.filter (fun f => f.md.verdict ≠ 2 && !f.rep && decide (f.st ≠ 3))).map (fun f => liveOf f.md))

/-- Frames in flight: not held in an exception queue (02 R63). -/
def State.flying (s : State) : List Live := (s.ingLive ++ s.moving).eraseDups

/-- Frames held in the exception queues. -/
def State.heldL (s : State) : List Live :=
  let re := (s.ranks.map (fun e => e.2.reinjQ)).flatten
  (s.ranks.map (fun e => (e.2.exc.filter (fun q => !re.contains (e.1, q.1))).map (fun q => liveOf q.2.md))).flatten

/-- INFLIGHT and HELD of a channel (02 R63). -/
def State.inflight (s : State) (ch : Nat) : Nat := (s.flying.filter (fun l => l.ch = ch)).length
def State.held (s : State) (ch : Nat) : Nat := (s.heldL.filter (fun l => l.ch = ch)).length

/-- The in-flight count of a lane (02 R48): the sum of INFLIGHT over the channels whose IN_CHMAP LANE names it. -/
def State.laneCount (s : State) (lane : Lane) : Nat := (s.flying.filter (fun l => s.laneOf l.ch = lane)).length

/-- The pause states of the channels follow R48: on while a channel is not ATTACHED or its lane's count is at or above
1920, off at or below 1792, unchanged between. -/
def State.refreshPause (s : State) : State :=
  let fl := s.flying
  let cnt := fun (lane : Lane) => (fl.filter (fun l => s.laneOf l.ch = lane)).length
  { s with ing := { s.ing with pauseSt := s.chSt.foldl (fun t e =>
      if e.2 ≠ 2 then tset t e.1 true
      else
        let n := cnt (s.laneOf e.1)
        if 1920 ≤ n then tset t e.1 true else if n ≤ 1792 then tset t e.1 false else t) s.ing.pauseSt } }

/-- The ledger entries under way on a rank's link. -/
def entriesOn (out : List LMsg) : List LEntry :=
  out.filterMap (fun m => match m with | .entry e => some e | _ => none)

/-- The ledger entries under way on the ranks' links (04 R120). -/
def State.entriesOut (s : State) : List LEntry := (s.ranks.map (fun e => entriesOn e.2.out)).flatten

/-- The in-flight count of a round (10 R313): a frame takes its round at its dispatch (10 R311); an entry still on its way to the ledger
counts (04 R126). -/
def State.roundCount (s : State) (rd : Byte) : Nat :=
  let egs := s.eg.frames.map (fun f => liveOf f.md)
  let les := (((s.led.ent.filter (fun e => e.2.used)).map Prod.snd) ++ s.entriesOut).map (fun e => (⟨0, e.lane, e.pip, e.round⟩ : Live))
  let key := fun (l : Live) => (l.lane, l.pip)
  (((s.moving ++ s.heldL ++ egs ++ les).filter (fun l => l.round = rd)).map key).eraseDups.length

/-! ### The address map (19 R515) -/

/-- The region of a byte address: none, or its power domain (20 for AO). -/
def region (a : Nat) : Option Nat :=
  if a < 0x200000 then some 20
  else if a < 0x300000 then some dStw
  else if a < 0x400000 then some dCfg
  else if a < 0x500000 then some dTime
  else if a < 0x700000 then some dIn
  else if a < 0x800000 then some dOut
  else if a < 0x1000000 then none
  else if a < 0x1C00000 then some ((a - 0x1000000) / 0x100000)
  else if a < 0x2000000 then none
  else if a < 0x3000000 then some dTblN
  else if a < 0x3200000 then some dStw
  else if a < 0x3F00000 then none
  else if a < 0x4000000 then some dCfg
  else none

/-- The steward SRAM window. -/
def inWindow (a : Nat) : Bool := 0x3000000 ≤ a && a < 0x3200000

/-- The reason for which the control port answers CTL_ERR (19 R512), with byte enables `be`. -/
def State.ctlErr (s : State) (a : Nat) (be : BitVec 4) : Option Nat :=
  match region a with
  | none => some 1
  | some d =>
    if be ≠ 0xF ∧ ¬ inWindow a then some 2
    else if d < 20 ∧ ¬ s.isOn d then some 3
    else none

/-! ### Steward faults and exceptions of a steward -/

/-- A steward fault with a cause (17 R478): the steward stops, its votes are cleared, its semaphores freed; REFUSED of
FLT_STW_CAUSE stays (R479). Before CFG_START_OK a fault of steward 0 fails the attempt (15 R438). -/
def State.stwFault (s : State) (i cause : Nat) : State :=
  let key := 1404 + i
  let c := s.ctx key
  let x := s.stwd i
  let s1 := s.setCtx key { c with st := .stopped, wait := .none }
  let s2 := s1.setStw i { x with faulted := true, acc := none }
  let s3 := { s2 with dom := tmap s2.dom (fun _ d => { d with vote := d.vote &&& ~~~ BitVec.ofNat 8 (2 ^ i) }),
                      sems := tmap s2.sems (fun _ o => if o.toNat = i + 1 then 0 else o),
                      ic := { s2.ic with bind := tkeep s2.ic.bind (fun _ t => t ≠ i) } }
  let s3 := if i = 0 ∧ s.cfg.phase = 2 then { s3 with cfg := { s3.cfg with phase := 5 } } else s3
  let a := swA (0x310 + 4 * i)
  (s3.setRegN a ((s.reg a).toNat / 2 ^ 31 * 2 ^ 31 + at_ cause 24 + c.pc.toNat % 0x40000)).count (swA 0x248)

/-- Vectors 6–10, the stack errors. -/
def stackVec (v : Nat) : Bool := 6 ≤ v && v ≤ 10

/-- An exception on steward `i`: it enters ENTRY; at ELEV 2, and for a stack error above ELEV 0 or over a floor, it is a steward fault of
cause 1 (12 R371). -/
def State.stwRaise (s : State) (i : Nat) (x : Exc) : State :=
  let c := s.ctx (1404 + i)
  if (stackVec x.vec && !(c.elev = 0 && c.floors.isEmpty)) || decide (c.elev = 2) then s.stwFault i 1
  else s.setCtx (1404 + i) { c with st := .entry, wait := .none, skip := false, brkSkip := false, exc := some x }

/-! ### Requesters -/

/-- The number of a requester that makes functional reads: 0 control port, 1–4 steward 0–3, 5 debug. -/
def reqNo : Req → Nat
  | .ctl => 0
  | .stw i => i.val + 1
  | .dbg => 5

/-- The steward behind a request, if any. -/
def reqStw : Req → Option Nat
  | .stw i => some i.val
  | _ => none

/-- The requester can make an access: its own domain is ON, and it has none outstanding (19 R509, 12 R362, 18 R496). -/
def State.reqOk (s : State) : Req → Bool
  | .ctl => s.isOn dCfg && s.fab.ctl.isNone
  | .stw i => s.isOn dStw && (s.stwd i.val).started && !(s.stwd i.val).faulted && (s.stwd i.val).acc.isNone
  | .dbg => s.isOn dDbg && decide (s.dbg.accStatus ≠ 1) && decide (s.dbg.level ≠ 2)

/-- The data of a functional read go to the requester: with CTL_ACK, to the steward, with STATUS 0 (19 R509, 12 R362, 18 R496). -/
def State.answer (s : State) (q : Req) (w : Word) : State :=
  match q with
  | .ctl => { s with fab := { s.fab with ack := true, err := false, rdata := w } }
  | .stw i => s.setStw i.val { s.stwd i.val with rd := w }
  | .dbg => { s with dbg := { s.dbg with accStatus := 0, accData := w, accRead := true } }

/-- A debug access of the register at `a` ends with STATUS `st` and no data. -/
def State.daccDone (s : State) (st a : Nat) : State :=
  { s with dbg := { s.dbg with accStatus := st, accAddr := BitVec.ofNat 32 a, accRead := false } }

/-- A write of the register at `a` has completed: CTL_ACK with CTL_RDATA 0; a debug access has STATUS 0, or 2 where LEVEL forbids it
(19 R509, 18 R496, R497). -/
def State.acked (s : State) (q : Req) (a : Nat) : State :=
  match q with
  | .ctl => { s with fab := { s.fab with ack := true, err := false, rdata := 0 } }
  | .stw _ => s
  | .dbg => s.daccDone (if s.dbg.level = 0 then 0 else 2) a

/-- The last functional read's value of the LW register at `a` (00 R6). -/
def State.lwLast (s : State) (a : Nat) : Word := tget 0 s.lw a

/-- Keep the value of a functional read of the LW register at `a`. -/
def State.lwKeep (s : State) (a : Nat) (w : Word) : State := { s with lw := tset s.lw a w }

/-- A control-port request at `a` fails with a reason: CTL_ERR with CTL_ACK and CTL_RDATA 0; CTL_ERR_INFO keeps the first failure, OVF
a later one (19 R509, R512). -/
def State.ctlFail (s : State) (a reason : Nat) : State :=
  let s1 := if bit (s.reg 8) 31 then s.orReg 8 (2 ^ 30) else s.setRegN 8 (2 ^ 31 + at_ reason 28 + a % 2 ^ 26 / 4 * 4)
  { s1 with fab := { s1.fab with ack := true, err := true, rdata := 0 } }

/-- An access of requester `q` at `a` to a region that does not answer: CTL_ERR, vector 5 at the steward, STATUS 2 (19 R515). -/
def State.regionFail (s : State) (q : Req) (a reason : Nat) : State :=
  match q with
  | .ctl => s.ctlFail a reason
  | .stw i =>
    if (s.ctx (1404 + i.val)).st = .run then
      s.stwRaise i.val ⟨5, BitVec.ofNat 32 (0xF0000000 + a), (s.ctx (1404 + i.val)).pc, false, false⟩
    else s
  | .dbg => s.daccDone 2 a

/-- An access that the requester cannot make now: a DACC access that LEVEL 2 forbids is refused; any other changes nothing (log entry
1). -/
def State.denied (s : State) (q : Req) (a : Nat) : State :=
  match q with
  | .dbg => if s.isOn dDbg && decide (s.dbg.accStatus ≠ 1) then s.daccDone 2 a else s
  | _ => s

/-- The island that holds the register at `a` serves: neither its clock nor, for the PMC's registers, CK_PMC is paused, and it is not
restarting itself (17 R481, R487). -/
def State.serves (s : State) (a : Nat) : Bool :=
  match region a with
  | some d =>
    if d < 20 then !(s.pdom d).paused && !(s.pdom d).restarting
    else !(decide (0x100000 ≤ a) && decide (a < 0x200000) && (s.pdom dPmc).paused)
  | none => true

/-- A command of requester `q` to the register at `a`: `f` where it reaches it; a region that does not answer fails it. An island that
is paused or restarts itself holds the access: the row stands for its completion, and changes nothing before (log entry 117). -/
def State.onReach (s : State) (q : Req) (a : Nat) (be : BitVec 4) (f : State) : State :=
  if !s.reqOk q then s.denied q a
  else match s.ctlErr a be with
    | none => if s.serves a then f else s
    | some n => s.regionFail q a n

/-- A command that reads the register at `a`: a functional read runs `f`; a debug read has no side effect and returns
what `peek` gives (00 R6, R8, 18 R497). -/
def State.readCmd (s : State) (q : Req) (a : Nat) (f : State → Word × State) (peek : State → Word) : State :=
  s.onReach q a 0xF (match q with
    | .dbg => (s.daccDone 0 a).answer q (peek s)
    | _ => let (w, s1) := f s; s1.answer q w)

/-- A functional read of an LW register: `f` gives the value, which the register keeps (00 R6). -/
def State.readLw (s : State) (q : Req) (a : Nat) (f : State → Word × State) : State :=
  s.readCmd q a (fun s => let (w, s1) := f s; (w, s1.lwKeep a w)) (fun s => s.lwLast a)

/-- The registers that a control-port or debug write reaches (19 R513). -/
def hostMay (a : Nat) : Bool :=
  decide (a = pmA 0) || decide (a = pmA 4) || decide (a = inA 0) || decide (a = inA 8) || decide (a = icA 0x80) ||
  decide (a = icA 0x8C) || (decide (rkA 0 0 ≤ a) && decide (a < rkA 12 0) && decide (a % 0x100000 = 8)) ||
  (decide (0x31FC000 ≤ a) && decide (a < 0x3200000))

/-- The effect `f` of a write of requester `q` that reaches the register at `a`. -/
def State.mayWrite (s : State) (q : Req) (a : Nat) (f : State → State) : State :=
  match q with
  | .stw _ => f s
  | .ctl => if hostMay a then f s else s.count 0x100
  | .dbg => if s.dbg.level ≠ 0 then s else if hostMay a then f s else s.count 0x100

/-- A functional write of requester `q` to the register at `a`, whose effect is `f`. A control-port write to a register
outside R513 changes nothing and counts in CTL_WR_IGN; a debug write acts as one and needs LEVEL 0 (18 R497, R498). -/
def State.writeCmd (s : State) (q : Req) (a : Nat) (f : State → State) : State :=
  s.onReach q a 0xF ((s.mayWrite q a f).acked q a)

/-- The oldest entry of the log at `a` leaves it: its value with OVF in bit 30; the functional read that reports OVF
clears it (00 R528). -/
def State.logPop (s : State) (a : Nat) : Word × State :=
  let l := s.log a
  let o := BitVec.ofNat 32 (b2n l.ovf * 2 ^ 30)
  match l.ents with
  | [] => (o, { s with logs := tset s.logs a ⟨[], false⟩ })
  | e :: t => (e ||| o, { s with logs := tset s.logs a ⟨t, false⟩ })

/-- Enter `e` in a log that holds the last `cap` entries (04 LEDGER_UE_LOG). -/
def State.logLast (s : State) (a cap : Nat) (e : Nat) : State :=
  let xs := (s.log a).ents ++ [BitVec.ofNat 32 e]
  { s with logs := tset s.logs a ⟨xs.drop (xs.length - cap), false⟩ }

/-! ### The tick (14 R407) -/

/-- The low 32 bits of the nanosecond tick. -/
def State.tick32 (s : State) : Word := (if s.isOn dTime then s.time.tick else s.time.copyTick).setWidth 32

/-- The time in nanoseconds, as the copies of the islands hold it: the last value while PD_TIME is not ON (14 R408). -/
def State.copyNs (s : State) : Nat := if s.isOn dTime then s.time.sec.toNat * 1000000000 + s.time.ns else s.time.copyNs

/-- A fresh value that the manual leaves free among `n`. -/
def State.pick (s : State) (n : Nat) : Nat × State :=
  (Config.freePick s.freeCount % n, { s with freeCount := s.freeCount + 1 })

end Sys2Proof.Machine
end

