-- ==== Sys2Proof/Machine/RankOps.lean ====
section
/-! DEFINITION. The shared operations of a rank: links and credits, replay-buffer entries, marks and the mark store,
punts, the end of a packet, forfeits (03, 04 R120, R130). -/

namespace Sys2Proof.Machine

/-! ### Links (03 R73, R86, R98) -/

/-- The table key of a link: ingress 0, hop n 1 + n, bypass 12, egress 13. -/
def linkKey : Link → Nat
  | .ing => 0
  | .hop n => 1 + n.val
  | .ladder => 12
  | .eg => 13

/-- The items on a link, oldest first. -/
def State.link (s : State) (k : Nat) : List LinkItem := tget [] s.links k

/-- Put the items of a link. -/
def State.setLink (s : State) (k : Nat) (xs : List LinkItem) : State := { s with links := tset s.links k xs }

/-- Launch an item. -/
def State.launch (s : State) (k : Nat) (x : LinkItem) : State := s.setLink k (s.link k ++ [x])

/-- The link on which rank `r` sends lane `lane`. -/
def outLink (r : Nat) (lane : Lane) : Nat := if r = 11 then 13 else if r = 1 ∧ 240 ≤ lane.toNat then 12 else 1 + r

/-- The rank a link leads to; 12 for egress. -/
def linkTo (k : Nat) : Nat := if k = 12 then 11 else if k = 13 then 12 else k

/-- The rank a link comes from, if any. -/
def linkFrom (k : Nat) : Option Nat := if k = 0 then none else if k = 12 then some 1 else if k = 13 then some 11 else some (k - 1)

/-- Copies of packets on a link. -/
def pktsOn : List LinkItem → Nat
  | [] => 0
  | .pkt _ reps _ :: t => 1 + reps.length + pktsOn t
  | _ :: t => pktsOn t

/-- Packets (without their replicas) on a link. -/
def headsOn : List LinkItem → Nat
  | [] => 0
  | .pkt _ _ _ :: t => 1 + headsOn t
  | _ :: t => headsOn t

/-- Free replay-buffer entries of rank `r` (03 R72). -/
def State.freeReplay (s : State) (r : Nat) : Nat := 128 - (s.rank r).entries.length

/-- The upstream sender of rank `r` holds a credit: an entry beyond the one kept back and those under way (03 R73). -/
def State.credit (s : State) (r : Nat) : Bool :=
  let under := headsOn (s.link r) + (if r = 11 then headsOn (s.link 12) else 0)
  decide (under + 2 ≤ s.freeReplay r)

/-- Egress has room for a packet and its replicas: at most 512 frames (13 R393). Log entry 18. -/
def State.egCredit (s : State) (n : Nat) : Bool := decide (s.eg.frames.length + pktsOn (s.link 13) + n ≤ 512)

/-- The gate of rank `r` may launch this packet. -/
def State.mayLaunch (s : State) (r : Nat) (lane : Lane) (n : Nat) : Bool :=
  if r = 11 then s.egCredit n else s.credit (linkTo (outLink r lane))

/-! ### Ledger messages (04 R120, R121) -/

/-- A message enters rank `r`'s ledger link; a rank that leaves ON sends none (16 R450). -/
def State.lmsg (s : State) (r : Nat) (m : LMsg) : State :=
  let x := s.rank r
  if s.leaving r then s else s.setRank r { x with out := x.out ++ [m] }

/-- A mark of a verdict or of a flush is no message. -/
def LMsg.isMark : LMsg → Bool
  | .vmark _ _ => true
  | .fmark => true
  | _ => false

/-- Rank `r` has no room for a further ENTRY: the ledger, with the entries on the links to it, is full, or the rank's own
link is (04 R127; log entry 81). -/
def State.ledgerFull (s : State) (r : Nat) : Bool :=
  decide (16384 ≤ s.led.ent.length + s.entriesOut.length) ||
  (decide (Config.ledLink ≠ 0) && decide (Config.ledLink ≤ ((s.rank r).out.filter (fun m => !m.isMark)).length))

/-! ### Slots and entries -/

/-- Head slot `sl` of context `k` (03 R74). -/
def slotA (k sl : Nat) : Nat := 0x38000 + k * 0x400 + sl * 0x200

/-- The (core, context, slot) an entry has bound. -/
def REntry.bound (e : REntry) : Option (Nat × Nat × Nat) :=
  match e.phase with
  | .inCtx c k sl => some (c, k, sl)
  | .gate c k sl => some (c, k, sl)
  | _ => none

/-- Slot `sl` of context `k` of core `c` is bound to a packet (03 R75). -/
def RankSt.slotBound (x : RankSt) (c k sl : Nat) : Bool := x.entries.any (fun e => e.2.bound = some (c, k, sl))

/-- Slots of a core that are bound. -/
def RankSt.boundOn (x : RankSt) (c : Nat) : Bool :=
  x.entries.any (fun e => match e.2.bound with | some (c', _, _) => decide (c' = c) | none => false)

/-- Slots the head mover still fills on core `c` (11 R336). -/
def RankSt.staged (x : RankSt) (c : Nat) : Nat := (x.staging.filter (fun e => e.1 = c)).length

/-- The entry of lane and pip, if the rank holds that packet. -/
def RankSt.find (x : RankSt) (lane : Lane) (pip : Pip) : Option (Nat × REntry) :=
  x.entries.find? (fun e => decide (e.2.phase ≠ .mark) && decide (e.2.md.lane = lane) && decide (e.2.md.pip = pip))

/-- A free replay-buffer entry: which one, the manual leaves free (log entry 9). -/
def State.takeEntry (s : State) (r : Nat) : Option (Nat × State) :=
  let x := s.rank r
  let free := (List.range 128).filter (fun i => (tfind x.entries i).isNone)
  match free with
  | [] => none
  | f :: _ => let (j, s1) := s.pick free.length; some ((free[j]?).getD f, s1)

/-- A packet takes entry `i`: the entry's allocation generation advances (09 R289). -/
def State.putEntry (s : State) (r i : Nat) (e : REntry) : State :=
  let x := s.rank r
  s.setRank r { x with entries := tset x.entries i { e with seq := x.seqNo }, seqNo := x.seqNo + 1,
                       gens := tset x.gens i (tget 0 x.gens i + 1) }

/-- Change entry `i`. -/
def State.modEntry (s : State) (r i : Nat) (f : REntry → REntry) : State :=
  let x := s.rank r
  match tfind x.entries i with
  | none => s
  | some e => s.setRank r { x with entries := tset x.entries i (f e) }

/-! ### Faulty rows (11 R344), the background test (R341), and the stores that leave a buffer (07 R220) -/

/-- A faulty row found by a test: logged, and entered in the repair map or its seat marked. -/
def State.faultyRow (s : State) (r t bank row : Nat) : State :=
  let (full, s0) := s.repairSp r t bank row
  let s1 := if full && !s0.spFull.contains (r, t) then { s0 with spFull := s0.spFull ++ [(r, t)] } else s0
  s1.logAdd (rkA r 0x3010) 8 (2 ^ 31 + at_ (b2n full) 29 + at_ t 24 + at_ bank 16 + row)

/-- The faulty words (bank, word) of core `ck` that `p` accepts; a row with a spare in its place has none (11 R345). -/
def State.faults (s : State) (ck : Nat) (p : Nat → Nat → Bool) : List (Nat × Nat) :=
  (s.spFaulty.filter (fun e => decide (e.1 = ck) && !(s.rank (ck / 13)).spares.contains e && p e.2.1 e.2.2)).map (fun e => e.2)

/-- The rows of the faulty words of core `ck` that `p` accepts, logged in order. -/
def State.findRows (s : State) (r t ck : Nat) (p : Nat → Nat → Bool) : State :=
  forEach ((s.faults ck p).map (fun e => (e.1, e.2 / 8))).eraseDups s (fun e s => s.faultyRow r t e.1 e.2)

/-- A core access to the region under test aborts the test and restores the region. The other agents' accesses go to the save
buffer, which holds what the scratchpad holds in this model. The faulty words whose test was complete are logged; which of the
region's eight words those are, the manual leaves to the time of the abort, and the model leaves it free (log entry 110). -/
def State.bgtAbort (s : State) (ck x n : Nat) : State :=
  let co := s.core ck
  match co.bgt with
  | none => s
  | some (rg, _) =>
    if n ≠ 0 ∧ x / 64 ≤ rg ∧ rg ≤ (x + n - 1) / 64 then
      let (tested, s1) := s.pick 256
      ((s1.setCore ck { co with bgt := none }).count (rkA (ck / 13) 0x188)).findRows (ck / 13) (s.seatNo (ck / 13) (ck % 13)) ck
        (fun b w => decide (w = rg) && decide (tested / 2 ^ b % 2 = 1))
    else s

/-- A buffered store reaches the scratchpad: an access of the core to the region under test (11 R341). -/
def State.spRelease (s : State) (ck : Nat) (e : SbEnt) : State := (s.bgtAbort ck e.addr e.bs.length).spStore ck e.addr e.bs

/-- The stores that a core's store buffer still holds reach the scratchpad, in the order in which they retired (05 R156, 07
R220). -/
def State.drainCore (s : State) (ck : Nat) : State :=
  let co := s.core ck
  if co.sbuf.isEmpty then s
  else
    let s1 := forEach co.sbuf s (fun e s => s.spRelease ck e)
    s1.setCore ck { s1.core ck with sbuf := [] }

/-- The `n` oldest stores of a core's buffer reach the scratchpad (07 R220). -/
def State.releaseN (s : State) (ck n : Nat) : State :=
  let co := s.core ck
  if n = 0 || co.sbuf.isEmpty then s
  else
    let s1 := forEach (co.sbuf.take n) s (fun e s => s.spRelease ck e)
    s1.setCore ck { s1.core ck with sbuf := co.sbuf.drop n }

/-! ### ECC of the scratchpads (11 R331, R343) -/

/-- Log an uncorrectable scratchpad word found by an agent (11 R343). -/
def State.spUe (s : State) (ck x agent : Nat) : State :=
  let r := ck / 13
  (s.logAdd (rkA r 0x300C) 8 (2 ^ 31 + at_ agent 28 + at_ (s.seatNo r (ck % 13)) 24 + x / 8 * 8)).count (rkA r 0x178)

/-- A read of the scratchpad word at `x` by an agent: a single-bit error is corrected, counted and queued for
write-back; `true` where the word is uncorrectable. -/
def State.spTouch (s : State) (ck x agent : Nat) : Bool × State :=
  match tfind s.spErr (spWord ck x) with
  | none => (false, s)
  | some true => (true, s.spUe ck x agent)
  | some false =>
    let co := s.core ck
    let bank := x / 8 % 8
    let co1 := match tfind co.wb bank with | some _ => co | none => { co with wb := tset co.wb bank (x / 8) }
    (false, (s.setCore ck co1).count (rkA (ck / 13) 0x170))

/-- A read of several bytes touches each of their words once. -/
def State.spTouchN (s : State) (ck agent : Nat) : List Nat → Bool × State
  | [] => (false, s)
  | w :: ws =>
    let (b, s1) := s.spTouch ck (w * 8) agent
    let (b2, s2) := s1.spTouchN ck agent ws
    (b || b2, s2)

/-- The head and the metadata block as the slot and the block's own copy give them (03 R82, 05 R155). -/
def State.slotPkt (s : State) (r c k sl : Nat) (md : Meta) : Pkt :=
  let ck := r * 13 + c
  { head := s.spR ck (slotA k sl) 256, md := md.withProg (s.spR ck (slotA k sl + 0x100) 64) }

/-! ### Marks (03 R91–R94) -/

/-- NEXT of a lane. -/
def RankSt.nextOf (x : RankSt) (lane : Lane) : Pip := tget 0 x.next lane.toNat

/-- A waiting packet of the gate: its pip comes after NEXT. -/
def RankSt.waiting (x : RankSt) (e : REntry) : Bool :=
  match e.phase with
  | .gate _ _ _ => !e.md.reinj && pipBefore (x.nextOf e.md.lane) e.md.pip
  | _ => false

/-- Marks and waiting packets in the mark store; a mark whose pip equals NEXT needs no place in it (03 R94). -/
def RankSt.storeFill (x : RankSt) : Nat :=
  (x.marks.filter (fun m => m.held.isNone && decide (m.pip ≠ x.nextOf m.lane))).length +
  (x.entries.filter (fun e => x.waiting e.2 && !e.2.spilled)).length

/-- The items held outside the store move in, in the order they were held, while there is room (03 R94). -/
def RankSt.settle (x : RankSt) : Nat → RankSt
  | 0 => x
  | n + 1 =>
    if 256 ≤ x.storeFill then x
    else
      let ms := x.marks.filter (fun m => m.held.isSome)
      let ws := (x.entries.filter (fun e => e.2.spilled && x.waiting e.2)).map (fun e => (e.2.seq, e.1))
      let m1 := ms.foldl (fun (b : Option Mark) m => match b with | none => some m | some y => if m.seq < y.seq then some m else b) none
      let w1 := ws.foldl (fun (b : Option (Nat × Nat)) w => match b with | none => some w | some y => if w.1 < y.1 then some w else b) none
      let markFirst := match m1, w1 with
        | some m, some w => decide (m.seq < w.1)
        | some _, none => true
        | none, _ => false
      if markFirst then
        match m1 with
        | none => x
        | some m =>
          settle { x with marks := x.marks.map (fun y => if y.seq = m.seq then { y with held := none } else y),
                          entries := match m.held with | some i => tdel x.entries i | none => x.entries } n
      else
        match w1 with
        | none => x
        | some (_, i) =>
          match tfind x.entries i with
          | none => x
          | some e => settle { x with entries := tset x.entries i { e with spilled := false } } n

/-- The gate passes pip NEXT of a lane: NEXT advances (03 R87). -/
def RankSt.advance (x : RankSt) (lane : Lane) : RankSt :=
  { x with next := tset x.next lane.toNat (x.nextOf lane + 1) }

/-- A RELEASE message of a packet or mark (04 R120). -/
def State.sendRelease (s : State) (r : Nat) (lane : Lane) (pip : Pip) (attempt : BitVec 4) (v : BitVec 2) : State :=
  s.lmsg r (.release lane pip attempt v)

/-- A skip mark that needs no order is passed at once: the packet's pip has already been passed in this rank (log entry
19). -/
def State.markPassed (s : State) (r : Nat) (m : Mark) : State :=
  let s1 := s.count (rkA r 0x110)
  if m.own then s1.sendRelease r m.lane m.pip m.attempt m.v else s1

/-- Record a skip mark. `ent` is the replay-buffer entry of the packet that leaves it, if there is one: it is freed,
unless the store, without a place that this packet had in it, is full and makes it keep the mark (03 R94). An entry that a skip token takes
holds no packet, and its allocation generation (09 R289) does not advance (the model's choice, log entry 125). -/
def State.addMark (s : State) (r : Nat) (m : Mark) (reinj : Bool) (ent : Option Nat) : State :=
  let x := s.rank r
  let freed := match ent with | some i => tdel x.entries i | none => x.entries
  let nxt := x.nextOf m.lane
  if reinj || pipBefore m.pip nxt then ((s.setRank r { x with entries := freed }).markPassed r m)
  else if m.pip ≠ nxt ∧ 256 ≤ ({ x with entries := freed } : RankSt).storeFill then
    match ent with
    | some i =>
      (s.setRank r { x with entries := tmod ⟨⟨[], .zero⟩, .zero, .mark, 3, 0, true, [], 0⟩ x.entries i (fun e => { e with phase := .mark }),
                            marks := x.marks ++ [{ m with held := some i, seq := x.seqNo }], seqNo := x.seqNo + 1 }).count (rkA r 0x1B0)
    | none =>
      match s.takeEntry r with
      | none => s
      | some (i, s1) =>
        let x1 := s1.rank r
        let e : REntry := ⟨⟨[], .zero⟩, .zero, .mark, 3, 0, true, [], 0⟩
        (s1.setRank r { x1 with entries := tset x1.entries i e,
                                marks := x1.marks ++ [{ m with held := some i, seq := x1.seqNo }],
                                seqNo := x1.seqNo + 1 }).count (rkA r 0x1B0)
  else
    s.setRank r { x with entries := freed, marks := x.marks ++ [{ m with held := none, seq := x.seqNo }],
                         seqNo := x.seqNo + 1 }

/-- The mark a packet of this rank leaves. -/
def markOf (md : Meta) : Mark :=
  { lane := md.lane, pip := md.pip, seq := 0, held := none, own := true, attempt := md.attempt, v := md.verdict }

/-! ### Contexts of ended packets -/

/-- The context's banks after its packet has ended (06 R189, 08 R260): everything but its slot history, its helper
epoch and what is still under way for it. -/
def Ctx.ended (key : Nat) (c : Ctx) : Ctx :=
  { Ctx.init key with lastSlot := c.lastSlot, lastEp := c.lastEp,
                      hs := (c.hs.filter (fun h => !h.fin)).map (fun h => { h with killed := true, res := [] }) }

/-- Kill the incomplete commands of a context that `only` names, by epoch (09 R269): the KILL of a guest command goes to the
bay, which withdraws the command or presents the notice (R286), and every kill counts in RANK_HKILL. A COMMIT that a retired
command is owed stays owed (R268). The command stays until its kill is reported (R267). -/
def State.killHelpers (s : State) (key : Nat) (only : HCmd → Bool) : State :=
  let c := s.ctx key
  let r := rankOf key
  let live := c.hs.filter (fun h => !h.fin && !h.killed && only h)
  let x := s.rank r
  let ck := coreOf key
  let co := s.core ck
  let isK := fun (sl : Nat) (q : HRef) => decide (q.ctx = key) && live.any (fun h => h.slot = sl && h.ep = q.ep)
  let kills := (live.filter (fun h => h.slot = 3)).map (fun h => (⟨key, h.ep⟩ : HRef))
  let hs := c.hs.map (fun h => if !h.fin && !h.killed && only h then { h with killed := true, res := [] } else h)
  let s1 := s.setCtx key { c with hs := hs }
  let s2 := s1.setRank r { x with sealQ := x.sealQ.filter (fun q => !isK 2 q), gkill := x.gkill ++ kills }
  let s3 := s2.setCore ck { co with h0 := co.h0.filter (fun q => !isK 0 q), h1 := co.h1.filter (fun q => !isK 1 q) }
  s3.count (rkA r 0x150) live.length

/-- The KILL of this guest command has not yet been presented (09 R265, R286). -/
def State.killWaits (s : State) (key : Nat) (h : HCmd) : Bool :=
  h.killed && decide (h.slot = 3) && (s.rank (rankOf key)).gkill.any (fun q => q.ctx = key && q.ep = h.ep)

/-- The helper commands that still await HPUT words (09 R269). -/
def HCmd.awaits (h : HCmd) : Bool := !h.killed && decide (h.puts.length < h.need)

/-- Release every entry lock a context holds (10 R310). -/
def State.dropLocks (s : State) (key : Nat) : State :=
  { s with tb := { s.tb with locks := s.tb.locks.filter (fun l => l.owner ≠ key) } }

/-- The table operations of a context whose result it no longer waits for: a finished one is discarded, a request that
has left the core stays outstanding (08 R243). -/
def State.orphanOps (s : State) (key : Nat) : State :=
  { s with tb := { s.tb with ops := (s.tb.ops.filter (fun o => !(o.src = key && o.fin))).map (fun o =>
      if o.src = key then { o with orphan := true } else o) } }

/-- The source number of an operation whose packet has left its context. -/
abbrev nobody : Nat := 99999

/-- The packet leaves its context: nobody takes the results of its table operations, and no lock is taken for it. -/
def State.disownOps (s : State) (key : Nat) : State :=
  let s1 := s.orphanOps key
  { s1 with tb := { s1.tb with ops := s1.tb.ops.map (fun o => if o.src = key then { o with src := nobody } else o) } }

/-- Table operations of a context that still wait for their tile. -/
def State.opsOut (s : State) (key : Nat) : List TOp := s.tb.ops.filter (fun o => o.src = key && !o.fin)

/-- The slot reservations of a context end; `own` says that its slots lose their owner too (08 R256, R260). -/
def State.dropSlots (s : State) (key : Nat) (own : Bool) : State :=
  let ck := coreOf key
  let k := ctxNoOf key
  let co := s.core ck
  let nk := fun (o : Option Nat) => if o = some k then none else o
  s.setCore ck { co with res2 := nk co.res2, res3 := nk co.res3,
                         own2 := if own then nk co.own2 else co.own2, own3 := if own then nk co.own3 else co.own3,
                         beq := co.beq.filter (fun b => b.ctx ≠ k), stopq := co.stopq.filter (fun j => j ≠ k) }

/-! ### Punt (03 R100) -/

/-- Copy the packet into a free entry of rank `r`'s exception queue, or drop it where there is none. -/
def State.toQueue (s : State) (r : Nat) (p : Pkt) (code : Nat) : State :=
  let x := s.rank r
  let free := (List.range 64).filter (fun i => (tfind x.exc i).isNone)
  match free with
  | [] => freeChain (0x10 + r) p.md (s.count (rkA r 0x120))
  | f :: _ =>
    let (j, s1) := s.pick free.length
    let i := (free[j]?).getD f
    let md := { p.md with puntCode := BitVec.ofNat 8 code }
    let s2 := s1.srW (exA r i) (fit 256 p.head ++ md.bytes)
    (s2.setRank r { x with exc := tset x.exc i ⟨md, false, x.excSeq⟩, excSeq := x.excSeq + 1 }).count (rkA r 0x118)

/-- Context `key` and its slot leave the packet of entry `i` at once, with the locks and reservations the context
holds. A lock that an abandoned CAS takes while DONE or DROPPKT already waits in ENDING is released here, without an entry in a log
or a counter (the model's choice, log entry 119). -/
def State.freeCtx (s : State) (key : Nat) : State :=
  let s1 := ((s.killHelpers key (fun _ => true)).dropLocks key).disownOps key
  let s2 := s1.dropSlots key false
  s2.setCtx key (Ctx.ended key (s2.ctx key))

/-- The packet of entry `i`, as its slot holds it. -/
def State.entryPkt (s : State) (r : Nat) (e : REntry) : Pkt :=
  match e.bound with
  | some (c, k, sl) => (s.drainCore (r * 13 + c)).slotPkt r c k sl e.md
  | none => { e.pkt with md := e.md }

/-- The head and the metadata block leave the slot of entry `e`: its 40 words are read. A word with an error is dealt with
as any agent's (11 R331, R343): the data go on as read; the log has no AGENT code for this reader (log entry 91). -/
def State.slotRead (s : State) (r : Nat) (e : REntry) : State :=
  match e.bound with
  | some (c, k, sl) =>
    let ck := r * 13 + c
    let s1 := s.drainCore ck
    let ws := wordsOf (slotA k sl) 320
    if ws.any (fun w => (tfind s1.spErr (spWord ck (8 * w))).isSome) then
      let (a, s2) := s1.pick 4
      (s2.spTouchN ck a ws).2
    else s1
  | none => s

/-- Punt the packet of entry `i` of rank `r` with a code: queue entry, skip mark. -/
def State.puntEntry (s : State) (r i code : Nat) : State :=
  match tfind (s.rank r).entries i with
  | none => s
  | some e => (((s.slotRead r e).toQueue r (s.entryPkt r e) code).addMark r (markOf e.md) e.md.reinj (some i))

/-- Punt the packet a context holds, releasing its locks, and free the context (06 R190, 08 R258). -/
def State.puntCtx (s : State) (key code : Nat) : State :=
  let c := s.ctx key
  match c.entry with
  | none => s.freeCtx key
  | some i => (s.puntEntry (rankOf key) i code).freeCtx key

/-! ### Forfeit in a rank (04 R130, R131) -/

/-- The packet of entry `i` is forfeited: its context is ended, its buffers freed, FORFEIT sent, a mark recorded. -/
def State.forfeitEntry (s : State) (r i : Nat) : State :=
  match tfind (s.rank r).entries i with
  | none => s
  | some e =>
    let md := { e.md with verdict := 2 }
    let s1 := match e.phase with
      | .inCtx c k _ => (s.drainCore (r * 13 + c)).freeCtx (pk r c k)
      | _ => s
    let s2 := freeChain (0x10 + r) md s1
    let s3 := s2.lmsg r (.forfeit md.lane md.pip)
    (s3.addMark r (markOf md) md.reinj (some i)).count (ldA 0x150)

/-- A context in the fault context: its punt completes, and the packet falls under the exception-queue row. -/
def State.inService (s : State) (r : Nat) (e : REntry) : Bool :=
  match e.phase with
  | .inCtx c k _ => decide ((s.core (r * 13 + c)).svc = some k)
  | _ => false

end Sys2Proof.Machine
end

