-- ==== Sys2Proof/Machine/Groups.lean ====
section
/-! DEFINITION. Code bytes as fetches see them, and fold groups: classes, limits and boundaries (05 R150, R151; 07 R212–R215;
18 R503). -/

namespace Sys2Proof.Machine

/-! ### Code-space bytes with overlays (05 R150, 18 R503) -/

/-- The highest code address plus one. -/
def codeTop (key : Nat) : Nat := if isStw key then 0x40000 else 0x10000

/-- A debug register of the debug address space, by its DACC address (18 R498). -/
def State.dreg (s : State) (a : Nat) : Word := tget 0 s.dbg.regs a

/-- Debug-space base of a core's overlays. -/
def ovlBase (key : Nat) : Nat :=
  if isStw key then 0x20000000 + (key - 1404) * 0x1000000 + 0xE0000 else 0x10000000 + rankOf key * 0x1000000 + 0xF00000

/-- The code-space byte at `a` without overlays. -/
def State.codeByte (s : State) (key a : Nat) : Byte :=
  if isStw key then mget 0xFF s.stwCode (scA (key - 1404) a) else mget 0xFF s.code (cdA (coreOf key) a)

/-- The code-space byte at `a` as fetches and LDC see it: the lowest-numbered enabled overlay of its word wins. -/
def State.codeSeen (s : State) (key a : Nat) : Byte :=
  let b := ovlBase key
  match (List.range 16).find? (fun k =>
      let w := s.dreg (b + 16 * k)
      bit w 31 && decide (bits w 17 2 = a / 4) && bit w (20 + a % 4)) with
  | some k => BitVec.ofNat 8 ((s.dreg (b + 16 * k + 4)).toNat / 256 ^ (a % 4))
  | none => s.codeByte key a

/-- `n` code-space bytes as fetches and LDC see them. -/
def State.codeSeenN (s : State) (key a : Nat) : Nat → List Byte
  | 0 => []
  | n + 1 => s.codeSeen key a :: s.codeSeenN key (a + 1) n

/-- Vector-table entry `v` (05 R151). Where VBASE is no multiple of 64 and the entry lies past the last code address, the read goes
on into the bytes that the model keeps next, those of the next core or steward (log entry 94). -/
def State.vectorOf (s : State) (key v : Nat) : Word :=
  let a := (s.core (coreOf key)).vbase.toNat + 2 * v
  BitVec.ofNat 32 ((s.codeByte key a).toNat + 256 * (s.codeByte key (a + 1)).toNat)

/-! ### Fold classes (R213) -/

/-- The classes of R213; `bad` for an opcode that raises vector 1. -/
inductive Fold where
  | s | a | x | l | t | e | z | bad
deriving DecidableEq, Repr

/-- The class of an opcode, whose next byte is `nxt`. A legal opcode that raises vector 1 by its operand byte (05 R169) or its place
(EMIT and SETLANE in ranks 0 to 10) keeps the class of its opcode (the model's choice, log entry 90). -/
def foldOf (op nxt : Nat) : Fold :=
  if illegalOp op nxt then .bad
  else if op ≤ 0x22 || (0x50 ≤ op && op ≤ 0x5B) || op = 0x7E || op = 0x7F || op = 0x8A || op = 0xB4 || op = 0xB7 || op = 0xB8 then .s
  else if (0x3B ≤ op && op ≤ 0x3D) then .x
  else if (0x23 ≤ op && op ≤ 0x4F) then .a
  else if (0x60 ≤ op && op ≤ 0x64) || op = 0x68 || op = 0x69 || op = 0x6C || op = 0x6E || op = 0x70 || op = 0x72 ||
    (0x74 ≤ op && op ≤ 0x76) || op = 0x7A then .l
  else if (0x60 ≤ op && op ≤ 0x7B) then .t
  else if op = 0x85 || op = 0x89 || op = 0x94 || op = 0xF0 then .z
  else if 0xC0 ≤ op && op ≤ 0xDF && (op % 8 = 4 || op % 8 = 5) then .z
  else .e

/-! ### What an instruction does to the cells, the registers A and B, and the predicates -/

/-- A cell by its producer within the group: outside the group or class S; class A; class A on a class A value; class X;
class L (R214). -/
inductive Cell where
  | o | a1 | a2 | x | l
deriving DecidableEq, Repr

/-- Cells taken, and the cells left, top first: a copy of a cell taken, or a new one. -/
def stkEff (op b : Nat) : Nat × List (Option Nat) :=
  match op with
  | 0x00 => (0, [])
  | 0x01 => (1, [some 0, some 0])
  | 0x02 => (1, [])
  | 0x03 => (2, [some 1, some 0])
  | 0x04 => (2, [some 1, some 0, some 1])
  | 0x05 => (3, [some 2, some 0, some 1])
  | 0x06 => (2, [some 0])
  | 0x07 => (2, [some 0, some 1, some 0])
  | 0x08 => (2, [some 0, some 1, some 0, some 1])
  | 0x09 => (2, [])
  | 0x0A => (4, [some 2, some 3, some 0, some 1])
  | 0x0B => (4, [some 2, some 3, some 0, some 1, some 2, some 3])
  | 0x0C => (3, [some 1, some 2, some 0])
  | 0x0D => (b % 32 + 1, some (b % 32) :: (List.range (b % 32 + 1)).map some)
  | 0x0F => (b % 32 + 2, (List.range (b % 32)).map (fun i => some (i + 1)) ++ [some 0])
  | _ =>
    if op = 0x0E || (0x10 ≤ op && op ≤ 0x22) || op = 0x58 || op = 0x5A || op = 0x8A || op = 0xB4 || op = 0xB7 || op = 0xB8 then (0, [none])
    else if op = 0x59 || op = 0x5B || op = 0x7E || op = 0x7F then (1, [])
    else if op = 0x25 || op = 0x26 || op = 0x27 || op = 0x2B || (0x32 ≤ op && op ≤ 0x35) || (0x37 ≤ op && op ≤ 0x3A) then (1, [none])
    else if 0x23 ≤ op && op ≤ 0x3F then (2, [none])
    else if op = 0x4A || op = 0x4B then (1, [])
    else if 0x40 ≤ op && op ≤ 0x4F then (2, [])
    else if (0x60 ≤ op && op ≤ 0x64) || op = 0x7A then (1, [none])
    else if (0x65 ≤ op && op ≤ 0x67) || op = 0x7B then (2, [])
    else if op = 0x68 || op = 0x69 || op = 0x6C || op = 0x6E || op = 0x70 || op = 0x72 || (0x74 ≤ op && op ≤ 0x76) then (0, [none])
    else if 0x6A ≤ op && op ≤ 0x79 then (1, [])
    else if op = 0xA3 then (3, [])
    else if op = 0xA5 || (0xC0 ≤ op && op ≤ 0xDF && op % 8 = 0) then (2, [])
    else if op = 0x87 || op = 0x95 || op = 0xA6 || op = 0xB5 || (0xC0 ≤ op && op ≤ 0xDF && op % 8 = 1) then (1, [])
    else if 0xC0 ≤ op && op ≤ 0xDF && op % 8 = 6 then (0, [none])
    else (0, [])

/-- The instruction takes its address from the top cell. -/
def addrTop (op : Nat) : Bool := (0x60 ≤ op && op ≤ 0x67) || op = 0x7A || op = 0x7B

/-- It uses address register A (false) or B (true), and it writes one. -/
def abUse (op : Nat) : Option Bool :=
  if 0x68 ≤ op && op ≤ 0x6D then some false else if 0x6E ≤ op && op ≤ 0x73 then some true else none
def abWrite (op : Nat) : Option Bool :=
  if op = 0x69 || op = 0x6B || op = 0x6C || op = 0x6D || op = 0x7E then some false
  else if op = 0x6E || op = 0x6F || op = 0x72 || op = 0x73 || op = 0x7F then some true else none

/-- The predicates that a predicate operation reads, and those that an instruction writes, by number. One that names p0 as its
destination counts as writing p0, although the write is ignored (05 R146; the model's choice, log entry 90). -/
def prRead (op b : Nat) : List Nat :=
  if 0x50 ≤ op && op ≤ 0x53 then [b % 8, b / 16 % 8]
  else if op = 0x54 || op = 0x55 then [b / 16 % 8]
  else if op = 0x58 then [b % 8]
  else if op = 0x5A then List.range 8
  else []
def prWrite (op b : Nat) : List Nat :=
  if (0x40 ≤ op && op ≤ 0x57) || op = 0x59 then [b % 8] else if op = 0x5B then List.range 8 else []

/-! ### Forming a group (R212–R215) -/

/-- A group being formed. -/
structure GSt where
  n : Nat
  len : Nat
  na : Nat
  nx : Nat
  nl : Nat
  nt : Nat
  ended : Bool
  stk : List Cell
  wA : Bool
  wB : Bool
  pr : List Nat
deriving DecidableEq, Repr

/-- No instruction yet. -/
def GSt.init : GSt :=
  { n := 0, len := 0, na := 0, nx := 0, nl := 0, nt := 0, ended := false, stk := [], wA := false, wB := false, pr := [] }

/-- One instruction of code bytes: its guard's predicate, its opcode, its first operand byte, its class and its bytes. -/
structure GIns where
  guard : Option Nat
  op : Nat
  b : Nat
  cls : Fold
  len : Nat
deriving DecidableEq, Repr

/-- The instruction that bytes begin with. A guard prefix that is illegal raises vector 1 (05 R158). -/
def GIns.ofBytes (bs : List Byte) : GIns :=
  let b := fun i => (bs.getD i 0).toNat
  if (guardOf (b 0)).isSome && !illegalOp (b 0) (b 1) then
    { guard := some (b 0 % 8), op := b 1, b := b 2, cls := foldOf (b 1) (b 2), len := 1 + opLen (b 1) }
  else { guard := none, op := b 0, b := b 1, cls := foldOf (b 0) (b 1), len := opLen (b 0) }

/-- The group's cells that the instruction takes, top first. -/
def GSt.taken (g : GSt) (i : GIns) : List Cell := (List.range (stkEff i.op i.b).1).map (fun k => g.stk.getD k .o)

/-- The instruction may join the group, which holds one already (R213, R214). -/
def GSt.joins (g : GSt) (i : GIns) : Bool :=
  let tk := g.taken i
  let addr := tk.headD .o
  let a := decide (i.cls = .a)
  let x := decide (i.cls = .x)
  let mem := decide (i.cls = .l) || decide (i.cls = .t)
  decide (g.n < 4) && decide (g.len + i.len ≤ 16) && !g.ended && decide (i.cls ≠ .z) && decide (i.cls ≠ .bad) &&
  !((a || x) && decide (2 ≤ g.na + g.nx)) && !(x && decide (1 ≤ g.nx)) && !(decide (i.cls = .l) && decide (1 ≤ g.nl)) &&
  !(decide (i.cls = .t) && decide (1 ≤ g.nt)) &&
  !((a || x) && (tk.contains .l || tk.contains .x)) && !(a && tk.contains .a2) &&
  !(mem && addrTop i.op && (decide (addr = .a1) || decide (addr = .a2) || decide (addr = .x))) &&
  !(mem && ((g.wA && decide (abUse i.op = some false)) || (g.wB && decide (abUse i.op = some true)))) &&
  !((i.guard.toList ++ prRead i.op i.b).any g.pr.contains)

/-- The group with the instruction; a guarded one counts as executed (log entry 90). -/
def GSt.add (g : GSt) (i : GIns) : GSt :=
  let tk := g.taken i
  let (k, out) := stkEff i.op i.b
  let made : Cell := match i.cls with
    | .a => if tk.contains .a1 || tk.contains .a2 then .a2 else .a1
    | .x => .x
    | .l => .l
    | _ => .o
  { n := g.n + 1, len := g.len + i.len, na := g.na + b2n (i.cls = .a), nx := g.nx + b2n (i.cls = .x), nl := g.nl + b2n (i.cls = .l),
    nt := g.nt + b2n (i.cls = .t), ended := decide (i.cls = .e) || decide (i.cls = .z) || decide (i.cls = .bad),
    stk := out.map (fun c => match c with | some j => tk.getD j .o | none => made) ++ g.stk.drop k,
    wA := g.wA || decide (abWrite i.op = some false), wB := g.wB || decide (abWrite i.op = some true),
    pr := g.pr ++ prWrite i.op i.b }

/-- The longest group that the bytes begin with, from the group `g` of the bytes before: its instructions. -/
def formGroup : Nat → GSt → List Byte → List GIns
  | 0, _, _ => []
  | fuel + 1, g, bs =>
    let i := GIns.ofBytes bs
    if g.n = 0 || g.joins i then i :: formGroup fuel (g.add i) (bs.drop i.len) else []

/-- The group that begins at code address `a` (R215). -/
def State.groupAt (s : State) (key a : Nat) : List GIns := formGroup 4 .init (s.codeSeenN key a 24)

end Sys2Proof.Machine
end

