-- ==== Sys2Proof/Machine/Micro.lean ====
section
/-! DEFINITION. The control store and its sequencer: words, patch map, next-address formation and machine checks (11 R346–R353). -/

namespace Sys2Proof.Machine

/-! ### Words and the patch map (R346, R350) -/

/-- The word of a control store: 0–767 ROM, 768–1023 patch RAM. -/
def State.csWord (s : State) (ck w : Nat) : BitVec 96 :=
  if w < 768 then Config.romWord w else tget 0 (s.core ck).patch (w - 768)

/-- Bits `hi` to `lo` of a micro-word. -/
def ubits (w : BitVec 96) (hi lo : Nat) : Nat := w.toNat / 2 ^ lo % 2 ^ (hi + 1 - lo)

/-- Word `w` of core `ck`'s control store, or map entry `w - 1024`, has bad parity. -/
def State.csMarked (s : State) (ck w : Nat) : Bool := s.csErr.contains (ck * 2048 + w)

/-- A map entry of core `ck` has bad parity. -/
def State.mapMarked (s : State) (ck : Nat) : Bool := (List.range 32).any (fun i => s.csMarked ck (1024 + i))

/-- The word that is fetched for a formed address: the patch RAM word of the valid map entry that names it, if there is one. -/
def State.microWord (s : State) (ck a : Nat) : Nat :=
  match (s.core ck).pmap.find? (fun e => bit e.2 31 && decide (bits e.2 25 16 = a)) with
  | some e => 768 + bits e.2 7 0
  | none => a

/-! ### The sequencer (R347) -/

/-- What one address leads to: the next address and the micro-stack, the end of the sequence, or a machine check with its
cause; and the word fetched. -/
inductive MNext where
  | go (a : Nat) (st : List Nat)
  | done
  | check (cause : Nat)
deriving DecidableEq, Repr

/-- Sequential formation from word `f`. -/
def microSeq (f : Nat) (st : List Nat) : MNext := if 1023 ≤ f then .check 6 else .go (f + 1) st

/-- The next address from word `f`, for an operation whose dispatch entry is `entry`; `cond` is the value of its condition. -/
def microNext (entry : Nat) (cond : BitVec 5 → Bool) (f : Nat) (w : BitVec 96) (st : List Nat) : MNext :=
  let naddr := ubits w 87 78
  match ubits w 95 93 with
  | 0 => microSeq f st
  | 1 => if cond (BitVec.ofNat 5 (ubits w 92 88)) then .go naddr st else microSeq f st
  | 2 => .go entry st
  | 3 => if 4 ≤ st.length then .check 4 else if 1023 ≤ f then .check 6 else .go naddr ((f + 1) :: st)
  | 4 => (match st with | [] => .check 5 | a :: rest => .go a rest)
  | 5 => .done
  | _ => .check 6

/-- One address: parity of the map and of the word fetched, then the next address (R347, R353). -/
def State.microStep (s : State) (ck entry k : Nat) (a : Nat) (st : List Nat) : Nat × MNext :=
  if s.mapMarked ck then (a, .check 3)
  else
    let f := s.microWord ck a
    if s.csMarked ck f then (f, .check (if f < 768 then 1 else 2))
    else (f, microNext entry (fun c => Config.microCond (s.freeCount + k) c) f (s.csWord ck f) st)

/-- Where a run of micro-instructions stops: the sequence has ended, a machine check with its cause, or the sequence goes on. -/
inductive MEnd where
  | done
  | check (cause : Nat)
  | more
deriving DecidableEq, Repr

/-- The sequence from address `a`: the micro-address and the micro-stack where the run stops, and why. -/
def State.microRun (s : State) (ck entry : Nat) : Nat → Nat → List Nat → Nat × List Nat × MEnd
  | 0, a, st => (a, st, .more)
  | fuel + 1, a, st =>
    match s.microStep ck entry fuel a st with
    | (_, .go a1 st1) => s.microRun ck entry fuel a1 st1
    | (f, .done) => (f, st, .done)
    | (f, .check n) => (f, st, .check n)

/-- Micro-instructions that one command runs; a longer sequence goes on with the next command of its operation (log entry 100). -/
abbrev microFuel : Nat := 4096

/-- The core's control store is as Thabry released it: no entry of its map is valid and no word or entry has bad parity. -/
def State.microClean (s : State) (ck : Nat) : Bool :=
  !(s.core ck).pmap.any (fun e => bit e.2 31) && !s.csErr.any (fun w => decide (w / 2048 = ck))

/-- The sequencer of the core of context `key` runs the operation of a dispatch entry, from where the context has got to in it:
`true` where the sequence ends, `false` where it finds a machine check or goes on. The ROM alone ends every sequence (R349); else
its words are followed. -/
def State.microOp (s : State) (key entry : Nat) : Bool × State :=
  let ck := coreOf key
  if s.microClean ck then (true, s)
  else
    let co := s.core ck
    let c := s.ctx key
    let (a, st) := match c.useq with
      | some (e, a, st) => if e = entry then (a, st) else (entry, co.ustk)
      | none => (entry, co.ustk)
    let (f, st1, fin) := s.microRun ck entry microFuel a st
    let s1 := { s with freeCount := s.freeCount + microFuel }.setCtx key
      { c with useq := if fin = MEnd.more then some (entry, f, st1) else none }
    let chk := match fin with | .check n => some (n, f) | _ => none
    (decide (fin = MEnd.done), s1.setCore ck { co with uaddr := f, ustk := st1, mcheck := chk })

/-! ### The dispatch ROM (R348) -/

/-- The operations that the control store sequences. -/
inductive MOp where
  | ctxStart | excEntry | rte | lazySave | hSaveRest | fltSteps | csum16 | movb | fillb | cmpb | skipto
deriving DecidableEq, Repr

/-- The dispatch entry of an operation. -/
def MOp.entry : MOp → Nat
  | .ctxStart => 0x000
  | .excEntry => 0x040
  | .rte => 0x080
  | .lazySave => 0x0C0
  | .hSaveRest => 0x100
  | .fltSteps => 0x140
  | .csum16 => 0x180
  | .movb => 0x1C0
  | .fillb => 0x200
  | .cmpb => 0x240
  | .skipto => 0x280

end Sys2Proof.Machine
end

