-- ==== Sys2Proof/Machine/Context.lean ====
section
/-! DEFINITION. A Gilin context and its core: issue, guards, completion with the loop end test, taking an exception,
double faults and steward faults, the end of a fault program (05, 08). -/

namespace Sys2Proof.Machine

/-! ### What an instruction body answers -/

/-- The result of one instruction's body. -/
inductive R where
  /-- Completed; execution falls through. -/
  | ok (s : State) (c : Ctx)
  /-- Completed; execution continues at `t`. -/
  | jump (s : State) (c : Ctx) (t : Word)
  /-- The context sleeps; the instruction has not completed. -/
  | sleep (s : State) (c : Ctx)
  /-- Raises vector `v` at the instruction. -/
  | exc (s : State) (v : Nat) (fa : Word)
  /-- Completed, and vector `v` is taken with the next instruction as return address (SYS, BRK). -/
  | trap (s : State) (c : Ctx) (v : Nat) (fa : Word)
  /-- The group is held: nothing has issued. -/
  | hold
  /-- Nothing has issued yet; what the sequencer has done so far stands. -/
  | wait (s : State)
  /-- The context takes the state that `c` names (RETURN, ENDING, or RUN at the same instruction). -/
  | to (s : State) (c : Ctx)

/-! ### Double faults and steward faults -/

/-- A packet context enters STOPPED (08 R257). The fault record names the instruction at fault, or the next one for KIND 6
(R262; log entry 93). -/
def State.stopCtx (s : State) (key kind vec : Nat) (addr : Word) : State :=
  let c := s.ctx key
  let ck := coreOf key
  let co := s.core ck
  let pc := match decide (kind = 6), c.st, c.exc with
    | true, .entry, some x => x.ret
    | true, .ret, _ => c.grp.next
    | _, _, _ => c.pc
  let s1 := s.setCtx key { c with st := .stopped, wait := .none, stop := some ⟨kind, vec, addr, pc, c.turn⟩ }
  s1.setCore ck { co with stopq := if co.stopq.contains (ctxNoOf key) then co.stopq else co.stopq ++ [ctxNoOf key],
                          beq := co.beq.filter (fun b => b.ctx ≠ ctxNoOf key) }

/-- The sequencer of a context's core runs an operation: `true` where it ends; a machine check stops a packet core until
MACHINE_CHECK retires it, and is a steward fault of cause 4 (11 R348, R353, 17 R478). -/
def State.sequence (s : State) (key : Nat) (op : MOp) : Bool × State :=
  match s.microOp key op.entry with
  | (true, s1) => (true, s1)
  | (false, s1) => (false, if isStw key && (s1.core (coreOf key)).mcheck.isSome then s1.stwFault (key - 1404) 4 else s1)

/-- An instruction that the control store sequences: its effect, or a machine check in its place; it waits while its sequence
goes on. -/
def seqd (op : MOp) (body : State → Nat → Ctx → R) (s : State) (key : Nat) (c : Ctx) : R :=
  match s.sequence key op with
  | (true, s1) => body s1 key { c with useq := none }
  | (false, s1) => if (s1.ctx key).useq.isSome then .wait s1 else .to s1 (s1.ctx key)

/-! ### The fault context's end (08 R258 steps 4 and 5, R259, R260) -/

/-- The events of 07 R225 are held from context `key`: its core is halted and steps no instruction of it (18 R501). -/
def State.heldEv (s : State) (key : Nat) : Bool :=
  let co := s.core (coreOf key)
  co.halted && decide (co.stepCtx ≠ some (ctxNoOf key))

/-- A context that sleeps for a helper, FENCE or HSAVE condition may issue its instruction again. -/
def State.wakeAgain (s : State) (key : Nat) : State :=
  let c := s.ctx key
  match c.st, c.wait with
  | .sleep, .again _ => if s.heldEv key then s else s.setCtx key { c with st := .run, wait := .none, wlen := 0 }
  | _, _ => s

/-- The contexts of a core that sleep so. -/
def State.wakeCore (s : State) (ck : Nat) : State := forEach (List.range 8) s (fun k s => s.wakeAgain (ck * 9 + k))

/-- The block resets context `key` after its packet was punted. -/
def State.resetCtx (s : State) (key : Nat) : State :=
  let s1 := s.dropSlots key true
  let r := rankOf key
  let seat := s1.seatNo r (coreNoOf key)
  let co := s.core (coreOf key)
  let had2 := decide (co.own2 = some (ctxNoOf key))
  let x := s1.rank r
  let s2 := if had2 then s1.setRank r { x with sealSets := tdel x.sealSets seat } else s1
  let had3 := decide (co.own3 = some (ctxNoOf key))
  let x2 := s2.rank r
  let s3 := if had3 then s2.setRank r { x2 with mirror := tdel x2.mirror seat } else s2
  s3.setCtx key (Ctx.ended key (s3.ctx key))

/-- The punt code of a double fault (08 R257). -/
def puntCodeOf (kind : Nat) : Nat := if kind = 6 then 0x80 else 0x82

/-- The fault context of core `ck` ends its service: NESTED where the program ended by an exception or its limit, then
the packet is punted and the context reset, which may end a reservation that other contexts wait for (R256). -/
def State.faultEnd (s : State) (ck : Nat) (nested : Bool) : State :=
  let co := s.core ck
  match co.svc with
  | none => s
  | some k =>
    let r := ck / 13
    let c := ck % 13
    let key := pk r c k
    let cx := s.ctx key
    let kind := match cx.stop with | some t => t.kind | none => 0
    let seat := s.seatNo r c
    let a := rkA r (0x1000 + 0x20 * seat)
    let w0 := leNat (s.spR ck 0x3A000 4)
    let s1 := if nested then s.spW ck 0x3A000 (leBytes 4 (w0 ||| 2 ^ 29)) else s
    let s2 := if nested && co.svcRec then s1.orReg a (2 ^ 29) else s1
    let s3 := if kind = 6 then s2.count (rkA r 0x138) else s2
    let s4 := s3.setCore ck { s3.core ck with svc := none, svcRec := false, beq := (s3.core ck).beq.filter (fun b => b.ctx ≠ 8) }
    let s5 := s4.setCtx (pk r c 8) (Ctx.init (pk r c 8))
    ((s5.puntCtx key (puntCodeOf kind)).resetCtx key).wakeCore ck

/-! ### Taking an exception (08 R239, R242, R247; 12 R371) -/

/-- An exception is taken on context `key`: a packet context or steward enters ENTRY, or stops by a double fault or
steward fault; in the fault context the fault program ends. -/
def State.raise (s : State) (key : Nat) (x : Exc) : State :=
  let c := s.ctx key
  if isFlt key then s.faultEnd (coreOf key) true
  else if isStw key then s.stwRaise (key - 1404) x
  else if stackVec x.vec && decide (c.elev ≠ 0) then (s.setCtx key { c with exc := some x }).stopCtx key 2 x.vec x.faultaddr
  else if c.elev = 2 then (s.setCtx key { c with exc := some x }).stopCtx key 3 x.vec x.faultaddr
  else s.setCtx key { c with st := .entry, wait := .none, skip := false, brkSkip := false, exc := some x }

/-- The cap that applies to a packet (03 R95). -/
def State.capOf (s : State) (r : Nat) (md : Meta) : Nat :=
  if md.ladder then s.fld (rkA r 0) 27 16 else s.fld (rkA r 0) 11 0

/-- The metadata of the packet a context holds. -/
def State.mdOf (s : State) (key : Nat) : Meta :=
  match (s.ctx key).entry with
  | none => .zero
  | some i => match tfind (s.rank (rankOf key)).entries i with | some e => e.md | none => .zero

/-- The instruction's request has left the core: that of an MTR, even where its charge then waits for ledger room. -/
def Wait.sent : Wait → Bool
  | .top _ => true
  | .again b => b
  | .ledger e => decide (e.op = 1)
  | _ => false

/-- Vector 11 abandons the sleep of context `key`, which becomes `c` (03 R96, 08 R242). -/
def State.abandon (s : State) (key : Nat) (c : Ctx) : State :=
  let fa := BitVec.ofNat 32 (s.capOf (rankOf key) (s.mdOf key) + 1)
  ((s.orphanOps key).setCtx key { c with wlen := 0, v11pend := false }).raise key ⟨11, fa, c.pc, true, c.wait.sent⟩

/-- The context stands inside its group: an instruction of it has issued and the next one follows (07 R215). -/
def Ctx.inGroup (c : Ctx) : Bool := decide (c.grp.left ≠ 0) && decide (c.pc = c.grp.next)

/-- A pending vector 11, then a pending debug trigger, is taken at the pc below ELEV 2 (08 R261; log entry 20), with the place `g` in the
group. -/
def State.takePend (s : State) (key : Nat) (g : Grp) : State :=
  let c := s.ctx key
  if c.st = .run && decide (c.elev ≠ 2) && c.v11pend then
    let fa := BitVec.ofNat 32 (s.capOf (rankOf key) (s.mdOf key) + 1)
    (s.setCtx key { c with v11pend := false, grp := g }).raise key ⟨11, fa, c.pc, false, false⟩
  else if c.st = .run && decide (c.elev ≠ 2) && c.trig then
    (s.setCtx key { c with trig := false, grp := g }).raise key ⟨15, 0, c.pc, false, false⟩
  else s

/-- An instruction boundary: what is pending is taken once the last group issued has retired, so not inside a group (08 R242, R247). The
instruction at the pc has not issued. -/
def State.boundary (s : State) (key : Nat) : State :=
  let c := s.ctx key
  if c.inGroup then s else s.takePend key { c.grp with left := 0, next := c.pc }

/-! ### Completion (05 R160) -/

/-- The context's packet ends: commands awaiting HPUT words are killed, and the context enters ENDING (06 R189, 09 R269). -/
def State.toEnding (s : State) (key : Nat) (k : EndKind) : State :=
  let s1 := s.killHelpers key HCmd.awaits
  s1.setCtx key { s1.ctx key with st := .ending, wait := .none, ending := some k }

/-- The block punts the packet of a context that runs or sleeps, as PUNT does (06 R190, 08 R235): its locks are released. -/
def State.endPunt (s : State) (key : Nat) (code : Byte) : State := (s.dropLocks key).toEnding key (.punt code)

/-- Cell `n` of a list of operands, top first. -/
def opnd (c : Ctx) (n : Nat) : Word := c.os.getD n 0

/-- Execution continues at `t` after a completed instruction: the end test against the innermost loop level. -/
def Ctx.goto (c : Ctx) (t : Word) : Ctx :=
  match c.ls with
  | [] => { c with pc := t }
  | l :: rest =>
    if t = l.fin then
      if l.cnt = 1 then { c with pc := t, ls := rest }
      else { c with pc := l.start, ls := { l with cnt := l.cnt - 1 } :: rest }
    else { c with pc := t }

/-- An instruction issued: a packet core's watchdog starts again (17 R468), and a step ends with a halt request once its group
has no instruction left to issue (18 R501). -/
def State.issued (s : State) (key : Nat) : State :=
  let ck := coreOf key
  let co := s.core ck
  let c := s.ctx key
  let more := (decide (c.st = .run) || decide (c.st = .sleep)) && decide (c.grp.left ≠ 0) &&
    (decide (c.st = .sleep) || decide (c.pc = c.grp.next))
  s.setCore ck { co with wdog := if isStw key then co.wdog else 0, stepCtx := if more then co.stepCtx else none,
                         haltReq := co.haltReq || (co.stepCtx.isSome && !more) }

/-- The context's next instruction, of `n` bytes, takes its place: in the group it stands in, or as the first of the group that
begins at its pc (07 R215). Falling through to a loop's END on its last pass begins no group: R215 names END after a count of 0, which is
LOOP's, and LEXIT (the model's reading, log entry 90). -/
def State.enterGroup (s : State) (key n : Nat) : State :=
  let c := s.ctx key
  let nxt := c.pc + BitVec.ofNat 32 n
  let g : Grp := if c.inGroup then ⟨c.grp.idx + 1, c.grp.left - 1, nxt, c.grp.flow⟩
                 else ⟨0, (s.groupAt key c.pc.toNat).length - 1, nxt, min 2 (c.grp.flow + 1)⟩
  s.setCtx key { c with grp := g }

/-- A context completes an instruction, continuing at `t`. -/
def State.complete (s : State) (key : Nat) (c : Ctx) (t : Word) : State :=
  (s.setCtx key ({ c with st := .run, wait := .none, wlen := 0, skip := false, brkSkip := false }.goto t)).boundary key

/-! ### Issue -/

/-- Instruction classes that a steward or the fault context refuses (05 R171, 08 R259). -/
inductive Cls where
  | plain | packet | table | helper | hcap | head
deriving DecidableEq, Repr

/-- The byte at a code address may be fetched (05 R148, R149). -/
def State.mayFetch (s : State) (key a : Nat) : Bool :=
  if isStw key then decide (a < 0x40000) && decide (((s.stwd (key - 1404)).nx.toNat / 2 ^ (a / 4096)) % 2 = 1)
  else decide (a < 0x10000) && decide (((s.rank (rankOf key)).nx.toNat / 2 ^ (a / 4096)) % 2 = 1)

/-- The first of `n` bytes from `a` that may not be fetched. -/
def State.badFetch (s : State) (key a : Nat) : Nat → Option Nat
  | 0 => none
  | n + 1 => if s.mayFetch key a then s.badFetch key (a + 1) n else some a

/-- A context holds an entry lock. -/
def State.holdsLock (s : State) (key : Nat) : Bool := s.tb.locks.any (fun l => l.owner = key)

/-- The core lets context `key` issue: not halted, or stepping it; from a halt request on, to finish a group, a fault program
that no BRK holds, or a locked sequence of at most 256 cycles (18 R500–R502, R504, R507). -/
def State.unhalted (s : State) (key : Nat) : Bool :=
  let co := s.core (coreOf key)
  if co.haltReq then (s.holdsLock key && decide (co.haltCy < 256)) || (isFlt key && !(s.ctx key).brkSkip) || (s.ctx key).inGroup
  else !co.halted || decide (co.stepCtx = some (ctxNoOf key))

/-- A context that a lazy save holds (08 R253). -/
def Ctx.held (c : Ctx) : Bool := match c.wait with | .lazy _ => true | _ => false

/-- Context `key` can issue an instruction now (07 R224). -/
def State.canIssue (s : State) (key : Nat) : Bool :=
  decide ((s.ctx key).st = .run) && !(s.ctx key).held && s.runs (coreDom (coreOf key)) && s.unhalted key &&
  (if isStw key then (s.stwd (key - 1404)).started && !(s.stwd (key - 1404)).faulted
   else !(s.core (coreOf key)).retired) && (s.core (coreOf key)).mcheck.isNone

/-- The guard holds (05 R157). -/
def guardHolds (c : Ctx) : Guard → Bool
  | .always => true
  | .ifp n => n.val = 0 || bit (c.pred.setWidth 32) n.val
  | .ifnot n => n.val ≠ 0 && !bit (c.pred.setWidth 32) n.val

/-- Bytes of the guard. -/
def guardLen : Guard → Nat
  | .always => 0
  | _ => 1

/-- The packet opcodes are illegal on a steward whatever the guard says (05 R171, R157). -/
def clsIllegal (key : Nat) : Cls → Bool
  | .packet => isStw key
  | _ => false

/-- A steward or the fault context refuses instructions of this class with vector 1 when they execute. -/
def clsRefused (key : Nat) : Cls → Bool
  | .plain => false
  | .packet => isFlt key
  | .table => isFlt key
  | .helper => isStw key || isFlt key
  | .hcap => isStw key
  | .head => isStw key

/-- Debug-space base of a core's DBG_CORE_CFG (18 R498). -/
def State.dbgBase (s : State) (key : Nat) : Nat :=
  if isStw key then 0x20000000 + (key - 1404) * 0x1000000 + 0xF0000
  else 0x10000000 + rankOf key * 0x1000000 + s.seatNo (rankOf key) (coreNoOf key) * 0x100000 + 0xF0000

/-- The enabled comparators of a core that match address `a` for KIND 0 (`fetch`), load or store, with their CTL. -/
def State.matches (s : State) (key : Nat) (a : Word) (fetch load : Bool) : List Word :=
  let b := s.dbgBase key
  ((List.range (if isStw key then 8 else 2)).map (fun k => b + 0x10 + 16 * k)).filterMap (fun p =>
    let ctl := s.dreg p
    let kind := bits ctl 30 29
    let kindOk := if fetch then kind = 0 else if load then kind = 1 || kind = 3 else kind = 2 || kind = 3
    let ctxOk := !bit ctl 22 || bits ctl 21 18 = ctxNoOf key
    let addrOk := (a ^^^ s.dreg (p + 4)) &&& ~~~ s.dreg (p + 8) = 0
    if bit ctl 31 && kindOk && ctxOk && addrOk && bits ctl 28 27 ≠ 0 then some ctl else none)

/-- What debug asks of core `ck` waits: its island is paused, or earlier requests still wait (17 R487). -/
def State.dbgWaits (s : State) (ck : Nat) : Bool := (s.pdom (coreDom ck)).paused || s.dbg.held.any (fun q => q.1 = ck)

/-- A request to core `ck` waits. -/
def State.dbgHold (s : State) (ck : Nat) (o : DbgOp) : State := { s with dbg := { s.dbg with held := s.dbg.held ++ [(ck, o)] } }

/-- A halt request reaches the core of a key (18 R500 step 1). -/
def State.reqHalt (s : State) (ck : Nat) : State :=
  let co := s.core ck
  if s.dbgWaits ck then s.dbgHold ck .halt
  else if co.retired || (co.halted && co.stepCtx.isNone) then s else s.setCore ck { co with haltReq := true }

/-- Subscribers of the channels `m`: their DBG_CORE_CFG SUB names one of them. -/
def State.subscribers (s : State) (m : Nat) : List Nat :=
  (List.range 160).filter (fun ck =>
    let key := if ck < 156 then ck * 9 else 1404 + (ck - 156)
    (ck ≥ 156 || (s.seatOf (ck / 13) (ck % 13)).isSome) &&
      decide ((bits (s.dreg (s.dbgBase key)) 7 4) &&& m ≠ 0))

/-- Cross-trigger channels fire (18 R506): subscribers halt, DBG_XTRIG_OUT pulses, SEEN is set. -/
def State.fire (s : State) (m : Nat) : State :=
  if m % 16 = 0 then s
  else
    let s1 := forEach (s.subscribers (m % 16)) s (fun ck s => s.reqHalt ck)
    { s1 with dbg := { s1.dbg with xout := s1.dbg.xout ||| BitVec.ofNat 4 m,
                                   regs := tset s1.dbg.regs 0x30000004 (s1.dreg 0x30000004 ||| BitVec.ofNat 32 (m % 16 * 256)) } }

/-- Act on matching comparators: channels, halt, or a pending vector 15. -/
def State.onMatch (s : State) (key : Nat) (ms : List Word) : State :=
  forEach ms s (fun ctl s =>
    let s1 := s.fire (bits ctl 26 23)
    let act := bits ctl 28 27
    if act = 1 then s1.reqHalt (coreOf key)
    else if act = 2 then (let c := s1.ctx key; s1.setCtx key { c with trig := true })
    else s1)

/-- Raise an exception at the instruction that context `key` is at. -/
def State.excAt (s : State) (key v : Nat) (fa : Word) : State := s.raise key ⟨v, fa, (s.ctx key).pc, false, false⟩

/-- An instruction that has not issued after all, for its sequence goes on or a lazy save comes first, keeps the place `g` that the
context had in its group before. -/
def R.back (key : Nat) (g : Grp) : R → R
  | .wait s => .wait (s.setCtx key { s.ctx key with grp := g })
  | .to s c => .to s (if c.held then { c with grp := g } else c)
  | a => a

/-- Context `key` goes to sleep as `c`. Where the turn cap was reached while its group was in flight, the sleep is abandoned at once. -/
def State.toSleep (s : State) (key : Nat) (c : Ctx) : State :=
  if c.v11pend && decide (c.elev ≠ 2) && decide (c.wait ≠ .engine) then s.abandon key c else s.setCtx key c

/-- Take the answer of an instruction's body: `len` bytes, guard included. -/
def State.settleR (s0 : State) (key len : Nat) : R → State
  | .ok s c => (s.complete key c ((s0.ctx key).pc + BitVec.ofNat 32 len)).issued key
  | .jump s c t => (s.complete key c t).issued key
  | .sleep s c => (s.toSleep key { c with st := .sleep, wlen := len, grp := { c.grp with flow := 0 } }).issued key
  | .exc s v fa => (s.excAt key v fa).issued key
  | .trap s c v fa =>
    let c1 := c.goto ((s0.ctx key).pc + BitVec.ofNat 32 len)
    ((s.setCtx key { c with ls := c1.ls }).raise key ⟨v, fa, c1.pc, false, false⟩).issued key
  | .hold => s0
  | .wait s => s
  | .to s c => if c.st = .run then s.setCtx key c else (s.setCtx key c).issued key

/-- A packet core's retired stores reach the scratchpad before the context's next instruction (05 R156, 07 R220). -/
def State.retireStores (s : State) (key : Nat) : State := if isStw key then s else s.drainCore (coreOf key)

/-- The state in which the next instruction of context `key`, of `n` bytes, is executed: the core's retired stores have
reached the scratchpad, and the instruction has its place in its group. -/
def State.entered (s : State) (key n : Nat) : State := (s.retireStores key).enterGroup key n

/-- Context `key` issues one instruction: fetch match, fetch permission (vector 3), encoding (vector 1), guard, body. `len` counts
the opcode and operand bytes; `enc` says that the operand bytes are legal (05 R169); `body` is the instruction. A held
instruction leaves everything as it was. A fetch match squashes the instruction, which issues again, as the first of a group, without it:
an ACTION 1 has then halted the core, and an ACTION 2 stays pending at ELEV 2 (18 R505; log entry 17). -/
def State.issue (s00 : State) (x : Iss) (cls : Cls) (len : Nat) (enc : Bool) (body : State → Nat → Ctx → R) : State :=
  let key := whoKey x.who
  if !s00.canIssue key then s00
  else
    let n := guardLen x.guard + len
    let s := s00.entered key n
    let c := s.ctx key
    let ms := if c.skip then [] else s.matches key c.pc true false
    let s1 := s.onMatch key ms
    let c := s1.ctx key
    if ms.any (fun ctl => bits ctl 28 27 ≠ 3) then (s1.setCtx key { c with skip := true }).takePend key c.grp
    else match s1.badFetch key c.pc.toNat n with
      | some a => (s1.excAt key 3 (BitVec.ofNat 32 a)).issued key
      | none =>
        if !enc || clsIllegal key cls then (s1.excAt key 1 c.pc).issued key
        else if !guardHolds c x.guard then s1.settleR key n (.ok s1 c)
        else if clsRefused key cls then (s1.excAt key 1 c.pc).issued key
        else match (body s1 key c).back key (s00.ctx key).grp with
          | .hold => s00
          | a => s1.settleR key n a

end Sys2Proof.Machine
end

