-- ==== Sys2Proof/Machine/Operands.lean ====
section
/-! DEFINITION. Operand forms of the Gilin instructions: stack operands with their limits and floors, immediates and
their checks, scratchpad and code-space accesses (05 R142, R143, R150, R152–R154, R169). -/

namespace Sys2Proof.Machine

/-! ### Stacks -/

/-- The operand and return limits that apply (05 R143, 12 R359). -/
def stkLimits (key : Nat) (c : Ctx) : Nat × Nat := if !isStw key && !isFlt key && c.elev = 0 then (28, 14) else (32, 16)

/-- The floors that apply to the operand and the return stack: those of the newest handler level (05 R143, 12 R369). -/
def stkFloors (c : Ctx) : Nat × Nat :=
  let h := if c.elev = 2 then c.h2 else if c.elev = 1 then c.h1 else Hidden.zero
  let f := c.floors.headD (0, 0)
  (max h.ofloor f.1, max h.rfloor f.2)

/-- The stack error of an instruction that takes `k` cells and leaves `m` (05 R142). -/
def stkErr (key : Nat) (c : Ctx) (k m : Nat) : Option Nat :=
  if c.os.length < (stkFloors c).1 + k then some 7
  else if (stkLimits key c).1 + k < c.os.length + m then some 6
  else none

/-- The stack error of an instruction that takes `k` return entries and leaves `m`. -/
def retErr (key : Nat) (c : Ctx) (k m : Nat) : Option Nat :=
  if c.rs.length < (stkFloors c).2 + k then some 9
  else if (stkLimits key c).2 + k < c.rs.length + m then some 8
  else none

/-- An instruction that takes `k` cells (top first in the list given to `f`) and leaves those that `f` answers, oldest
first, as the manual writes a stack effect. -/
def stackOp (k m : Nat) (f : List Word → List Word) (s : State) (key : Nat) (c : Ctx) : R :=
  match stkErr key c k m with
  | some v => .exc s v c.pc
  | none => .ok s { c with os := (f (c.os.take k)).reverse ++ c.os.drop k }

/-- A cell operation of one operand. -/
def unOp (f : Word → Word) : State → Nat → Ctx → R := stackOp 1 1 (fun o => [f (o.headD 0)])

/-- A cell operation of two operands ( a b -- f a b ). -/
def binOp (f : Word → Word → Word) : State → Nat → Ctx → R := stackOp 2 1 (fun o => [f (o.getD 1 0) (o.headD 0)])

/-! ### Immediates (05 R169) -/

/-- Bits 7:5 of an operand byte are 0. -/
def imm5 (b : Byte) : Bool := decide (b.toNat < 32)

/-- Bits 7:3 of an operand byte are 0. -/
def imm3 (b : Byte) : Bool := decide (b.toNat < 8)

/-- Bits 7 and 3 of a predicate-pair byte are 0. -/
def immPP (b : Byte) : Bool := !b.getLsbD 7 && !b.getLsbD 3

/-- pos and len of EXTR and INS. -/
def immPL (pos len : Byte) : Bool :=
  decide (pos.toNat < 32) && decide (len.toNat < 64) && decide (1 ≤ len.toNat) && decide (len.toNat ≤ 32) &&
  decide (pos.toNat + len.toNat ≤ 32)

/-- A head-relative offset: bits 15:9 are 0. -/
def immOff (off : Half) : Bool := decide (off.toNat < 512)

/-! ### Access rights (05 R152, 12 R361) -/

/-- Privilege of a context (05 R166, 08 R259, 12 R359). -/
def privOf (key : Nat) (c : Ctx) : Bool := isStw key || isFlt key || decide (c.elev ≠ 0)

/-- The scratchpad address of the context's bound slot. -/
def hslot (key : Nat) (c : Ctx) : Nat := if isStw key || isFlt key then 0 else slotA (ctxNoOf key) c.slot

/-- The owner of a scratchpad bank of core `ck` (11 R332): 0 CORE. -/
def State.bankOwner (s : State) (ck x : Nat) : Nat :=
  let b := x / 8 % 8
  s.fld (rkA (ck / 13) (0x3100 + 0x40 * s.seatNo (ck / 13) (ck % 13))) (2 * b + 1) (2 * b)

/-- Scratchpad byte `x` is accessible to a packet core's context under R152 and R332. -/
def State.mayByte (s : State) (key : Nat) (c : Ctx) (x : Nat) : Bool :=
  let k := ctxNoOf key
  let area : Bool :=
    if isFlt key then decide (x < 0x35000) || (decide (0x38000 ≤ x) && decide (x < 0x40000))
    else if x < 0x30000 then true
    else if x < 0x34000 then privOf key c && decide (0x30000 + k * 0x800 ≤ x) && decide (x < 0x30000 + k * 0x800 + 0x800)
    else if x < 0x35000 then privOf key c && decide (0x34000 + k * 0x200 ≤ x) && decide (x < 0x34000 + k * 0x200 + 0x200)
    else decide (hslot key c ≤ x) && decide (x < hslot key c + 0x200)
  decide (x < 0x40000) && area && decide (s.bankOwner (coreOf key) x = 0)

/-- Which store an effective address of a steward names: shared SRAM, registers, or nothing. -/
def stwArea (a : Nat) : Nat := if a < 0x200000 then 1 else if 0xF0000000 ≤ a ∧ a < 0xF4000000 then 2 else 0

/-- The exception of an access of `n` bytes at effective address `a`: vector 5 before vector 4 (05 R152, R153). -/
def State.accErr (s : State) (key : Nat) (c : Ctx) (a n : Nat) : Option Nat :=
  if isStw key then
    if stwArea a = 1 then (if stwArea (a + n - 1) ≠ 1 then some 5 else if a % n ≠ 0 then some 4 else none)
    else if stwArea a = 2 then
      if (s.ctlErr (a - 0xF0000000) 0xF).isSome then some 5 else if n ≠ 4 ∨ a % 4 ≠ 0 then some 4 else none
    else some 5
  else if !(s.mayByte key c a && s.mayByte key c (a + n - 1)) then some 5
  else if a % n ≠ 0 then some 4
  else none

/-! ### ECC of the shared SRAM (12 R363) -/

/-- A read of shared-SRAM words by a steward or another requester (12 R363). -/
def State.srTouch (s : State) : List Nat → Bool × State
  | [] => (false, s)
  | w :: ws =>
    let (b, s1) : Bool × State := match tfind s.sramErr w with
      | none => (false, s)
      | some true => (true, s.count (swA 0x208))
      | some false => (false, ({ s with sramErr := tdel s.sramErr w }).count (swA 0x200))
    let (b2, s2) := s1.srTouch ws
    (b || b2, s2)

/-- A read of `n` bytes of the shared SRAM by a requester that is no steward's load: single-bit errors are corrected and
counted, uncorrectable ones counted, and the data go on as read (12 R363). -/
def State.srSweep (s : State) (a n : Nat) : State :=
  let hit := fun (w : Nat) => decide (n ≠ 0) && decide (a / 8 ≤ w) && decide (w ≤ (a + n - 1) / 8)
  let of := fun (b : Bool) => (s.sramErr.filter (fun e => hit e.1 && e.2 == b)).length
  (({ s with sramErr := tkeep s.sramErr (fun w b => b || !hit w) }).count (swA 0x200) (of false)).count (swA 0x208) (of true)

/-- A steward's write to the shared SRAM: the bytes of the program library, below 0xE0000, are written only with LIB_WE
(R365, R368); whole words written become good. -/
def State.srStore (s : State) (a : Nat) (bs : List Byte) : State :=
  let n := if bit (s.reg (swA 0x10)) 0 then 0 else min (0xE0000 - a) bs.length
  let a1 := a + n
  let b1 := bs.drop n
  if b1.isEmpty then s
  else { s.srW a1 b1 with sramErr := tkeep s.sramErr (fun w _ => !(wordsOf a1 b1.length).contains w) }

/-! ### Loads and stores -/

/-- The bytes a context sees at scratchpad address `x`: its own buffered stores over the scratchpad (07 R220). -/
def State.seen (s : State) (key x n : Nat) : List Byte :=
  let ck := coreOf key
  let base := s.spR ck x n
  ((s.core ck).sbuf.filter (fun e => e.ctx = ctxNoOf key)).foldl (fun bs e =>
    (List.range n).map (fun i =>
      let a := x + i
      if e.addr ≤ a ∧ a < e.addr + e.bs.length then e.bs.getD (a - e.addr) 0 else bs.getD i 0)) base

/-- The value of an access of `n` bytes: wire order for the head bytes of the head-relative forms (05 R154). -/
def accVal (wire : Bool) (bs : List Byte) : Nat := if wire then beNat bs else leNat bs

/-- Bytes of a value in the order of the access. -/
def accBytes (wire : Bool) (n v : Nat) : List Byte := if wire then beBytes n v else leBytes n v

/-- Act on data comparators after a retired access (18 R505 KIND 1–3). -/
def State.dataMatch (s : State) (key : Nat) (a : Word) (load : Bool) (c : Ctx) : State × Ctx :=
  let s1 := s.onMatch key (s.matches key a false load)
  (s1, { c with trig := (s1.ctx key).trig })

/-- A load of `n` bytes at `a`; `fin` takes the value and gives the context after the instruction. -/
def loadAt (a : Word) (n : Nat) (wire : Bool) (fin : Nat → Ctx) (s : State) (key : Nat) (c : Ctx) : R :=
  match s.accErr key c a.toNat n with
  | some v => .exc s v a
  | none =>
    if isStw key then
      if stwArea a.toNat = 2 then
        let i := key - 1404
        let x := s.stwd i
        let p := fin 0
        .sleep (s.setStw i { x with acc := some ⟨false, BitVec.ofNat 26 (a.toNat - 0xF0000000), 0, p.os.drop 1, p.a, p.b⟩ })
          { c with wait := .fabric }
      else
        let (bad, s1) := s.srTouch (wordsOf a.toNat n)
        if bad then .exc s1 16 a
        else
          let (s2, c2) := s1.dataMatch key a true (fin (accVal wire (s1.srR a.toNat n)))
          .ok s2 c2
    else
      let ck := coreOf key
      let (bad, s1) := (s.bgtAbort ck a.toNat n).spTouchN ck 0 (wordsOf a.toNat n)
      if bad then .exc s1 16 a
      else
        let (s2, c2) := s1.dataMatch key a true (fin (accVal wire (s1.seen key a.toNat n)))
        .ok s2 c2

/-- A store of the low `n` bytes of `v` at `a`; `c'` is the context after the instruction. -/
def storeAt (a : Word) (n : Nat) (wire : Bool) (v : Word) (c' : Ctx) (s : State) (key : Nat) (c : Ctx) : R :=
  match s.accErr key c a.toNat n with
  | some e => .exc s e a
  | none =>
    let bs := accBytes wire n (v.toNat % 256 ^ n)
    if isStw key then
      if stwArea a.toNat = 2 then
        let i := key - 1404
        let x := s.stwd i
        .sleep (s.setStw i { x with acc := some ⟨true, BitVec.ofNat 26 (a.toNat - 0xF0000000), v, c'.os, c'.a, c'.b⟩ })
          { c with wait := .fabric }
      else
        let (s2, c2) := (s.srStore a.toNat bs).dataMatch key a false c'
        .ok s2 c2
    else
      let ck := coreOf key
      let s0 := s.bgtAbort ck a.toNat n
      let co := s0.core ck
      let s1 := s0.setCore ck { co with sbuf := co.sbuf ++ [⟨ctxNoOf key, a.toNat, bs⟩] }
      let (s2, c2) := s1.dataMatch key a false c'
      .ok s2 c2

end Sys2Proof.Machine
end

