-- ==== Sys2Proof/Machine/Flags.lean ====
section
/-! DEFINITION. The predicates p0–p7 of a Gilin context, the compares that write them (05 R138, R140, R146; 06 R181). -/

namespace Sys2Proof.Machine

/-- The value of predicate `n`; p0 reads true. -/
def Ctx.pr (c : Ctx) (n : Nat) : Bool := n = 0 || c.pred.getLsbD n

/-- Write predicate `n`; a write to p0 is ignored (05 R146). -/
def Ctx.setPr (c : Ctx) (n : Nat) (v : Bool) : Ctx :=
  if n = 0 then c
  else { c with pred := if v then c.pred ||| BitVec.ofNat 8 (2 ^ n) else c.pred &&& ~~~ BitVec.ofNat 8 (2 ^ n) }

/-- A compare of two operands ( a b -- ) that writes predicate `p`. -/
def cmpOp (f : Word → Word → Bool) (p : Byte) (s : State) (key : Nat) (c : Ctx) : R :=
  match stkErr key c 2 0 with
  | some v => .exc s v c.pc
  | none => .ok s ({ c with os := c.os.drop 2 }.setPr p.toNat (f (c.os.getD 1 0) (c.os.headD 0)))

/-- A compare of one operand. -/
def cmpOp1 (f : Word → Bool) (p : Byte) (s : State) (key : Nat) (c : Ctx) : R :=
  match stkErr key c 1 0 with
  | some v => .exc s v c.pc
  | none => .ok s ({ c with os := c.os.drop 1 }.setPr p.toNat (f (c.os.headD 0)))

/-- A predicate-pair operation: pd = f pd pa, with pd in bits 2:0 and pa in bits 6:4 (05 R169). -/
def predOp (f : Bool → Bool → Bool) (b : Byte) (s : State) (_key : Nat) (c : Ctx) : R :=
  let pd := b.toNat % 8
  let pa := b.toNat / 16 % 8
  .ok s (c.setPr pd (f (c.pr pd) (c.pr pa)))

/-- CSER16: the low 16 bits of each operand under R84. -/
def cser16 (a b : Word) : Bool := pipBefore (a.setWidth 16) (b.setWidth 16)

/-- PRED with bit 0 reading 1. -/
def Ctx.predWord (c : Ctx) : Word := (c.pred ||| 1).setWidth 32

/-- Write p7–p1 from bits 7:1 of a cell. -/
def Ctx.setPred (c : Ctx) (x : Word) : Ctx := { c with pred := (x.setWidth 8) ||| 1 }

end Sys2Proof.Machine
end

