-- ==== Sys2Proof/Machine/Arith.lean ====
section
/-! DEFINITION. Arithmetic, logic and bit fields, opcodes 0x23–0x3F (05 R138, R139; 06 R180). -/

namespace Sys2Proof.Machine

/-- A shift count from the stack: bits 4:0 (05 R139). -/
def cnt5 (n : Word) : Nat := n.toNat % 32

/-- The field of `len` bits at `pos`. -/
def extr (pos len : Nat) (a : Word) : Word := BitVec.ofNat 32 (a.toNat / 2 ^ pos % 2 ^ len)

/-- `a` with bits pos+len−1:pos replaced by the low `len` bits of `f`. -/
def ins (pos len : Nat) (a f : Word) : Word :=
  let m := BitVec.ofNat 32 ((2 ^ len - 1) * 2 ^ pos)
  (a &&& ~~~ m) ||| ((f <<< pos) &&& m)

/-- Leading zeros; 32 for 0. -/
def clz (a : Word) : Word := BitVec.ofNat 32 (((List.range 32).find? (fun i => a.getLsbD (31 - i))).getD 32)

/-- Bits set. -/
def popc (a : Word) : Word := BitVec.ofNat 32 ((List.range 32).filter (fun i => a.getLsbD i)).length

/-- The four bytes reversed. -/
def bswap32 (a : Word) : Word := BitVec.ofNat 32 (beNat (leBytes 4 a.toNat))

/-- The low two bytes exchanged, bits 31:16 zero. -/
def bswap16 (a : Word) : Word := BitVec.ofNat 32 (beNat (leBytes 2 a.toNat))

/-- High 32 bits of the signed 64-bit product. -/
def mulh (a b : Word) : Word := ((a.signExtend 64) * (b.signExtend 64)).extractLsb' 32 32

/-- High 32 bits of the unsigned 64-bit product. -/
def mulhu (a b : Word) : Word := BitVec.ofNat 32 (a.toNat * b.toNat / 2 ^ 32)

/-- ADD, modulo 2^32. -/
def execAdd (x : Iss) (s : State) : Out := .next (s.issue x .plain 1 true (binOp (fun a b => a + b)))

/-- SUB, modulo 2^32. -/
def execSub (x : Iss) (s : State) : Out := .next (s.issue x .plain 1 true (binOp (fun a b => a - b)))

/-- NEG: 0 − a. -/
def execNeg (x : Iss) (s : State) : Out := .next (s.issue x .plain 1 true (unOp (fun a => -a)))

/-- INC. -/
def execInc (x : Iss) (s : State) : Out := .next (s.issue x .plain 1 true (unOp (fun a => a + 1)))

/-- DEC. -/
def execDec (x : Iss) (s : State) : Out := .next (s.issue x .plain 1 true (unOp (fun a => a - 1)))

/-- AND. -/
def execAnd (x : Iss) (s : State) : Out := .next (s.issue x .plain 1 true (binOp (fun a b => a &&& b)))

/-- OR. -/
def execOr (x : Iss) (s : State) : Out := .next (s.issue x .plain 1 true (binOp (fun a b => a ||| b)))

/-- XOR. -/
def execXor (x : Iss) (s : State) : Out := .next (s.issue x .plain 1 true (binOp (fun a b => a ^^^ b)))

/-- NOT. -/
def execNot (x : Iss) (s : State) : Out := .next (s.issue x .plain 1 true (unOp (fun a => ~~~ a)))

/-- ANDN: clears in a the bits set in b. -/
def execAndn (x : Iss) (s : State) : Out := .next (s.issue x .plain 1 true (binOp (fun a b => a &&& ~~~ b)))

/-- SHL by n[4:0]. -/
def execShl (x : Iss) (s : State) : Out := .next (s.issue x .plain 1 true (binOp (fun a n => a <<< cnt5 n)))

/-- SHR by n[4:0], logical. -/
def execShr (x : Iss) (s : State) : Out := .next (s.issue x .plain 1 true (binOp (fun a n => a >>> cnt5 n)))

/-- SAR by n[4:0], arithmetic. -/
def execSar (x : Iss) (s : State) : Out := .next (s.issue x .plain 1 true (binOp (fun a n => a.sshiftRight (cnt5 n))))

/-- ROL by n[4:0]. -/
def execRol (x : Iss) (s : State) : Out := .next (s.issue x .plain 1 true (binOp (fun a n => a.rotateLeft (cnt5 n))))

/-- ROR by n[4:0]. -/
def execRor (x : Iss) (s : State) : Out := .next (s.issue x .plain 1 true (binOp (fun a n => a.rotateRight (cnt5 n))))

/-- SHLI s. -/
def execShli (x : Iss) (b : Byte) (s : State) : Out := .next (s.issue x .plain 2 (imm5 b) (unOp (fun a => a <<< b.toNat)))

/-- SHRI s, logical. -/
def execShri (x : Iss) (b : Byte) (s : State) : Out := .next (s.issue x .plain 2 (imm5 b) (unOp (fun a => a >>> b.toNat)))

/-- SARI s, arithmetic. -/
def execSari (x : Iss) (b : Byte) (s : State) : Out := .next (s.issue x .plain 2 (imm5 b) (unOp (fun a => a.sshiftRight b.toNat)))

/-- EXTR pos, len. -/
def execExtr (x : Iss) (pos len : Byte) (s : State) : Out := .next (s.issue x .plain 3 (immPL pos len) (unOp (extr pos.toNat len.toNat)))

/-- INS pos, len. -/
def execIns (x : Iss) (pos len : Byte) (s : State) : Out := .next (s.issue x .plain 3 (immPL pos len) (binOp (ins pos.toNat len.toNat)))

/-- CLZ. -/
def execClz (x : Iss) (s : State) : Out := .next (s.issue x .plain 1 true (unOp clz))

/-- POPC. -/
def execPopc (x : Iss) (s : State) : Out := .next (s.issue x .plain 1 true (unOp popc))

/-- BSWAP32. -/
def execBswap32 (x : Iss) (s : State) : Out := .next (s.issue x .plain 1 true (unOp bswap32))

/-- BSWAP16. -/
def execBswap16 (x : Iss) (s : State) : Out := .next (s.issue x .plain 1 true (unOp bswap16))

/-- MUL: low 32 bits. -/
def execMul (x : Iss) (s : State) : Out := .next (s.issue x .plain 1 true (binOp (fun a b => a * b)))

/-- MULH. -/
def execMulh (x : Iss) (s : State) : Out := .next (s.issue x .plain 1 true (binOp mulh))

/-- MULHU. -/
def execMulhu (x : Iss) (s : State) : Out := .next (s.issue x .plain 1 true (binOp mulhu))

/-- MIN, signed. -/
def execMin (x : Iss) (s : State) : Out := .next (s.issue x .plain 1 true (binOp (fun a b => if a.slt b then a else b)))

/-- MAX, signed. -/
def execMax (x : Iss) (s : State) : Out := .next (s.issue x .plain 1 true (binOp (fun a b => if a.slt b then b else a)))

end Sys2Proof.Machine
end

