-- ==== Sys2Proof/Machine/Hash.lean ====
section
/-! DEFINITION. The functions of the hash and seal helpers (09 R280–R284): CRC-32, CRC-32C, SipHash-2-4, AES, GHASH.
The manual names the standards; the algorithms are theirs (log entry 16). -/

namespace Sys2Proof.Machine

/-! ### Reflected CRCs (R280) -/

/-- One bit of a reflected CRC register. -/
def crcBit (poly c : Word) : Word := if c.getLsbD 0 then (c >>> 1) ^^^ poly else c >>> 1

/-- `n` bits. -/
def crcBits (poly : Word) : Nat → Word → Word
  | 0, c => c
  | n + 1, c => crcBits poly n (crcBit poly c)

/-- The register after the bytes `bs`. -/
def crcRun (poly : Word) (c : Word) : List Byte → Word
  | [] => c
  | b :: bs => crcRun poly (crcBits poly 8 (c ^^^ b.setWidth 32)) bs

/-- A CRC with INIT: register start 0xFFFFFFFF xor INIT, final xor 0xFFFFFFFF (R280, R281). -/
def crcOf (poly init : Word) (bs : List Byte) : Word := crcRun poly (0xFFFFFFFF ^^^ init) bs ^^^ 0xFFFFFFFF

/-- CRC-32 of IEEE 802.3: 0x04C11DB7 reflected. -/
def crc32 (init : Word) (bs : List Byte) : Word := crcOf 0xEDB88320 init bs

/-- CRC-32C: 0x1EDC6F41 reflected. -/
def crc32c (init : Word) (bs : List Byte) : Word := crcOf 0x82F63B78 init bs

/-! ### SipHash-2-4 -/

/-- The state of SipHash. -/
structure Sip where
  v0 : BitVec 64
  v1 : BitVec 64
  v2 : BitVec 64
  v3 : BitVec 64

/-- One SipRound. -/
def sipRound (s : Sip) : Sip :=
  let v0 := s.v0 + s.v1
  let v1 := s.v1.rotateLeft 13 ^^^ v0
  let v0 := v0.rotateLeft 32
  let v2 := s.v2 + s.v3
  let v3 := s.v3.rotateLeft 16 ^^^ v2
  let v0 := v0 + v3
  let v3 := v3.rotateLeft 21 ^^^ v0
  let v2 := v2 + v1
  let v1 := v1.rotateLeft 17 ^^^ v2
  ⟨v0, v1, v2.rotateLeft 32, v3⟩

/-- One message word with its two rounds. -/
def sipWord (s : Sip) (m : BitVec 64) : Sip :=
  let t := sipRound (sipRound { s with v3 := s.v3 ^^^ m })
  { t with v0 := t.v0 ^^^ m }

/-- The message words: eight bytes each, the last with the length in its top byte. -/
def sipWords (bs : List Byte) : List (BitVec 64) :=
  let full := (List.range (bs.length / 8)).map (fun i => BitVec.ofNat 64 (leNat ((bs.drop (8 * i)).take 8)))
  full ++ [BitVec.ofNat 64 (leNat (bs.drop (8 * (bs.length / 8))) + bs.length % 256 * 2 ^ 56)]

/-- SipHash-2-4 with the key halves `k0` and `k1`. -/
def siphash (k0 k1 : BitVec 64) (bs : List Byte) : BitVec 64 :=
  let s : Sip := ⟨k0 ^^^ 0x736f6d6570736575, k1 ^^^ 0x646f72616e646f6d, k0 ^^^ 0x6c7967656e657261, k1 ^^^ 0x7465646279746573⟩
  let t := (sipWords bs).foldl sipWord s
  let u := sipRound (sipRound (sipRound (sipRound { t with v2 := t.v2 ^^^ 0xff })))
  u.v0 ^^^ u.v1 ^^^ u.v2 ^^^ u.v3

/-! ### AES (FIPS 197) -/

/-- Multiplication by x in the field of AES. -/
def xtime (b : Byte) : Byte := if b.getLsbD 7 then (b <<< 1) ^^^ 0x1b else b <<< 1

/-- Multiplication in the field of AES; `n` bits of `a` are left. -/
def gmul : Nat → Byte → Byte → Byte
  | 0, _, _ => 0
  | n + 1, a, b => (if a.getLsbD 0 then b else 0) ^^^ gmul n (a >>> 1) (xtime b)

/-- `n`-fold squaring and multiplying: b to the power 2^(n+1) - 2. -/
def gpow : Nat → Byte → Byte
  | 0, _ => 1
  | n + 1, b => let q := gmul 8 b b; gmul 8 q (gpow n q)

/-- The S-box: the inverse (b to the 254) and the affine map. -/
def sbox (b : Byte) : Byte :=
  let i := gpow 7 b
  i ^^^ i.rotateLeft 1 ^^^ i.rotateLeft 2 ^^^ i.rotateLeft 3 ^^^ i.rotateLeft 4 ^^^ 0x63

/-- Byte-wise exclusive or, as long as the shorter list. -/
def xorL (a b : List Byte) : List Byte := List.zipWith (· ^^^ ·) a b

/-- The round constant byte number `i` (from 1). -/
def rcon : Nat → Byte
  | 0 => 1
  | 1 => 1
  | n + 2 => xtime (rcon (n + 1))

/-- Expand the key of `nk` words to `n` more words; `ws` holds the words so far, newest first. -/
def expandKey (nk : Nat) : Nat → List (List Byte) → List (List Byte)
  | 0, ws => ws.reverse
  | n + 1, ws =>
    let i := ws.length
    let t := ws.headD []
    let t1 := if i % nk = 0 then xorL ((t.drop 1 ++ t.take 1).map sbox) [rcon (i / nk), 0, 0, 0]
              else if 6 < nk ∧ i % nk = 4 then t.map sbox else t
    expandKey nk n (xorL (ws.getD (nk - 1) []) t1 :: ws)

/-- The round keys of a 16-byte or a 32-byte key. -/
def roundKeys (key : List Byte) : List (List Byte) :=
  let nk := key.length / 4
  let w := (List.range nk).map (fun i => (key.drop (4 * i)).take 4)
  let all := expandKey nk (4 * (nk + 7) - nk) w.reverse
  (List.range (nk + 7)).map (fun r => ((all.drop (4 * r)).take 4).flatten)

/-- ShiftRows on a column-major block. -/
def shiftRows (b : List Byte) : List Byte :=
  (List.range 16).map (fun i => b.getD ((i + 4 * (i % 4)) % 16) 0)

/-- MixColumns. -/
def mixColumns (b : List Byte) : List Byte :=
  (List.range 16).map (fun i =>
    let c := i / 4 * 4
    let at' := fun k => b.getD (c + (i + k) % 4) 0
    xtime (at' 0) ^^^ (xtime (at' 1) ^^^ at' 1) ^^^ at' 2 ^^^ at' 3)

/-- The rounds after the first key addition; the last has no MixColumns. -/
def aesRounds : List (List Byte) → List Byte → List Byte
  | [], b => b
  | [k], b => xorL (shiftRows (b.map sbox)) k
  | k :: ks, b => aesRounds ks (xorL (mixColumns (shiftRows (b.map sbox))) k)

/-- AES encryption of one block under a key of 16 or 32 bytes. -/
def aes (key : List Byte) (b : List Byte) : List Byte :=
  match roundKeys key with
  | [] => b
  | k :: ks => aesRounds ks (xorL b k)

/-! ### GHASH (SP 800-38D) -/

/-- The block as a 128-bit number, first byte most significant. -/
def blk128 (b : List Byte) : BitVec 128 := BitVec.ofNat 128 (beNat b)

/-- Multiplication in GF(2^128): `n` bits of `x` are left, most significant first. -/
def ghMul : Nat → BitVec 128 → BitVec 128 → BitVec 128 → BitVec 128
  | 0, _, _, z => z
  | n + 1, x, v, z =>
    let z1 := if x.getLsbD n then z ^^^ v else z
    let v1 := if v.getLsbD 0 then (v >>> 1) ^^^ 0xE1000000000000000000000000000000 else v >>> 1
    ghMul n x v1 z1

/-- One GHASH step. -/
def ghStep (h : List Byte) (acc : List Byte) (b : List Byte) : List Byte :=
  beBytes 16 (ghMul 128 (blk128 (xorL acc (fit 16 b))) (blk128 h) 0).toNat

/-- The blocks of 16 bytes of a message, the last one short. -/
def blocks16 (bs : List Byte) : List (List Byte) :=
  (List.range ((bs.length + 15) / 16)).map (fun i => (bs.drop (16 * i)).take 16)

/-- The counter block with its 32-bit counter advanced. -/
def incCtr (b : List Byte) : List Byte := b.take 12 ++ beBytes 4 ((beNat (b.drop 12) + 1) % 2 ^ 32)

end Sys2Proof.Machine
end

