-- ==== Sys2Proof/Machine/Tables.lean ====
section
/-! DEFINITION. Table memory: descriptors and placement, rows with their errors, entry formats, table operations on
their way through the tiles, the tile arbiter (10 R293–R328, 14 R418–R420). -/

namespace Sys2Proof.Machine

/-! ### Descriptors (R295) and banks (R312) -/

/-- Word `w` of the descriptor of table `t`: 0 CFG, 1 PA, 2 PB, 3 LEN, 4 NODE, 5 SEED, 6 AUX. -/
def State.td (s : State) (t w : Nat) : Word := s.reg (tbA (0x1000 + 32 * t + 4 * w))

def State.tKind (s : State) (t : Nat) : Nat := bits (s.td t 0) 10 8
/-- Entry width W in bytes. -/
def State.tW (s : State) (t : Nat) : Nat := 16 * 2 ^ bits (s.td t 0) 17 16
def State.tDual (s : State) (t : Nat) : Bool := bit (s.td t 0) 28
def State.tMirror (s : State) (t : Nat) : Bool := bit (s.td t 0) 27
def State.tPrim (s : State) (t : Nat) : Bool := bit (s.td t 0) 26
def State.tRing (s : State) (t : Nat) : Bool := bit (s.td t 0) 23
def State.tMeter (s : State) (t : Nat) : Bool := bit (s.td t 0) 22
def State.tLen (s : State) (t : Nat) : Nat := bits (s.td t 3) 23 0
/-- KLEN, strides or depth. -/
def State.tParam (s : State) (t : Nat) : Nat := bits (s.td t 3) 31 24
/-- Rows of an entry. -/
def State.tRows (s : State) (t : Nat) : Nat := if s.tW t = 64 then 2 else 1

/-- ABANK and PBANK of table `t`. -/
def State.abank (s : State) (t : Nat) : Bool := tget false s.tb.abank t
def State.pbank (s : State) (t : Nat) : Bool := tget false s.tb.pbank t

/-- The bank that a round uses; a round that is neither CUR nor a live PREV uses ABANK (log entry 23). -/
def State.bankOf (s : State) (t : Nat) (round : Byte) : Bool :=
  if !s.tDual t then false
  else if round = s.tb.cur then s.abank t
  else if s.tb.plive && round = s.tb.prev then s.pbank t
  else s.abank t

/-- Bank `b` of a DUAL table is idle (R315). -/
def State.idleBank (s : State) (t : Nat) (b : Bool) : Bool := (b ≠ s.abank t) && (!s.tb.plive || b ≠ s.pbank t)

/-- The relocation entry of table `t` (R320); where two VALID entries name the table, the lower-numbered one (the model's choice, log entry
126). -/
def State.reloc (s : State) (t : Nat) : Option Word :=
  ((List.range 8).map (fun k => s.reg (tbA (0x300 + 4 * k)))).find? (fun w => bit w 31 && decide (bits w 23 16 = t))

/-- First tile, log2 of the tile count and first row of a bank. -/
def State.tPlace (s : State) (t : Nat) (bank : Bool) : Nat × Nat × Nat :=
  let p := s.td t (if bank then 2 else 1)
  match (if bank then none else s.reloc t) with
  | some w => (bits w 28 24, bits p 22 20, bits w 15 0)
  | none => (bits p 28 24, bits p 22 20, bits p 15 0)

/-- Tile, row and byte offset of entry `e` (R296). -/
def State.entryAt (s : State) (t : Nat) (bank : Bool) (e : Nat) : Nat × Nat × Nat :=
  let (ts, tc, base) := s.tPlace t bank
  let u := if s.tW t = 16 then e / 2 else e
  let off := if s.tW t = 16 then 16 * (e % 2) else 0
  (ts + u % 2 ^ tc, base + u / 2 ^ tc * s.tRows t, off)

/-- First node row of a bank. -/
def State.nBase (s : State) (t : Nat) (bank : Bool) : Nat := if bank then bits (s.td t 4) 31 16 else bits (s.td t 4) 15 0

/-- Tile and row of LPM node `n`, slot `v` (R303). -/
def State.slotAt (s : State) (t : Nat) (bank : Bool) (n v : Nat) : Nat × Nat :=
  let (ts, tc, _) := s.tPlace t bank
  (ts + n % 2 ^ tc, s.nBase t bank + n / 2 ^ tc * 32 + v / 8)

/-- Tile and row of interval node `i` of level `l` (R304). -/
def State.nodeAt (s : State) (t : Nat) (bank : Bool) (l i : Nat) : Nat × Nat :=
  let (ts, tc, _) := s.tPlace t bank
  let x := (8 ^ l - 1) / 7 + i
  (ts + x % 2 ^ tc, s.nBase t bank + x / 2 ^ tc)

/-! ### Tiles: failure, errors, rows (R317–R319) -/

/-- The arbiter and failure record of a tile; the cycles before its first grant count as free (R323). -/
def State.arb (s : State) (t : Nat) : Arb := tget ⟨none, 2, [], false, 0, []⟩ s.tb.arb t
def State.setArb (s : State) (t : Nat) (a : Arb) : State := { s with tb := { s.tb with arb := tset s.tb.arb t a } }
def State.failedTile (s : State) (t : Nat) : Bool := (s.arb t).failed

/-- The domain of a tile. -/
def tileDom (t : Nat) : Nat := if t < 16 then dTblN else dTblS

/-- The other half's tile. -/
def otherTile (t : Nat) : Nat := if t < 16 then t + 16 else t - 16

/-- How many of `u` units, dealt out in turn over 2^`tc` tiles, lie in tile `tile` (R296); TSTART is a multiple of 2^`tc`. -/
def unitsIn (u tc tile : Nat) : Nat := (u + 2 ^ tc - 1 - tile % 2 ^ tc) / 2 ^ tc

/-- Entry units of a bank, and its nodes with the rows of each (R296, R303, R304). -/
def State.bankUnits (s : State) (t : Nat) : Nat := if s.tW t = 16 then (s.tLen t + 1) / 2 else s.tLen t
def State.bankNodes (s : State) (t : Nat) : Nat × Nat :=
  if s.tKind t = 3 then (bits (s.td t 6) 23 0, 32) else if s.tKind t = 4 then ((8 ^ s.tParam t - 1) / 7, 1) else (0, 0)

/-- Entry rows of a bank in a tile of it, or in the tile of its second copy: the first, and how many. -/
def State.bankRows (s : State) (t : Nat) (bank : Bool) (tile : Nat) : Nat × Nat :=
  let (_, tc, base) := s.tPlace t bank
  (base, unitsIn (s.bankUnits t) tc tile * s.tRows t)

/-- Node rows of a bank in such a tile. -/
def State.nodeRows (s : State) (t : Nat) (bank : Bool) (tile : Nat) : Nat × Nat :=
  let (_, tc, _) := s.tPlace t bank
  (s.nBase t bank, unitsIn (s.bankNodes t).1 tc tile * (s.bankNodes t).2)

/-- Tile `tile` belongs to a copy of the bank: 1 the primary, 2 the second, 0 no. -/
def State.tileIn (s : State) (t : Nat) (bank : Bool) (tile : Nat) : Nat :=
  let (ts, tc, _) := s.tPlace t bank
  if ts ≤ tile ∧ tile < ts + 2 ^ tc then 1
  else if s.tMirror t && decide (ts ≤ otherTile tile) && decide (otherTile tile < ts + 2 ^ tc) then 2 else 0

/-- A row of a tile is an entry row or a node row of a bank, in either copy. -/
def State.rowIn (s : State) (t : Nat) (bank : Bool) (tile row : Nat) : Bool :=
  let (r, n) := s.bankRows t bank tile
  let (r2, n2) := s.nodeRows t bank tile
  decide (s.tileIn t bank tile ≠ 0) && ((decide (r ≤ row) && decide (row < r + n)) || (decide (r2 ≤ row) && decide (row < r2 + n2)))

/-- The tiles of the primary copy of a bank that hold a row of it (R319). -/
def State.bankTiles (s : State) (t : Nat) (bank : Bool) : List Nat :=
  let (ts, tc, _) := s.tPlace t bank
  ((List.range (2 ^ tc)).map (fun i => ts + i)).filter (fun x => decide ((s.bankRows t bank x).2 ≠ 0) || decide ((s.nodeRows t bank x).2 ≠ 0))

/-- A tile of the primary copy of bank `bank` has failed. -/
def State.bankFailed (s : State) (t : Nat) (bank : Bool) : Bool := (s.bankTiles t bank).any s.failedTile

/-- The primary copy of a table, or its second copy, lies on a failed tile and is used no more (R319): the copy is that
of the whole table, both banks of a DUAL one. -/
def State.copyDead (s : State) (t : Nat) (second : Bool) : Bool :=
  (s.bankTiles t false ++ (if s.tDual t then s.bankTiles t true else [])).any
    (fun i => s.failedTile (if second then otherTile i else i))

/-- Tile `tile` of a mirrored table lies in the half of its second copy. -/
def State.inSecond (s : State) (t tile : Nat) : Bool := decide (16 ≤ tile) != decide (16 ≤ (s.tPlace t false).1)

/-- The copy of a mirrored table opposite tile `tile` is in use. -/
def State.altOk (s : State) (t tile : Nat) : Bool := s.tMirror t && !s.copyDead t (s.inSecond t (otherTile tile))

/-- No copy of the bank is in use (R319). -/
def State.tFailed (s : State) (t : Nat) (bank : Bool) : Bool :=
  if s.tMirror t then s.copyDead t false && s.copyDead t true else s.bankFailed t bank

/-- Every operation on this bank acts as on an uncorrectable error (R319, R320; log entry 24). -/
def State.tDead (s : State) (t : Nat) (bank : Bool) : Bool :=
  (match (if bank then none else s.reloc t) with | some w => bit w 30 | none => false) || s.tFailed t bank

/-- The copy that requester `rk` reads (R317), `tile` being the entry's tile in the primary copy. MRD 3, which is reserved and which R297
does not refuse, reads the primary copy (the model's choice, log entry 126). -/
def State.rdTile (s : State) (t rk tile : Nat) : Nat :=
  if !s.tMirror t then tile
  else
    let mrd := bits (s.td t 0) 25 24
    let want := if mrd = 1 then otherTile tile
                else if mrd = 2 ∧ rk < 12 then (if rk < 6 then tile % 16 else 16 + tile % 16)
                else tile
    if s.copyDead t (s.inSecond t want) then otherTile want else want

/-- The copy that writes and read-modify-writes act on: the primary one while it is in use. -/
def State.wrTile (s : State) (t tile : Nat) : Nat := if s.tMirror t && s.copyDead t false then otherTile tile else tile

/-- An uncorrectable error in a row: counted, logged, UE set, the row noted and entered in the repair map (R318, R344). -/
def State.tileUe (s : State) (tile row : Nat) : State :=
  let s1 := ((s.count (tbA 0x808)).logAdd (tbA 0x80) 8 (2 ^ 31 + at_ tile 16 + row)).orReg (tbA (0x100 + 4 * tile)) 1
  let a := s1.arb tile
  if a.ueRows.contains row then s1
  else (s1.setArb tile { a with ueRows := a.ueRows ++ [row] }).repairTile tile row

/-- A tile enters FAILED (R319). -/
def State.failTile (s : State) (tile cause : Nat) : State :=
  let a := s.arb tile
  if a.failed then s
  else
    let s1 := { s with tb := { s.tb with scrubReq := s.tb.scrubReq.filter (fun x => x.1 ≠ tile) } }
    (s1.setArb tile { a with failed := true, failCause := cause }).orReg (tbA (0x100 + 4 * tile)) 2

/-- The key of the error mark of lane `l` of a row. -/
def laneKey (tile row l : Nat) : Nat := (tile * 65536 + row) * 4 + l

/-- A read beat on row `row`: uncorrectable or not. Each of the row's four lanes has a SECDED word of its own (R293): a
single error counts for its lane; an uncorrectable one is found once in the beat, whichever lanes hold it (log entry
103). -/
def State.rowTouch (s : State) (tile row : Nat) : Bool × State :=
  let ms := (List.range 4).filterMap (fun l => tfind s.tileErr (laneKey tile row l))
  let s1 := s.count (tbA 0x800) (ms.filter (fun b => !b)).length
  if ms.contains true then (true, s1.tileUe tile row) else (false, s1)

/-- `n` rows of one tile, as read. -/
def State.readRows (s : State) (tile row : Nat) : Nat → Bool × List Byte × State
  | 0 => (false, [], s)
  | n + 1 =>
    let (b, s1) := s.rowTouch tile row
    let (b2, bs, s2) := s1.readRows tile (row + 1) n
    (b || b2, mread 0 s.tile (tlA tile row 0) 32 ++ bs, s2)

/-- Read with the second attempt of a mirrored table whose other copy is in use (R318). -/
def State.readAt (s : State) (alt : Bool) (tile row n : Nat) : Bool × List Byte × State :=
  let (b, bs, s1) := s.readRows tile row n
  if b && alt then s1.readRows (otherTile tile) row n else (b, bs, s1)

/-- Write bytes from byte `off` of row `row`; rows wholly covered become good. -/
def State.tileW (s : State) (tile row off : Nat) (bs : List Byte) : State :=
  let whole := fun (k : Nat) => decide (off ≤ 32 * k) && decide (32 * k + 32 ≤ off + bs.length)
  { s with tile := mwrite 0 s.tile (tlA tile row off) bs,
           tileErr := tkeep s.tileErr (fun k _ => !(laneKey tile row 0 ≤ k && whole ((k - laneKey tile row 0) / 4))) }

/-! ### Hash tables (R300–R302) -/

/-- The four candidate entries of a key. -/
def State.cands (s : State) (t : Nat) (key : List Byte) : List Nat :=
  let n := s.tLen t / 4
  (List.range 4).map (fun w => w * n + (crc32c (s.td t 5 + BitVec.ofNat 32 (w * 0x9E3779B9)) key).toNat % n)

/-- Bytes of DATA of a hash entry. -/
def State.dataLen (s : State) (t : Nat) : Nat := s.tW t - s.tParam t - 4

/-- VALID of a hash entry. -/
def State.hValid (s : State) (t : Nat) (e : List Byte) : Bool := (e.getD (s.tW t - 1) 0).getLsbD 7

/-- The key hits in an entry. -/
def State.hHit (s : State) (t : Nat) (key e : List Byte) : Bool :=
  s.hValid t e && decide ((e.drop (s.dataLen t)).take (s.tParam t) = key)

/-- The bytes of a hash entry. -/
def State.hEntry (s : State) (t : Nat) (data key : List Byte) : List Byte :=
  fit (s.dataLen t) data ++ fit (s.tParam t) key ++ [0, 0, 0, 0x80]

/-- Read the candidates in the primary copy: an uncorrectable error, or (entry index, bytes) of each way. -/
def State.scan (s : State) (t : Nat) (bank : Bool) : List Nat → Bool × List (Nat × List Byte) × State
  | [] => (false, [], s)
  | e :: es =>
    let (tile, row, off) := s.entryAt t bank e
    let w := s.wrTile t tile
    let (b, bs, s1) := s.readAt (s.altOk t w) w row (s.tRows t)
    let (b2, xs, s2) := s1.scan t bank es
    (b || b2, (e, (bs.drop off).take (s.tW t)) :: xs, s2)

/-- What an insert does: `written` names the write it made. -/
inductive Ins where
  | ue | present (e : Nat) | written (a : Acc) | full
deriving DecidableEq, Repr

/-- Search again and insert DATA under `key` in the lowest free way (R302). -/
def State.insert (s : State) (t : Nat) (bank : Bool) (key data : List Byte) : Ins × State :=
  let (b, xs, s1) := s.scan t bank (s.cands t key)
  if b then (.ue, s1)
  else match xs.find? (fun x => s.hHit t key x.2) with
    | some x => (.present x.1, s1)
    | none => match xs.find? (fun x => !s.hValid t x.2) with
      | none => (.full, s1)
      | some x =>
        let (tile, row, off) := s1.entryAt t bank x.1
        let a : Acc := ⟨s1.wrTile t tile, row, s.tRows t, 1, off, s.hEntry t data key⟩
        (.written a, s1.tileW a.tile row off a.data)

/-! ### Meters (R306) and windows (14 R418, R419) -/

/-- The fields of a meter entry. -/
structure Meter where
  tlast : Nat
  tc : Nat
  te : Nat
  cbs : Nat
  ebs : Nat
  cir : Nat
deriving DecidableEq, Repr

def Meter.ofBytes (e : List Byte) : Meter :=
  let f := fun i => leNat ((e.drop (4 * i)).take 4)
  ⟨f 0, f 1, f 2, f 3, f 4, f 5⟩

/-- The entry with the meter's three moving fields. -/
def Meter.put (m : Meter) (e : List Byte) : List Byte :=
  leBytes 4 m.tlast ++ leBytes 4 m.tc ++ leBytes 4 m.te ++ e.drop 12

/-- refill(t). -/
def Meter.refill (m : Meter) (t : Word) : Meter :=
  let l := BitVec.ofNat 32 m.tlast
  if !serBefore l t then m
  else
    let add := (t - l).toNat * m.cir / 65536
    let a := min add (m.cbs - m.tc)
    { m with tlast := t.toNat, tc := m.tc + a, te := m.te + min (add - a) (m.ebs - m.te) }

/-- The colour of a charge of `b` bytes: 0 green, 1 yellow, 2 red. -/
def Meter.colour (m : Meter) (b : Nat) : Nat := if b ≤ m.tc then 0 else if b ≤ m.te then 1 else 2

/-- The charge taken. -/
def Meter.charge (m : Meter) (b : Nat) : Meter :=
  if b ≤ m.tc then { m with tc := m.tc - b } else if b ≤ m.te then { m with te := m.te - b } else m

/-- CAS on a window entry: the result and the entry after it. -/
def windowCas (hlen tmo : Nat) (t : Word) (sq : Nat) (attempt : Nat) (e : List Byte) : Nat × List Byte :=
  let rseq := leNat (e.take 2)
  let tlast := BitVec.ofNat 32 (leNat ((e.drop 4).take 4))
  let hist := leNat (e.drop 8) % 2 ^ hlen
  let valid := (e.getD 2 0).getLsbD 0 && !(decide (tmo ≠ 0) && decide (tmo * 1000000 ≤ (t - tlast).toNat))
  let mk := fun (rs h : Nat) => leBytes 2 rs ++ [(e.getD 2 0) ||| 1, e.getD 3 0] ++ leBytes 4 t.toNat ++
                                leBytes (e.length - 8) (h % 2 ^ hlen)
  if !valid then (0, mk sq 1)
  else
    let d := (sq + 65536 - rseq) % 65536
    let b := (rseq + 65536 - sq) % 65536
    if d ≠ 0 ∧ d < hlen then (0, mk sq (hist * 2 ^ d + 1))
    else if b < hlen then
      if hist / 2 ^ b % 2 = 1 then ((if attempt ≠ 0 then 3 else 1), mk rseq hist)
      else (0, mk rseq (hist + 2 ^ b))
    else (2, e)

/-! ### Locks (R310) -/

/-- The lock on an entry, if it is taken. -/
def State.lockOf (s : State) (t idx : Nat) : Option Lock := s.tb.locks.find? (fun l => l.table = t && l.idx = idx)

/-- The locks a context holds. -/
def State.locksOf (s : State) (key : Nat) : List Lock := s.tb.locks.filter (fun l => l.owner = key)

/-- Locks in a tile's store. -/
def State.lockFill (s : State) (tile : Nat) : Nat := (s.tb.locks.filter (fun l => l.tile = tile)).length

/-! ### The ledger entries a packet holds (04 R116) -/

/-- The held entries of a packet, of one operation on one table. One whose commit has made its first write counts where `com` says so:
the entry is committed with the second write, but the data that a lookup reads from the first copy holds it already (10 R317; log entry
109). -/
def State.heldEnts (s : State) (md : Meta) (op : BitVec 2) (t : Nat) (com : Bool) : List LEntry :=
  (s.led.ent.map (fun e => e.2)).filter (fun e =>
    e.used && (com || !e.com) && e.lane = md.lane && e.pip = md.pip && e.op = op && e.table.toNat = t)

/-- LOOKW on an index entry: the sums of the held CNTs added in, those that only the second copy lacks where it is read (`sec`). -/
def State.withCnts (s : State) (md : Meta) (t idx : Nat) (sec : Bool) (e : List Byte) : List Byte :=
  let es := (s.heldEnts md 0 t sec).filter (fun x => leNat (x.payload.take 4) = idx)
  let a0 := (es.map (fun x => leNat ((x.payload.drop 4).take 4))).sum
  let a1 := (es.map (fun x => leNat ((x.payload.drop 8).take 4))).sum
  leBytes 8 (leNat (e.take 8) + a0) ++ leBytes 8 (leNat ((e.drop 8).take 8) + a1) ++ e.drop 16

/-- LOOKW on a key that committed state lacks: the entry of the earliest held LRN; of two that differ in their attempt alone, the
one with the lowest ledger index (the model's choice, log entry 87). -/
def State.heldLrn (s : State) (md : Meta) (t : Nat) (key : List Byte) : Option (List Byte) :=
  let es := (s.heldEnts md 2 t true).filter (fun x => x.payload.take key.length = key)
  (es.foldl (fun (b : Option LEntry) x => match b with
    | none => some x
    | some y => if x.rank < y.rank ∨ (x.rank = y.rank ∧ x.seq < y.seq) then some x else some y) none).map
    (fun x => s.hEntry t ((x.payload.drop 16).take 4) key)

/-! ### Table operations -/

/-- The source number of a TBL_CMD command. -/
abbrev tblCmd : Nat := 100000

/-- List an operation last (its requests reach the tiles after those already listed), or forget it. -/
def State.putOp (s : State) (o : TOp) : State :=
  { s with tb := { s.tb with ops := s.tb.ops.filter (fun p => p.id ≠ o.id) ++ [o] } }

/-- Entries held. -/
def State.fill (s : State) : Nat := s.led.ent.length

/-- LEDGER_PEAK follows the fill, and the fall-backs follow the thresholds (04 R128). -/
def State.thresholds (s : State) : State :=
  let n := s.fill
  let l := s.led
  { s with led := { l with peak := max l.peak n,
                           safLong := if 12288 ≤ n then true else if n ≤ 11264 then false else l.safLong,
                           safAll := if 15565 ≤ n then true else if n ≤ 14336 then false else l.safAll } }

/-- Free entry `idx`. -/
def State.ledFree (s : State) (idx : Nat) : State :=
  ({ s with led := { s.led with ent := tdel s.led.ent idx } }).thresholds

/-- The operation ends with a result; one that nobody waits for is forgotten; the second write of a commit ends the
commit of its ledger entry (R317). -/
def State.finOp (s : State) (o : TOp) (res : Nat) (out : List Byte) : State :=
  if o.kind = .copy then
    let s1 := { s with tb := { s.tb with ops := s.tb.ops.filter (fun p => p.id ≠ o.id) } }
    if o.req = 14 then (s1.count (ldA 0x108)).ledFree o.idx else s1
  else if o.orphan then { s with tb := { s.tb with ops := s.tb.ops.filter (fun p => p.id ≠ o.id) } }.wakeAgain o.src
  else s.putOp { o with fin := true, res := BitVec.ofNat 32 res, out := out, acc := [], seqHalf := none, hint := [] }

/-- The operation meets an uncorrectable error, a failed tile or a rebuild (R318–R320). R318 does not name UNLOCK, which releases the
context's locks on the table and completes, nor a steward's CNT, LRN and LOG, which are dropped and counted nowhere (the model's
choices, log entry 126). -/
def State.failOp (s : State) (o : TOp) : State :=
  match o.kind with
  | .look | .lookw | .mtr => s.finOp { o with ue := true } 0 []
  | .upd => s.finOp o 0 []
  | .cas => s.finOp o (if s.tKind o.table = 5 then 2 else 0) []
  | .unlock =>
    let s1 := { s with tb := { s.tb with locks := s.tb.locks.filter (fun l => !(l.owner = o.src && l.table = o.table)) } }
    s1.finOp o 0 []
  | .cnt | .lrn | .log | .copy => s.finOp o 0 []
  | .cmdRead | .cmdWrite | .rowsRead | .rowsWrite => s.finOp o 3 []

/-- A read of entry `e` into `got` number `tag`. The hash searches of a steward's CAS and UNLOCK read the copy that MRD names, as its LOOK
does (the model's choice, log entry 126). -/
def State.rdAcc (s : State) (o : TOp) (e tag : Nat) : Acc :=
  let (tile, row, _) := s.entryAt o.table (o.bank = 1) e
  ⟨s.rdTile o.table o.req tile, row, s.tRows o.table, 0, tag, []⟩

/-- A write of `bs` from byte `off` of entry `e`. -/
def State.wrAcc (s : State) (o : TOp) (e off : Nat) (bs : List Byte) : Acc :=
  let (tile, row, o1) := s.entryAt o.table (o.bank = 1) e
  ⟨s.wrTile o.table tile, row, s.tRows o.table, 1, o1 + off, bs⟩

/-- A read-modify-write of entry `e`. -/
def State.rmwAcc (s : State) (o : TOp) (e : Nat) : Acc :=
  let (tile, row, o1) := s.entryAt o.table (o.bank = 1) e
  ⟨s.wrTile o.table tile, row, s.tRows o.table, 2, o1, []⟩

/-- Reads of the four candidates. -/
def State.searchAccs (s : State) (o : TOp) : List Acc :=
  (List.range 4).map (fun w => s.rdAcc o ((s.cands o.table o.key).getD w 0) w)

/-- The read of the node that the walk is at. -/
def State.nodeAcc (s : State) (o : TOp) : Acc :=
  let (tile, row) := if s.tKind o.table = 3 then s.slotAt o.table (o.bank = 1) o.node (o.key.getD o.phase 0).toNat
                     else s.nodeAt o.table (o.bank = 1) o.phase o.node
  ⟨s.rdTile o.table o.req tile, row, 1, 0, 0, []⟩

/-- The half whose insert sequencer serves a bank: that of the table's primary copy, whichever copy is in use (R302). -/
def State.seqHalfOf (s : State) (t : Nat) (bank : Bool) : Nat :=
  b2n (if s.tMirror t then s.tPrim t else decide (16 ≤ (s.tPlace t bank).1))

/-- The insert sequencer's half of an operation's table. -/
def State.seqOf (s : State) (o : TOp) : Nat := s.seqHalfOf o.table (o.bank = 1)

/-- The operation names rows of one tile, not entries of a table. -/
def TOp.onRows (o : TOp) : Bool := o.kind = .rowsRead || o.kind = .rowsWrite

/-- The operation acts as on an uncorrectable error (R319, R320): an entry write of TBL_CMD uses a rebuilt table's new
placement, failed tiles stop it as any other. -/
def State.opDead (s : State) (o : TOp) : Bool :=
  !o.onRows && (if o.kind = .cmdWrite then s.tFailed o.table (o.bank = 1) else s.tDead o.table (o.bank = 1))

/-- The first accesses of an operation; a steward's UPD and LRN of a hash table are inserts (R302). -/
def State.beginOp (s : State) (o : TOp) : State :=
  let k := s.tKind o.table
  if s.opDead o then s.failOp o
  else
    let put := fun (a : List Acc) => s.putOp { o with acc := a }
    match o.kind with
    | .look | .lookw =>
      if k = 1 then put [s.rdAcc o o.idx 0] else if k = 2 then put (s.searchAccs o) else put [s.nodeAcc o]
    | .mtr => if o.src < 1404 then put [s.rdAcc o o.idx 0] else put [s.rmwAcc o o.idx]
    | .upd =>
      if k = 1 then put [s.wrAcc o o.idx 0 o.data]
      else if k = 2 then (if 1404 ≤ o.src then s.putOp { o with seqHalf := some (s.seqOf o) } else put (s.searchAccs o))
      else put [s.nodeAcc o]
    | .cas => if k = 2 then put (s.searchAccs o) else put [s.rmwAcc o o.idx]
    | .unlock => if k = 2 then put (s.searchAccs o) else put [s.rdAcc o o.idx 0]
    | .cnt => put [s.rmwAcc o o.idx]
    | .log => put [s.wrAcc o o.idx 0 o.data]
    | .lrn => s.putOp { o with seqHalf := some (s.seqOf o) }
    | .cmdRead => put [s.rdAcc o o.idx 0]
    | .cmdWrite => put [s.wrAcc o o.idx 0 o.data]
    | .rowsRead => put [⟨o.table, o.idx, o.node, 0, 0, []⟩]
    | .rowsWrite => put [⟨o.table, o.idx, o.node, 1, 0, o.data⟩]
    | .copy => put o.acc

/-- Start an operation; answers its number. -/
def State.startOp (s : State) (o : TOp) : Nat × State :=
  let id := s.tb.opNo
  (id, { s with tb := { s.tb with opNo := id + 1 } }.beginOp { o with id := id })

/-- An operation goes toward the tiles; the crossing of a rank or of the stewards that leaves ON does not take it (16 R450). Answers its
number, which is that of no operation there. -/
def State.askOp (s : State) (o : TOp) : Nat × State :=
  if s.leaving (coreDom (coreOf o.src)) then (s.tb.opNo, { s with tb := { s.tb with opNo := s.tb.opNo + 1 } }) else s.startOp o

/-- The metadata of the packet behind an operation. -/
def State.opMd (s : State) (o : TOp) : Meta := if o.src < 1404 then s.mdOf o.src else .zero

/-- A lookup of an entry ends: LOOK and LOOKW answer it; UPD writes it. -/
def State.found (s : State) (o : TOp) (e : Nat) (bs : List Byte) : State :=
  match o.kind with
  | .lookw => s.finOp o 1 (if s.tKind o.table = 1 ∧ o.src < 1404 then s.withCnts (s.opMd o) o.table e o.sec bs else bs)
  | .upd => s.putOp { o with idx := e, phase := 101, acc := [s.wrAcc o e 0 o.data] }
  | _ => s.finOp o 1 bs

/-- A lookup misses. -/
def State.missed (s : State) (o : TOp) : State :=
  match o.kind with
  | .lookw =>
    match (if s.tKind o.table = 2 ∧ o.src < 1404 then s.heldLrn (s.opMd o) o.table o.key else none) with
    | some bs => s.finOp o 1 bs
    | none => s.finOp o 0 []
  | _ => s.finOp o 0 []

/-- Release the lock an UNLOCK names. -/
def State.unlockOp (s : State) (o : TOp) (idx : Nat) : State :=
  { s with tb := { s.tb with locks := s.tb.locks.filter (fun l => !(l.owner = o.src && l.table = o.table && l.idx = idx)) } }.finOp o 0 []

/-- The slice of entry `e` in the rows read. -/
def State.slice (s : State) (o : TOp) (e : Nat) (rows : List Byte) : List Byte :=
  (rows.drop (s.entryAt o.table (o.bank = 1) e).2.2).take (s.tW o.table)

/-- All accesses of the current round are done: the next round, or the end (R298–R305). -/
def State.nextRound (s : State) (o : TOp) : State :=
  let k := s.tKind o.table
  let got := tget [] o.got
  if o.phase = 200 then s.finOp o o.res.toNat []
  else match o.kind with
    | .cnt | .log | .cmdWrite | .rowsWrite | .lrn | .copy => s.finOp o 0 []
    | .cmdRead => s.finOp o o.res.toNat (s.slice o o.idx (got 0))
    | .rowsRead => s.finOp o o.res.toNat (got 0)
    | .mtr =>
      let m := (Meter.ofBytes (s.slice o o.idx (got 0))).refill o.w1
      s.finOp o (m.colour o.w0.toNat) []
    | .look | .lookw | .upd | .cas | .unlock =>
      if k = 2 then
        let es := (List.range 4).map (fun w => ((s.cands o.table o.key).getD w 0, w))
        match (if o.phase = 0 then es.find? (fun x => s.hHit o.table o.key (s.slice o x.1 (got x.2))) else none) with
        | some (e, w) =>
          match o.kind with
          | .cas => s.putOp { o with idx := e, phase := 1, acc := [s.rmwAcc o e] }
          | .unlock => s.putOp { o with idx := e, phase := 1, acc := [s.rdAcc o e 0] }
          | .upd => s.putOp { o with idx := e, phase := 1, acc := [s.wrAcc o e 0 o.data] }
          | _ => s.found o e (s.slice o e (got w))
        | none =>
          match o.kind with
          | .upd => if o.phase = 0 then s.putOp { o with seqHalf := some (s.seqOf o) } else s.finOp o 1 []
          | .unlock => if o.phase = 0 then s.failOp o else s.unlockOp o o.idx
          | _ => s.missed o
      else if k = 1 then
        match o.kind with
        | .unlock => s.unlockOp o o.idx
        | .upd => s.finOp o 1 []
        | _ => s.found o o.idx (s.slice o o.idx (got 0))
      else if o.phase = 101 then s.finOp o 1 []
      else if o.phase = 100 then
        let e := s.slice o o.idx (got 0)
        if k = 4 ∧ (e.getD (s.tW o.table - 1) 0).getLsbD 7 = false then s.missed o else s.found o o.idx e
      else if k = 3 then
        let v := (o.key.getD o.phase 0).toNat
        let w := BitVec.ofNat 32 (leNat (((got 0).drop (4 * (v % 8))).take 4))
        let ty := bits w 31 30
        let i := bits w 23 0
        if ty = 2 ∧ i < bits (s.td o.table 6) 23 0 then
          if o.phase + 1 < s.tParam o.table then
            let o1 := { o with node := i, phase := o.phase + 1 }
            s.putOp { o1 with acc := [s.nodeAcc o1] }
          else s.missed o
        else if ty = 1 ∧ i < s.tLen o.table then s.putOp { o with idx := i, phase := 100, acc := [s.rdAcc o i 0] }
        else s.missed o
      else
        let x := leNat o.key
        let b := fun j => leNat (((got 0).drop (4 * j)).take 4)
        match ((List.range 8).reverse).find? (fun j => b j ≤ x) with
        | none => s.missed o
        | some j =>
          let i := 8 * o.node + j
          if o.phase + 1 < s.tParam o.table then
            let o1 := { o with node := i, phase := o.phase + 1 }
            s.putOp { o1 with acc := [s.nodeAcc o1] }
          else s.putOp { o with idx := i, phase := 100, acc := [s.rdAcc o i 0] }

/-! ### Beats -/

/-- The write by which a tile sends the rows that `n` bytes from byte `off` of row `a.row` have changed to the second copy: each
of them whole (R317). -/
def State.mirrored (s : State) (a : Acc) (off n : Nat) : Acc :=
  let f := off / 32
  let k := (off + n + 31) / 32 - f
  ⟨otherTile a.tile, a.row + f, k, 1, 0, mread 0 s.tile (tlA a.tile (a.row + f) 0) (32 * k)⟩

/-- A write of this operation is done at tile `a`: a mirrored table's second copy follows (R317), then the end. -/
def State.wrote (s : State) (o : TOp) (a : Acc) (off : Nat) (bs : List Byte) (res : Nat) : State :=
  let o1 := { o with phase := 200, res := BitVec.ofNat 32 res, acc := o.acc.erase a }
  let second := !o.onRows && decide (o.phase ≠ 200) && s.altOk o.table a.tile
  if second then s.putOp { o1 with acc := o1.acc ++ [s.mirrored a off bs.length] }
  else s.nextRound o1

/-- The read-modify-write of an operation. -/
def State.rmw (s : State) (o : TOp) (a : Acc) : State :=
  let (bad, rows, s1) := s.readAt (s.altOk o.table a.tile) a.tile a.row a.n
  let e := (rows.drop a.tag).take (s.tW o.table)
  if bad then s1.failOp o
  else match o.kind with
    | .cas =>
      if s.tKind o.table = 5 then
        let aux := s.td o.table 6
        let (r, e2) := windowCas (bits aux 9 0) (bits aux 23 16) s.tick32 (bits o.w0 15 0) (s.opMd o).attempt.toNat e
        (s1.tileW a.tile a.row a.tag e2).wrote o a a.tag e2 r
      else if leNat (e.take 4) ≠ o.w0.toNat then s1.finOp o 0 []
      else
        let home := (s.entryAt o.table (o.bank = 1) o.idx).1
        if 64 ≤ s.lockFill home then
          let s2 := if o.locked then s1 else s1.count (tbA 0x820)
          { s2 with tb := { s2.tb with ops := s2.tb.ops.map (fun p => if p.id = o.id then { p with locked := true } else p) } }
        else
          let w := leBytes 4 o.w1.toNat
          let s2 := s1.tileW a.tile a.row a.tag w
          let s3 := if o.src = nobody then s2
                    else { s2 with tb := { s2.tb with locks := s2.tb.locks ++ [⟨home, o.table, o.idx, o.src⟩] } }
          s3.wrote o a a.tag w 1
    | .cnt =>
      let e2 := leBytes 8 (leNat (e.take 8) + o.w0.toNat) ++ leBytes 8 (leNat ((e.drop 8).take 8) + o.w1.toNat) ++ e.drop 16
      (s1.tileW a.tile a.row a.tag e2).wrote o a a.tag e2 0
    | _ =>
      let m := (Meter.ofBytes e).refill o.w1
      let e2 := (m.charge o.w0.toNat).put e
      (s1.tileW a.tile a.row a.tag e2).wrote o a a.tag e2 (m.colour o.w0.toNat)

/-- The tile performs an access of an operation. -/
def State.performAcc (s : State) (o : TOp) (a : Acc) : State :=
  match a.kind with
  | 0 =>
    let alt := !o.onRows && s.altOk o.table a.tile
    let (bad, bs, s1) := s.readAt alt a.tile a.row a.n
    let sec := s.tMirror o.table && (s.inSecond o.table a.tile != (alt && (s.readRows a.tile a.row a.n).1))
    let o1 := { o with got := tset o.got a.tag bs, acc := o.acc.erase a, sec := sec }
    if bad ∧ o.src ≠ tblCmd then s1.failOp o
    else
      let o2 := if bad then { o1 with res := 5 } else o1
      if o2.acc.isEmpty then s1.nextRound o2
      else { s1 with tb := { s1.tb with ops := s1.tb.ops.map (fun p => if p.id = o.id then o2 else p) } }
  | 1 => (s.tileW a.tile a.row a.tag a.data).wrote o a a.tag a.data
      (if o.phase = 200 then o.res.toNat else if o.kind = .upd then 1 else 0)
  | _ => s.rmw o a

/-! ### The arbiter (R322–R324) -/

/-- The class of requester `q` at tile `t`. -/
def State.clsOf (s : State) (t q : Nat) : Nat := tget 0 s.tb.cls (t * 16 + q)

/-- The operation waits for a lock (06 R197, R310). -/
def State.opBlocked (s : State) (o : TOp) : Bool :=
  match o.kind with
  | .upd | .cas | .unlock =>
    let atEntry := decide (s.tKind o.table ≠ 5) && (s.tKind o.table = 1 || decide (o.phase ≠ 0)) && decide (o.phase ≠ 200) && decide (o.phase < 102 ∧ o.phase ≠ 100)
    atEntry && ((match s.lockOf o.table o.idx with | some l => decide (l.owner ≠ o.src) | none => false) ||
                (o.locked && decide (64 ≤ s.lockFill (s.entryAt o.table (o.bank = 1) o.idx).1)))
  | _ => false

/-- The request that requester `q` presents at tile `t`: its first, in the order received. -/
def State.presented (s : State) (t q : Nat) : Option (TOp × Acc) :=
  (s.tb.ops.filterMap (fun o =>
    if o.fin || decide (o.req ≠ q) || s.opBlocked o then none
    else (o.acc.find? (fun a => a.tile = t)).map (fun a => (o, a)))).head?

/-- The class of the request that requester `q` presents at tile `t`: the write of a second copy has the class of the first write, at the
tile of the primary copy (R317). -/
def State.reqCls (s : State) (t q : Nat) : Nat :=
  s.clsOf (match s.presented t q with
    | some (o, _) => if o.phase = 200 then otherTile t else t
    | none => t) q

/-- How the request of requester `q` ranks at tile `t`: lowest class, then first after the class's last winner. -/
def State.turn (s : State) (t q : Nat) : Nat :=
  s.reqCls t q * 16 + (q + 14 - tget 14 (s.arb t).last (s.reqCls t q)) % 15

/-- The winner of an arbitration among the requesters `qs`. -/
def State.winner (s : State) (t : Nat) (qs : List Nat) : Option Nat :=
  qs.foldl (fun b q => match b with | none => some q | some p => if s.turn t q < s.turn t p then some q else some p) none

/-- The insert that a half's sequencer takes next: its oldest. -/
def State.seqHead (s : State) (half : Nat) : Option TOp := s.tb.ops.find? (fun o => !o.fin && o.seqHalf = some half)

/-- The tiles of an insert's candidates, at which the sequencer waits for its turn. -/
def State.seqTiles (s : State) (o : TOp) : List Nat :=
  ((s.cands o.table o.key).map (fun e => s.wrTile o.table (s.entryAt o.table (o.bank = 1) e).1)).eraseDups

/-- The insert sequencer of a bank's half has an insert to do (R302). -/
def State.seqBusy (s : State) (t : Nat) (bank : Bool) : Bool := (s.seqHead (s.seqHalfOf t bank)).isSome

/-- The tiles that the commit of an entry touches. -/
def State.commitTiles (s : State) (e : LEntry) : List Nat :=
  let t := e.table.toNat
  let bank := s.bankOf t e.round
  let home := fun i => s.wrTile t (s.entryAt t bank i).1
  if e.op = 2 then ((s.cands t (e.payload.take (s.tParam t))).map home).eraseDups
  else if e.op = 3 then [home (tget 0 s.tb.rnext t)]
  else [home (leNat (e.payload.take 4))]

/-- An entry is due (04 R122), and its commit has not begun. -/
def LEntry.due (e : LEntry) : Bool := e.used && e.vgood && e.rel && !e.com

/-- The entry's key is (lane, pip, rank, attempt) (04 R117). -/
def LEntry.keyed (e : LEntry) (lane : Lane) (pip : Pip) (r : Nat) (attempt : BitVec 4) : Bool :=
  decide (e.lane = lane) && decide (e.pip = pip) && decide (e.rank = r) && decide (e.attempt = attempt)

/-- An earlier entry of the same key is held (04 R123). -/
def State.notFirst (s : State) (e : LEntry) : Bool :=
  s.led.ent.any (fun f => f.2.keyed e.lane e.pip e.rank e.attempt && decide (f.2.seq < e.seq))

/-- The commit engine keeps a request raised at tile `t`: for a due entry that nothing else holds back (04 R123). -/
def State.commitWants (s : State) (t : Nat) : Bool :=
  s.runs dTblN && s.led.ent.any (fun p =>
    p.2.due && !s.tDead p.2.table.toNat (s.bankOf p.2.table.toNat p.2.round) && (s.commitTiles p.2).contains t &&
    !(decide (p.2.op = 2) && s.seqBusy p.2.table.toNat (s.bankOf p.2.table.toNat p.2.round)) && !s.notFirst p.2)

/-- An insert sequencer keeps a request of requester `q` raised at tile `t`, of the copy in use (R302, R319). -/
def State.seqWants (s : State) (t q : Nat) : Bool :=
  [0, 1].any (fun h => match s.seqHead h with
    | some o => decide (o.req = q) && !s.tDead o.table (o.bank = 1) && (s.seqTiles o).contains t
    | none => false)

/-- The requesters present at tile `t`, with those of `extra`: those whose operations want an access there, those of the
insert sequencers, the commit engine (14) and the scrub engine (13); each keeps its request raised until it is granted
(R324). -/
def State.present (s : State) (t : Nat) (extra : List Nat) : List Nat :=
  (List.range 15).filter (fun q => (s.presented t q).isSome || s.seqWants t q || (decide (q = 14) && s.commitWants t) ||
    (decide (q = 13) && s.tb.scrubReq.any (fun x => x.1 = t)) || extra.contains q)

/-- The turn hint of requester `q` at tile `t`, where the requests of `qs` go on waiting: those of them ahead of its own, 7 at
most (R326). -/
def State.hintOf (s : State) (t q : Nat) (qs : List Nat) : Nat :=
  min 7 (qs.filter (fun p => s.turn t p < s.turn t q)).length

/-- Each request of the requesters `qs` that loses this arbitration of tile `t` to `q`, an insert that waits in a sequencer among them,
gets its turn hint; the winner's is gone (R326). -/
def State.hints (s : State) (t q : Nat) (qs : List Nat) : State :=
  let ins := [0, 1].filterMap (fun h => (s.seqHead h).filter (fun o => !s.tDead o.table (o.bank = 1) && (s.seqTiles o).contains t))
  let hit := fun (p : Nat) (o : TOp) =>
    (match s.presented t p with | some (x, _) => decide (x.id = o.id) | none => false) ||
    (decide (o.req = p) && ins.any (fun x => x.id = o.id))
  { s with tb := { s.tb with ops := s.tb.ops.map (fun o =>
      match qs.find? (fun p => hit p o) with
      | none => o
      | some p => if p = q then { o with hint := tdel o.hint t } else { o with hint := tset o.hint t (s.hintOf t p (qs.filter (· ≠ q))) }) } }

/-- The grant goes to requester `q` and parks on it; the losers get their turn hints. -/
def State.grant (s : State) (t q : Nat) : State :=
  let a := s.arb t
  (s.hints t q (s.present t [q])).setArb t { a with park := some q, freeCy := 0, last := tset a.last (s.reqCls t q) q }

/-- The core of a context withholds the refills of its fetch buffer while a turn hint of 4 or more stands on one of the
context's waiting requests (R326); it changes no cycle at which a context issues. -/
def State.refillHeld (s : State) (key : Nat) : Bool :=
  s.tb.ops.any (fun o => decide (o.src = key) && !o.fin && !o.orphan && o.hint.any (fun h => decide (4 ≤ h.2)))

/-- Requester `q` wins the arbitration at each of these tiles, which run and have not failed. -/
def State.winsAll (s : State) (q : Nat) (ts : List Nat) : Bool :=
  ts.all (fun t => s.runs (tileDom t) && !s.failedTile t && decide (s.winner t (s.present t [q]) = some q))

/-! ### Commit actions (04 R124) -/

/-- A read-modify-write by the commit engine on the copy in use; the write that it made, or an uncorrectable error. -/
def State.rmwCommit (s : State) (t : Nat) (bank : Bool) (e : Nat) (f : List Byte → List Byte) : Option Acc × State :=
  let (tile, row, off) := s.entryAt t bank e
  let w := s.wrTile t tile
  let (bad, rows, s1) := s.readAt (s.altOk t w) w row (s.tRows t)
  let a : Acc := ⟨w, row, s.tRows t, 1, off, f ((rows.drop off).take (s.tW t))⟩
  if bad then (none, s1) else (some a, s1.tileW w row off a.data)

/-- The 32-byte record of LOG. -/
def logRecord (body : List Byte) (lane : Lane) (pip : Pip) (rank attempt : Nat) (tick : List Byte) : List Byte :=
  fit 20 body ++ [lane] ++ leBytes 2 pip.toNat ++ [BitVec.ofNat 8 (rank + 16 * attempt)] ++ fit 4 tick ++ [0, 0, 0, 0]

/-- NEXT of a ring advances (R307). -/
def State.ringNext (s : State) (t : Nat) : State :=
  let n := tget 0 s.tb.rnext t
  { s with tb := { s.tb with rnext := tset s.tb.rnext t (if n + 1 < s.tLen t then n + 1 else 0) } }

/-- A second write that nobody's context waits for: by the commit engine for ledger entry `idx` (requester 14), or by the
scrub engine (requester 13). -/
def TOp.second (q t idx : Nat) (a : Acc) : TOp :=
  { id := 0, req := q, src := nobody, kind := .copy, table := t, bank := 0, idx := idx, key := [], data := [],
    w0 := 0, w1 := 0, raddr := 0, lvl := 0, phase := 200, node := 0, acc := [a], got := [], orphan := true,
    seqHalf := none, locked := false, hint := [], fin := false, res := 0, out := [], ue := false, sec := false }

/-- The commit engine has made the write `a` of entry `idx`: the tile sends the written rows to the second copy, and the entry
stays held until both copies are written (R317); meanwhile it is committed no second time. -/
def State.committed (s : State) (idx t : Nat) (a : Acc) : State :=
  if s.altOk t a.tile then
    let s1 := { s with led := { s.led with ent := tmap s.led.ent (fun k e => if k = idx then { e with com := true } else e) },
                       tb := { s.tb with opNo := s.tb.opNo + 1 } }
    s1.putOp { TOp.second 14 t idx (s.mirrored a a.tag a.data.length) with id := s.tb.opNo }
  else (s.count (ldA 0x108)).ledFree idx

/-- The commit of entry `idx` is lost (R318). -/
def State.commitLost (s : State) (idx : Nat) : State := (s.count (tbA 0x810)).ledFree idx

/-- The commit action of ledger entry `idx`. -/
def State.commit (s : State) (idx : Nat) (e : LEntry) : State :=
  let t := e.table.toNat
  let bank := s.bankOf t e.round
  let p := fun (i n : Nat) => leNat ((e.payload.drop i).take n)
  let done := fun (x : Option Acc × State) => match x.1 with
    | some a => x.2.committed idx t a
    | none => x.2.commitLost idx
  if s.tDead t bank then s.commitLost idx
  else if e.op = 0 then
    done (s.rmwCommit t bank (p 0 4) (fun b =>
      leBytes 8 (leNat (b.take 8) + p 4 4) ++ leBytes 8 (leNat ((b.drop 8).take 8) + p 8 4) ++ b.drop 16))
  else if e.op = 1 then
    done (s.rmwCommit t bank (p 0 4) (fun b => (((Meter.ofBytes b).refill (BitVec.ofNat 32 (p 8 4))).charge (p 4 2)).put b))
  else if e.op = 2 then
    match s.insert t bank (e.payload.take (s.tParam t)) ((e.payload.drop 16).take 4) with
    | (.ue, s1) => s1.commitLost idx
    | (.present _, s1) => ((s1.count (ldA 0x130)).count (ldA 0x108)).ledFree idx
    | (.written a, s1) => s1.committed idx t a
    | (.full, s1) => (((s1.count (ldA 0x138)).count (tbA 0x818)).count (ldA 0x108)).ledFree idx
  else
    let (tile, row, off) := s.entryAt t bank (tget 0 s.tb.rnext t)
    let a : Acc := ⟨s.wrTile t tile, row, s.tRows t, 1, off,
      logRecord (e.payload.take 20) e.lane e.pip e.rank e.attempt.toNat (e.payload.drop 20)⟩
    ((s.tileW a.tile row off a.data).ringNext t).committed idx t a

/-! ### Who owns a row -/

/-- The table and bank that have an entry or a node in a row of a tile, in either copy. -/
def State.rowOwner (s : State) (tile row : Nat) : Option (Nat × Bool) :=
  (((List.range 256).map (fun t => [(t, false), (t, true)])).flatten).find? (fun x =>
    decide (s.tKind x.1 ≠ 0) && (!x.2 || s.tDual x.1) && s.rowIn x.1 x.2 tile row)

/-- A row of a tile lies in a bank of a DUAL table that is not idle. -/
def State.liveRow (s : State) (tile row : Nat) : Bool :=
  (List.range 256).any (fun t => s.tDual t && decide (s.tKind t ≠ 0) && [false, true].any (fun b =>
    !s.idleBank t b && s.rowIn t b tile row))

end Sys2Proof.Machine
end

