-- ==== Sys2Proof/Machine/TableOps.lean ====
section
/-! DEFINITION. The table instructions, opcodes 0xA0–0xA8, and the return of their results (06 R194–R199, 04 R113–R127). -/

namespace Sys2Proof.Machine

/-- FAULTADDR of vector 12 (08 R241). -/
def tFault (t reason : Nat) : Word := BitVec.ofNat 32 (t % 256 + 256 * reason)

/-- The operation applies to the table's kind (06 R194, 10 R298). -/
def State.applies (s : State) (kd : TKind) (t : Nat) : Bool :=
  let k := s.tKind t
  match kd with
  | .look | .lookw | .upd => decide (1 ≤ k ∧ k ≤ 4)
  | .cas => decide (k = 1 ∨ k = 2 ∨ k = 5)
  | .unlock => decide (k = 1 ∨ k = 2)
  | .cnt => decide (k = 1) && !s.tMeter t
  | .mtr => decide (k = 1) && s.tMeter t
  | .lrn => decide (k = 2) && decide (s.tParam t ≤ 16)
  | .log => decide (k = 1) && s.tRing t
  | _ => false

/-- The first table check: reason 1 for an undefined table, reason 2 for a kind that the operation does not take. -/
def State.tCheck (s : State) (kd : TKind) (t : Nat) : Option Nat :=
  if s.tKind t = 0 then some 1 else if s.applies kd t then none else some 2

/-- The key operand is an address (hash, LPM, interval). -/
def State.keyIsAddr (s : State) (t : Nat) : Bool := decide (2 ≤ s.tKind t ∧ s.tKind t ≤ 4)

/-- Bytes of a key in memory. -/
def State.keyLen (s : State) (t : Nat) : Nat := if s.tKind t = 4 then 4 else s.tParam t

/-- Every byte of a range is accessible (R152; on a steward, shared SRAM only). -/
def State.mayRange (s : State) (key : Nat) (c : Ctx) (a n : Nat) : Bool :=
  (List.range n).all (fun i => if isStw key then decide (stwArea (a + i) = 1) else s.mayByte key c (a + i))

/-- An address range with its alignment. -/
structure Rng where
  a : Word
  n : Nat
  al : Nat

/-- The exception of a list of ranges: vector 5 of any before vector 4 of any (R172); its address is the start of the first range
at fault, a key before data (log entry 99). -/
def State.rngErr (s : State) (key : Nat) (c : Ctx) (rs : List Rng) : Option (Nat × Word) :=
  match rs.find? (fun r => !s.mayRange key c r.a.toNat r.n) with
  | some r => some (5, r.a)
  | none => (rs.find? (fun r => r.a.toNat % r.al ≠ 0)).map (fun r => (4, r.a))

/-- Read bytes for an operation: uncorrectable or not, and the bytes as the context sees them. -/
def State.readMem (s : State) (key : Nat) (a n : Nat) : Bool × List Byte × State :=
  if isStw key then
    let (b, s1) := s.srTouch (wordsOf a n)
    (b, s1.srR a n, s1)
  else
    let ck := coreOf key
    let (b, s1) := (s.bgtAbort ck a n).spTouchN ck 0 (wordsOf a n)
    (b, s1.seen key a n, s1)

/-- Write bytes for an operation, after the core's buffered stores; whole words written become good. -/
def State.writeMem (s : State) (key : Nat) (a : Nat) (bs : List Byte) : State :=
  if isStw key then
    s.srStore a bs
  else
    let ck := coreOf key
    ((s.bgtAbort ck a bs.length).drainCore ck).spStore ck a bs

/-- The first word of a range whose bank the core does not own: the frame port's vector 5 (11 R332). -/
def State.portBad (s : State) (key a n : Nat) : Option Nat :=
  if isStw key then none else ((wordsOf a n).find? (fun w => s.bankOwner (coreOf key) (8 * w) ≠ 0)).map (8 * ·)

/-- A read by the frame port: the first uncorrectable word, and the bytes, with the core's retired stores (08 R246, 11 R343). -/
def State.portR (s : State) (key a n : Nat) : Option Nat × List Byte × State :=
  let s0 := s.retireStores key
  let ws := wordsOf a n
  if isStw key then
    ((ws.find? (fun w => tfind s0.sramErr w = some true)).map (8 * ·), s0.srR a n, (s0.srTouch ws).2)
  else
    let ck := coreOf key
    ((ws.find? (fun w => tfind s0.spErr (spWord ck (8 * w)) = some true)).map (8 * ·), s0.spR ck a n, (s0.spTouchN ck 2 ws).2)

/-- A write by the frame port or the seal helper, after the core's retired stores; it aborts no background test (11 R341). -/
def State.portW (s : State) (key a : Nat) (bs : List Byte) : State :=
  if isStw key then s.srStore a bs else (s.retireStores key).spStore (coreOf key) a bs

/-- A table operation before it starts. -/
def TOp.new (key : Nat) (kd : TKind) (t : Nat) (bank : Bool) : TOp :=
  { id := 0, req := if isStw key then 12 else rankOf key, src := key, kind := kd, table := t, bank := b2n bank, idx := 0,
    key := [], data := [], w0 := 0, w1 := 0, raddr := 0, lvl := 0, phase := 0, node := 0, acc := [], got := [],
    orphan := false, seqHalf := none, locked := false, hint := [], fin := false, res := 0, out := [], ue := false, sec := false }

/-- The bank that an access by a context uses (10 R312, R316). -/
def State.bankFor (s : State) (key t : Nat) : Bool :=
  s.bankOf t (if isStw key then s.tb.cur else (s.mdOf key).round)

/-- Send an operation toward the tiles; the context sleeps for it. -/
def State.sendOp (s : State) (c : Ctx) (o : TOp) : R :=
  let (id, s1) := s.askOp o
  .sleep s1 { c with wait := .top id }

/-- A lookup on a bank that fails (06 R195, 10 R318): the packet is punted with 0x83; a steward's result is a value the
manual does not state (log entry 25). -/
def State.deadLook (s : State) (key : Nat) (c : Ctx) (n : Nat) : R :=
  if isStw key then
    .ok { s with freeCount := s.freeCount + 1 } { c with os := Config.freeWord s.freeCount :: c.os.drop n }
  else
    let s1 := s.endPunt key 0x83
    .to s1 (s1.ctx key)

/-- A settling operation: it waits for a verdict that is pending, else it is sent at once (04 R113). -/
def State.settleOp (s : State) (key : Nat) (c : Ctx) (o : TOp) : R :=
  if isStw key || decide ((s.mdOf key).verdict = 1) then s.sendOp c o
  else .sleep s { c with wait := .verdict (some o) }

/-- The key bytes of an operation, or [] where the key is an index. -/
def State.opKey (s : State) (key t : Nat) (k : Word) : Bool × List Byte × State :=
  if s.keyIsAddr t then s.readMem key k.toNat (s.keyLen t) else (false, [], s)

/-- An index operand at or beyond the table's length. -/
def State.badIdx (s : State) (t : Nat) (k : Word) : Bool := !s.keyIsAddr t && decide (s.tLen t ≤ k.toNat)

/-- The key's range, for the address checks. -/
def State.keyRng (s : State) (t : Nat) (k : Word) : List Rng := if s.keyIsAddr t then [⟨k, s.keyLen t, 4⟩] else []

/-- LOOK and LOOKW ( key raddr -- st ). -/
def look (kd : TKind) (tb : Byte) (s : State) (key : Nat) (c : Ctx) : R :=
  let t := tb.toNat
  match stkErr key c 2 1 with
  | some v => .exc s v c.pc
  | none =>
    let ra := opnd c 0
    let k := opnd c 1
    match s.tCheck kd t with
    | some r => .exc s 12 (tFault t r)
    | none => match s.rngErr key c (s.keyRng t k ++ [⟨ra, s.tW t, 8⟩]) with
      | some (v, fa) => .exc s v fa
      | none =>
        let (bad, kb, s1) := s.opKey key t k
        if bad then .exc s1 16 k
        else if s.badIdx t k then .exc s1 12 (tFault t 3)
        else if s1.tDead t (s1.bankFor key t) then s1.deadLook key c 2
        else s1.sendOp c { TOp.new key kd t (s1.bankFor key t) with idx := k.toNat, key := kb, raddr := ra, lvl := c.elev.toNat }

/-- Bytes that UPD takes from daddr (06 R194). -/
def State.updLen (s : State) (t : Nat) : Nat :=
  if s.tKind t = 2 then s.dataLen t else if s.tKind t = 4 then s.tW t - 4 else s.tW t

/-- UPD ( key daddr -- ok ). -/
def upd (tb : Byte) (s : State) (key : Nat) (c : Ctx) : R :=
  let t := tb.toNat
  match stkErr key c 2 1 with
  | some v => .exc s v c.pc
  | none =>
    let da := opnd c 0
    let k := opnd c 1
    match s.tCheck .upd t with
    | some r => .exc s 12 (tFault t r)
    | none => match s.rngErr key c (s.keyRng t k ++ [⟨da, s.updLen t, 8⟩]) with
      | some (v, fa) => .exc s v fa
      | none =>
        let (bad, kb, s1) := s.opKey key t k
        let (bad2, db, s2) := s1.readMem key da.toNat (s.updLen t)
        if bad then .exc s1 16 k
        else if bad2 then .exc s2 16 da
        else if s.badIdx t k then .exc s2 12 (tFault t 3)
        else s2.settleOp key c { TOp.new key .upd t (s2.bankFor key t) with idx := k.toNat, key := kb, data := db, lvl := c.elev.toNat }

/-- The deferred operation's ledger entry: ENTRY leaves at retire (06 R196), or the context sleeps for room (04 R127). -/
def State.defer (s : State) (key : Nat) (c c' : Ctx) (op : BitVec 2) (t : Nat) (payload : List Byte) : R :=
  let md := s.mdOf key
  let e : LEntry := { lane := md.lane, pip := md.pip, rank := rankOf key, attempt := md.attempt, used := true,
                      vgood := decide (md.verdict = 1), rel := false, op := op, table := BitVec.ofNat 8 t,
                      round := md.round, seq := c.seq, payload := fit 24 payload, com := false }
  if s.ledgerFull (rankOf key) then .sleep (s.count (ldA 0x140)) { c with wait := .ledger e }
  else .ok (s.lmsg (rankOf key) (.entry e)) { c' with seq := c.seq + 1 }

/-- The key of the packet already holds 16 entries (04 R119). -/
def seqFull (key : Nat) (c : Ctx) : Bool := !isStw key && decide (16 ≤ c.seq)

/-- CNT ( idx add0 add1 -- ). -/
def cnt (tb : Byte) (s : State) (key : Nat) (c : Ctx) : R :=
  let t := tb.toNat
  match stkErr key c 3 0 with
  | some v => .exc s v c.pc
  | none => match s.tCheck .cnt t with
    | some r => .exc s 12 (tFault t r)
    | none =>
      let k := opnd c 2
      if s.badIdx t k then .exc s 12 (tFault t 3)
      else if seqFull key c then .exc s 12 (tFault t 4)
      else
        let c' := { c with os := c.os.drop 3 }
        if isStw key then
          .ok (s.askOp { TOp.new key .cnt t (s.bankFor key t) with
                             idx := k.toNat, w0 := opnd c 1, w1 := opnd c 0, orphan := true }).2 c'
        else s.defer key c c' 0 t (leBytes 4 k.toNat ++ leBytes 4 (opnd c 1).toNat ++ leBytes 4 (opnd c 0).toNat)

/-- MTR ( idx bytes -- col ): the colour round first; the charge is sent when the colour has come (log entry 26). -/
def mtr (tb : Byte) (s : State) (key : Nat) (c : Ctx) : R :=
  let t := tb.toNat
  match stkErr key c 2 1 with
  | some v => .exc s v c.pc
  | none => match s.tCheck .mtr t with
    | some r => .exc s 12 (tFault t r)
    | none =>
      let k := opnd c 1
      if s.badIdx t k then .exc s 12 (tFault t 3)
      else if seqFull key c then .exc s 12 (tFault t 4)
      else if s.tDead t (s.bankFor key t) then s.deadLook key c 2
      else s.sendOp c { TOp.new key .mtr t (s.bankFor key t) with
                          idx := k.toNat, w0 := (opnd c 0) &&& 0xFFFF, w1 := s.tick32, lvl := c.elev.toNat }

/-- LRN ( kaddr value -- ). -/
def lrn (tb : Byte) (s : State) (key : Nat) (c : Ctx) : R :=
  let t := tb.toNat
  match stkErr key c 2 0 with
  | some v => .exc s v c.pc
  | none =>
    let k := opnd c 1
    match s.tCheck .lrn t with
    | some r => .exc s 12 (tFault t r)
    | none => match s.rngErr key c (s.keyRng t k) with
      | some (v, fa) => .exc s v fa
      | none =>
        let (bad, kb, s1) := s.opKey key t k
        let val := leBytes 4 (opnd c 0).toNat
        if bad then .exc s1 16 k
        else if seqFull key c then .exc s1 12 (tFault t 4)
        else
          let c' := { c with os := c.os.drop 2 }
          if isStw key then
            .ok (s1.askOp { TOp.new key .lrn t (s1.bankFor key t) with key := kb, data := val, orphan := true }).2 c'
          else s1.defer key c c' 2 t (fit 16 kb ++ val)

/-- LOG ( baddr -- ): 20 bytes at baddr. -/
def logOp (tb : Byte) (s : State) (key : Nat) (c : Ctx) : R :=
  let t := tb.toNat
  match stkErr key c 1 0 with
  | some v => .exc s v c.pc
  | none =>
    let a := opnd c 0
    match s.tCheck .log t with
    | some r => .exc s 12 (tFault t r)
    | none => match s.rngErr key c [⟨a, 20, 4⟩] with
      | some (v, fa) => .exc s v fa
      | none =>
        let (bad, bs, s1) := s.readMem key a.toNat 20
        if bad then .exc s1 16 a
        else if seqFull key c then .exc s1 12 (tFault t 4)
        else
          let c' := { c with os := c.os.drop 1 }
          let tick := leBytes 4 s.tick32.toNat
          if isStw key then
            .ok ((s1.askOp { TOp.new key .log t (s1.bankFor key t) with
                                 idx := tget 0 s1.tb.rnext t, data := logRecord bs 0 0 15 0 tick, orphan := true }).2.ringNext t) c'
          else s1.defer key c c' 3 t (bs ++ tick)

/-- CAS ( key cmp new -- r ). -/
def cas (tb : Byte) (s : State) (key : Nat) (c : Ctx) : R :=
  let t := tb.toNat
  match stkErr key c 3 1 with
  | some v => .exc s v c.pc
  | none =>
    let nw := opnd c 0
    let k := opnd c 2
    match s.tCheck .cas t with
    | some r => .exc s 12 (tFault t r)
    | none => match s.rngErr key c (s.keyRng t k) with
      | some (v, fa) => .exc s v fa
      | none =>
        let (bad, kb, s1) := s.opKey key t k
        let ls := s1.locksOf key
        if bad then .exc s1 16 k
        else if s.badIdx t k then .exc s1 12 (tFault t 3)
        else if s.tKind t = 5 && decide (nw ≠ 0) then .exc s1 12 (tFault t 10)
        else if decide (s.tKind t ≠ 5) && (decide (4 ≤ ls.length) || ls.any (fun l => t ≤ l.table)) then .exc s1 12 (tFault t 5)
        else s1.settleOp key c { TOp.new key .cas t (s1.bankFor key t) with
                                   idx := k.toNat, key := kb, w0 := opnd c 1, w1 := nw, lvl := c.elev.toNat }

/-- The entry that an UNLOCK names: the index, or the entry that holds the key in committed state. -/
def State.unlockIdx (s : State) (t : Nat) (bank : Bool) (k : Word) (kb : List Byte) : Option Nat :=
  if !s.keyIsAddr t then some k.toNat
  else (s.cands t kb).find? (fun e =>
    let (tile, row, off) := s.entryAt t bank e
    s.hHit t kb ((mread 0 s.tile (tlA (s.wrTile t tile) row off) (s.tW t))))

/-- UNLOCK ( key -- ): vector 12 for an entry that the context does not hold; a lock that debug has broken has no
effect (18 R502; log entry 27). -/
def unlock (tb : Byte) (s : State) (key : Nat) (c : Ctx) : R :=
  let t := tb.toNat
  match stkErr key c 1 0 with
  | some v => .exc s v c.pc
  | none =>
    let k := opnd c 0
    match s.tCheck .unlock t with
    | some r => .exc s 12 (tFault t r)
    | none => match s.rngErr key c (s.keyRng t k) with
      | some (v, fa) => .exc s v fa
      | none =>
        let (bad, kb, s1) := s.opKey key t k
        let bank := s1.bankFor key t
        if bad then .exc s1 16 k
        else if s.badIdx t k then .exc s1 12 (tFault t 3)
        else match s1.unlockIdx t bank k kb with
          | none => if s1.tDead t bank then .ok s1 { c with os := c.os.drop 1 } else .exc s1 12 (tFault t 6)
          | some i =>
            if c.broken.contains (t, i) then .ok s1 { c with os := c.os.drop 1, broken := c.broken.erase (t, i) }
            else if (s1.locksOf key).any (fun l => l.table = t && l.idx = i) then
              s1.sendOp c { TOp.new key .unlock t bank with idx := i, key := kb, lvl := c.elev.toNat }
            else .exc s1 12 (tFault t 6)

/-- LOOK t. -/
def execLook (x : Iss) (t : Byte) (s : State) : Out := .next (s.issue x .table 2 true (look .look t))

/-- LOOKW t; on a steward as LOOK (06 R199). -/
def execLookw (x : Iss) (t : Byte) (s : State) : Out := .next (s.issue x .table 2 true (look .lookw t))

/-- UPD t. -/
def execUpd (x : Iss) (t : Byte) (s : State) : Out := .next (s.issue x .table 2 true (upd t))

/-- CNT t. -/
def execCnt (x : Iss) (t : Byte) (s : State) : Out := .next (s.issue x .table 2 true (cnt t))

/-- MTR t. -/
def execMtr (x : Iss) (t : Byte) (s : State) : Out := .next (s.issue x .table 2 true (mtr t))

/-- LRN t. -/
def execLrn (x : Iss) (t : Byte) (s : State) : Out := .next (s.issue x .table 2 true (lrn t))

/-- LOG t. -/
def execLog (x : Iss) (t : Byte) (s : State) : Out := .next (s.issue x .table 2 true (logOp t))

/-- CAS t. -/
def execCas (x : Iss) (t : Byte) (s : State) : Out := .next (s.issue x .table 2 true (cas t))

/-- UNLOCK t. -/
def execUnlock (x : Iss) (t : Byte) (s : State) : Out := .next (s.issue x .table 2 true (unlock t))

/-! ### Results -/

/-- The finished operation that a sleeping context waits for. -/
def State.doneOp (s : State) (key : Nat) : Option TOp :=
  let c := s.ctx key
  if c.st = .sleep && s.runs (coreDom (coreOf key)) && !s.heldEv key then
    match c.wait with
    | .top id => s.tb.ops.find? (fun o => o.id = id && o.fin && o.src = key)
    | _ => none
  else none

/-- Forget a finished operation. -/
def State.dropOp (s : State) (o : TOp) : State := { s with tb := { s.tb with ops := s.tb.ops.filter (fun p => p.id ≠ o.id) } }

/-- The sleeping context completes, with `os` as its operands. -/
def State.wake (s : State) (key : Nat) (os : List Word) : State :=
  let c := s.ctx key
  s.complete key { c with os := os } (c.pc + BitVec.ofNat 32 c.wlen)

/-- A packet's MTR retires with its colour: the charge goes to the ledger (06 R196). -/
def State.retireMtr (s : State) (key : Nat) (o : TOp) : State :=
  let c := s.ctx key
  let pl := leBytes 4 o.idx ++ leBytes 2 o.w0.toNat ++ [0, 0] ++ leBytes 4 o.w1.toNat
  match s.defer key c { c with os := o.res :: c.os.drop 2 } 1 o.table pl with
  | .ok s1 c1 => (s1.dropOp o).complete key c1 (c.pc + BitVec.ofNat 32 c.wlen)
  | .sleep s1 c1 => s1.setCtx key c1
  | _ => s

/-- The result of LOOK, LOOKW or MTR reaches the core: the entry is written at raddr on a hit and the context wakes; an
uncorrectable error punts the packet (10 R318). -/
def execLookupResult (w : Who) (s : State) : Out :=
  let key := whoKey w
  .next (match s.doneOp key with
    | none => s
    | some o =>
      let c := s.ctx key
      match o.kind with
      | .look | .lookw =>
        let s1 := s.dropOp o
        if o.ue then
          if isStw key then { s1 with freeCount := s1.freeCount + 1 }.wake key (Config.freeWord s1.freeCount :: c.os.drop 2)
          else s1.endPunt key 0x83
        else
          let s2 := if o.res = 1 then s1.writeMem key o.raddr.toNat o.out else s1
          s2.wake key (o.res :: c.os.drop 2)
      | .mtr =>
        if o.ue then
          let s1 := s.dropOp o
          if isStw key then { s1 with freeCount := s1.freeCount + 1 }.wake key (Config.freeWord s1.freeCount :: c.os.drop 2)
          else s1.endPunt key 0x83
        else if isStw key then (s.dropOp o).wake key (o.res :: c.os.drop 2)
        else s.retireMtr key o
      | _ => s)

/-- The acknowledgement or result of UPD, CAS or UNLOCK reaches the core and the context wakes (04 R113). -/
def execTableAck (w : Who) (s : State) : Out :=
  let key := whoKey w
  .next (match s.doneOp key with
    | none => s
    | some o =>
      let c := s.ctx key
      let s1 := s.dropOp o
      match o.kind with
      | .upd => s1.wake key (o.res :: c.os.drop 2)
      | .cas => s1.wake key (o.res :: c.os.drop 3)
      | .unlock => s1.wake key (c.os.drop 1)
      | _ => s)

end Sys2Proof.Machine
end

