-- ==== Sys2Proof/Machine/PacketOps.lean ====
section
/-! DEFINITION. The packet instructions, opcodes 0x90–0x95, and the end of a packet (06 R189–R193). -/

namespace Sys2Proof.Machine

/-- The context enters ENDING. -/
def endWith (k : EndKind) (s : State) (key : Nat) (_c : Ctx) : R :=
  let s1 := s.toEnding key k
  .to s1 (s1.ctx key)

/-- FAULTADDR of reason 7: the lowest table among the context's locks (08 R241). -/
def State.lowLock (s : State) (key : Nat) : Nat :=
  (s.locksOf key).foldl (fun m l => min m l.table) 255

/-- DONE and DROPPKT raise vector 12 while the context holds a lock (06 R190). -/
def endUnlocked (k : EndKind) (s : State) (key : Nat) (c : Ctx) : R :=
  if s.holdsLock key then .exc s 12 (tFault (s.lowLock key) 7) else endWith k s key c

/-- EMIT ( ch tc -- ): vector 1 in ranks 0–10; the eighth raises vector 12 (06 R192). -/
def emit (s : State) (key : Nat) (c : Ctx) : R :=
  if rankOf key ≠ 11 then .exc s 1 c.pc
  else match stkErr key c 2 0 with
  | some v => .exc s v c.pc
  | none =>
    if 7 ≤ c.reps.length then .exc s 12 (tFault 0 8)
    else
      let lane := c.setLane.getD (s.mdOf key).lane
      .ok s { c with os := c.os.drop 2, reps := c.reps ++ [⟨(opnd c 1).setWidth 10, (opnd c 0).setWidth 3, lane⟩] }

/-- SETLANE ( l -- ): vector 1 in ranks 0–10. -/
def setlane (s : State) (key : Nat) (c : Ctx) : R :=
  if rankOf key ≠ 11 then .exc s 1 c.pc
  else match stkErr key c 1 0 with
  | some v => .exc s v c.pc
  | none => .ok s { c with os := c.os.drop 1, setLane := some ((opnd c 0).setWidth 8) }

/-- `n` free bytes. -/
def freeBytes (k : Nat) (n : Nat) : List Byte := (List.range n).map (fun i => (Config.freeWord (k + i)).setWidth 8)

/-- The checks of SKIPTO that need LEN and TAIL (06 R193). -/
def skipBad (md : Meta) (d : Int) : Bool :=
  let len : Int := md.len.toNat
  if 0 ≤ d then decide (len - d < 14)
  else (decide (md.tail ≠ noBuf) && decide (256 < md.len.toNat)) || decide (len - d < 14) || decide (256 < len - d)

/-- SKIPTO with its verdict known: the head bytes move, LEN changes in the slot and in the block's copy. The bytes that
a strip leaves free at the slot's end are values the manual does not state (log entry 28). -/
def State.skipDo (s : State) (key : Nat) (c : Ctx) (d : Int) : State × Ctx :=
  match c.entry with
  | none => (s, c)
  | some i =>
    let r := rankOf key
    let ck := coreOf key
    let md := s.mdOf key
    let s1 := s.drainCore ck
    let a := slotA (ctxNoOf key) c.slot
    let head := s1.spR ck a 256
    let n := d.natAbs
    let new := if 0 ≤ d then head.drop n ++ freeBytes s1.freeCount n else fit 256 (List.replicate n 0 ++ head)
    let md2 := { md with len := BitVec.ofInt 14 ((md.len.toNat : Int) - d), strip := md.strip + d }
    let s2 := { s1 with freeCount := s1.freeCount + (if 0 ≤ d then n else 0) }.spStore ck a new
    let s3 := (s2.bgtAbort ck (a + 0x106) 2).spStore ck (a + 0x106) (leBytes 2 (md2.len.toNat + 16384 * md2.verdict.toNat))
    (s3.modEntry r i (fun e => { e with md := md2 }), { c with os := c.os.drop 1 })

/-- An operation joins the core's byte engine, in issue order (07 R218); the context sleeps until it completes. -/
def State.toEngine (s : State) (key : Nat) (c : Ctx) (b : BeOp) : R :=
  let ck := coreOf key
  let co := s.core ck
  .sleep (s.setCore ck { co with beq := co.beq ++ [b] }) { c with wait := .engine }

/-- SKIPTO ( d -- ). A slot in a bank that the core does not own raises vector 5 (11 R332; log entry 113). -/
def skipto (s : State) (key : Nat) (c : Ctx) : R :=
  match stkErr key c 1 0 with
  | some v => .exc s v c.pc
  | none =>
    let d := (opnd c 0).toInt
    if d < -64 ∨ 192 < d then .exc s 12 (tFault 0 9)
    else
      let md := s.mdOf key
      if md.verdict ≠ 1 then .sleep s { c with wait := .verdict none }
      else if skipBad md d then .exc s 12 (tFault 0 9)
      else match s.portBad key (slotA (ctxNoOf key) c.slot) 0x108 with
        | some x => .exc s 5 (BitVec.ofNat 32 x)
        | none => s.toEngine key c ⟨ctxNoOf key, 4, opnd c 0, 0, 0⟩

/-- DONE. -/
def execDone (x : Iss) (s : State) : Out := .next (s.issue x .packet 1 true (endUnlocked .done))

/-- DROPPKT. -/
def execDroppkt (x : Iss) (s : State) : Out := .next (s.issue x .packet 1 true (endUnlocked .drop))

/-- PUNT c: releases the context's locks, then ends the packet (06 R190). -/
def execPunt (x : Iss) (b : Byte) (s : State) : Out :=
  .next (s.issue x .packet 2 (decide (b.toNat < 128)) (fun s key c => endWith (.punt b) (s.dropLocks key) key c))

/-- EMIT. -/
def execEmit (x : Iss) (s : State) : Out := .next (s.issue x .packet 1 true emit)

/-- SKIPTO. -/
def execSkipto (x : Iss) (s : State) : Out := .next (s.issue x .packet 1 true (seqd .skipto skipto))

/-- SETLANE. -/
def execSetlane (x : Iss) (s : State) : Out := .next (s.issue x .packet 1 true setlane)

/-- The settling operations of a context that no tile has acknowledged (06 R189). -/
def State.settling (s : State) (key : Nat) : List TOp :=
  (s.opsOut key).filter (fun o => o.kind = .upd || o.kind = .cas || o.kind = .unlock)

/-- A helper command that is not acknowledged: incomplete, or killed with its KILL not yet presented. -/
def State.hOpen (s : State) (key : Nat) (h : HCmd) : Bool := !h.fin && (!h.killed || s.killWaits key h)

/-- Every outstanding operation of a context is acknowledged (06 R189). -/
def State.quiet (s : State) (key : Nat) : Bool :=
  (s.settling key).isEmpty && !(s.ctx key).hs.any (fun h => s.hOpen key h)

/-- The packet of entry `i` reaches the gate of rank `r` from context `k` of core `c`. -/
def State.toGate (s : State) (r c k i : Nat) (reps : List Replica) : State :=
  let x := s.rank r
  match tfind x.entries i with
  | none => s
  | some e =>
    let sl := match e.phase with | .inCtx _ _ sl => sl | _ => 0
    let e1 := { e with phase := .gate c k sl, seq := x.seqNo, reps := reps }
    let spill := x.waiting e1 && decide (256 ≤ x.storeFill)
    let s1 := s.setRank r { x with entries := tset x.entries i { e1 with spilled := spill }, seqNo := x.seqNo + 1 }
    if spill then s1.count (rkA r 0x1B0) else s1

/-- The packet ends (06 R189): toward the gate, dropped, or punted; its context becomes FREE. -/
def execPacketEnd (r : Rank) (c : CoreNo) (k : CtxNo) (s : State) : Out :=
  let key := pk r.val c.val k.val
  let cx := s.ctx key
  .next ((if cx.st ≠ .ending || !s.runs r.val || !s.quiet key then s
    else
      let s1 := s.drainCore (r.val * 13 + c.val)
      match cx.entry, cx.ending with
      | some i, some .done => (s1.toGate r.val c.val k.val i cx.reps).freeCtx key
      | some i, some .drop =>
        match tfind (s1.rank r.val).entries i with
        | none => s1.freeCtx key
        | some e =>
          (((freeChain (0x10 + r.val) e.md s1).addMark r.val (markOf e.md) e.md.reinj (some i)).count (rkA r.val 0x128)).freeCtx key
      | some i, some (.punt b) => (s1.puntEntry r.val i b.toNat).freeCtx key
      | _, _ => s1.freeCtx key).wakeCore (coreOf key))

end Sys2Proof.Machine
end

