-- ==== Sys2Proof/Machine/Verdict.lean ====
section
/-! DEFINITION. Verdicts: the message ingress issues, its arrival at ranks, egress and exception queues, verdict tokens,
and forfeits in flight (04 R106–R113, R130, R131). -/

namespace Sys2Proof.Machine

/-! ### The end of a frame at egress (02 R56, R62, 13 R395) -/

/-- Frame `f` leaves egress and its chain is freed, by the last copy where the chain is shared. `dropped` says that
egress dropped it for its channel: the channel's detach then waits for the chain (02 R61). -/
def State.egDone (s : State) (f : EgF) (dropped : Bool) : State :=
  let rest := s.eg.frames.filter (fun g => g.order ≠ f.order)
  match f.shared with
  | none => freeChainFor 0x30 (if dropped then [f.ch] else []) f.md { s with eg := { s.eg with frames := rest } }
  | some h =>
    let n := tget 1 s.eg.shared h
    if n ≤ 1 then
      let mates := rest.filter (fun g => g.shared = some h && decide (g.st = 3))
      let chs := mates.map (fun g => g.ch) ++ (if dropped then [f.ch] else [])
      freeChainFor 0x31 chs f.md
        { s with eg := { s.eg with frames := rest.filter (fun g => !(g.shared = some h && decide (g.st = 3))),
                                   shared := tdel s.eg.shared h } }
    else
      let fs := if dropped then s.eg.frames.map (fun g => if g.order = f.order then { g with st := 3 } else g) else rest
      { s with eg := { s.eg with frames := fs, shared := tset s.eg.shared h (n - 1) } }

/-- A frame that may not complete: not sent where its SOP segment has not gone, else stomped (02 R56). -/
def State.egKill (s : State) (f : EgF) : State :=
  if f.st = 2 || f.st = 3 then s
  else if f.sent = 0 then s.egDone f false
  else { s with eg := { s.eg with frames := s.eg.frames.map (fun g => if g.order = f.order then { g with st := 2 } else g) } }

/-! ### A verdict applied by a unit (R108, R113, R130) -/

/-- Egress applies a verdict to its copies of a frame. -/
def State.verdictEg (s : State) (lane : Lane) (pip : Pip) (v : BitVec 2) (len : BitVec 14) : State :=
  let mine := fun (f : EgF) => decide (f.md.lane = lane) && decide (f.md.pip = pip) && decide (f.md.verdict = 0)
  let hit := s.eg.frames.filter mine
  if hit.isEmpty then s
  else
    let s1 := { s with eg := { s.eg with frames := s.eg.frames.map (fun f => if mine f then { f with md := f.md.judged v len } else f) } }
    if v = 2 then
      let s2 := forEach hit s1 (fun f s => s.egKill { f with md := f.md.judged v len })
      s2.count (ldA 0x150)
    else s1

/-- The exception-queue logic of rank `r` writes a verdict into the entry of a punted packet; a bad one forfeits it
where it stays (R101, R130). -/
def State.verdictExc (s : State) (r : Nat) (lane : Lane) (pip : Pip) (v : BitVec 2) (len : BitVec 14) : State :=
  let x := s.rank r
  match x.exc.find? (fun e => decide (e.2.md.lane = lane) && decide (e.2.md.pip = pip) && decide (e.2.md.verdict = 0)) with
  | none => s
  | some (k, e) =>
    let md := e.md.judged v len
    let s1 := (s.setRank r { x with exc := tset x.exc k { e with md := md } }).srW (exA r k + 0x106)
      (leBytes 2 (len.toNat + 16384 * v.toNat))
    if v = 2 then s1.count (ldA 0x150) else s1

/-- A good verdict ends a wait for it: the core sends the request of UPD or CAS, or SKIPTO makes its remaining checks
(R113, 06 R193; 11 R332). SKIPTO joins the engine's queue here, behind the operations that issued while it waited (log entry 111). A halted
core's context waits for the resume (18 R501). -/
def State.wakeVerdict (s : State) (key : Nat) : State :=
  let c := s.ctx key
  if s.heldEv key then s
  else match c.st, c.wait with
  | .sleep, .verdict (some o) =>
    let (id, s1) := s.askOp o
    s1.setCtx key { c with wait := .top id }
  | .sleep, .verdict none =>
    let d := (opnd c 0).toInt
    if skipBad (s.mdOf key) d then (s.setCtx key { c with wlen := 0 }).excAt key 12 (tFault 0 9)
    else match s.portBad key (slotA (ctxNoOf key) c.slot) 0x108 with
    | some x => (s.setCtx key { c with wlen := 0 }).excAt key 5 (BitVec.ofNat 32 x)
    | none =>
      let ck := coreOf key
      let co := s.core ck
      (s.setCore ck { co with beq := co.beq ++ [⟨ctxNoOf key, 4, opnd c 0, 0, 0⟩] }).setCtx key { c with wait := .engine }
  | _, _ => s

/-- Rank `r` applies a verdict: every copy of the metadata takes VERDICT and LEN, marks of the packet take the verdict,
and a bad one forfeits the packet. A packet in the fault context completes its punt (R130). -/
def State.verdictRank (s : State) (r : Nat) (lane : Lane) (pip : Pip) (v : BitVec 2) (len : BitVec 14) : State :=
  let x := s.rank r
  let marks := x.marks.map (fun m => if m.own && m.lane = lane && m.pip = pip && m.v = 0 then { m with v := v } else m)
  let s1 := (s.setRank r { x with marks := marks }).verdictExc r lane pip v len
  match (s1.rank r).find lane pip with
  | none => s1
  | some (i, e) =>
    if e.md.verdict ≠ 0 then s1
    else
      let s2 := s1.modEntry r i (fun e => { e with md := e.md.judged v len, pkt := { e.pkt with md := e.pkt.md.judged v len } })
      let s3 := match e.bound with
        | some (c, k, sl) => s2.spStore (r * 13 + c) (slotA k sl + 0x106) (leBytes 2 (len.toNat + 16384 * v.toNat))
        | none => s2
      if v = 2 then
        if s3.inService r e then (s3.lmsg r (.forfeit lane pip)).count (ldA 0x150)
        else
          let s4 := s3.forfeitEntry r i
          let s5 := s4.setRank r ((s4.rank r).settle 512)
          match e.phase with
          | .inCtx c _ _ => s5.wakeCore (r * 13 + c)
          | _ => s5
      else match e.phase with
        | .inCtx c k _ => s3.wakeVerdict (pk r c k)
        | _ => s3

/-- Put a verdict token right behind the packet of a frame on a link, before any skip token or packet that waits (R109). -/
def behind (lane : Lane) (pip : Pip) (tok : LinkItem) : List LinkItem → List LinkItem
  | [] => []
  | .pkt p reps w :: t => if p.md.lane = lane ∧ p.md.pip = pip then .pkt p reps w :: tok :: t else .pkt p reps w :: behind lane pip tok t
  | x :: t => x :: behind lane pip tok t

/-- The verdict follows the packet on link `k`, if it is there with its verdict pending (R109). -/
def State.tokenOn (s : State) (k : Nat) (lane : Lane) (pip : Pip) (v : BitVec 2) (len : BitVec 14) : State :=
  if (s.link k).any (fun x => match x with
      | .pkt p _ _ => decide (p.md.lane = lane) && decide (p.md.pip = pip) && decide (p.md.verdict = 0)
      | _ => false) &&
     !(s.link k).any (fun x => match x with | .verdict l p _ _ => decide (l = lane) && decide (p = pip) | _ => false) then
    s.setLink k (behind lane pip (.verdict lane pip v len) (s.link k))
  else s

/-- A unit applies a verdict: rank 0–11, egress as 12. -/
def State.applyAt (s : State) (u : Nat) (lane : Lane) (pip : Pip) (v : BitVec 2) (len : BitVec 14) : State :=
  if u = 12 then s.verdictEg lane pip v len else s.verdictRank u lane pip v len

/-- A packet whose verdict message has already passed this unit takes the verdict on arrival: its sender, which still
has the message to come, would send it on. -/
def State.lateVerdict (s : State) (u : Nat) (lane : Lane) (pip : Pip) : State :=
  match s.ing.vmsgs.find? (fun m => decide (m.lane = lane) && decide (m.pip = pip) &&
      (if u = 12 then !m.eg else !m.ranks.contains u)) with
  | some m => s.applyAt u lane pip m.v m.len
  | none => s

/-! ### The message (R107) -/

/-- Tail writes or LINKs of a frame that the buffer port has not accepted. -/
def State.tailOpen (s : State) (lane : Lane) (pip : Pip) : Bool :=
  s.ing.wq.any (fun w => match w with
    | .link l p _ _ => decide (l = lane) && decide (p = pip)
    | .beat l p _ _ _ _ => decide (l = lane) && decide (p = pip))

/-- The free queue learns a verdict: a chain held for it is freed, or discarded where LEN is 256 or less (13 R393). -/
def State.freeVerdict (s : State) (lane : Lane) (pip : Pip) (len : BitVec 14) : State :=
  let mine := fun (i : FreeIt) => i.held && decide (i.lane = lane) && decide (i.pip = pip)
  { s with buf := { s.buf with freeq := if len.toNat ≤ 256 then s.buf.freeq.filter (fun i => !mine i)
                                        else s.buf.freeq.map (fun i => if mine i then { i with held := false } else i) } }

/-- The packet of a frame that ingress has not sent: on the link to rank 0, beyond the credits ingress holds (R109). -/
def unsentOn (lane : Lane) (pip : Pip) : Nat → List LinkItem → Option Pkt
  | _, [] => none
  | n, .pkt p _ _ :: t =>
    if p.md.lane = lane ∧ p.md.pip = pip then (if n = 0 then some p else none) else unsentOn lane pip (n - 1) t
  | n, _ :: t => unsentOn lane pip n t

/-- Ingress writes the verdict into a packet it has not sent, or sends a skip token in its place (R109, R130). -/
def resend (lane : Lane) (pip : Pip) (v : BitVec 2) (len : BitVec 14) : List LinkItem → List LinkItem
  | [] => []
  | .pkt p reps w :: t =>
    if p.md.lane = lane ∧ p.md.pip = pip then
      (if v = 2 then .skip lane pip else .pkt { p with md := p.md.judged v len } reps w) :: resend lane pip v len t
    else .pkt p reps w :: resend lane pip v len t
  | .headSeg l p bs last :: t =>
    if v = 2 ∧ l = lane ∧ p = pip then resend lane pip v len t else .headSeg l p bs last :: resend lane pip v len t
  | x :: t => x :: resend lane pip v len t

/-- The verdict at ingress itself: a packet not yet sent takes it there, one on the link gets a token. -/
def State.verdictIn (s : State) (lane : Lane) (pip : Pip) (v : BitVec 2) (len : BitVec 14) : State :=
  match unsentOn lane pip (s.freeReplay 0 - 1) (s.link 0) with
  | some p =>
    let s1 := s.setLink 0 (resend lane pip v len (s.link 0))
    if v = 2 then (freeChain 0 (p.md.judged v len) s1).count (ldA 0x150) else s1
  | none => s.tokenOn 0 lane pip v len

/-- VERDICT_MESSAGE: ingress issues the verdict of a pending frame once its last tail write is accepted. -/
def execVerdictMessage (lane : Lane) (pip : Pip) (s : State) : Out :=
  .next (match s.ing.vq.find? (fun w => decide (w.lane = lane) && decide (w.pip = pip)) with
    | none => s
    | some w =>
      if !s.ready dIn || s.tailOpen lane pip then s
      else
        let m : VMsg := { lane := lane, pip := pip, v := w.v, len := w.len, ranks := List.range 12, eg := true,
                          excq := List.range 12, ledger := true }
        let s1 := { s with ing := { s.ing with
          vq := s.ing.vq.filter (fun y => !(decide (y.lane = lane) && decide (y.pip = pip))), vmsgs := s.ing.vmsgs ++ [m] } }
        (s1.verdictIn lane pip w.v w.len).freeVerdict lane pip w.len)

/-- A message that has reached every unit and the ledger is done. -/
def VMsg.done (m : VMsg) : Bool := m.ranks.isEmpty && !m.eg && m.excq.isEmpty && !m.ledger

/-- Change the message of a frame. -/
def State.modMsg (s : State) (lane : Lane) (pip : Pip) (f : VMsg → VMsg) : State :=
  let ms := s.ing.vmsgs.map (fun m => if m.lane = lane ∧ m.pip = pip then f m else m)
  { s with ing := { s.ing with vmsgs := ms.filter (fun m => !m.done) } }

/-- The message reaches rank `r`: the point is marked in its ledger link (R110), its copies take the verdict, and a
packet it has launched gets a token behind it (R109). -/
def State.msgRank (s : State) (r : Nat) (m : VMsg) : State :=
  let s1 := (s.lmsg r (.vmark m.lane m.pip)).verdictRank r m.lane m.pip m.v m.len
  s1.tokenOn (outLink r m.lane) m.lane m.pip m.v m.len

/-- VERDICT_ARRIVE: a verdict message reaches a unit (R107, R108). A unit whose domain is not ON holds no packet and the
message passes it. -/
def execVerdictArrive (u : VUnit) (lane : Lane) (pip : Pip) (s : State) : Out :=
  .next (match s.ing.vmsgs.find? (fun m => decide (m.lane = lane) && decide (m.pip = pip)) with
    | none => s
    | some m =>
      match u with
      | .rank r =>
        if !m.ranks.contains r.val then s
        else
          let s0 := s.modMsg lane pip (fun m => { m with ranks := m.ranks.filter (fun x => x ≠ r.val) })
          if !s.isOn r.val then s0 else if !s.runs r.val then s else s0.msgRank r.val m
      | .egress =>
        if !m.eg then s
        else
          let s0 := s.modMsg lane pip (fun m => { m with eg := false })
          if !s.isOn dOut then s0 else if !s.runs dOut then s else s0.verdictEg lane pip m.v m.len
      | .excq r =>
        if !m.excq.contains r.val then s
        else (s.modMsg lane pip (fun m => { m with excq := m.excq.filter (fun x => x ≠ r.val) })).verdictExc r.val lane pip m.v m.len)

end Sys2Proof.Machine
end

