-- ==== Sys2Proof/Machine/RankUnits.lean ====
section
/-! DEFINITION. The units of a rank: links, dispatcher, context start, head mover, order gate, exception queue and
reinjection (03). -/

namespace Sys2Proof.Machine

/-! ### Seats and eligible contexts (R75, R80, R338, R355, R501) -/

/-- The status register RANK_SP_STATUS of a seat (11). -/
def spSt (r seat : Nat) : Nat := rkA r (0x3104 + 0x40 * seat)

/-- The dispatcher may select seat `t`: an active seat 0–11 whose core is not retired, not halted, not in a rotation or
replacement, and not being cleared. -/
def State.selectable (s : State) (r t : Nat) : Bool :=
  let x := s.rank r
  match s.seatCore r t with
  | none => false
  | some c =>
    let co := s.core (r * 13 + c)
    decide (t < 12) && !co.retired && !co.halted && !(decide (x.rot ≠ 0) && decide (x.rotSeat = t)) &&
      !x.repl.contains t && !bit (s.reg (spSt r t)) 31 && !(s.pdom r).loading

/-- Context `k` of core `c` is eligible: FREE, with a slot not bound (R75). -/
def State.eligible (s : State) (r c k : Nat) : Bool :=
  decide ((s.ctx (pk r c k)).st = .free) && !((s.rank r).slotBound c k 0 && (s.rank r).slotBound c k 1)

/-- Eligible contexts of a seat, lowest first. -/
def State.eligOf (s : State) (r t : Nat) : List Nat :=
  match s.seatCore r t with
  | none => []
  | some c => if s.selectable r t then (List.range 8).filter (fun k => s.eligible r c k) else []

/-- Eligible contexts of a rank. -/
def State.eligCount (s : State) (r : Nat) : Nat := ((List.range 12).map (fun t => (s.eligOf r t).length)).foldl (· + ·) 0

/-- The seat with the most eligible contexts; among equals the first after the seat chosen last (R80). -/
def State.bestSeat (s : State) (r : Nat) : Option Nat :=
  let order := (List.range 12).map (fun i => ((s.rank r).lastSeat + 1 + i) % 12)
  order.foldl (fun b t =>
    let n := (s.eligOf r t).length
    match b with
    | none => if n = 0 then none else some t
    | some u => if (s.eligOf r u).length < n then some t else b) none

/-- The queued entry of a class that became dispatchable first (R79). -/
def RankSt.firstOf (x : RankSt) (cls : Nat) : Option Nat :=
  (x.entries.foldl (fun (b : Option (Nat × Nat)) e =>
    if e.2.phase = .queued && e.2.cls = cls then
      match b with
      | some (q, _) => if e.2.seq < q then some (e.2.seq, e.1) else b
      | none => some (e.2.seq, e.1)
    else b) none).map Prod.snd

/-- What the dispatcher takes next: an entry, or the head of the reinject queue (R79, R81). -/
inductive Sel where
  | entry (i : Nat)
  | reinj (src idx : Nat)
deriving DecidableEq, Repr

/-- The next selection of a rank. A class that R81 holds back does not hold back the classes after it. -/
def State.nextSel (s : State) (r : Nat) : Option Sel :=
  let x := s.rank r
  let n := s.eligCount r
  let ent := fun (cls need : Nat) => if n < need then none else (x.firstOf cls).map Sel.entry
  let rj := match x.reinjQ with
    | [] => none
    | (a, b) :: _ => if n = 0 ∨ s.freeReplay r = 0 then none else some (Sel.reinj a b)
  (ent 0 1).or ((ent 1 2).or (rj.or (ent 3 2)))

/-- The selection a rank would make now and its seat, before the hold of R337. -/
def State.wouldSelect (s : State) (r : Nat) : Option (Sel × Nat × Nat) :=
  if !s.runs r then none
  else match s.nextSel r, s.bestSeat r with
    | some w, some t => (s.seatCore r t).map (fun c => (w, t, c))
    | _, _ => none

/-- The head mover holds the selection: the seat has two staged slots (R337). -/
def State.moverHeld (s : State) (r : Nat) : Bool :=
  match s.wouldSelect r with
  | some (_, _, c) => decide (2 ≤ (s.rank r).staged c)
  | none => false

/-- The slot that a dispatch to context `k` of core `c` fills (R74). -/
def State.slotFor (s : State) (r c k : Nat) : Nat :=
  let x := s.rank r
  if x.slotBound c k 0 then 1
  else if x.slotBound c k 1 then 0
  else match (s.ctx (pk r c k)).lastSlot with
    | some 0 => 1
    | _ => 0

/-- The head mover writes a word only to a bank whose owner is CORE (11 R332). -/
def State.moverW (s : State) (r c x : Nat) (bs : List Byte) : State :=
  forEach (List.range (bs.length / 8)) s (fun i s =>
    if s.bankOwner (r * 13 + c) (x + 8 * i) = 0 then s.spStore (r * 13 + c) (x + 8 * i) ((bs.drop (8 * i)).take 8) else s)

/-- The packet that a reinjection takes: head and metadata block as they stand in the queue entry, with REINJ, PUNT_RANK
and ATTEMPT 8 (R83, R103). -/
def State.reinjPkt (s : State) (src idx : Nat) : Option Pkt :=
  (tfind (s.rank src).exc idx).map (fun e =>
    let bs := s.srR (exA src idx) 320
    let md := { Meta.ofBytes (bs.drop 256) with strip := e.md.strip }
    { head := bs.take 256, md := { md with reinj := true, puntRank := BitVec.ofNat 4 src, attempt := 8 } })

/-- A reinjected packet takes the replay-buffer entry kept back, and its queue entry is freed (R103). -/
def State.takeReinj (s : State) (r src idx : Nat) : Option (Nat × State) :=
  match s.reinjPkt src idx, (s.srSweep (exA src idx) 320).takeEntry r with
  | some p, some (i, s1) =>
    let x := s1.rank r
    let s2 := s1.setRank r { x with reinjQ := x.reinjQ.drop 1 }
    let y := s2.rank src
    let s3 := s2.setRank src { y with exc := tdel y.exc idx }
    some (i, (s3.putEntry r i ⟨p, p.md, .queued, 2, 0, false, [], 256⟩).count (rkA r 0x148))
  | _, _ => none

/-- The packet of entry `i` goes to context `k` of core `c` in seat `t`: the slot is filled (R74, R76, 11 R335). -/
def State.assign (s : State) (r t c k i : Nat) : State :=
  let x := s.rank r
  match tfind x.entries i with
  | none => s
  | some e =>
    let sl := s.slotFor r c k
    let x1 := { x with entries := tset x.entries i { e with phase := .inCtx c k sl }, lastSeat := t, staging := x.staging ++ [(c, k, sl)] }
    let s1 := (s.setRank r x1).count (rkA r 0x100)
    let s2 := s1.moverW r c (slotA k sl) (fit 256 e.pkt.head ++ e.md.bytes ++ List.replicate 192 0)
    let key := pk r c k
    let cx := s2.ctx key
    s2.setCtx key { cx with st := .loading, entry := some i, slot := sl, lastSlot := some sl }

/-- DISPATCH_SELECT: one selection of rank `r` (R79–R81, R337). -/
def execDispatchSelect (r : Rank) (s : State) : Out :=
  .next (match s.wouldSelect r.val with
    | none => s
    | some (w, t, c) =>
      if 2 ≤ (s.rank r.val).staged c then s
      else match (s.eligOf r.val t).head? with
        | none => s
        | some k =>
          match w with
          | .entry i => s.assign r.val t c k i
          | .reinj a b =>
            match s.takeReinj r.val a b with
            | none => s
            | some (i, s1) => s1.assign r.val t c k i)

/-- The SEQ that an attempt's deferred operations begin with: behind those of its key that the ledger holds, or that are on their way to
it, for a packet reinjected into one rank again has the same key (04 R119, 03 R83; log entry 123). -/
def State.keySeq (s : State) (r : Nat) (md : Meta) : Nat :=
  let mine := fun (e : LEntry) => e.keyed md.lane md.pip r md.attempt
  let held := (s.led.ent.filter (fun f => mine f.2)).foldl (fun n f => max n (f.2.seq + 1)) 0
  (s.rank r).out.foldl (fun n m => match m with
    | .entry e => if mine e then max n (e.seq + 1) else n
    | .discard lane pip a => if lane = md.lane ∧ pip = md.pip ∧ a = md.attempt then 0 else n
    | _ => n) held

/-- CONTEXT_START: the context starts at vector-table entry 0 with reset banks (05 R167). A slot in a bank that is not
the core's raises vector 5 for the mover's access (11 R332). -/
def execContextStart (r : Rank) (c : CoreNo) (k : CtxNo) (s : State) : Out :=
  let key := pk r.val c.val k.val
  let cx := s.ctx key
  .next (if cx.st ≠ .loading || !s.runs r.val || s.heldEv key then s
    else match s.sequence key .ctxStart with
    | (false, s) => s
    | (true, s) =>
      let i := Ctx.init key
      let h := slotA k.val cx.slot
      let c1 := { i with st := .run, pc := s.vectorOf key 0, a := BitVec.ofNat 32 h, entry := cx.entry, slot := cx.slot,
                         lastSlot := cx.lastSlot, lastEp := cx.lastEp, hs := cx.hs, broken := [],
                         seq := s.keySeq r.val (s.mdOf key) }
      let s1 := s.setCtx key c1
      match (List.range 8).find? (fun b => s.bankOwner (coreOf key) (h + 8 * b) ≠ 0) with
      | none => s1
      | some b => s1.excAt key 5 (BitVec.ofNat 32 (h + 8 * b)))

/-- HEAD_SLOT_WRITTEN: the staged slot is in its banks (11 R336). -/
def execHeadSlotWritten (r : Rank) (c : CoreNo) (k : CtxNo) (sl : Fin 2) (s : State) : Out :=
  let x := s.rank r.val
  .next (if !s.runs r.val then s
    else s.setRank r.val { x with staging := x.staging.erase (c.val, k.val, sl.val) })

/-! ### Links (R72, R73, R92) -/

/-- A packet takes a replay-buffer entry of rank `r`; ATTEMPT becomes 0 (R72, R83). -/
def State.arrive (s : State) (r : Nat) (p : Pkt) (reps : List Replica) (whole : Bool) : Option State :=
  if s.freeReplay r < 2 then none
  else match s.takeEntry r with
    | none => none
    | some (i, s1) =>
      let md := { p.md with attempt := 0 }
      let ph := if r = 0 && !whole then EPhase.filling else .queued
      some (s1.putEntry r i ⟨{ p with md := md }, md, ph, if md.ladder then 1 else 3, 0, false, reps, 64⟩)

/-- Head bytes of a frame reach rank 0 after its first transfer (R77; 02 R43). -/
def State.headArrive (s : State) (lane : Lane) (pip : Pip) (bs : List Byte) (last : Bool) : State :=
  let x := s.rank 0
  match x.find lane pip with
  | some (i, e) =>
    if e.phase ≠ .filling then s
    else
      let e1 := { e with pkt := { e.pkt with head := overlay (fit 256 e.pkt.head) e.got bs }, got := e.got + bs.length,
                         phase := if last then .queued else .filling, seq := x.seqNo }
      s.setRank 0 { x with entries := tset x.entries i e1, seqNo := x.seqNo + 1 }
  | none => s

/-- A frame joins egress; where its channel is not ATTACHED egress drops it (02 R60, R62). -/
def State.egAdd (s : State) (md : Meta) (head : List Byte) (ch : Nat) (lane : Lane) (sh : Option Nat) (rep : Bool) : State :=
  let f : EgF := { md := md, head := head, ch := ch, lane := lane, shared := sh, st := 0, sent := 0, crc := 0xFFFFFFFF, fcs := none,
                   tdata := [], tgot := 0, treq := 0, rdH := md.tail, rdBeat := 0, rdNext := none, rdErr := false,
                   order := s.eg.seqNo, rep := rep, gw := false, overrun := false }
  let s1 := { s with eg := { s.eg with frames := s.eg.frames ++ [f], seqNo := s.eg.seqNo + 1 } }
  if s1.chan ch ≠ 2 then (s1.count (egA 0x418)).egDone f true else s1

/-- A packet and its replicas reach egress (06 R192); the copies of a packet with replicas share its chain under a count
(13 R395). -/
def State.toEgress (s : State) (p : Pkt) (reps : List Replica) : State :=
  let sh := if reps.isEmpty then none else some s.eg.seqNo
  let s1 := match sh with
    | none => s
    | some h => { s with eg := { s.eg with shared := tset s.eg.shared h (1 + reps.length) } }
  let s2 := s1.egAdd p.md p.head p.md.egCh.toNat p.md.lane sh false
  forEach reps s2 (fun q s => s.egAdd { p.md with egCh := q.ch, tc := q.tc } p.head q.ch.toNat q.lane sh true)

/-- The unit at the end of a link runs. -/
def State.linkRuns (s : State) (k : Nat) : Bool := if linkTo k = 12 then s.runs dOut else s.runs (linkTo k)

/-- The bypass link waits for an entry of rank 11 and is served before the hop (R73). -/
def State.bypassWaits (s : State) (k : Nat) : Bool :=
  decide (k = 11) && (match s.link 12 with | .pkt _ _ _ :: _ => true | _ => false)

/-- HOP_TRANSFER: the front transfer of a link arrives (R72). -/
def execHopTransfer (l : Link) (s : State) : Out :=
  let k := linkKey l
  .next (if !s.linkRuns k || s.bypassWaits k then s
    else match s.link k with
      | .pkt p reps whole :: t =>
        let s0 := s.setLink k t
        if linkTo k = 12 then (s0.toEgress p reps).lateVerdict 12 p.md.lane p.md.pip
        else match s0.arrive (linkTo k) p reps whole with
          | some s1 => s1.lateVerdict (linkTo k) p.md.lane p.md.pip
          | none => s
      | .headSeg lane pip bs last :: t => (s.setLink k t).headArrive lane pip bs last
      | _ => s)

/-- SKIP_TOKEN: the token at the front of a link is recorded as a mark (R91, R92, R94). A token that needs an entry
while none is free waits on its link. -/
def execSkipToken (l : Link) (s : State) : Out :=
  let k := linkKey l
  let r := linkTo k
  .next (if !s.linkRuns k || r = 12 then s
    else match s.link k with
      | .skip lane pip :: t =>
        let x := s.rank r
        if pip ≠ x.nextOf lane && 256 ≤ x.storeFill && s.freeReplay r < 2 then s
        else (s.setLink k t).addMark r ⟨lane, pip, 0, none, false, 0, 0⟩ false none
      | _ => s)

/-- VERDICT_TOKEN: the verdict token at the front of a link is applied by the unit it reaches (04 R109). -/
def execVerdictToken (l : Link) (s : State) : Out :=
  let k := linkKey l
  .next (if !s.linkRuns k then s
    else match s.link k with
      | .verdict lane pip v len :: t => (s.setLink k t).applyAt (linkTo k) lane pip v len
      | _ => s)

/-! ### The order gate (R87–R91) -/

/-- The gate would punt this packet in place of a release (R89). -/
def gatePunt (r : Nat) (p : Pkt) : Option Nat :=
  if p.md.taint then some 0x81 else if r = 11 && !p.md.egValid then some 0x84 else none

/-- The entry's packet needs no further pip to pass first (R87). -/
def RankSt.ready (x : RankSt) (e : REntry) : Bool :=
  match e.phase with
  | .gate _ _ _ => !x.waiting e
  | _ => false

/-- Rank 1 holds a ladder packet that waits for the last entry of rank 11 (R73). -/
def State.ladderWaits (s : State) : Bool :=
  (s.rank 1).entries.any (fun e => e.2.md.ladder && (s.rank 1).ready e.2)

/-- The gate may launch the packet of `e` now (R73, R98). -/
def State.launchable (s : State) (r : Nat) (e : REntry) : Bool :=
  (gatePunt r (s.entryPkt r e)).isSome ||
  (s.mayLaunch r e.md.lane (1 + e.reps.length) &&
   !(decide (r = 10) && s.ladderWaits && decide (s.freeReplay 11 ≤ headsOn (s.link 11) + headsOn (s.link 12) + 2)))

/-- An item the gate can pass: ladder or not, its order, a mark or not, the entry's index or the mark's number. -/
structure GItem where
  ladder : Bool
  seq : Nat
  mark : Bool
  idx : Nat
deriving DecidableEq, Repr

/-- The items rank `r`'s gate can pass now. A packet for which there is no credit downstream is none of them and holds no
other item of the gate back (log entry 85). -/
def State.gateItems (s : State) (r : Nat) : List GItem :=
  let x := s.rank r
  (x.entries.filter (fun e => x.ready e.2 && s.launchable r e.2)).map (fun e => ⟨e.2.md.ladder, e.2.seq, false, e.1⟩) ++
  (x.marks.filter (fun m => m.pip = x.nextOf m.lane)).map (fun m => ⟨decide (240 ≤ m.lane.toNat), m.seq, true, m.seq⟩)

/-- Ladder lanes first, then the item that came first (R88). -/
def gateFirst : List GItem → Option GItem
  | [] => none
  | g :: t =>
    match gateFirst t with
    | none => some g
    | some h =>
      if g.ladder && !h.ladder then some g
      else if h.ladder && !g.ladder then some h
      else if h.seq < g.seq then some h else some g

/-- The item rank `r`'s gate passes next; a rank that leaves ON passes none (16 R450). -/
def State.gateNext (s : State) (r : Nat) : Option GItem := if s.ready r then gateFirst (s.gateItems r) else none

/-- The packet of entry `i` leaves the rank by release or by a punt at the gate. -/
def State.gateOut (s : State) (r i : Nat) (e : REntry) : State :=
  let x := s.rank r
  let p := s.entryPkt r e
  let atNext := !e.md.reinj && decide (e.md.pip = x.nextOf e.md.lane)
  let late := !e.md.reinj && pipBefore e.md.pip (x.nextOf e.md.lane)
  let x1 := { x with entries := tdel x.entries i }
  let x2 := if atNext then x1.advance e.md.lane else x1
  let s0 := s.slotRead r e
  let s1 := (s0.setRank r x2).sendRelease r e.md.lane e.md.pip e.md.attempt e.md.verdict
  let s2 := match gatePunt r p with
    | some code =>
      let s2 := (s1.toQueue r p code).count (rkA r 0x110)
      if atNext && decide (r ≠ 11) then s2.launch (outLink r e.md.lane) (.skip e.md.lane e.md.pip) else s2
    | none => ((s1.launch (outLink r e.md.lane) (.pkt p e.reps true)).count (rkA r 0x108)).count (rkA r 0x140) (b2n late)
  s2.setRank r ((s2.rank r).settle 512)

/-- GATE_RELEASE: the gate passes one packet, where a packet is the item to pass next (R87–R90). -/
def execGateRelease (r : Rank) (s : State) : Out :=
  .next (match s.gateNext r.val with
    | some g =>
      if g.mark then s
      else match tfind (s.rank r.val).entries g.idx with
        | some e => s.gateOut r.val g.idx e
        | none => s
    | none => s)

/-- GATE_PASS_MARK: the gate passes one skip mark, where a mark is the item to pass next (R91). -/
def execGatePassMark (r : Rank) (s : State) : Out :=
  .next (match s.gateNext r.val with
    | some g =>
      if !g.mark then s
      else match (s.rank r.val).marks.find? (fun m => m.seq = g.idx) with
        | some m =>
          let x := s.rank r.val
          let x1 := { x with marks := x.marks.filter (fun y => y.seq ≠ m.seq),
                             entries := match m.held with | some i => tdel x.entries i | none => x.entries }
          let s1 := (s.setRank r.val (x1.advance m.lane)).count (rkA r.val 0x110)
          let s2 := if m.own then s1.sendRelease r.val m.lane m.pip m.attempt m.v else s1
          let s3 := if r.val ≠ 11 then s2.launch (outLink r.val m.lane) (.skip m.lane m.pip) else s2
          s3.setRank r.val ((s3.rank r.val).settle 512)
        | none => s
    | none => s)

/-! ### Punt and reinject (R100–R103) -/

/-- An entry that steward firmware holds: not under way to a rank by a reinjection (R101). -/
def State.isHeld (s : State) (r k : Nat) : Bool :=
  (tfind (s.rank r).exc k).isSome && !s.ranks.any (fun e => e.2.reinjQ.contains (r, k))

/-- The oldest entry not yet popped leaves the pending list (RANK_PUNT_POP). -/
def State.puntPop (s : State) (r : Nat) : Word × State :=
  let x := s.rank r
  let pend := x.exc.filter (fun e => !e.2.popped && s.isHeld r e.1)
  match pend.foldl (fun (b : Option (Nat × Nat)) e => match b with
      | some (o, _) => if e.2.order < o then some (e.2.order, e.1) else b
      | none => some (e.2.order, e.1)) none with
  | none => (0, s)
  | some (_, k) =>
    (BitVec.ofNat 32 (2 ^ 31 + k), s.setRank r { x with exc := tmap x.exc (fun j e => if j = k then { e with popped := true } else e) })

/-- RANK_PUNT_POP. -/
def execRankPuntPop (q : Req) (r : Rank) (s : State) : Out :=
  .next (s.readLw q (rkA r.val 0x14) (fun s => s.puntPop r.val))

/-- A rank that counts as not ON: its domain is not ON, or it has no active seat (16 R449, 17 R474). -/
def State.rankServes (s : State) (r : Nat) : Bool :=
  s.isOn r && (List.range 12).any (fun t => match s.seatCore r t with
    | some c => !(s.core (r * 13 + c)).retired
    | none => false)

/-- The lowest REASON for which a RANK_REINJ write is refused; 0 accepted (R102). -/
def State.reinjReason (s : State) (r idx target : Nat) (re : Bool) : Nat :=
  if !s.isHeld r idx then 1
  else if !re then 0
  else
    match tfind (s.rank r).exc idx with
    | none => 1
    | some e =>
      if e.md.verdict = 0 then 2
      else if e.md.verdict ≠ 1 then 3
      else if target < r || 12 ≤ target || !onPath e.md.lane target || !s.rankServes target then 4
      else if 4 ≤ (s.rank target).reinjQ.length then 5
      else 0

/-- A RANK_REINJ write with OP 1 (`re`) or 2: the status, and where it is accepted its effect. -/
def State.reinjWrite (s : State) (r idx target : Nat) (re : Bool) : State :=
  let n := s.reinjReason r idx target re
  let s1 := s.setRegN (rkA r 0x1C)
    (at_ n 25 + at_ (b2n (n ≠ 0)) 24 + at_ (if re then 1 else 2) 16 + at_ (target % 16) 8 + idx % 64)
  if n ≠ 0 then s1
  else if re then
    let s2 := s1.refreshPause
    let x := s2.rank target
    (s2.setRank target { x with reinjQ := x.reinjQ ++ [(r, idx)] }).refreshPause
  else
    match tfind (s1.rank r).exc idx with
    | none => s1
    | some e =>
      let x := s1.rank r
      freeChain (0x20 + r) e.md (s1.setRank r { x with exc := tdel x.exc idx })

/-- RANK_REINJ with OP = 1. -/
def execRankReinjReinject (q : Req) (r : Rank) (idx : Fin 64) (target : Fin 16) (s : State) : Out :=
  .next (s.writeCmd q (rkA r.val 0x18) (fun s => s.reinjWrite r.val idx.val target.val true))

/-- RANK_REINJ with OP = 2. TARGET is 0 in the row's write. -/
def execRankReinjDrop (q : Req) (r : Rank) (idx : Fin 64) (s : State) : Out :=
  .next (s.writeCmd q (rkA r.val 0x18) (fun s => s.reinjWrite r.val idx.val 0 false))

end Sys2Proof.Machine
end

