-- ==== Sys2Proof/Machine/Ingress.lean ====
section
/-! DEFINITION. Ingress: segments, protocol errors, pips, head and tail, dispatch, pause (02 R34–R52, R530, 13 R389–R391). -/

namespace Sys2Proof.Machine

/-- Where a segment of an edge gets to: it is taken, or ingress waits for a handle of the channel's pool. -/
inductive SegR where
  | ok (s : State)
  | wait (ch : Nat)

/-- Bytes of a segment: 64 without EOP (R35). -/
def Seg.count (g : Seg) : Nat := if g.eop then (if g.bytes = 0 then 64 else g.bytes.toNat) else 64

/-- A segment without EOP and with BYTES ≠ 0 (R40). -/
def Seg.broken (g : Seg) : Bool := !g.eop && decide (g.bytes ≠ 0)

/-- The bytes a segment carries. -/
def Seg.payload (g : Seg) : List Byte := (leBytes 64 g.data.toNat).take (Seg.count g)

/-- The open-frame record of a channel. -/
def State.opn (s : State) (ch : Nat) : Option OpenF := tfind s.ing.opn ch

/-- Put or remove the record. -/
def State.setOpn (s : State) (ch : Nat) (o : Option OpenF) : State :=
  { s with ing := { s.ing with opn := match o with | some f => tset s.ing.opn ch f | none => tdel s.ing.opn ch } }

/-- A record that discards up to EOP. -/
def OpenF.skip : OpenF :=
  { discard := true, md := .zero, hasPip := false, head := [], bytes := 0, errSeen := false,
    dispatched := false, handles := [], tbuf := [], tpos := 0 }

/-- Ingress's dispatch queue toward rank 0 is full: the packets it holds beyond its credits (R37, 03 R73; the depth is
`Config.inQueue`, log entry 81). -/
def State.dispatchFull (s : State) : Bool :=
  let n := headsOn (s.link 0) + 1 - s.freeReplay 0
  decide (n ≠ 0) && decide (Config.inQueue < n)

/-- The buffer port cannot accept a tail write: the LINKs and beats that wait fill its queue (R37; log entry 81). -/
def State.tailFull (s : State) : Bool := !s.ing.wq.isEmpty && decide (Config.tailQueue < s.ing.wq.length)

/-- IN_READY is high: the island is ON and serves, BLK_STATE is RUNNING or MINIMAL, and neither queue is full (R37). -/
def State.inReady (s : State) : Bool :=
  s.ready dIn && (decide (s.blk = 2) || decide (s.blk = 3)) && !s.dispatchFull && !s.tailFull

/-! ### Handles (13 R390, R391) -/

/-- BUF_EMPTY of pool `p` as sampled. -/
def State.poolEmpty (s : State) (p : Nat) : Bool := s.buf.empty.getLsbD p

/-- Put the store of pool `p`. -/
def State.setStore (s : State) (p : Nat) (hs : List Handle) : State :=
  { s with buf := { s.buf with store := tset s.buf.store p hs } }

/-- A LINK or a tail beat for the buffer port. -/
def State.addW (s : State) (w : WItem) : State := { s with ing := { s.ing with wq := s.ing.wq ++ [w] } }

/-! ### End of a frame (R43–R46, R107) -/

/-- The last, partial tail beat of a frame. -/
def State.flushTail (s : State) (f : OpenF) : State :=
  if f.tbuf.isEmpty then s
  else
    let sz := s.bufSize f.md.pool.toNat
    s.addW (.beat f.md.lane f.md.pip (f.handles.getLastD noBuf) (f.tpos % sz / 128) f.tbuf.length f.tbuf)

/-- The frame of channel `ch` ends with verdict `v` (1 good, 2 bad): dispatched now or replaced by a skip token, or its
verdict message becomes due. A frame dispatched here takes its ROUND here (10 R311). IN_BYTES takes the frame's accepted bytes here, at its end or its truncation (R71; the model's choice, log
entry 47). -/
def State.endFrame (s : State) (ch : Nat) (f : OpenF) (v : BitVec 2) : State :=
  let len := f.bytes
  let s0 := ((s.flushTail f).setOpn ch none).count (inA 0x408) len
  let p := f.md.pool.toNat
  let short := decide (len ≤ 256)
  let s1 := if short && !f.handles.isEmpty then s0.setStore p (s0.handles p ++ f.handles.take 1) else s0
  let len14 := BitVec.ofNat 14 len
  if f.dispatched then
    { s1 with ing := { s1.ing with vq := s1.ing.vq ++ [⟨f.md.lane, f.md.pip, v, len14⟩] } }
  else
    let md := { f.md with verdict := v, len := len14, round := s.tb.cur, tail := if short then noBuf else f.handles.headD noBuf }
    if v = 1 then s1.launch 0 (.pkt ⟨fit 256 f.head, md⟩ [] true)
    else freeChain 0 md (s1.launch 0 (.skip md.lane md.pip))

/-- The open frame of channel `ch` is truncated and forfeited (R40). -/
def State.truncFrame (s : State) (ch : Nat) (f : OpenF) : State :=
  (s.count (inA 0x420)).endFrame ch f 2

/-! ### Frame bytes (R41, R43, 13 R389) -/

/-- Head bytes of a frame; those of a dispatched frame go on to rank 0. -/
def State.putHead (s : State) (f : OpenF) (bs : List Byte) (last : Bool) : State × OpenF :=
  (if f.dispatched then s.launch 0 (.headSeg f.md.lane f.md.pip bs last) else s,
   { f with head := f.head ++ bs, bytes := f.bytes + bs.length })

/-- Tail bytes of one segment, whose buffer is known; each full beat goes to the buffer port. -/
def State.putTail (s : State) (f : OpenF) (bs : List Byte) : State × OpenF :=
  let all := f.tbuf ++ bs
  if all.length < 128 then (s, { f with tbuf := all, bytes := f.bytes + bs.length })
  else
    let sz := s.bufSize f.md.pool.toNat
    (s.addW (.beat f.md.lane f.md.pip (f.handles.getLastD noBuf) (f.tpos % sz / 128) 128 (all.take 128)),
     { f with tbuf := all.drop 128, tpos := f.tpos + 128, bytes := f.bytes + bs.length })

/-- The buffer for the tail bytes that begin at the frame's present length. -/
inductive HRes where
  | have (s : State) (f : OpenF)
  | empty
  | wait

/-- A frame takes its first handle with its 257th byte and a further one where its tail passes a multiple of S. -/
def State.needHandle (s : State) (f : OpenF) : HRes :=
  let k := f.bytes - 256
  let p := f.md.pool.toNat
  if (k = 0 ∧ f.handles ≠ []) ∨ k % s.bufSize p ≠ 0 then .have s f
  else match s.handles p with
    | h :: t =>
      let s1 := s.setStore p t
      let s2 := match f.handles.getLast? with | some g => s1.addW (.link f.md.lane f.md.pip g h) | none => s1
      .have s2 { f with handles := f.handles ++ [h] }
    | [] => if s.poolEmpty p then .empty else .wait

/-- A segment's bytes join the open frame of channel `ch`; `cont` goes on with the record. -/
def State.putBytes (s : State) (ch : Nat) (f : OpenF) (bs : List Byte) (eop : Bool) (cont : State → OpenF → State) : SegR :=
  if f.bytes < 256 then
    let (s1, f1) := s.putHead f bs (eop || decide (256 ≤ f.bytes + bs.length))
    .ok (cont s1 f1)
  else match s.needHandle f with
    | .have s1 f1 => let (s2, f2) := s1.putTail f1 bs; .ok (cont s2 f2)
    | .wait => .wait ch
    | .empty =>
      let s1 := (s.truncFrame ch f).count (bufA 0x430)
      .ok (if eop then s1 else s1.setOpn ch (some .skip))

/-- A segment of an open frame (R40, R44). -/
def State.feed (s : State) (ch : Nat) (f : OpenF) (g : Seg) : SegR :=
  let n := Seg.count g
  if 16384 ≤ f.bytes + n then
    s.putBytes ch f ((Seg.payload g).take (16383 - f.bytes)) g.eop (fun s f =>
      let s1 := s.truncFrame ch f
      if g.eop then s1 else s1.setOpn ch (some .skip))
  else
    s.putBytes ch f (Seg.payload g) g.eop (fun s f =>
      let f1 := { f with errSeen := f.errSeen || g.err }
      if !g.eop then s.setOpn ch (some f1)
      else if 14 ≤ f1.bytes && g.fcsOk && !f1.errSeen then s.endFrame ch f1 1
      else (s.count (inA (if f1.bytes < 14 then 0x410 else 0x418))).endFrame ch f1 2)

/-! ### SOP (R42, R45, R46, R50, R52, R530; 16 R448) -/

/-- Lane 1 of the same edge cuts the frame of lane 0 short: a SOP on its channel, or a segment that breaks R40. -/
def cutShort (nxt : Option Seg) : Bool := match nxt with | some h => h.sop || Seg.broken h | none => false

/-- The counter of a frame whose verdict is bad at the edge that accepts its SOP; `nxt` is the channel's segment on lane 1
of the same edge. -/
def badAtSop (g : Seg) (nxt : Option Seg) : Option Nat :=
  let err := g.err || (match nxt with | some h => h.err | none => false)
  if Seg.broken g || cutShort nxt then some 0x420
  else
    let fin := if g.eop then some (g, Seg.count g) else match nxt with
      | some h => if h.eop then some (h, 64 + Seg.count h) else none
      | none => none
    match fin with
    | none => if err then some 0x418 else none
    | some (e, n) => if n < 14 then some 0x410 else if err || !e.fcsOk then some 0x418 else none

/-- A rank domain on the lane's path is not ON (16 R448, 17 R474). -/
def State.pathOff (s : State) (lane : Lane) : Bool := (List.range 12).any (fun r => onPath lane r && !s.rankServes r)

/-- The SOP comes later than the 16th edge after the pause that is in force (R50). A channel's pause is in force from a
pause event with IN_PAUSE_ON = 1 until one with 0, the last event deciding and not the pause state; before the first event of an
ATTACHED channel no SOP is forfeited by R50 (log entry 84). -/
def State.pauseViol (s : State) (ch : Nat) : Bool :=
  (match tfind s.ing.pauseAt ch with
    | some t => tget true s.ing.pauseLast ch && decide (t + 16 < s.now)
    | none => false) ||
  (s.ing.nl && decide ((s.laneOf ch).toNat < 240) && decide (s.ing.nlAt + 16 < s.now))

/-- The counter, by address, of a SOP that ingress discards or forfeits without a pip: the first that applies. -/
def State.sopRefused (s : State) (ch : Nat) (g : Seg) (nxt : Option Seg) : Option Nat :=
  if s.chan ch ≠ 2 then some (inA 0x430)
  else if s.blk = 2 ∧ s.pathOff (s.laneOf ch) then some (pmA 0x800)
  else if s.pauseViol ch then some (inA 0x438)
  else if s.blk = 2 ∧ 2048 ≤ s.laneCount (s.laneOf ch) then some (inA 0x440)
  else (badAtSop g nxt).map inA

/-- The fall-back to store-and-forward for channel `ch` (R46, 04 R128, 13 R398). A change of SAF_LONG, SAF_ALL or WARN acts
on the next SOP, also within the 20 ns or 8 ns for which R129 and R398 say nothing (log entry 86). -/
def State.fallBack (s : State) (ch : Nat) : Bool :=
  s.led.safAll || (bit (s.inMap ch) 8 && (s.led.safLong || s.buf.warn.getLsbD (s.poolOf ch)))

/-- The metadata block at the SOP edge (R42). A change of CUR acts on the next SOP, also within the 20 ns for which R311 of chapter 10
says nothing (DESIGN CHOICE, log entry 86). -/
def State.stamp (s : State) (ch : Nat) (saf : Bool) : Meta :=
  let lane := s.laneOf ch
  { Meta.zero with inCh := BitVec.ofNat 10 ch, lane := lane, saf := saf, pip := tget 0 s.ing.lanePip lane.toNat,
                   round := s.tb.cur, tsNs := BitVec.ofNat 32 (s.copyNs % 1000000000), tsSec := BitVec.ofNat 48 (s.copyNs / 1000000000),
                   pool := BitVec.ofNat 3 (s.poolOf ch) }

/-- A frame is given a pip. -/
def State.takePip (s : State) (lane : Lane) : State :=
  ({ s with ing := { s.ing with lanePip := tset s.ing.lanePip lane.toNat (tget 0 s.ing.lanePip lane.toNat + 1) } }).count (inA 0x400)

/-- A frame accepted at its SOP: with its verdict known at this edge or in store-and-forward it waits for its EOP; else it
takes a handle and is dispatched with the verdict pending (R43, R46, 13 R391). -/
def State.sopTake (s : State) (ch : Nat) (g : Seg) (nxt : Option Seg) : SegR :=
  let whole := g.eop || (match nxt with | some h => h.eop | none => false)
  let fb := s.fallBack ch
  let p := s.poolOf ch
  let begin_ := fun (saf : Bool) =>
    let md := s.stamp ch saf
    ((s.takePip md.lane), { OpenF.skip with discard := false, md := md, hasPip := true })
  if whole || fb then let (s1, f) := begin_ fb; s1.feed ch f g
  else match s.handles p with
    | [] => if s.poolEmpty p then (let (s1, f) := begin_ true; s1.feed ch f g) else .wait ch
    | h :: t =>
      let (s0, f0) := begin_ false
      let md := { f0.md with tail := h }
      let f := { f0 with md := md, handles := [h], dispatched := true, head := Seg.payload g, bytes := 64 }
      let s1 := ((s0.setStore p t).launch 0 (.pkt ⟨fit 256 (Seg.payload g), md⟩ [] false)).count (ldA 0x148)
      .ok (s1.setOpn ch (some f))

/-- In MINIMAL ingress keeps a CH 0 frame of at most 2048 bytes for the ROM (15 R440); a frame that reaches 16 384 bytes
is truncated (R40). -/
def State.feedMin (s : State) (ch : Nat) (f : OpenF) (g : Seg) : State :=
  let f1 := { f with head := (f.head ++ Seg.payload g).take 2049, bytes := f.bytes + Seg.count g, errSeen := f.errSeen || g.err }
  if 16384 ≤ f1.bytes then (s.count (inA 0x420)).setOpn ch (if g.eop then none else some .skip)
  else if !g.eop then s.setOpn ch (some f1)
  else
    let s1 := s.setOpn ch none
    if f1.bytes < 14 then s1.count (inA 0x410)
    else if f1.errSeen || !g.fcsOk then s1.count (inA 0x418)
    else if 2048 < f1.bytes then s1
    else { s1 with cfg := { s1.cfg with minQ := s1.cfg.minQ ++ [f1.head] } }

/-- A segment with SOP. Where the frame is refused, a lane 1 segment of it that breaks R40 at the same edge still counts
one protocol error (log entry 82). -/
def State.segSop (s : State) (g : Seg) (nxt : Option Seg) : SegR :=
  let ch := g.ch.toNat
  let s0 := match s.opn ch with
    | none => s
    | some f =>
      let s1 := s.count (inA 0x428)
      if f.discard then s1.setOpn ch none
      else if s.blk = 3 then (s1.count (inA 0x420)).setOpn ch none
      else s1.truncFrame ch f
  let proto := b2n (Seg.broken g || (match nxt with | some h => !h.sop && Seg.broken h | none => false))
  match s0.sopRefused ch g nxt with
  | some a =>
    let s1 := (s0.count a).count (inA 0x428) proto
    let s2 := if a = pmA 0x800 then s1.orReg (pmA 0x500) 32 else s1
    .ok (if g.eop then s2 else s2.setOpn ch (some .skip))
  | none =>
    if s.blk = 3 then .ok (s0.feedMin ch { OpenF.skip with discard := false } g)
    else s0.sopTake ch g nxt

/-- A segment without SOP. -/
def State.segCont (s : State) (g : Seg) : SegR :=
  let ch := g.ch.toNat
  match s.opn ch with
  | none => .ok (s.count (inA 0x428))
  | some f =>
    if f.discard then .ok (if g.eop then s.setOpn ch none else s)
    else if Seg.broken g then
      let s1 := s.count (inA 0x428)
      .ok ((if s.blk = 3 then s1.count (inA 0x420) else s1.truncFrame ch f).setOpn ch (some .skip))
    else if s.blk = 3 then .ok (s.feedMin ch f g)
    else s.feed ch f g

/-- One segment. -/
def State.seg (s : State) (g : Seg) (nxt : Option Seg) : SegR := if g.sop then s.segSop g nxt else s.segCont g

/-- The lane 1 segment on the channel of lane 0's segment where that has no EOP: it continues the frame, or a SOP cuts it
short (R35, R40). -/
def laneMate (g : Seg) : Option Seg → Option Seg
  | some h => if !g.eop && h.ch = g.ch then some h else none
  | none => none

/-- The handle that lane 0's segment has taken from the store of pool `p`, in the state `s1` that follows it. -/
def State.tookHandle (s s1 : State) (p : Nat) : Option Handle :=
  if (s1.handles p).length < (s.handles p).length then (s.handles p).head? else none

/-- Ingress waits for a handle of channel `ch`; a handle of the same pool that lane 0 of this edge has taken, in the state
`s1` after it, has left the store and is kept for it (13 R391). -/
def State.waitFor (s s1 : State) (ch : Nat) : State :=
  let p := s.poolOf ch
  let s2 := match s.tookHandle s1 p with
    | some h => { s.setStore p ((s.handles p).drop 1) with ing := { s.ing with resv := some (p, h) } }
    | none => s
  { s2 with ing := { s2.ing with waitCh := some ch } }

/-- The segments of one edge, in lane order; none taken where ingress has to wait (R37, 13 R391). -/
def State.edge (s : State) (l0 l1 : Option Seg) : State :=
  let done := fun (t : State) => { t with ing := { t.ing with waitCh := none } }
  match l0, l1 with
  | none, none => done s
  | none, some _ => done (s.count (inA 0x428))
  | some g, l1 =>
    match s.seg g (laneMate g l1) with
    | .wait ch => s.waitFor s ch
    | .ok s1 => match l1 with
      | none => done s1
      | some h => match s1.seg h none with
        | .wait ch => s.waitFor s1 ch
        | .ok s2 => done s2

/-- The handle kept for lane 0 of the edge held back is at hand again, first in its store. -/
def State.unkeep (s : State) : State :=
  match s.ing.resv with
  | some (p, h) => { s.setStore p (h :: s.handles p) with ing := { s.ing with resv := none } }
  | none => s

/-- INGRESS_SEGMENT: the segments that a CK_IN edge accepts. The pause states follow R48 before and after them. -/
def execIngressSegment (l0 l1 : Option Seg) (s : State) : Out :=
  .next (if !s.inReady then s else ((s.unkeep.refreshPause).edge l0 l1).refreshPause)

/-! ### Pause (R48–R51) -/

/-- Channels whose pause state differs from their last event, lowest first. -/
def State.pauseDue (s : State) : Option Nat :=
  (s.ing.pauseSt.find? (fun e => e.2 ≠ tget true s.ing.pauseLast e.1)).map Prod.fst

/-- PAUSE_EVENT: one event, for the lowest channel that waits (R49). -/
def execPauseEvent (s : State) : Out :=
  .next (if !s.runs dIn then s
    else
      let s1 := s.refreshPause
      match s1.pauseDue with
      | none => s
      | some ch =>
        let on := tget true s1.ing.pauseSt ch
        { s1 with ing := { s1.ing with pauseLast := tset s1.ing.pauseLast ch on,
                                       pauseAt := if on then tset s1.ing.pauseAt ch s.now else tdel s1.ing.pauseAt ch } })

/-- IN_PAUSE_NL_CHANGE: the pin takes the oldest change that a sample of BUF_LOW has ordered, at the first edge 8 ns after
that sample (R51). -/
def execInPauseNlChange (s : State) : Out :=
  .next (match s.ing.nlq with
    | (t, lvl) :: rest =>
      if !s.runs dIn || decide (s.now < t) then s
      else { s with ing := { s.ing with nl := lvl, nlAt := if lvl then s.now else s.ing.nlAt, nlq := rest } }
    | [] => s)

end Sys2Proof.Machine
end

