-- ==== Sys2Proof/Machine/TableUnits.lean ====
section
/-! DEFINITION. The tiles, the insert sequencers, the scrub engine, rounds and the table control registers (10). -/

namespace Sys2Proof.Machine

/-! ### Tiles -/

/-- An operation meets tile `t` of a copy that is in use no more: it turns to the other copy, or fails; a second write is
then not made (R317–R319). -/
def State.bounceOp (s : State) (o : TOp) (t : Nat) : State :=
  if o.phase = 200 then s.nextRound { o with acc := o.acc.filter (fun a => a.tile ≠ t) }
  else if !o.onRows && s.altOk o.table t then
    { s with tb := { s.tb with ops := s.tb.ops.map (fun p =>
        if p.id = o.id then { p with acc := p.acc.map (fun a => if a.tile = t then { a with tile := otherTile t } else a) } else p) } }
  else s.failOp o

/-- The first operation that wants an access at a failed tile. -/
def State.bounce (s : State) (t : Nat) : State :=
  match s.tb.ops.find? (fun o => !o.fin && o.acc.any (fun a => a.tile = t)) with
  | none => s
  | some o => s.bounceOp o t

/-- The operation may no longer use the copy that this access names (R319): its table is gone, or that copy is. -/
def State.copyGone (s : State) (o : TOp) (a : Acc) : Bool :=
  !o.onRows && ((decide (o.phase ≠ 200) && s.opDead o) || (s.tMirror o.table && s.copyDead o.table (s.inSecond o.table a.tile)))

/-! ### Scrub (R321, 14 R420) -/

/-- The row's bytes after the scrub engine's refill of a meter or the clearing of aged windows. A read-modify-write acts
on the primary copy (R317): the row of a second copy changes only while the primary one is out of use. -/
def State.scrubbed (s : State) (tile row : Nat) (bs : List Byte) : List Byte :=
  match s.rowOwner tile row with
  | none => bs
  | some (t, bank) =>
    let w := s.tW t
    if s.tMirror t && (s.inSecond t tile != s.copyDead t false) then bs
    else if s.tMeter t then (((Meter.ofBytes bs).refill s.tick32).put bs)
    else if s.tKind t = 5 then
      let aged := fun (e : List Byte) =>
        let tmo := bits (s.td t 6) 23 16
        decide (tmo ≠ 0) && decide (tmo * 1000000 ≤ (s.tick32 - BitVec.ofNat 32 (leNat ((e.drop 4).take 4))).toNat)
      let fix := fun (e : List Byte) => if aged e then e.take 2 ++ [(e.getD 2 0) &&& 0xFE] ++ e.drop 3 else e
      if w = 16 then fix (bs.take 16) ++ fix (bs.drop 16)
      else if w = 32 || (row + (s.tPlace t bank).2.2) % 2 = 0 then fix bs
      else bs
    else bs

/-- Enter row number `n` in rising disjoint ranges. -/
def addVisit (n : Nat) : List (Nat × Nat) → List (Nat × Nat)
  | [] => [(n, n + 1)]
  | (a, b) :: t =>
    if n + 1 < a then (n, n + 1) :: (a, b) :: t
    else if n + 1 = a then (n, b) :: t
    else if n < b then (a, b) :: t
    else if n = b then
      match t with
      | (c, d) :: u => if c = n + 1 then (a, d) :: u else (a, n + 1) :: (c, d) :: u
      | [] => [(a, n + 1)]
    else (a, b) :: addVisit n t

/-- Every row of every tile that is not FAILED has been visited in this pass (R321). -/
def State.passDone (s : State) : Bool :=
  (List.range 32).all (fun t => s.failedTile t || s.tb.visited.any (fun v => decide (v.1 ≤ t * 65536) && decide ((t + 1) * 65536 ≤ v.2)))

/-- The scrub engine has visited a row; the last row of a pass counts it in TBL_SCRUB_PASS, and the next pass begins. -/
def State.scrubNote (s : State) (t row : Nat) : State :=
  let s1 := { s with tb := { s.tb with visited := addVisit (t * 65536 + row) s.tb.visited } }
  if s1.passDone then ({ s1 with tb := { s1.tb with visited := [] } }).count (tbA 0x828) else s1

/-- The visit to a row that the scrub engine has been granted: a corrected row is written back, an uncorrectable one is
treated under R318, meters are refilled and aged windows cleared; a row of the primary copy that was
written back with a change or a correction goes to the second copy (R317). -/
def State.scrubRow (s : State) (t row : Nat) : State :=
  let own := s.rowOwner t row
  let alt := match own with | some (x, _) => s.altOk x t | none => false
  let marked := (List.range 4).any (fun l => (tfind s.tileErr (laneKey t row l)).isSome)
  let (bad, bs, s1) := s.readAt alt t row 1
  let new := s1.scrubbed t row bs
  let s2 :=
    if bad then s1
    else
      let w := s1.tileW t row 0 new
      match own with
      | some (x, _) =>
        if (decide (new ≠ bs) || marked) && alt && !s.inSecond x t then
          ({ w with tb := { w.tb with opNo := w.tb.opNo + 1 } }).putOp
            { TOp.second 13 x 0 ⟨otherTile t, row, 1, 1, 0, new⟩ with id := w.tb.opNo }
        else w
      | none => w
  s2.scrubNote t row

/-- The scrub engine's oldest request at tile `t` is granted. -/
def State.scrubStep (s : State) (t : Nat) : State :=
  match s.tb.scrubReq.find? (fun x => x.1 = t) with
  | none => s
  | some (_, row) =>
    let s1 := s.grant t 13
    ({ s1 with tb := { s1.tb with scrubReq := s1.tb.scrubReq.erase (t, row) } }).scrubRow t row

/-- SCRUB_VISIT: the scrub engine requests a row of a tile that has not failed, and visits it once it wins the tile; till
then its request stays raised (R321, R324). A half that leaves ON raises and takes no new request (01 R18, 16 R450). -/
def execScrubVisit (t : Fin 32) (row : Half) (s : State) : Out :=
  let t := t.val
  let r := row.toNat
  .next (if !s.runs dTblS || !s.runs (tileDom t) || s.failedTile t then s
    else
      let q := s.tb.scrubReq
      let s1 := if q.contains (t, r) || !s.ready dTblS || !s.ready (tileDom t) then s
        else { s with tb := { s.tb with scrubReq := q ++ [(t, r)] } }
      if s1.winsAll 13 [t] then s1.scrubStep t else s1)

/-! ### Transactions (R323–R327) -/

/-- Tile `t` grants the winner and runs its beats (R323, R324); a cycle without a request is a free cycle; a request
at a FAILED tile is answered without a beat. Where the insert sequencer or the commit engine wins, its own command is
the transaction. -/
def execTileTransaction (t : Fin 32) (s : State) : Out :=
  let t := t.val
  .next (if !s.runs (tileDom t) then s
    else if s.failedTile t then s.bounce t
    else match s.winner t (s.present t []) with
      | none => let a := s.arb t; s.setArb t { a with freeCy := min 2 (a.freeCy + 1) }
      | some q => match s.presented t q with
        | none => if q = 13 then s.scrubStep t else s
        | some (o, a) =>
          if 16 < a.n then s
          else if s.copyGone o a then s.bounceOp o t
          else (s.grant t q).performAcc { o with hint := tdel o.hint t } a)

/-- A transaction longer than 16 beats ends after its 16th beat with an over-hold error (R327). -/
def execOverhold (t : Fin 32) (s : State) : Out :=
  let t := t.val
  .next (if !s.runs (tileDom t) || s.failedTile t then s
    else match s.winner t (s.present t []) with
      | none => s
      | some q => match s.presented t q with
        | none => s
        | some (o, a) =>
          if a.n ≤ 16 then s
          else
            let s1 := (s.grant t q).orReg (tbA 0x90) (2 ^ q)
            if a.kind = 0 then
              let (_, bs, s2) := s1.readRows t a.row 16
              s2.finOp o 4 bs
            else (s1.tileW t a.row 0 (a.data.take 512)).finOp o 4 [])

/-- A half's insert sequencer takes its oldest insert and searches again (R302): it waits for its turn at the tiles of
the candidates. Its search and the hash write that follows are one read-modify-write (R309), but for the write of an entry that another
context has locked, which waits for the lock (06 R197). -/
def execInsertSequencer (half : Fin 2) (s : State) : Out :=
  .next (match s.seqHead half.val with
    | none => s
    | some o =>
      let bank := decide (o.bank = 1)
      if s.tDead o.table bank then s.failOp o
      else if !s.winsAll o.req (s.seqTiles o) then s
      else
        let s1 := forEach (s.seqTiles o) s (fun t s => s.grant t o.req)
        match s1.insert o.table bank o.key o.data with
        | (.ue, s2) => s2.failOp o
        | (.written a, s2) => s2.wrote { o with seqHalf := none, hint := [] } a a.tag a.data 1
        | (.full, s2) => (s2.count (tbA 0x818)).finOp o 0 []
        | (.present e, s2) =>
          let o1 := { o with seqHalf := none, hint := [], idx := e, phase := 1 }
          let a := s2.wrAcc o1 e 0 o1.data
          if o.kind = .lrn then s2.finOp o 0 []
          else if (s2.lockOf o.table e).any (fun l => l.owner ≠ o.src) then s2.putOp { o1 with acc := [a] }
          else (s2.tileW a.tile a.row a.tag a.data).wrote o1 a a.tag a.data 1)

/-- A tile enters FAILED (R319): a parity error of its control logic, or errors logged in four distinct rows. -/
def execTileFail (t : Fin 32) (parity : Bool) (s : State) : Out :=
  .next (if !s.runs (tileDom t.val) then s
    else if parity then s.failTile t.val 1
    else if 4 ≤ (s.arb t.val).ueRows.length then s.failTile t.val 2
    else s)

/-! ### Rounds (R311–R315) -/

/-- A steward's write that opens a round (R314). -/
def State.openRound (s : State) : State :=
  if s.tb.plive then { s with tb := { s.tb with refused := true } }
  else
    let staged := fun t => bit (s.reg (tbA (0x20 + 4 * (t / 32)))) (t % 32)
    let dual := (List.range 256).filter (fun t => s.tDual t)
    let s1 := forEach dual s (fun t s =>
      let a := s.abank t
      { s with tb := { s.tb with pbank := tset s.tb.pbank t a,
                                 abank := if staged t then tset s.tb.abank t (!a) else s.tb.abank } })
    let s2 := { s1 with tb := { s1.tb with prev := s1.tb.cur, cur := s1.tb.cur + 1, plive := true, refused := false,
                                           roundAt := s.now } }
    forEach (List.range 8) s2 (fun k s => s.setReg (tbA (0x20 + 4 * k)) 0)

/-- TBL_ROUND_OPEN with OPEN = 1. -/
def execTblRoundOpen (q : Req) (s : State) : Out :=
  .next (s.writeCmd q (tbA 0x18) (fun s => s.openRound))

/-- PLIVE clears once no packet of PREV is in flight, 20 ns or more after the round opened (R313). -/
def execPliveClear (s : State) : Out :=
  .next (if s.runs dTblN && s.tb.plive && decide (s.roundCount s.tb.prev = 0) && decide (s.tb.roundAt + 20 ≤ s.now) then
           { s with tb := { s.tb with plive := false } }
         else s)

/-! ### TBL_CMD -/

/-- A command is refused, or done, at once. -/
def State.cmdEnd (s : State) (reason : Nat) : State :=
  { s with tb := { s.tb with busy := false, cmdDone := true, cmdReason := reason } }

/-- A command begins. -/
def State.cmdStart (s : State) (o : TOp) : State :=
  ({ s with tb := { s.tb with busy := true, cmdDone := false, cmdReason := 0 } }.startOp o).2

/-- An operation of TBL_CMD. -/
def TOp.cmd (kd : TKind) (t : Nat) (bank : Bool) (idx node : Nat) (data : List Byte) : TOp :=
  { id := 0, req := 12, src := tblCmd, kind := kd, table := t, bank := b2n bank, idx := idx, key := [], data := data,
    w0 := 0, w1 := 0, raddr := 0, lvl := 0, phase := 0, node := node, acc := [], got := [], orphan := false,
    seqHalf := none, locked := false, hint := [], fin := false, res := 0, out := [], ue := false, sec := false }

/-- The first `n` bytes of TBL_DATA. -/
def State.tblData (s : State) (n : Nat) : List Byte :=
  (((List.range ((n + 3) / 4)).map (fun i => leBytes 4 (s.reg (tbA (0x400 + 4 * i))).toNat)).flatten).take n

/-- TBL_CMD OP 1 and 2. -/
def State.cmdEntry (s : State) (write bank : Bool) (t : Nat) : State :=
  if s.tb.busy then s
  else
    let e := s.fld (tbA 4) 23 0
    if s.tKind t = 0 || decide (s.tLen t ≤ e) || (bank && !s.tDual t) then s.cmdEnd 2
    else if write && s.tDual t && !s.idleBank t bank then s.cmdEnd 1
    else if write then s.cmdStart (TOp.cmd .cmdWrite t bank e 0 (s.tblData (s.tW t)))
    else s.cmdStart (TOp.cmd .cmdRead t bank e 0 [])

/-- TBL_CMD OP 3 and 4. -/
def State.cmdRows (s : State) (write : Bool) (len : Nat) : State :=
  if s.tb.busy then s
  else
    let tile := s.fld (tbA 4) 20 16
    let row := s.fld (tbA 4) 15 0
    if len = 0 ∨ 65536 < row + len then s.cmdEnd 2
    else if write && (List.range len).any (fun i => s.liveRow tile (row + i)) then s.cmdEnd 1
    else if s.failedTile tile then s.cmdEnd 3
    else if write then s.cmdStart (TOp.cmd .rowsWrite tile false row len (s.tblData (32 * min len 16)))
    else s.cmdStart (TOp.cmd .rowsRead tile false row len [])

/-- TBL_CMD OP 5. -/
def State.cmdFail (s : State) : State :=
  if s.tb.busy then s else (s.failTile (s.fld (tbA 4) 20 16) 3).cmdEnd 0

/-- TBL_CMD OP 1: read an entry. -/
def execTblCmdReadEntry (q : Req) (bank : Bool) (tid : Byte) (s : State) : Out :=
  .next (s.writeCmd q (tbA 0) (fun s => s.cmdEntry false bank tid.toNat))

/-- TBL_CMD OP 2: write an entry of an idle bank. -/
def execTblCmdWriteEntry (q : Req) (bank : Bool) (tid : Byte) (s : State) : Out :=
  .next (s.writeCmd q (tbA 0) (fun s => s.cmdEntry true bank tid.toNat))

/-- TBL_CMD OP 3: read rows of one tile. -/
def execTblCmdReadRows (q : Req) (len : Fin 32) (s : State) : Out :=
  .next (s.writeCmd q (tbA 0) (fun s => s.cmdRows false len.val))

/-- TBL_CMD OP 4: write rows of one tile. -/
def execTblCmdWriteRows (q : Req) (len : Fin 32) (s : State) : Out :=
  .next (s.writeCmd q (tbA 0) (fun s => s.cmdRows true len.val))

/-- TBL_CMD OP 5: fail a tile. -/
def execTblCmdFailTile (q : Req) (s : State) : Out :=
  .next (s.writeCmd q (tbA 0) (fun s => s.cmdFail))

/-- The command in progress ends: BUSY clears, DONE and REASON are set, data read stands in TBL_DATA. -/
def execTblCmdComplete (s : State) : Out :=
  .next (match s.tb.ops.find? (fun o => o.fin && o.src = tblCmd) with
    | none => s
    | some o =>
      let s1 := { s with tb := { s.tb with ops := s.tb.ops.filter (fun p => p.id ≠ o.id) } }
      let s2 := forEach (List.range (o.out.length / 4)) s1 (fun i s =>
        s.setRegN (tbA (0x400 + 4 * i)) (leNat ((o.out.drop (4 * i)).take 4)))
      s2.cmdEnd o.res.toNat)

/-- A write to TBL_RELOC k: VALID stays 0 for a DUAL or mirrored table (R320). -/
def State.writeReloc (s : State) (k : Nat) (w : Word) : State :=
  let t := bits w 23 16
  let w1 := w &&& 0xDFFFFFFF
  s.setReg (tbA (0x300 + 4 * k)) (if s.tDual t || s.tMirror t then w1 &&& 0x7FFFFFFF else w1)

/-- TBL_RELOC: steward firmware starts or ends a rebuild. -/
def execTblRelocWrite (q : Req) (k : Fin 8) (w : Word) (s : State) : Out :=
  .next (s.writeCmd q (tbA (0x300 + 4 * k.val)) (fun s => s.writeReloc k.val w))

end Sys2Proof.Machine
end

