-- ==== Sys2Proof/Machine/Ledger.lean ====
section
/-! DEFINITION. The ledger: its messages, the commit engine, its fill thresholds and its registers (04 R117–R129). -/

namespace Sys2Proof.Machine

/-- Take an entry: the whole entry is written, so an error mark of its index is gone (R125). -/
def State.ledPut (s : State) (idx : Nat) (e : LEntry) : State :=
  ({ s with led := { s.led with ent := tset s.led.ent idx e }, ledErr := tdel s.ledErr idx }).thresholds

/-- Discard the entries that `p` accepts, counting each in the counter at `a`. An entry whose commit waits for its second
copy is committed and is discarded no more. -/
def State.ledDrop (s : State) (a : Nat) (p : LEntry → Bool) : State :=
  let gone := fun (e : Nat × LEntry) => e.2.used && !e.2.com && p e.2
  (({ s with led := { s.led with ent := s.led.ent.filter (fun e => !gone e) } }).count a (s.led.ent.filter gone).length).thresholds

/-- Change the entries that `p` accepts. -/
def State.ledMod (s : State) (p : LEntry → Bool) (f : LEntry → LEntry) : State :=
  { s with led := { s.led with ent := tmap s.led.ent (fun _ e => if p e then f e else e) } }

/-- The entry belongs to (lane, pip). -/
def LEntry.ofFrame (e : LEntry) (lane : Lane) (pip : Pip) : Bool := decide (e.lane = lane) && decide (e.pip = pip)

/-! ### Messages (R120, R121) -/

/-- The oldest message of rank `r`'s link. -/
def State.front (s : State) (r : Nat) : Option LMsg := (s.rank r).out.find? (fun m => !m.isMark)

/-- Take the oldest message off the link. -/
def State.dropMsg (s : State) (r : Nat) : State :=
  let x := s.rank r
  s.setRank r { x with out := eraseFirst (fun m => !m.isMark) x.out }

/-- The ledger runs. -/
def State.ledOn (s : State) : Bool := s.runs dTblN

/-- A context of rank `r` that sleeps for room in the ledger, lowest first; a halted core's contexts wait (18 R501). -/
def State.ledSleeper (s : State) (r : Nat) : Option (Nat × LEntry) :=
  (List.range 104).findSome? (fun i =>
    let key := pk r (i / 8) (i % 8)
    let c := s.ctx key
    match c.st, c.wait with
    | .sleep, .ledger e => if s.heldEv key then none else some (key, e)
    | _, _ => none)

/-- The operands and result of a deferred operation that completes after its sleep for room. -/
def State.wakeDeferred (s : State) (key : Nat) (e : LEntry) : State :=
  let c := s.ctx key
  let c1 := { c with seq := c.seq + 1 }
  let t := c.pc + BitVec.ofNat 32 c.wlen
  if e.op = 0 then s.complete key { c1 with os := c.os.drop 3 } t
  else if e.op = 1 then
    match s.tb.ops.find? (fun o => o.src = key && o.fin && o.kind = .mtr) with
    | some o => (s.dropOp o).complete key { c1 with os := o.res :: c.os.drop 2 } t
    | none => s.complete key { c1 with os := 0 :: c.os.drop 2 } t
  else if e.op = 2 then s.complete key { c1 with os := c.os.drop 2 } t
  else s.complete key { c1 with os := c.os.drop 1 } t

/-- LEDGER_ENTRY: the ledger accepts an ENTRY message of rank `r` into the free entry `idx`; a context that slept for
room goes on (R120, R127). -/
def execLedgerEntry (r : Rank) (idx : Fin 16384) (s : State) : Out :=
  .next (if !s.ledOn || (tfind s.led.ent idx.val).isSome then s
    else match s.front r.val with
      | some (.entry e) => ((s.dropMsg r.val).ledPut idx.val e).count (ldA 0x100)
      | some _ => s
      | none =>
        if !s.ready r.val || s.ledgerFull r.val then s
        else match s.ledSleeper r.val with
          | none => s
          | some (key, e) =>
            let e1 := { e with vgood := decide ((s.mdOf key).verdict = 1) }
            ((s.ledPut idx.val e1).count (ldA 0x100)).wakeDeferred key e)

/-- LEDGER_RELEASE: REL on the key's entries; a good verdict sets VGOOD, a bad one discards them. -/
def execLedgerRelease (r : Rank) (s : State) : Out :=
  .next (match s.front r.val with
    | some (.release lane pip a v) =>
      if !s.ledOn then s
      else
        let p := fun (e : LEntry) => e.keyed lane pip r.val a
        let s1 := s.dropMsg r.val
        if v = 2 then s1.ledDrop (ldA 0x110) p
        else s1.ledMod p (fun e => { e with rel := true, vgood := e.vgood || decide (v = 1) })
    | _ => s)

/-- LEDGER_DISCARD: a replay discards the old key's entries (R132). -/
def execLedgerDiscard (r : Rank) (s : State) : Out :=
  .next (match s.front r.val with
    | some (.discard lane pip a) =>
      if !s.ledOn then s else (s.dropMsg r.val).ledDrop (ldA 0x118) (fun e => e.keyed lane pip r.val a)
    | _ => s)

/-- LEDGER_FORFEIT: the entries of (lane, pip, rank), any attempt, are discarded. -/
def execLedgerForfeit (r : Rank) (s : State) : Out :=
  .next (match s.front r.val with
    | some (.forfeit lane pip) =>
      if !s.ledOn then s
      else (s.dropMsg r.val).ledDrop (ldA 0x110) (fun e => e.ofFrame lane pip && decide (e.rank = r.val))
    | _ => s)

/-- Rank `r` has no message before its mark of this verdict (R110). -/
def markLeads (lane : Lane) (pip : Pip) : List LMsg → Bool
  | [] => true
  | .vmark l p :: t => if l = lane ∧ p = pip then true else markLeads lane pip t
  | m :: t => !(m :: t).any (fun x => match x with | .vmark l p => decide (l = lane) && decide (p = pip) | _ => false)

/-- The verdict message that the ledger may apply next. -/
def State.ledMsg (s : State) : Option VMsg :=
  s.ing.vmsgs.find? (fun m => m.ledger && m.ranks.isEmpty &&
    (List.range 12).all (fun r => markLeads m.lane m.pip (s.rank r).out))

/-- LEDGER_VERDICT: a good verdict sets VGOOD on the frame's entries, a bad one discards them (R110, R120). -/
def execLedgerVerdict (s : State) : Out :=
  .next (match s.ledMsg with
    | none => s
    | some m =>
      if !s.ledOn then s
      else
        let s1 := s.modMsg m.lane m.pip (fun m => { m with ledger := false })
        let s2 := { s1 with ranks := tmap s1.ranks (fun _ x => { x with out := x.out.filter (fun y => match y with
          | .vmark l p => !(decide (l = m.lane) && decide (p = m.pip))
          | _ => true) }) }
        let p := fun (e : LEntry) => e.ofFrame m.lane m.pip
        if m.v = 2 then s2.ledDrop (ldA 0x110) p else s2.ledMod p (fun e => { e with vgood := true }))

/-- A rank has no message to the ledger before its mark of the oldest flush. -/
def flushLeads : List LMsg → Bool
  | [] => true
  | .fmark :: _ => true
  | .vmark _ _ :: t => flushLeads t
  | m :: t => !(m :: t).contains .fmark

/-- The flush may reach the ledger: every rank has it, the ledger has taken each message that a rank sent before, and the verdict
messages issued before it have passed (R110, 17 R483). -/
def State.flushMay (s : State) : Bool :=
  (match s.ing.flush.find? (fun m => m.ledger) with
   | some m => m.ranks.isEmpty
   | none => false) &&
  !s.ing.vmsgs.any (fun m => m.ledger) && (List.range 12).all (fun r => flushLeads (s.rank r).out)

/-- LEDGER_FLUSH: the flush of an ingress self-restart discards every entry whose VGOOD is 0 (17 R483). -/
def execLedgerFlush (s : State) : Out :=
  .next (if !s.ledOn || !s.flushMay then s
    else
      let ms := (mapFirst (fun m => m.ledger) (fun (m : VMsg) => { m with ledger := false }) s.ing.flush).filter (fun m => !m.done)
      ({ s with ing := { s.ing with flush := ms },
                ranks := tmap s.ranks (fun _ x => { x with out := eraseFirst (· == LMsg.fmark) x.out }) }).ledDrop (ldA 0x110) (fun e => !e.vgood))

/-! ### Commit (R122–R126) -/

/-- An entry lost to an uncorrectable error: counted and its key logged (R125). -/
def State.ledLost (s : State) (idx : Nat) (e : LEntry) : State :=
  let k := 2 ^ 31 + at_ e.rank 24 + at_ e.lane.toNat 16 + e.pip.toNat
  ((({ s with ledErr := tdel s.ledErr idx }).ledFree idx).count (ldA 0x128)).logLast (ldA 0xC) 4 k

/-- LEDGER_COMMIT: the commit engine applies the due entry `idx` once it wins its tiles, and frees it; on a mirrored table
the entry is freed once the second copy is written too (10 R317). -/
def execLedgerCommit (idx : Fin 16384) (s : State) : Out :=
  .next (match tfind s.led.ent idx.val with
    | none => s
    | some e =>
      if !s.ledOn || !e.due || s.notFirst e then s
      else if tfind s.ledErr idx.val = some true then s.ledLost idx.val e
      else
        let s0 := { s with ledErr := tdel s.ledErr idx.val }
        if s0.tDead e.table.toNat (s0.bankOf e.table.toNat e.round) then s0.commitLost idx.val
        else
          let ts := s0.commitTiles e
          if !s0.winsAll 14 ts || (decide (e.op = 2) && s0.seqBusy e.table.toNat (s0.bankOf e.table.toNat e.round)) then s
          else (forEach ts s0 (fun t s => s.grant t 14)).commit idx.val e)

/-! ### Registers -/

/-- The peak fill since the last functional read (LEDGER_PEAK); it starts again from the present fill. -/
def State.peakRead (s : State) : Word × State :=
  (BitVec.ofNat 32 s.led.peak, { s with led := { s.led with peak := s.fill } })

/-- LEDGER_PEAK_READ. -/
def execLedgerPeakRead (q : Req) (s : State) : Out :=
  .next (s.readCmd q (ldA 4) State.peakRead (fun s => BitVec.ofNat 32 s.led.peak))

/-- LEDGER_UE_LOG_READ. -/
def execLedgerUeLogRead (q : Req) (s : State) : Out := .next (s.readLw q (ldA 0xC) (fun s => s.logPop (ldA 0xC)))

end Sys2Proof.Machine
end

