-- ==== Sys2Proof/Machine/TimeSched.lean ====
section
/-! DEFINITION. The timebase and the gate schedules (14). -/

namespace Sys2Proof.Machine

/-! ### The time (R402–R410) -/

/-- Nanoseconds in a second. -/
abbrev nsPerSec : Nat := 1000000000

/-- The time in nanoseconds. -/
def State.timeNs (s : State) : Nat := s.time.sec.toNat * nsPerSec + s.time.ns

/-- Set bits of TIME_EV. -/
def State.timeEv (s : State) (n : Nat) : State := s.orReg (tmA 0x38) n

/-- Put the time `n` nanoseconds. -/
def State.putTime (s : State) (n : Nat) : State :=
  { s with time := { s.time with sec := BitVec.ofNat 48 (n / nsPerSec), ns := n % nsPerSec } }

/-- PPS_OUT is enabled. -/
def State.ppsEn (s : State) : Bool := bit (s.reg (tmA 0x3C)) 31

/-- Advance the time by `n` whole nanoseconds; a carry into the seconds is due a pulse while EN is 1 (R410). -/
def State.advanceNs (s : State) (n : Nat) : State :=
  let s1 := s.putTime (s.timeNs + n)
  if s.time.ns + n < nsPerSec then s1 else { s1 with time := { s1.time with ppsDue := s1.ppsEn } }

/-- A fraction register plus ADJ: the new fraction and the whole nanoseconds it gives to a 2 ns step. -/
def fracStep (frac adj : Word) : Word × Nat :=
  let t : Int := (frac.toNat : Int) + adj.toInt
  if t < 0 then (BitVec.ofInt 32 (t + 2 ^ 32), 1) else if t < 2 ^ 32 then (BitVec.ofInt 32 t, 2) else (BitVec.ofInt 32 (t - 2 ^ 32), 3)

/-- One CK_TIME edge: the time and the tick advance by 2 ns and ADJ × 2^−32 ns (R402, R407). -/
def State.timeEdge (s : State) : State :=
  if !s.runs dTime then s
  else
    let adj := s.reg (tmA 0x20)
    let (f, n) := fracStep s.time.frac adj
    let (g, m) := fracStep s.time.tickFrac adj
    let s1 := s.advanceNs n
    { s1 with time := { s1.time with frac := f, tick := s1.time.tick + BitVec.ofNat 64 m, tickFrac := g } }

/-- The 48-bit seconds operand of the phase commands. -/
def State.adjSec (s : State) : BitVec 48 :=
  BitVec.ofNat 48 ((s.reg (tmA 0x28)).toNat + 2 ^ 32 * bits (s.reg (tmA 0x2C)) 15 0)

/-- A refused phase command. -/
def State.phaseRefused (s : State) : State := { s with time := { s.time with refused := true } }

/-- An accepted phase command. -/
def State.phaseTaken (s : State) : State := { s with time := { s.time with refused := false } }

/-- OP 1: the offset is added at one edge. A sum outside the 48-bit seconds is a value the manual does not state (log
entry 33). -/
def State.timeStep (s : State) : State :=
  let ns := (s.reg (tmA 0x24)).toInt
  if s.time.slew.isSome || decide (ns.natAbs ≥ nsPerSec) then s.phaseRefused
  else
    let n : Int := (s.timeNs : Int) + s.adjSec.toInt * nsPerSec + ns
    let s1 := { s.phaseTaken with time := { s.phaseTaken.time with set := true } }.timeEv 2
    if 0 ≤ n ∧ n.toNat / nsPerSec < 2 ^ 48 then s1.putTime n.toNat
    else { s1 with freeCount := s1.freeCount + 2,
                   time := { s1.time with sec := (Config.freeWord s1.freeCount ++ Config.freeWord (s1.freeCount + 1)).setWidth 48,
                                          ns := (n % nsPerSec).toNat } }

/-- OP 2: a slew begins. -/
def State.timeSlew (s : State) : State :=
  let ns := (s.reg (tmA 0x24)).toInt
  if s.time.slew.isSome || decide (s.adjSec ≠ 0) || decide (ns.natAbs > 1000000) then s.phaseRefused
  else if ns = 0 then s.phaseTaken.timeEv 2
  else { s.phaseTaken with time := { s.phaseTaken.time with slew := some (ns.natAbs, decide (0 < ns), s.now + 16000) } }

/-- OP 3: the time is loaded, its fraction 0. -/
def State.timeSet (s : State) : State :=
  let ns := (s.reg (tmA 0x24)).toNat
  if s.time.slew.isSome || decide (ns ≥ nsPerSec) then s.phaseRefused
  else
    let s1 := s.phaseTaken
    { s1 with time := { s1.time with sec := s.adjSec, ns := ns, frac := 0, set := true,
                                     ppsDue := s1.time.ppsDue || (s.ppsEn && decide (ns = 0)) } }.timeEv 2

/-- TIME_STEP: a write of TIME_ADJ_CMD with OP = 1 (R406). -/
def execTimeStep (q : Req) (s : State) : Out := .next (s.writeCmd q (tmA 0x30) State.timeStep)

/-- TIME_SLEW: OP = 2. -/
def execTimeSlew (q : Req) (s : State) : Out := .next (s.writeCmd q (tmA 0x30) State.timeSlew)

/-- TIME_SET: OP = 3. -/
def execTimeSet (q : Req) (s : State) : Out := .next (s.writeCmd q (tmA 0x30) State.timeSet)

/-- SLEW_STEP: 1 ns at each 16 µs after the command, until the offset is spent. The step belongs to the CK_TIME edge that the time has just
passed (R402): one back over a second boundary leaves that edge without a carry, and so without a PPS rise (R410). -/
def execSlewStep (s : State) : Out :=
  .next (match s.time.slew with
    | none => s
    | some (n, fwd, t) =>
      if s.now < t || !s.runs dTime then s
      else
        let s0 := s.putTime (s.timeNs - 1)
        let s1 := if fwd then s.advanceNs 1
          else if s.time.ns = 0 then { s0 with time := { s0.time with ppsDue := false } } else s0
        if n ≤ 1 then { s1 with time := { s1.time with slew := none } }.timeEv 2
        else { s1 with time := { s1.time with slew := some (n - 1, fwd, t + 16000) } })

/-- TIME_FREQ keeps the nearer limit of ±500 ppm (R405). -/
def clampAdj (w : Word) : Word :=
  if w.toInt > 0x418937 then 0x418937 else if w.toInt < -0x418937 then BitVec.ofInt 32 (-0x418937) else w

/-- TIME_FREQ_WRITE. -/
def execTimeFreqWrite (q : Req) (w : Word) (s : State) : Out :=
  .next (s.writeCmd q (tmA 0x20) (fun s => s.setReg (tmA 0x20) (clampAdj w)))

/-- A functional read of TIME_NOW_NS captures the time and the tick (R421). -/
def State.timeNow (s : State) : Word × State :=
  (BitVec.ofNat 32 s.time.ns,
   { s with time := { s.time with capSec := tset s.time.capSec 0 s.time.sec, capFrac := tset s.time.capFrac 0 s.time.frac,
                                  capTick := tset s.time.capTick 0 s.tick32 } })

/-- TIME_NOW_NS_READ; a debug peek captures nothing. -/
def execTimeNowNsRead (q : Req) (s : State) : Out :=
  .next (s.readCmd q (tmA 0) State.timeNow (fun s => BitVec.ofNat 32 s.time.ns))

/-- TIME_REF_LOST: the DCO holds its frequency (R403). -/
def execTimeRefLost (s : State) : Out :=
  .next (if !s.isOn dTime || s.time.refLost then s
    else { s with time := { s.time with refLost := true, locked := false } }.timeEv 4)

/-- TIME_REF_RETURN: the DCO relocks. -/
def execTimeRefReturn (s : State) : Out :=
  .next (if !s.isOn dTime || !s.time.refLost then s
    else { s with time := { s.time with refLost := false, locked := true } })

/-- The pulse width in ns. -/
def State.ppsWidth (s : State) : Nat :=
  let w := s.fld (tmA 0x3C) 19 0
  1000 * (if w = 0 then 1 else if 999999 < w then 999999 else w)

/-- PPS_RISE: PPS_OUT rises for a carry into the seconds (R410). -/
def execPpsRise (s : State) : Out :=
  .next (if !s.runs dTime || !s.time.ppsDue || !s.ppsEn then s
    else { s with time := { s.time with ppsOut := true, ppsDue := false, ppsFall := s.now + s.ppsWidth } }.timeEv 1)

/-- A write of TIME_PPS; while EN is 0, PPS_OUT is low and no pulse is due (R410). -/
def State.ppsSet (s : State) (w : Word) : State :=
  let s1 := s.setReg (tmA 0x3C) (w &&& 0x800FFFFF)
  if bit w 31 then s1 else { s1 with time := { s1.time with ppsOut := false, ppsDue := false } }

/-- PPS_FALL: PPS_OUT falls after WIDTH µs. -/
def execPpsFall (s : State) : Out :=
  .next (if !s.time.ppsOut || s.now < s.time.ppsFall then s else { s with time := { s.time with ppsOut := false } })

/-! ### Schedule tables (R411–R415) -/

/-- Where the parameter at offset `off` of copy `b` of table `t` is kept: CTL 0, CYCLE 4, BASE_NS 8, BASE_SEC 0xC, 0x10. -/
def schP (t : Nat) (b : Bool) (off : Nat) : Nat := 0x8000000 + t * 0x100 + b2n b * 0x80 + off

/-- Where entry `i` of copy `b` of table `t` is kept. -/
def schE (t : Nat) (b : Bool) (i : Nat) : Nat := 0x9000000 + t * 0x2000 + b2n b * 0x1000 + 4 * i

/-- Table `t`. -/
def State.sch (s : State) (t : Nat) : Sched := tget ⟨false, false, 0, 0, false⟩ s.sched t

/-- Put table `t`. -/
def State.setSch (s : State) (t : Nat) (x : Sched) : State := { s with sched := tset s.sched t x }

/-- LEN, NSPB, CYCLE and BASE of a copy. -/
def State.schLen (s : State) (t : Nat) (b : Bool) : Nat := s.fld (schP t b 0) 26 16
def State.schNspb (s : State) (t : Nat) (b : Bool) : Nat := s.fld (schP t b 0) 15 0
def State.schCycle (s : State) (t : Nat) (b : Bool) : Nat := s.fld (schP t b 4) 29 0
def State.schBase (s : State) (t : Nat) (b : Bool) : Nat :=
  ((s.reg (schP t b 0xC)).toNat + 2 ^ 32 * bits (s.reg (schP t b 0x10)) 15 0) * nsPerSec + s.fld (schP t b 8) 29 0

/-- The entries below LEN. -/
def State.schEntries (s : State) (t : Nat) (b : Bool) : List Word :=
  (List.range (s.schLen t b)).map (fun i => s.reg (schE t b i))

/-- An entry in force over a span of the cycle. -/
structure Span where
  mask : Nat
  lo : Nat
  hi : Nat
deriving DecidableEq, Repr

/-- The spans of a cycle: an entry that begins at or after CYCLE is never in force, and the last one reached stays until
the cycle ends (R412). -/
def spansOf (cyc : Nat) : Nat → List Word → List Span
  | _, [] => []
  | at0, w :: t =>
    if cyc ≤ at0 then []
    else
      let e := at0 + bits w 23 0
      let rest := spansOf cyc e t
      ⟨bits w 31 24, at0, if rest.isEmpty then cyc else e⟩ :: rest

/-- The total length of the leading spans whose gate `tc` is open; none where every one is open. -/
def openRun (tc : Nat) : List Span → Option Nat
  | [] => none
  | p :: t => if p.mask / 2 ^ tc % 2 = 1 then (openRun tc t).map (· + (p.hi - p.lo)) else some 0

/-- The position in the operational copy at the present time, 0 before BASE (R412). -/
def State.schPos (s : State) (t : Nat) : Nat :=
  let b := (s.sch t).oper
  let base := s.schBase t b
  if s.copyNs < base then 0 else (s.copyNs - base) % s.schCycle t b

/-- The spans of the operational copy of table `t`. -/
def State.schSpans (s : State) (t : Nat) : List Span :=
  spansOf (s.schCycle t (s.sch t).oper) 0 (s.schEntries t (s.sch t).oper)

/-- The index of the entry in force (SCHED_STATUS.ENTRY). -/
def State.schEntry (s : State) (t : Nat) : Nat :=
  if s.schLen t (s.sch t).oper = 0 then 0
  else ((s.schSpans t).findIdx? (fun p => decide (p.lo ≤ s.schPos t) && decide (s.schPos t < p.hi))).getD 0

/-- Nanoseconds until gate `tc` of table `t` next closes: some 0 where it is closed, none where it never closes. A pending
switch counts as a closing (R416). -/
def State.untilClose (s : State) (t tc : Nat) : Option Nat :=
  let x := s.sch t
  let b := x.oper
  let own : Option Nat :=
    if s.schLen t b = 0 then none
    else
      let p := s.schPos t
      let sp := s.schSpans t
      let wait := s.schBase t b - s.copyNs
      let i := (sp.findIdx? (fun q => decide (q.lo ≤ p) && decide (p < q.hi))).getD 0
      match sp.drop i with
      | [] => none
      | q :: rest =>
        if q.mask / 2 ^ tc % 2 = 0 then some 0
        else (openRun tc (rest ++ sp.take i ++ [q])).map (fun n => n + (q.hi - p) + wait)
  if x.pend then
    let sw := x.swSec.toNat * nsPerSec + x.swNs - s.copyNs
    match own with
    | none => some sw
    | some 0 => some 0
    | some n => some (min n sw)
  else own

/-- Gate `tc` of table `t` is open now. -/
def State.gateOpen (s : State) (t tc : Nat) : Bool :=
  let x := s.sch t
  if s.schLen t x.oper = 0 then true
  else
    let sp := s.schSpans t
    match sp[s.schEntry t]? with
    | some q => q.mask / 2 ^ tc % 2 = 1
    | none => true

/-- The reason for which a commit is refused; 0 accepted (R414). -/
def State.commitReason (s : State) (t : Nat) : Nat :=
  let x := s.sch t
  let a := !x.oper
  let n := s.schLen t a
  if x.pend then 1
  else if 1024 < n then 2
  else if (s.schEntries t a).any (fun w => bits w 23 0 = 0) then 3
  else if n ≠ 0 ∧ (s.schCycle t a < 1000 ∨ nsPerSec < s.schCycle t a) then 4
  else 0

/-- The switch time of a commit (R414). -/
def State.switchAt (s : State) (t : Nat) : Nat :=
  let a := !(s.sch t).oper
  let base := s.schBase t a
  let cyc := s.schCycle t a
  let lim := s.timeNs + 1000
  if lim ≤ base then base
  else if s.schLen t a = 0 then lim
  else base + (lim - base + cyc - 1) / cyc * cyc

/-- A SCHED_CMD write with OP = 1. -/
def State.schCommit (s : State) (t : Nat) : State :=
  let n := s.commitReason t
  let s1 := s.setRegN (tmA 0x804) (at_ (b2n (n ≠ 0)) 28 + at_ n 25 + t)
  if n ≠ 0 then s1
  else
    let sw := s.switchAt t
    let x := s.sch t
    let late := decide (sw ≠ s.schBase t (!x.oper))
    (s1.setSch t { x with pend := true, swSec := BitVec.ofNat 48 (sw / nsPerSec), swNs := sw % nsPerSec }).count (tmA 0x908) (b2n late)

/-- A SCHED_CMD write with OP = 2. -/
def State.schCancel (s : State) (t : Nat) : State :=
  (s.setRegN (tmA 0x804) t).setSch t { s.sch t with pend := false }

/-- SCHED_COMMIT. -/
def execSchedCommit (q : Req) (t : Fin 64) (s : State) : Out := .next (s.writeCmd q (tmA 0x800) (fun s => s.schCommit t.val))

/-- SCHED_CANCEL. -/
def execSchedCancel (q : Req) (t : Fin 64) (s : State) : Out := .next (s.writeCmd q (tmA 0x800) (fun s => s.schCancel t.val))

/-- SCHED_SWITCH: the copies exchange roles once the time is at or after S (R415). -/
def execSchedSwitch (t : Fin 64) (s : State) : Out :=
  let x := s.sch t.val
  .next (if !s.runs dOut || !x.pend || decide (s.copyNs < x.swSec.toNat * nsPerSec + x.swNs) then s
    else ((s.setSch t.val { x with oper := !x.oper, pend := false }).timeEv 8).count (tmA 0x900))

/-- A write to an admin or operational entry (R413). -/
def State.schEntryWrite (s : State) (a : Nat) (w : Word) : State :=
  let off := a - tmA 0x40000
  let adm := decide (off < 0x40000)
  let t := off % 0x40000 / 0x1000
  let x := s.sch t
  if !adm || x.pend then s.setSch t { x with wrRefused := true }
  else s.setReg (schE t (!x.oper) (off % 0x1000 / 4)) w

/-- SCHED_ENTRY_WRITE: a write of SCHED_ADM_ENT or SCHED_OPER_ENT. -/
def execSchedEntryWrite (q : Req) (addr : RegAddr) (w : Word) (s : State) : Out :=
  let a := addr.toNat
  .next (if a < tmA 0x40000 || tmA 0xC0000 ≤ a then s
    else s.writeCmd q a (fun s => s.schEntryWrite a w))

/-- May egress start a frame of class `tc` and length `len` (none while pending) on a channel bound to table `t` (R416):
the gate is open; the guard lets it. -/
def State.guardOk (s : State) (t tc : Nat) (len : Option Nat) : Bool :=
  let n := s.schNspb t (s.sch t).oper
  if n = 0 then true
  else match len with
    | none => false
    | some l => match s.untilClose t tc with
      | none => true
      | some u => decide ((l + 20) * n ≤ u * 256)

end Sys2Proof.Machine
end

