-- ==== Sys2Proof/Machine/Egress.lean ====
section
/-! DEFINITION. Egress and the channels: frame starts, segments, credits, attach and detach (02 R53–R70, 14 R416). -/

namespace Sys2Proof.Machine

/-! ### The bytes of a frame at egress (02 R55, R56, 06 R193) -/

/-- Tail bytes of a frame whose verdict is good. -/
def EgF.tailLen (f : EgF) : Nat := match f.md.chain with | none => 0 | some _ => f.md.rxLen - 256

/-- Head bytes that egress sends: LEN less the bytes held in the tail chain; 256 while the verdict is pending. -/
def EgF.headLen (f : EgF) : Nat := if f.md.verdict = 0 then 256 else f.md.len.toNat - f.tailLen

/-- Tail bytes of the frame (lane, pip) whose writes the buffer port has accepted, with the whole frame's bytes: (bytes
known, bytes accepted of the tail). -/
def State.known (s : State) (lane : Lane) (pip : Pip) : Nat × Nat :=
  let due := (s.ing.wq.map (fun w => match w with
    | .beat l p _ _ n _ => if l = lane ∧ p = pip then n else 0
    | .link _ _ _ _ => 0)).foldl (· + ·) 0
  match s.ing.opn.find? (fun e => e.2.hasPip && decide (e.2.md.lane = lane) && decide (e.2.md.pip = pip)) with
  | some (_, o) => if o.bytes ≤ 256 then (o.bytes, 0) else (256 + (o.tpos - due), o.tpos - due)
  | none =>
    match s.ing.vq.find? (fun w => decide (w.lane = lane) && decide (w.pip = pip)) with
    | some w => (256 + (w.len.toNat - 256 - due), w.len.toNat - 256 - due)
    | none =>
      match s.ing.vmsgs.find? (fun m => decide (m.lane = lane) && decide (m.pip = pip)) with
      | some m => (m.len.toNat, m.len.toNat - 256)
      | none => (0, 0)

/-- Tail beats of a frame that may be read: all of them once its verdict is good, those whose write is accepted before
(04 R130, 13 R387). -/
def State.readable (s : State) (f : EgF) : Nat :=
  if f.md.verdict = 0 then (s.known f.md.lane f.md.pip).2 / 128 else (f.tailLen + 127) / 128

/-- What goes out next. -/
structure OutSeg where
  bytes : List Byte
  eop : Bool
  err : Bool
deriving DecidableEq, Repr

/-- The FCS of the bytes sent, least significant byte first. -/
def fcsBytes (crc : Word) : List Byte := leBytes 4 (~~~ crc).toNat

/-- The next segment of a started frame; none where its bytes or its verdict are not there. -/
def State.nextSeg (s : State) (f : EgF) : Option OutSeg :=
  if f.st = 2 then some ⟨leBytes 4 f.crc.toNat, true, true⟩
  else
    let h := f.headLen
    let have_ := max h f.sent + f.tdata.length
    let stream := fun (n : Nat) => ((f.head.take h).drop f.sent ++ f.tdata).take n
    if f.md.verdict = 0 then
      if f.sent + 68 ≤ (s.known f.md.lane f.md.pip).1 ∧ f.sent + 64 ≤ have_ then some ⟨stream 64, false, false⟩ else none
    else
      let len := f.md.len.toNat
      let fin := min (f.sent + 64) len
      let n := min (f.sent + 64) (len - 4) - f.sent
      if have_ < f.sent + n then none
      else
        let body := stream n
        let fcs := match f.fcs with
          | some w => leBytes 4 w.toNat
          | none => fcsBytes (crcRun 0xEDB88320 f.crc body)
        some ⟨body ++ (fcs.drop (f.sent + n - (len - 4))).take (fin - (f.sent + n)), decide (fin = len), false⟩

/-- The frame after a segment. -/
def EgF.after (f : EgF) (g : OutSeg) : EgF :=
  let fin := f.sent + g.bytes.length
  let h := f.headLen
  let used := fin - max h f.sent
  let body := if f.md.verdict = 0 then g.bytes else g.bytes.take (f.md.len.toNat - 4 - f.sent)
  { f with sent := fin, crc := crcRun 0xEDB88320 f.crc g.bytes, tdata := f.tdata.drop used,
           fcs := match f.fcs with
             | some w => some w
             | none => if f.md.verdict ≠ 0 ∧ f.md.len.toNat - 4 ≤ fin then some (~~~ crcRun 0xEDB88320 f.crc body) else none }

/-- Replace a frame. -/
def State.putEg (s : State) (f : EgF) : State :=
  { s with eg := { s.eg with frames := s.eg.frames.map (fun g => if g.order = f.order then f else g) } }

/-! ### Starting a frame (R53, R54, R57; 14 R416, R417; 13 R397) -/

/-- The first frame of a lane on a channel, in the order of rank 11's release, that egress has not dropped. -/
def State.egFront (s : State) (ch : Nat) (lane : Lane) : Option EgF :=
  s.eg.frames.find? (fun f => decide (f.ch = ch) && decide (f.lane = lane) && decide (f.st ≠ 3))

/-- EG_CHMAP of a channel. -/
def State.egMap (s : State) (ch : Nat) : Word := s.reg (egA (0x1000 + 4 * ch))

/-- The credit count of a channel. -/
def State.creditOf (s : State) (ch : Nat) : Nat := (tget 0 s.eg.credits ch).toNat

/-- Put a channel's credit count. -/
def State.putCredit (s : State) (ch n : Nat) : State :=
  { s with eg := { s.eg with credits := tset s.eg.credits ch (BitVec.ofNat 12 n) } }

/-- The gate schedule applies to a frame of channel `ch`: SCHED_EN, and no whole-block detach (R54, R68). -/
def State.scheduled (s : State) (ch : Nat) : Bool := bit (s.egMap ch) 6 && !s.detaching

/-- The gate of a started frame, one to be stomped too, has closed before its EOP, and this is not yet counted (14 R416). -/
def State.gateShut (s : State) (f : EgF) : Bool :=
  (decide (f.st = 1) || decide (f.st = 2)) && s.scheduled f.ch && !f.overrun && !s.gateOpen (bits (s.egMap f.ch) 5 0) f.md.tc.toNat

/-- Egress at an edge counts in SCHED_OVERRUN every started frame whose gate has closed before its EOP, once (14 R416). -/
def State.overruns (s : State) : State :=
  if !s.runs dOut then s
  else
    let n := (s.eg.frames.filter s.gateShut).length
    if n = 0 then s
    else ({ s with eg := { s.eg with frames := s.eg.frames.map (fun f => if s.gateShut f then { f with overrun := true } else f) } }).count
      (tmA 0x918) n

/-- LEN of a frame, where it is known. -/
def EgF.lenOf (f : EgF) : Option Nat := if f.md.verdict = 0 then none else some f.md.len.toNat

/-- The conditions of R57 and R397 for a start, the gate apart. -/
def State.mayStart (s : State) (f : EgF) : Bool :=
  decide (f.st = 0) && decide (s.chan f.ch = 2) && !s.eg.frames.any (fun g => decide (g.ch = f.ch) && decide (g.st = 1)) &&
  !s.eg.frames.any (fun g => decide (g.ch = f.ch) && decide (g.st = 2)) &&
  decide ((match f.lenOf with | none => 4 | some l => min 4 ((l + 63) / 64)) ≤ s.creditOf f.ch) &&
  (match f.lenOf with
    | none => decide (f.md.tail = noBuf) || decide (1 ≤ f.tgot)
    | some _ => decide (f.tailLen = 0) || decide (1 ≤ f.tgot))

/-- EGRESS_FRAME_START: egress starts the front frame of a lane on a channel; one that only the guard holds is counted
once. -/
def execEgressFrameStart (ch : Chan) (lane : Lane) (s : State) : Out :=
  .next (match s.egFront ch.val lane with
    | none => s
    | some f =>
      if !s.runs dOut || !s.mayStart f then s
      else
        let t := bits (s.egMap ch.val) 5 0
        if !s.scheduled ch.val then s.putEg { f with st := 1 }
        else if !s.gateOpen t f.md.tc.toNat then s
        else if s.guardOk t f.md.tc.toNat f.lenOf then s.putEg { f with st := 1 }
        else if f.gw then s
        else (s.putEg { f with gw := true }).count (tmA 0x910))

/-! ### Segments (R34, R35, R55–R57) -/

/-- The port lane is free at this CK_OUT edge: lane 0 begins an edge, lane 1 joins one (R35). -/
def State.portFree (s : State) (port : Nat) : Bool :=
  if port = 0 then true else (tfind s.eg.lastSeg 0).isSome && (tfind s.eg.lastSeg 1).isNone

/-- The started frame of a lane on a channel, to be sent or stomped. -/
def State.egOpen (s : State) (ch : Nat) (lane : Lane) : Option EgF :=
  s.eg.frames.find? (fun f => decide (f.ch = ch) && decide (f.lane = lane) && (decide (f.st = 1) || decide (f.st = 2)))

/-- The signals of a segment. -/
def segOf (ch : Nat) (sop : Bool) (g : OutSeg) : Seg :=
  { ch := BitVec.ofNat 10 ch, sop := sop, eop := g.eop, bytes := BitVec.ofNat 6 (if g.eop then g.bytes.length else 0),
    err := g.err, fcsOk := false, data := BitVec.ofNat 512 (leNat g.bytes) }

/-- EGRESS_SEGMENT: one segment of a started frame on a port lane, for one credit. -/
def execEgressSegment (port : Fin 2) (ch : Chan) (lane : Lane) (s : State) : Out :=
  .next (match s.egOpen ch.val lane with
    | none => s
    | some f =>
      if !s.runs dOut || !s.portFree port.val || s.creditOf ch.val = 0 then s
      else match s.nextSeg f with
        | none => s
        | some g =>
          let seg := segOf ch.val (decide (f.sent = 0)) g
          let drv := if port.val = 0 then [(0, seg)] else tset s.eg.lastSeg 1 seg
          let shut := s.gateShut f
          let f1 := { f.after g with overrun := f.overrun || shut }
          let s1 := (((({ s with eg := { s.eg with lastSeg := drv } }).putCredit ch.val (s.creditOf ch.val - 1)).putEg f1).count
            (egA 0x408) g.bytes.length).count (tmA 0x918) (b2n shut)
          if !g.eop then s1
          else ((s1.count (egA 0x400)).count (egA 0x410) (b2n g.err)).egDone f1 false)

/-- EG_CREDIT_RETURN (R58). -/
def execEgCreditReturn (ch : Chan) (cnt : Byte) (s : State) : Out :=
  .next (if !s.ready dOut || s.chan ch.val = 0 || cnt = 0 then s
    else
      let n := s.creditOf ch.val + cnt.toNat
      if 4095 < n then (s.putCredit ch.val 4095).count (egA 0x420) else s.putCredit ch.val n)

/-! ### Channels (R60–R66) -/

/-- Egress drops every frame of `ch` that it has not started (R60, R62). -/
def State.dropQueued (s : State) (ch : Nat) : State :=
  forEach (s.eg.frames.filter (fun f => decide (f.ch = ch) && decide (f.st = 0))) s (fun f s => (s.count (egA 0x418)).egDone f true)

/-- A channel enters ATTACHING: its credit count is 0 (R59), and ingress votes for the ranks on its path (16 R447). -/
def State.attach (s : State) (ch : Nat) : State :=
  let rs := (List.range 12).filter (fun r => onPath (s.laneOf ch) r)
  forEach rs ((s.setChan ch 1).putCredit ch 0).refreshPause (fun r s => s.voteEvent r)

/-- A channel enters DETACHING. -/
def State.detach (s : State) (ch : Nat) : State := ((s.setChan ch 3).dropQueued ch).refreshPause

/-- The source that CH_CMD_STATUS names: 0 control port (a debug write acts as one), 4–7 stewards. -/
def srcOf : Req → Nat
  | .stw i => 4 + i.val
  | _ => 0

/-- The last reason of R65's list that refuses a command; 0 accepted. -/
def State.chReason (s : State) (op ch : Nat) : Nat :=
  if s.detaching then 4
  else if s.blk ≠ 2 then 3
  else if op = 2 ∧ ch = 0 then 2
  else if (op = 1 ∧ s.chan ch ≠ 0) ∨ (op = 2 ∧ s.chan ch ≠ 2) then 1
  else 0

/-- A CH_CMD write. -/
def State.chCmd (s : State) (q : Req) (op ch : Nat) : State :=
  let n := s.chReason op ch
  let s1 := s.setRegN (inA 4) (at_ (srcOf q) 28 + at_ n 25 + at_ (b2n (n ≠ 0)) 24 + at_ op 16 + ch)
  if n ≠ 0 then s1 else if op = 1 then s1.attach ch else s1.detach ch

/-- CH_ATTACH. -/
def execChAttach (q : Req) (ch : Chan) (s : State) : Out := .next (s.writeCmd q (inA 0) (fun s => s.chCmd q 1 ch.val))

/-- CH_DETACH. -/
def execChDetach (q : Req) (ch : Chan) (s : State) : Out := .next (s.writeCmd q (inA 0) (fun s => s.chCmd q 2 ch.val))

/-- The bit of a channel in CH_DONE (R66). -/
def State.chDone (s : State) (ch : Nat) : State := s.orReg (inA (0x200 + 4 * (ch / 32))) (2 ^ (ch % 32))

/-- CHANNEL_ATTACHED: HELD is 0 (R60). -/
def execChannelAttached (ch : Chan) (s : State) : Out :=
  .next (if !s.runs dIn || s.chan ch.val ≠ 1 || s.held ch.val ≠ 0 then s
    else ((s.setChan ch.val 2).chDone ch.val).refreshPause)

/-- The drain conditions of R61. -/
def State.drained (s : State) (ch : Nat) : Bool :=
  !s.ing.opn.any (fun e => decide (e.1 = ch) && !e.2.discard) && decide (s.inflight ch = 0) &&
  !s.eg.frames.any (fun f => decide (f.ch = ch)) && !s.buf.freeq.any (fun i => i.chs.contains ch)

/-- CHANNEL_DETACHED. -/
def execChannelDetached (ch : Chan) (s : State) : Out :=
  .next (if !s.runs dIn || s.chan ch.val ≠ 3 || !s.drained ch.val then s
    else ((s.setChan ch.val 0).chDone ch.val).refreshPause)

/-! ### Whole-block detach (R67–R70) -/

/-- The exception queues are flushed: their frames dropped, their buffers freed (R68 step 3, 13 R392). -/
def State.flushExc (s : State) : State :=
  forEach (List.range 12) s (fun r s =>
    let held := ((s.rank r).exc.filter (fun e => s.isHeld r e.1))
    forEach held s (fun e s =>
      let x := s.rank r
      freeChain (0x20 + r) e.2.md (s.setRank r { x with exc := tdel x.exc e.1 })))

/-- The detach begins: steps 1 to 3 of R68. -/
def State.beginDetach (s : State) : State :=
  let s1 := { s with detaching := true }
  let s2 := forEach ((s1.chSt.filter (fun e => e.2 = 1 || e.2 = 2)).map Prod.fst) s1 (fun ch s => s.detach ch)
  s2.flushExc

/-- BLK_DETACH_REQ rises. -/
def execBlkDetachReq (s : State) : Out :=
  .next (if s.pins.detReq then s
    else
      let s1 := { s with pins := { s.pins with detReq := true } }
      if s.blk = 2 then s1.beginDetach
      else if s.blk = 4 || s.blk = 5 then { s1 with pins := { s1.pins with detAck := true } }
      else s1)

/-- BLK_DETACH_REQ falls: before BLK_DETACH_ACK has risen the detach runs to completion and ACK still rises (R69), after
it ACK falls (R70). -/
def execBlkDetachReqFall (s : State) : Out :=
  .next { s with pins := { s.pins with detReq := false, detAck := false } }

/-- An ACK that rose when REQ had fallen already falls within the 2 µs of R70 (log entry 88). -/
def State.ackFall (s : State) : State :=
  if s.pins.detAck && !s.pins.detReq then { s with pins := { s.pins with detAck := false } } else s

/-! ### Counters (R71) -/

/-- The upper-word latch of a requester. -/
def State.hiLatch (s : State) (q : Req) : Word := tget 0 s.latches (reqNo q)

/-- A read of a counter's _LO: a functional one latches the upper word for its requester. -/
def State.ctrLo (s : State) (q : Req) (a : Nat) : Word × State :=
  ((s.ctr a).setWidth 32, { s with latches := tset s.latches (reqNo q) ((s.ctr a >>> 32).setWidth 32) })

end Sys2Proof.Machine
end

