-- ==== Sys2Proof/Machine/BufferPort.lean ====
section
/-! DEFINITION. The buffer port: handles, tail writes, the free queue, tail reads, pool inputs and errors (13). -/

namespace Sys2Proof.Machine

/-! ### Errors (R399) -/

/-- An error enters BUF_ERR_LOG and sets its bit in BUF_ERR_STAT. -/
def State.bufErr (s : State) (code : Nat) (h : Handle) : State :=
  (s.logAdd (bufA 0x2C) 8 (2 ^ 31 + at_ code 24 + h.toNat)).orReg (bufA 0x28) (2 ^ (code - 1))

/-! ### ALLOC (R390) -/

/-- ALLOCs of a pool that are outstanding. -/
def State.allocsOut (s : State) (p : Nat) : Nat := (s.buf.outc.filter (fun e => e.1 = .alloc p)).length

/-- No frame that has a pip is open at ingress. -/
def State.noneOpen (s : State) : Bool := !s.ing.opn.any (fun e => !e.2.discard)

/-- Ingress issues an ALLOC of pool `p`: fewer handles held and on order than PREFETCH, the pool not EMPTY and in no
back-off, room among the 32 outstanding (R386, R390). During a whole-block detach only while a frame is open. -/
def State.mayAlloc (s : State) (p : Nat) : Bool :=
  !(decide (s.prefetch p ≤ (s.handles p).length + s.allocsOut p) || s.poolEmpty p || (tfind s.buf.backoff p).isSome ||
    decide (32 ≤ s.buf.outc.length) || (s.detaching && s.noneOpen))

/-- The buffer port is ON and takes what the BPM sends or accepts (19 R522): CK_BUF is a clock of its own, and a pause or a self-restart
of ingress leaves it running (01 R17, R20; 17 R481). -/
def State.bufOn (s : State) : Bool := s.isOn dIn

/-- BUF_CMD presents nothing, or this command already (R385). -/
def State.cmdFree (s : State) (c : BPres) : Bool := decide (s.buf.cmd = none) || decide (s.buf.cmd = some c)

/-- BUF_ALLOC: the BPM accepts an ALLOC. One that BUF_CMD presents stays presented until then (R385). -/
def execBufAlloc (p : Pool) (s : State) : Out :=
  .next (if !s.bufOn || !(decide (s.buf.cmd = some (.alloc p.val)) || (decide (s.buf.cmd = none) && s.ready dIn && s.mayAlloc p.val)) then s
    else { s with buf := { s.buf with outc := s.buf.outc ++ [(.alloc p.val, s.now)], cmd := none } })

/-- ALLOC_BACKOFF_EXPIRY: 64 CK_BUF cycles after an ALLOC was answered EMPTY. -/
def execAllocBackoffExpiry (p : Pool) (s : State) : Out :=
  .next (match tfind s.buf.backoff p.val with
    | some t => if s.now < t then s else { s with buf := { s.buf with backoff := tdel s.buf.backoff p.val } }
    | none => s)

/-! ### LINK and tail writes (R387, R389) -/

/-- BUF_LINK: the BPM accepts the LINK that ingress presents. -/
def execBufLink (s : State) : Out :=
  .next (match s.ing.wq with
    | .link _ _ _ _ :: t =>
      if s.bufOn && s.cmdFree .link then { s with ing := { s.ing with wq := t }, buf := { s.buf with cmd := none } } else s
    | _ => s)

/-- BUF_WRITE_BEAT: the BPM accepts the tail beat that ingress presents. -/
def execBufWriteBeat (s : State) : Out :=
  .next (match s.ing.wq with
    | .beat _ _ _ _ _ _ :: t => if s.bufOn then ({ s with ing := { s.ing with wq := t } }).count (bufA 0x420) else s
    | _ => s)

/-! ### FREE (R393, R396) -/

/-- The chain start whose FREE is issued next: known verdict, no FREE of it outstanding, its frame's LINKs and writes
accepted. -/
def State.freeNext (s : State) : Option FreeIt :=
  s.buf.freeq.find? (fun i => !i.held && !i.walking && !s.tailOpen i.lane i.pip)

/-- Change a chain start. -/
def State.modFree (s : State) (id : Nat) (f : FreeIt → FreeIt) : State :=
  { s with buf := { s.buf with freeq := s.buf.freeq.map (fun i => if i.id = id then f i else i) } }

/-- Take a chain start out of the free queue. -/
def State.endFree (s : State) (id : Nat) : State :=
  { s with buf := { s.buf with freeq := s.buf.freeq.filter (fun i => i.id ≠ id) } }

/-- The chain start whose FREE BUF_CMD presents, or the one that comes next where it presents nothing (R385). -/
def State.freeCmd (s : State) : Option FreeIt :=
  match s.buf.cmd with
  | some (.free id) => s.buf.freeq.find? (fun i => i.id = id)
  | some _ => none
  | none => if 32 ≤ s.buf.outc.length then none else s.freeNext

/-- BUF_FREE: the BPM accepts a FREE of a chain start or of the next buffer of a chain. -/
def execBufFree (s : State) : Out :=
  .next (match s.freeCmd with
    | none => s
    | some i =>
      if !s.bufOn then s
      else
        let s1 := s.modFree i.id (fun i => { i with walking := true })
        { s1 with buf := { s1.buf with outc := s1.buf.outc ++ [(.free i.h i.owner i.id, s.now)], cmd := none } })

/-! ### The command presented (R385) -/

/-- The commands that BUF_CMD may present now. -/
def State.cmdsDue (s : State) : List BPres :=
  (match s.ing.wq with | .link _ _ _ _ :: _ => [.link] | _ => []) ++
  (if 32 ≤ s.buf.outc.length then [] else match s.freeNext with | some i => [.free i.id] | none => []) ++
  (if s.ready dIn then ((List.range 8).filter s.mayAlloc).map .alloc else [])

/-- At a CK_BUF edge the port presents a command where it presents none and one is due; which one of several, the manual
leaves free (R385; log entry 89). -/
def State.present1 (s : State) : State :=
  if !s.bufOn || s.buf.cmd.isSome then s
  else match s.cmdsDue with
    | [] => s
    | c :: t =>
      let (j, s1) := s.pick (t.length + 1)
      { s1 with buf := { s1.buf with cmd := some (((c :: t)[j]?).getD c) } }

/-! ### Responses (R386, R388, R396) -/

/-- An ALLOC is answered EMPTY or is treated so: a back-off of 64 CK_BUF cycles. -/
def State.allocEmpty (s : State) (p : Nat) : State :=
  ({ s with buf := { s.buf with backoff := tset s.buf.backoff p (s.now + 64) } }).count (bufA 0x408)

/-- A handle for pool `p`. -/
def State.allocOk (s : State) (p : Nat) (h : Handle) : State :=
  if h = noBuf then (s.allocEmpty p).bufErr 4 h
  else (s.setStore p (s.handles p ++ [h])).count (bufA 0x400)

/-- A FREE is answered OK with the link of the buffer: the walk goes on or ends. -/
def State.freeOk (s : State) (id : Nat) (link : Handle) : State :=
  (if link = noBuf then s.endFree id else s.modFree id (fun i => { i with h := link, walking := false })).count (bufA 0x410)

/-- A FREE is answered FREE_NAK: the walk stops. -/
def State.freeNak (s : State) (id : Nat) (h : Handle) : State := ((s.endFree id).count (bufA 0x418)).bufErr 1 h

/-- BUF_RESPONSE: the answer to the oldest command. A status that R387 does not let the BPM answer to that command, and
the reserved status, change nothing (log entry 34). -/
def execBufResponse (st : Fin 4) (h : Handle) (s : State) : Out :=
  .next (if !s.bufOn then s
    else match s.buf.outc with
      | [] => s.bufErr 5 0
      | (cmd, _) :: t =>
        let s1 := { s with buf := { s.buf with outc := t, lateN := s.buf.lateN - 1 } }
        match cmd, st.val with
        | .alloc p, 0 => s1.allocOk p h
        | .alloc p, 2 => s1.allocEmpty p
        | .free _ _ id, 0 => s1.freeOk id h
        | .free g _ id, 1 => s1.freeNak id g
        | _, _ => s)

/-- BUF_LATE_TIMEOUT: a command has been outstanding for 4096 CK_BUF cycles. -/
def execBufLateTimeout (s : State) : Out :=
  .next (match s.buf.outc[s.buf.lateN]? with
    | some (_, t) =>
      if !s.bufOn || decide (s.now < t + 4096) then s
      else ({ s with buf := { s.buf with lateN := s.buf.lateN + 1 } }).bufErr 6 0
    | none => s)

/-! ### Tail reads (R397) -/

/-- The buffer and beat that a frame reads next, once the link it needs is known; `again` says that it is the last beat
of a buffer whose link was not yet there when the beat was read (log entry 35). -/
structure RdReq where
  h : Handle
  beat : Nat
  again : Bool
deriving DecidableEq, Repr

/-- The next read request of a frame. -/
def State.nextRead (s : State) (f : EgF) : Option RdReq :=
  let per := s.bufSize f.md.pool.toNat / 128
  let cur := (f.sent - f.headLen) / 128
  if f.md.tail = noBuf || f.st = 2 || f.st = 3 || s.readable f ≤ f.treq || cur + 8 ≤ f.treq then none
  else if f.rdBeat < per then some ⟨f.rdH, f.rdBeat, false⟩
  else match f.rdNext with
    | none => none
    | some h =>
      if h ≠ noBuf then some ⟨h, 0, false⟩
      else if s.buf.rdq.any (fun q => q.1 = f.order) then none else some ⟨f.rdH, per - 1, true⟩

/-- The frame after a read request. -/
def EgF.asked (f : EgF) (q : RdReq) : EgF :=
  if q.again then { f with rdNext := none }
  else if q.beat = 0 ∧ f.rdBeat ≠ 0 then { f with rdH := q.h, rdBeat := 1, rdNext := none, treq := f.treq + 1 }
  else { f with rdBeat := f.rdBeat + 1, treq := f.treq + 1 }

/-- The transfer of a frame's next read. -/
def rdOf (f : EgF) (q : RdReq) : RdPres :=
  { order := f.order, ch := f.ch, lane := f.lane, k := if q.again then f.treq - 1 else f.treq, h := q.h, beat := q.beat,
    again := q.again }

/-- At a CK_BUF edge the port presents a read where it presents none and one is due; of which frame, the manual leaves
free (R385, R397; log entry 89). -/
def State.present2 (s : State) : State :=
  if !s.bufOn || !s.ready dOut || s.buf.rd.isSome || decide (64 ≤ s.buf.rdq.length) then s
  else match s.eg.frames.filterMap (fun f => (s.nextRead f).map (rdOf f)) with
    | [] => s
    | p :: t =>
      let (j, s1) := s.pick (t.length + 1)
      { s1 with buf := { s1.buf with rd := some (((p :: t)[j]?).getD p) } }

/-- The read that BUF_RD presents for a frame of this lane on this channel, or where it presents none the next read of the
first frame that has one to make. -/
def State.readCmdFor (s : State) (ch : Nat) (lane : Lane) : Option RdPres :=
  match s.buf.rd with
  | some p => if p.ch = ch ∧ p.lane = lane then some p else none
  | none =>
    if !s.ready dOut || decide (64 ≤ s.buf.rdq.length) then none
    else (s.eg.frames.filter (fun f => decide (f.ch = ch) && decide (f.lane = lane))).findSome? (fun f => (s.nextRead f).map (rdOf f))

/-- The frame of a read takes it as asked; a frame that has left egress since takes nothing. -/
def State.askedBy (s : State) (p : RdPres) : State :=
  match s.eg.frames.find? (fun f => f.order = p.order) with
  | some f => s.putEg (f.asked ⟨p.h, p.beat, p.again⟩)
  | none => s

/-- BUF_READ_REQUEST: the BPM accepts a tail read of a frame of this lane on this channel. -/
def execBufReadRequest (ch : Chan) (lane : Lane) (s : State) : Out :=
  .next (match s.readCmdFor ch.val lane with
    | none => s
    | some p =>
      if !s.bufOn then s
      else
        let s1 := s.askedBy p
        { s1 with buf := { s1.buf with rdq := s1.buf.rdq ++ [(p.order, p.k, p.h)], rd := none } })

/-- A beat of a frame arrives. A beat read again gives its link only. -/
def EgF.arrived (f : EgF) (k : Nat) (h : Handle) (bs : List Byte) (nxt : Handle) : EgF :=
  let f1 := if h = f.rdH then { f with rdNext := some nxt } else f
  if k = f.tgot then { f1 with tgot := f.tgot + 1, tdata := f.tdata ++ bs } else f1

/-- BUF_READ_DATA: the oldest read beat returns. -/
def execBufReadData (data : BitVec 1024) (nxt : Handle) (err : Bool) (s : State) : Out :=
  .next (if !s.bufOn then s
    else match s.buf.rdq with
      | [] => s.bufErr 5 0
      | (o, k, h) :: t =>
        let s1 := ({ s with buf := { s.buf with rdq := t } }).count (bufA 0x428)
        let s2 := if err then s1.bufErr 3 h else s1
        match s2.eg.frames.find? (fun f => f.order = o) with
        | none => s2
        | some f =>
          let f1 := f.arrived k h (leBytes 128 data.toNat) nxt
          if err then (s2.putEg { f1 with rdErr := true }).egKill { f1 with rdErr := true } else s2.putEg f1)

/-- BUF_WRITE_ERROR (R399, R400). -/
def execBufWriteError (h : Handle) (s : State) : Out := .next (if s.bufOn then s.bufErr 2 h else s)

/-! ### Pool inputs (R398) -/

/-- BUF_POOL_INPUT: the pool inputs as sampled; each rise sets its event bit, a fall of EMPTY ends the pool's back-off. -/
def execBufPoolInput (warn low empty : Byte) (s : State) : Out :=
  .next (if !s.bufOn then s
    else
      let b := s.buf
      let up := at_ (empty &&& ~~~ b.empty).toNat 16 + at_ (low &&& ~~~ b.low).toNat 8 + (warn &&& ~~~ b.warn).toNat
      let fall := b.empty &&& ~~~ empty
      let edge := decide (b.low = 0) != decide (low = 0)
      let s1 := { s with buf := { b with warn := warn, low := low, empty := empty,
                                         backoff := tkeep b.backoff (fun p _ => !fall.getLsbD p) },
                         ing := { s.ing with nlq := if edge then s.ing.nlq ++ [(s.now + 8, decide (low ≠ 0))] else s.ing.nlq } }
      s1.orReg (bufA 0x24) up)

/-- BUF_ERR_LOG_READ. -/
def execBufErrLogRead (q : Req) (s : State) : Out := .next (s.readLw q (bufA 0x2C) (fun s => s.logPop (bufA 0x2C)))

end Sys2Proof.Machine
end

