-- ==== Sys2Proof/Machine/ByteEngine.lean ====
section
/-! DEFINITION. The byte engine and the store buffer: extension page 0, BYTE_ENGINE_COMPLETE, STORE_BUFFER_RELEASE
(06 R207–R209, 07 R218, R220). -/

namespace Sys2Proof.Machine

/-- The first byte of a range that may not be reached, or that lies 0x40000 or more bytes after its start (06 R207). -/
def State.rangeBad (s : State) (key : Nat) (c : Ctx) (a : Word) : Nat → Nat → Option Word
  | _, 0 => none
  | i, n + 1 =>
    let x := a + BitVec.ofNat 32 i
    if 0x40000 ≤ i || !s.mayRange key c x.toNat 1 then some x else s.rangeBad key c a (i + 1) n

/-- The same for a length operand; longer lengths cannot be reached before 0x40000. -/
def State.lenBad (s : State) (key : Nat) (c : Ctx) (a n : Word) : Option Word :=
  s.rangeBad key c a 0 (min n.toNat 0x40001)

/-- The ones'-complement sum of byte pairs in wire order (R208). -/
def sumPairs : List Byte → Nat → Nat
  | [], acc => acc
  | [b], acc => acc + b.toNat * 256
  | b :: d :: t, acc => sumPairs t (acc + b.toNat * 256 + d.toNat)

/-- Carries out of bit 15 added back; three folds end for any sum of at most 0x40000 bytes. -/
def foldCarry (n : Nat) : Nat :=
  let f := fun (x : Nat) => x % 65536 + x / 65536
  f (f (f n))

/-- The offset of the first differing byte, plus 1; 0 when equal (CMPB). -/
def firstDiff : List Byte → List Byte → Nat → Nat
  | a :: as, b :: bs, i => if a = b then firstDiff as bs (i + 1) else i + 1
  | _, _, _ => 0

/-- The ranges that an operation reads. -/
def BeOp.reads (b : BeOp) : List (Nat × Nat) :=
  match b.kind with
  | 0 => [(b.x.toNat, b.y.toNat)]
  | 1 => [(b.x.toNat, b.z.toNat)]
  | 3 => [(b.x.toNat, b.z.toNat), (b.y.toNat, b.z.toNat)]
  | _ => []

/-- What the engine's operation does: an uncorrectable error at an address, or the state and the operands after it. The address
is the start of the range that holds the word (R209; log entry 99). SKIPTO, a sequence of the control store too (11 R348), reads the
slot's head bytes (log entry 112). -/
def State.beRun (s : State) (key : Nat) (c : Ctx) (b : BeOp) : Option Word × State × Ctx :=
  let rd := fun (s : State) (a n : Nat) => s.readMem key a n
  match b.kind with
  | 0 =>
    let (bad, bs, s1) := rd s b.x.toNat b.y.toNat
    let v := if b.y = 0 then b.z else BitVec.ofNat 32 (foldCarry (sumPairs bs (bits b.z 15 0)))
    (if bad then some b.x else none, s1, { c with os := v :: c.os.drop 3 })
  | 1 =>
    let (bad, bs, s1) := rd s b.x.toNat b.z.toNat
    (if bad then some b.x else none, if bad then s1 else s1.writeMem key b.y.toNat bs, { c with os := c.os.drop 3 })
  | 2 => (none, s.writeMem key b.x.toNat (List.replicate b.y.toNat (b.z.setWidth 8)), { c with os := c.os.drop 3 })
  | 3 =>
    let (bad, xs, s1) := rd s b.x.toNat b.z.toNat
    let (bad2, ys, s2) := rd s1 b.y.toNat b.z.toNat
    (if bad then some b.x else if bad2 then some b.y else none, s2,
     { c with os := BitVec.ofNat 32 (firstDiff xs ys 0) :: c.os.drop 3 })
  | _ =>
    let a := slotA (ctxNoOf key) c.slot
    let (bad, _, s1) := rd s a 256
    let (s2, c1) := s1.skipDo key c b.x.toInt
    if bad then (some (BitVec.ofNat 32 a), s1, c) else (none, s2, c1)

/-- A microcoded operation ( x y z -- … ): its ranges are checked first; a packet core's engine then takes it, and a
steward, whose engine has no row of its own, completes it at once (log entry 31). -/
def engineOp (kind k m : Nat) (ranges : Word → Word → Word → List (Word × Word)) (s : State) (key : Nat) (c : Ctx) : R :=
  match stkErr key c k m with
  | some v => .exc s v c.pc
  | none =>
    let b : BeOp := ⟨ctxNoOf key, kind, opnd c 2, opnd c 1, opnd c 0⟩
    match (ranges b.x b.y b.z).findSome? (fun r => s.lenBad key c r.1 r.2) with
    | some fa => .exc s 5 fa
    | none =>
      if isStw key then
        match s.beRun key c b with
        | (some fa, s1, _) => .exc s1 16 fa
        | (none, s1, c1) => .ok s1 c1
      else s.toEngine key c b

/-- CSUM16 ( addr len init -- s ). -/
def execCsum16 (x : Iss) (s : State) : Out := .next (s.issue x .plain 2 true (seqd .csum16 (engineOp 0 3 1 (fun a n _ => [(a, n)]))))

/-- MOVB ( src dst len -- ). -/
def execMovb (x : Iss) (s : State) : Out := .next (s.issue x .plain 2 true (seqd .movb (engineOp 1 3 0 (fun a d n => [(a, n), (d, n)]))))

/-- FILLB ( dst len v -- ). -/
def execFillb (x : Iss) (s : State) : Out := .next (s.issue x .plain 2 true (seqd .fillb (engineOp 2 3 0 (fun d n _ => [(d, n)]))))

/-- CMPB ( a b len -- r ). -/
def execCmpb (x : Iss) (s : State) : Out := .next (s.issue x .plain 2 true (seqd .cmpb (engineOp 3 3 1 (fun a d n => [(a, n), (d, n)]))))

/-- BYTE_ENGINE_COMPLETE: the engine ends its oldest operation and the context completes, or raises vector 16. -/
def execByteEngineComplete (r : Rank) (c : CoreNo) (s : State) : Out :=
  let ck := r.val * 13 + c.val
  let co := s.core ck
  .next (if !s.runs r.val then s
    else match co.beq with
      | [] => s
      | b :: rest =>
        let key := pk r.val c.val b.ctx
        let s1 := s.setCore ck { co with beq := rest }
        let cx := s1.ctx key
        if cx.st ≠ .sleep || decide (cx.wait ≠ .engine) then s1
        else match s1.beRun key cx b with
          | (some fa, s2, _) => s2.excAt key 16 fa
          | (none, s2, c1) => s2.complete key c1 (cx.pc + BitVec.ofNat 32 cx.wlen))

/-- STORE_BUFFER_RELEASE: the oldest retired store of a core reaches the scratchpad. -/
def execStoreBufferRelease (r : Rank) (c : CoreNo) (s : State) : Out :=
  let ck := r.val * 13 + c.val
  let co := s.core ck
  .next (if !s.runs r.val then s
    else match co.sbuf with
      | [] => s
      | e :: rest => (s.setCore ck { co with sbuf := rest }).spRelease ck e)

end Sys2Proof.Machine
end

