-- ==== Sys2Proof/Machine/Compare.lean ====
section
/-! DEFINITION. Compares and predicate operations, opcodes 0x40–0x5B (06 R181). -/

namespace Sys2Proof.Machine

/-- CEQ p ( a b -- ). -/
def execCeq (x : Iss) (p : Byte) (s : State) : Out := .next (s.issue x .plain 2 (imm3 p) (cmpOp (fun a b => a == b) p))

/-- CNE p ( a b -- ). -/
def execCne (x : Iss) (p : Byte) (s : State) : Out := .next (s.issue x .plain 2 (imm3 p) (cmpOp (fun a b => a != b) p))

/-- CLT p ( a b -- ). -/
def execClt (x : Iss) (p : Byte) (s : State) : Out := .next (s.issue x .plain 2 (imm3 p) (cmpOp (fun a b => a.slt b) p))

/-- CLE p ( a b -- ). -/
def execCle (x : Iss) (p : Byte) (s : State) : Out := .next (s.issue x .plain 2 (imm3 p) (cmpOp (fun a b => a.sle b) p))

/-- CGT p ( a b -- ). -/
def execCgt (x : Iss) (p : Byte) (s : State) : Out := .next (s.issue x .plain 2 (imm3 p) (cmpOp (fun a b => b.slt a) p))

/-- CGE p ( a b -- ). -/
def execCge (x : Iss) (p : Byte) (s : State) : Out := .next (s.issue x .plain 2 (imm3 p) (cmpOp (fun a b => b.sle a) p))

/-- CLTU p ( a b -- ). -/
def execCltu (x : Iss) (p : Byte) (s : State) : Out := .next (s.issue x .plain 2 (imm3 p) (cmpOp (fun a b => a.ult b) p))

/-- CLEU p ( a b -- ). -/
def execCleu (x : Iss) (p : Byte) (s : State) : Out := .next (s.issue x .plain 2 (imm3 p) (cmpOp (fun a b => a.ule b) p))

/-- CGTU p ( a b -- ). -/
def execCgtu (x : Iss) (p : Byte) (s : State) : Out := .next (s.issue x .plain 2 (imm3 p) (cmpOp (fun a b => b.ult a) p))

/-- CGEU p ( a b -- ). -/
def execCgeu (x : Iss) (p : Byte) (s : State) : Out := .next (s.issue x .plain 2 (imm3 p) (cmpOp (fun a b => b.ule a) p))

/-- CEQZ p ( a -- ). -/
def execCeqz (x : Iss) (p : Byte) (s : State) : Out := .next (s.issue x .plain 2 (imm3 p) (cmpOp1 (fun a => a == 0) p))

/-- CNEZ p ( a -- ). -/
def execCnez (x : Iss) (p : Byte) (s : State) : Out := .next (s.issue x .plain 2 (imm3 p) (cmpOp1 (fun a => a != 0) p))

/-- CBIT p: bit n[4:0] of a. -/
def execCbit (x : Iss) (p : Byte) (s : State) : Out := .next (s.issue x .plain 2 (imm3 p) (cmpOp (fun a n => a.getLsbD (n.toNat % 32)) p))

/-- CMASK p: every bit set in m is set in a. -/
def execCmask (x : Iss) (p : Byte) (s : State) : Out := .next (s.issue x .plain 2 (imm3 p) (cmpOp (fun a m => a &&& m == m) p))

/-- CSER16 p: a comes before b under R84, low 16 bits. -/
def execCser16 (x : Iss) (p : Byte) (s : State) : Out := .next (s.issue x .plain 2 (imm3 p) (cmpOp (cser16) p))

/-- CSER32 p: a comes before b, window 2^31 − 1. -/
def execCser32 (x : Iss) (p : Byte) (s : State) : Out := .next (s.issue x .plain 2 (imm3 p) (cmpOp (serBefore) p))

/-- PAND pd, pa. -/
def execPand (x : Iss) (b : Byte) (s : State) : Out := .next (s.issue x .plain 2 (immPP b) (predOp (fun pd pa => pd && pa) b))

/-- POR pd, pa. -/
def execPor (x : Iss) (b : Byte) (s : State) : Out := .next (s.issue x .plain 2 (immPP b) (predOp (fun pd pa => pd || pa) b))

/-- PXOR pd, pa. -/
def execPxor (x : Iss) (b : Byte) (s : State) : Out := .next (s.issue x .plain 2 (immPP b) (predOp (fun pd pa => pd != pa) b))

/-- PANDN pd, pa. -/
def execPandn (x : Iss) (b : Byte) (s : State) : Out := .next (s.issue x .plain 2 (immPP b) (predOp (fun pd pa => pd && !pa) b))

/-- PMOV pd, pa. -/
def execPmov (x : Iss) (b : Byte) (s : State) : Out := .next (s.issue x .plain 2 (immPP b) (predOp (fun _ pa => pa) b))

/-- PNOT pd, pa. -/
def execPnot (x : Iss) (b : Byte) (s : State) : Out := .next (s.issue x .plain 2 (immPP b) (predOp (fun _ pa => !pa) b))

/-- PSET p. -/
def execPset (x : Iss) (p : Byte) (s : State) : Out := .next (s.issue x .plain 2 (imm3 p) (fun s _ c => .ok s (c.setPr p.toNat true)))

/-- PCLR p. -/
def execPclr (x : Iss) (p : Byte) (s : State) : Out := .next (s.issue x .plain 2 (imm3 p) (fun s _ c => .ok s (c.setPr p.toNat false)))

/-- PPUSH p ( -- t ). -/
def execPpush (x : Iss) (p : Byte) (s : State) : Out := .next (s.issue x .plain 2 (imm3 p) (fun s key c => stackOp 0 1 (fun _ => [BitVec.ofNat 32 (b2n (c.pr p.toNat))]) s key c))

/-- PPOP p ( x -- ). -/
def execPpop (x : Iss) (p : Byte) (s : State) : Out := .next (s.issue x .plain 2 (imm3 p) (cmpOp1 (fun v => v != 0) p))

/-- PALL ( -- x ): PRED with bit 0 = 1. -/
def execPall (x : Iss) (s : State) : Out := .next (s.issue x .plain 1 true (fun s key c => stackOp 0 1 (fun _ => [c.predWord]) s key c))

/-- PLOAD ( x -- ): p7–p1 = x[7:1]. -/
def pload (s : State) (key : Nat) (c : Ctx) : R :=
  match stkErr key c 1 0 with
  | some v => .exc s v c.pc
  | none => .ok s ({ c with os := c.os.drop 1 }.setPred (c.os.headD 0))

/-- PLOAD. -/
def execPload (x : Iss) (s : State) : Out := .next (s.issue x .plain 1 true (pload))

end Sys2Proof.Machine
end

