-- ==== Sys2Proof/Machine/Control.lean ====
section
/-! DEFINITION. Control transfer, opcodes 0x80–0x8A, and illegal encodings (05 R158–R161, R170; 06 R185–R188). -/

namespace Sys2Proof.Machine

/-- The address after the instruction: guard and `len` bytes. -/
def nextPc (g : Guard) (len : Nat) (c : Ctx) : Word := c.pc + BitVec.ofNat 32 (guardLen g + len)

/-- Jump, or vector 3 where the target lies beyond the code space (06 R186). -/
def jumpTo (t : Word) (s : State) (key : Nat) (c : Ctx) : R :=
  if codeTop key ≤ t.toNat then .exc s 3 t else .jump s c t

/-- The displacement of BR and its instruction length (05 R168). -/
def dispOf : Disp → Word × Nat
  | .r8 d => (d.signExtend 32, 2)
  | .r16 d => (d.signExtend 32, 3)

/-- BR and BR.T: PC = next + displacement; the hint changes timing only (06 R185). -/
def branch (g : Guard) (d : Disp) (s : State) (key : Nat) (c : Ctx) : R :=
  jumpTo (nextPc g (dispOf d).2 c + (dispOf d).1) s key c

/-- CALL: vector 3 for a target beyond the code space, vector 8 for a full return stack. The return stack holds code addresses
only: behind the last code byte comes address 0 (06 R186, R187; log entry 95). -/
def call (g : Guard) (len : Nat) (t : Word) (pops : Nat) (s : State) (key : Nat) (c : Ctx) : R :=
  if codeTop key ≤ t.toNat then .exc s 3 t
  else match retErr key c 0 1 with
    | some v => .exc s v c.pc
    | none => .jump s { c with os := c.os.drop pops, rs := BitVec.ofNat 32 ((nextPc g len c).toNat % codeTop key) :: c.rs } t

/-- CALLI ( addr -- ). -/
def calli (g : Guard) (s : State) (key : Nat) (c : Ctx) : R :=
  match stkErr key c 1 0 with
  | some v => .exc s v c.pc
  | none => call g 1 (opnd c 0) 1 s key c

/-- JMPI ( addr -- ). -/
def jmpi (s : State) (key : Nat) (c : Ctx) : R :=
  match stkErr key c 1 0 with
  | some v => .exc s v c.pc
  | none => jumpTo (opnd c 0) s key { c with os := c.os.drop 1 }

/-- RET: vector 9 at an empty return stack or a floor. -/
def ret (s : State) (key : Nat) (c : Ctx) : R :=
  match retErr key c 1 0 with
  | some v => .exc s v c.pc
  | none => .jump s { c with rs := c.rs.drop 1 } (c.rs.headD 0)

/-- LOOP ( n -- ): skips the body for 0, raises vector 10 at a fifth level, else pushes a level (05 R159). -/
def loop (d : Half) (s : State) (key : Nat) (c : Ctx) : R :=
  match stkErr key c 1 0 with
  | some v => .exc s v c.pc
  | none =>
    let start := c.pc + 3
    let fin := start + d.setWidth 32
    let c1 := { c with os := c.os.drop 1 }
    if opnd c 0 = 0 then .jump s c1 fin
    else if 4 ≤ c.ls.length then .exc s 10 c.pc
    else .jump s { c1 with ls := ⟨start, fin, opnd c 0⟩ :: c.ls } start

/-- LEXIT: pops the innermost level and continues at its END; vector 9 with none (05 R161). -/
def lexit (s : State) (_key : Nat) (c : Ctx) : R :=
  match c.ls with
  | [] => .exc s 9 c.pc
  | l :: rest => .jump s { c with ls := rest } l.fin

/-- LCNT: the innermost count, 0 with no level. -/
def lcnt (s : State) (key : Nat) (c : Ctx) : R :=
  stackOp 0 1 (fun _ => [match c.ls with | [] => 0 | l :: _ => l.cnt]) s key c

/-- The length of a BR. -/
def brLen (d : Disp) : Nat := (dispOf d).2

/-- BR, hint not taken. -/
def execBr (x : Iss) (d : Disp) (s : State) : Out := .next (s.issue x .plain (brLen d) true (branch x.guard d))

/-- BR.T, hint taken. -/
def execBrT (x : Iss) (d : Disp) (s : State) : Out := .next (s.issue x .plain (brLen d) true (branch x.guard d))

/-- CALL addr. -/
def execCall (x : Iss) (addr : BitVec 24) (s : State) : Out := .next (s.issue x .plain 4 true (call x.guard 4 (addr.setWidth 32) 0))

/-- CALLI. -/
def execCalli (x : Iss) (s : State) : Out := .next (s.issue x .plain 1 true (calli x.guard))

/-- RET. -/
def execRet (x : Iss) (s : State) : Out := .next (s.issue x .plain 1 true (ret))

/-- LOOP d; a displacement of 0 and a guarded LOOP are illegal encodings (05 R158, R159). -/
def execLoop (x : Iss) (d : Half) (s : State) : Out := .next (s.issue x .plain 3 (decide (d ≠ 0) && decide (x.guard = .always)) (loop d))

/-- LEXIT. -/
def execLexit (x : Iss) (s : State) : Out := .next (s.issue x .plain 1 true (lexit))

/-- JMPI. -/
def execJmpi (x : Iss) (s : State) : Out := .next (s.issue x .plain 1 true (jmpi))

/-- LCNT. -/
def execLcnt (x : Iss) (s : State) : Out := .next (s.issue x .plain 1 true (lcnt))

/-- Bytes of an illegal encoding that are fetched. -/
def illegalLen (op : Nat) : Nat := if 0xE0 ≤ op && op ≤ 0xF0 then 2 else 1

/-- An illegal opcode or guard raises vector 1, whatever a guard before it says; bytes that are legal are no such
event (log entry 1). -/
def execIllegalOpcode (x : Iss) (op nxt : Byte) (s : State) : Out :=
  .next (if illegalOp op.toNat nxt.toNat then
           s.issue x .plain (illegalLen op.toNat) false (fun s _ c => .ok s c)
         else s)

end Sys2Proof.Machine
end

