-- ==== Sys2Proof/Machine/Scratchpad.lean ====
section
/-! DEFINITION. Scratchpads: bank owners, clears, the background test, full tests, steward accesses, ECC write-backs
(11 R330–R345). -/

namespace Sys2Proof.Machine

/-! ### Registers of a seat -/

/-- RANK_SP_OWNER of a seat. -/
def spOwn (r seat : Nat) : Nat := rkA r (0x3100 + 0x40 * seat)

/-- What the block keeps for a seat beside its registers, outside the address map: 0 the owners asked for, 1 test regions
taken, up to 4096 before a wrap, 2 the steward access in progress, 3 its address, 4 and 5 its data, 6 the banks of the full test
in progress. -/
def spHid (r seat i : Nat) : Nat := 0xB000000 + ((r * 13 + seat) * 8 + i) * 4

/-- CK_RANK half cycles in 2 ns at a P-level (16 R458). -/
def plHalf : Nat → Nat
  | 0 => 9
  | 1 => 8
  | 2 => 6
  | _ => 4

/-- CK_RANK half cycles in 2 ns at the rank's P-level. -/
def State.rankHalf (s : State) (r : Nat) : Nat := plHalf (s.pdom r).plevel

/-- The time `n` CK_RANK cycles from now, in ns, rounded up. -/
def State.rankAfter (s : State) (r n : Nat) : Nat := s.now + (4 * n + s.rankHalf r - 1) / s.rankHalf r

/-- Timed work `k` of rank `r` ends at `t`. -/
def State.setDue (s : State) (r k t : Nat) : State :=
  let x := s.rank r
  s.setRank r { x with due := tset x.due k t }

/-- Timed work `k` is under way and its time has come. -/
def State.dueNow (s : State) (r k : Nat) : Bool :=
  match tfind (s.rank r).due k with
  | some t => decide (t ≤ s.now)
  | none => false

/-- Timed work `k` is over. -/
def State.endDue (s : State) (r k : Nat) : State :=
  let x := s.rank r
  s.setRank r { x with due := tdel x.due k }

/-! ### Bytes of banks -/

/-- Drop the bytes of the banks of core `ck` that `p` accepts: they read 0. -/
def State.zeroBanks (s : State) (ck : Nat) (p : Nat → Bool) : State :=
  { s with sp := s.sp.filter (fun e => !(decide (spA ck 0 ≤ e.1) && decide (e.1 < spA (ck + 1) 0) && p (e.1 / 8 % 8))),
           spErr := tkeep s.spErr (fun w _ => !(decide (spWord ck 0 ≤ w) && decide (w < spWord (ck + 1) 0) && p (w % 8))) }

/-- The core is in a seat and serves: present and not retired. -/
def State.seated (s : State) (r c : Nat) : Bool := (s.seatOf r c).isSome && !(s.core (r * 13 + c)).retired

/-! ### Clear (R338) -/

/-- The clear engine starts on core `c`, in its seat: its banks are owned by MOVER for 4096 CK_RANK cycles. -/
def State.startClear (s : State) (r c : Nat) : State :=
  let t := s.seatNo r c
  ((s.setReg (spOwn r t) 0x5555).setReg (spSt r t) 0x80000000).setDue r (32 + c) (s.rankAfter r 4096)

/-- SP_CLEAR_END: every word is zero with valid check bits, and the banks return to CORE; the next packet of each context takes
slot 0 (03 R74). -/
def execSpClearEnd (r : Rank) (c : CoreNo) (s : State) : Out :=
  .next (if !s.runs r.val || !s.dueNow r.val (32 + c.val) then s
    else
      let t := s.seatNo r.val c.val
      let s := forEach (List.range 8) s (fun k s => s.setCtx (pk r.val c.val k) { s.ctx (pk r.val c.val k) with lastSlot := none })
      ((((s.endDue r.val (32 + c.val)).zeroBanks (r.val * 13 + c.val) (fun _ => true)).setReg (spOwn r.val t) 0).clrReg
        (spSt r.val t) (2 ^ 31)))

/-! ### Owners (R332, R334) -/

/-- A seat whose banks steward firmware may hand over: seat 12, or the seat that RANK_SEAT_STATUS reports as drained. -/
def State.mayHand (s : State) (r t : Nat) : Bool :=
  let x := s.rank r
  decide (t = 12) || (decide (2 ≤ x.rot) && decide (x.rotSeat = t))

/-- Owner of bank `b` in a RANK_SP_OWNER word. -/
def ownerOf (w : Word) (b : Nat) : Nat := bits w (2 * b + 1) (2 * b)

/-- A RANK_SP_OWNER write. -/
def State.ownerWrite (s : State) (r t : Nat) (w : Word) : State :=
  if !s.mayHand r t then s.orReg (spSt r t) (2 ^ 25)
  else
    let cur := s.reg (spOwn r t)
    let pend := (List.range 8).foldl (fun n b => if ownerOf w b ≠ ownerOf cur b then n + 2 ^ b else n) 0
    (((s.setReg (spHid r t 0) w).clrReg (spSt r t) (2 ^ 25)).setFld (spSt r t) 23 16 pend)

/-- RANK_SP_OWNER_WRITE. -/
def execRankSpOwnerWrite (q : Req) (r : Rank) (t : Seat) (w : Word) (s : State) : Out :=
  .next (s.writeCmd q (spOwn r.val t.val) (fun s => s.ownerWrite r.val t.val w))

/-- The old owner of bank `b` has completed every access it began on it (R334). -/
def State.bankQuiet (s : State) (r t b : Nat) : Bool :=
  let own := ownerOf (s.reg (spOwn r t)) b
  let st := s.reg (spSt r t)
  let co := s.core (s.seatKey r t)
  if own = 0 then co.bgt.isNone && (tfind co.wb b).isNone && co.sbuf.isEmpty && co.beq.isEmpty &&
    (match s.seatCore r t with | some c => decide ((s.rank r).staged c = 0) | none => true)
  else if own = 1 then !bit st 31
  else if own = 2 then !bit st 30
  else !bit st 29 || decide ((s.reg (spHid r t 3)).toNat / 8 % 8 ≠ b)

/-- SP_HANDOVER_EFFECT: a handover takes effect. -/
def execSpHandoverEffect (r : Rank) (t : Seat) (b : Fin 8) (s : State) : Out :=
  .next (if !s.runs r.val || !bit (s.reg (spSt r.val t.val)) (16 + b.val) || !s.bankQuiet r.val t.val b.val then s
    else
      let w := ownerOf (s.reg (spHid r.val t.val 0)) b.val
      (s.setFld (spOwn r.val t.val) (2 * b.val + 1) (2 * b.val) w).clrReg (spSt r.val t.val) (2 ^ (16 + b.val)))

/-! ### ECC write-back (R331) -/

/-- ECC_WRITEBACK: the queued corrected word of a bank is written in a free cycle. -/
def execEccWriteback (r : Rank) (c : CoreNo) (b : Fin 8) (s : State) : Out :=
  let ck := r.val * 13 + c.val
  let co := s.core ck
  .next (match tfind co.wb b.val with
    | none => s
    | some w =>
      if !s.runs r.val then s
      else
        let s1 := s.setCore ck { co with wb := tdel co.wb b.val }
        let k := spWord ck (8 * w)
        if tfind s.spErr k = some false then { s1 with spErr := tdel s1.spErr k } else s1)

/-! ### Background test (R340, R341) -/

/-- The region taken next and the count of regions taken since the last wrap. -/
def State.bgtNext (s : State) (r t : Nat) : Nat := (s.reg (spHid r t 1)).toNat % 4096

/-- The test takes a region: the pass counter rises at each wrap. -/
def State.bgtTake (s : State) (r t : Nat) : State :=
  let n := (s.reg (spHid r t 1)).toNat
  let s1 := if n = 4096 then s.count (rkA r 0x180) else s
  (s1.setRegN (spHid r t 1) (n % 4096 + 1)).setFld (spSt r t) 11 0 (n % 4096)

/-- BGT_REGION_START: the next region of a seat is saved, its single-bit errors corrected; one whose save finds an uncorrectable error is skipped. The
test works in free cycles of banks that CORE owns. -/
def execBgtRegionStart (r : Rank) (c : CoreNo) (s : State) : Out :=
  let r := r.val
  let ck := r * 13 + c.val
  let iv := s.fld (rkA r 0x3014) 15 0
  .next (match s.seatOf r c.val with
    | none => s
    | some t =>
      if !s.runs r || iv = 0 || (s.core ck).retired || (s.core ck).bgt.isSome || s.reg (spOwn r t) ≠ 0 ||
          (match tfind (s.rank r).due (64 + c.val) with | some d => decide (s.now < d) | none => false) then s
      else
        let rg := s.bgtNext r t
        let s1 := (s.bgtTake r t).setDue r (64 + c.val) (s.rankAfter r iv)
        let (ue, s2) := s1.spTouchN ck 3 ((List.range 8).map (fun i => 8 * rg + i))
        if ue then s2
        else
          let ws := (List.range 8).map (fun i => spWord ck (64 * rg + 8 * i))
          let s3 := { s2 with spErr := tkeep s2.spErr (fun w _ => !ws.contains w) }
          s3.setCore ck { s3.core ck with bgt := some (rg, s3.spR ck (64 * rg) 64) })

/-- BGT_REGION_COMPLETE: the test of a region ends, faulty bits are logged, and the saved words are written back. -/
def execBgtRegionComplete (r : Rank) (c : CoreNo) (s : State) : Out :=
  let ck := r.val * 13 + c.val
  let co := s.core ck
  .next (match co.bgt with
    | none => s
    | some (rg, _) =>
      if !s.runs r.val then s
      else
        let s1 := s.setCore ck { co with bgt := none }
        let ws := (List.range 8).map (fun i => spWord ck (64 * rg + 8 * i))
        ({ s1 with spErr := tkeep s1.spErr (fun w _ => !ws.contains w) }).findRows r.val (s.seatNo r.val c.val) ck
          (fun _ w => w = rg))

/-! ### Full test (R342) -/

/-- The banks of a seat owned by TEST. -/
def State.testBanks (s : State) (r t : Nat) : List Nat := (List.range 8).filter (fun b => ownerOf (s.reg (spOwn r t)) b = 2)

/-- A RANK_SP_TEST_CMD write with START = 1: the test takes the banks that TEST owns now. -/
def State.testStart (s : State) (r t : Nat) : State :=
  if bit (s.reg (spSt r t)) 30 then s
  else ((s.orReg (spSt r t) (2 ^ 30)).setRegN (spHid r t 6) (((s.testBanks r t).map (2 ^ ·)).foldl (· + ·) 0)).setDue r (16 + t)
    (s.rankAfter r 40960)

/-- SP_TEST_START. -/
def execSpTestStart (q : Req) (r : Rank) (t : Seat) (s : State) : Out :=
  .next (s.writeCmd q (rkA r.val (0x3118 + 0x40 * t.val)) (fun s => s.testStart r.val t.val))

/-- SP_TEST_COMPLETE: every word of the tested banks is zero with valid check bits; TEST_FAIL reports. -/
def execSpTestComplete (r : Rank) (t : Seat) (s : State) : Out :=
  let r := r.val
  let t := t.val
  .next (if !s.runs r || !s.dueNow r (16 + t) then s
    else
      let bs := (List.range 8).filter (fun b => bit (s.reg (spHid r t 6)) b)
      let ck := s.seatKey r t
      let s1 := (s.endDue r (16 + t)).clrReg (spSt r t) (2 ^ 30 + 2 ^ 26)
      let s2 := s1.zeroBanks ck (fun b => bs.contains b)
      let bad := !(s.faults ck (fun b _ => bs.contains b)).isEmpty
      (if bad then s2.orReg (spSt r t) (2 ^ 26) else s2).findRows r t ck (fun b _ => bs.contains b))

/-! ### Steward accesses (R332 code 3) -/

/-- A RANK_SP_ACC_CMD write: `op` 1 reads a word into DATA, 2 writes DATA to it. -/
def State.accCmd (s : State) (r t op : Nat) : State :=
  let st := spSt r t
  let a := 0x3108 + 0x40 * t
  let x := (s.reg (rkA r a)).toNat / 8 % 0x8000 * 8
  if bit (s.reg st) 29 then s
  else if ownerOf (s.reg (spOwn r t)) (x / 8 % 8) ≠ 3 then s.orReg st (2 ^ 28)
  else
    let s1 := ((s.clrReg st (2 ^ 28)).orReg st (2 ^ 29)).setRegN (spHid r t 2) op
    ((s1.setRegN (spHid r t 3) x).setReg (spHid r t 4) (s.reg (rkA r (a + 8)))).setReg (spHid r t 5) (s.reg (rkA r (a + 12)))

/-- SP_ACC_READ. -/
def execSpAccRead (q : Req) (r : Rank) (t : Seat) (s : State) : Out :=
  .next (s.writeCmd q (rkA r.val (0x310C + 0x40 * t.val)) (fun s => s.accCmd r.val t.val 1))

/-- SP_ACC_WRITE. -/
def execSpAccWrite (q : Req) (r : Rank) (t : Seat) (s : State) : Out :=
  .next (s.writeCmd q (rkA r.val (0x310C + 0x40 * t.val)) (fun s => s.accCmd r.val t.val 2))

/-- SP_ACC_COMPLETE: the access takes its bank. -/
def execSpAccComplete (r : Rank) (t : Seat) (s : State) : Out :=
  let r := r.val
  let t := t.val
  .next (if !s.runs r || !bit (s.reg (spSt r t)) 29 then s
    else
      let ck := s.seatKey r t
      let x := (s.reg (spHid r t 3)).toNat
      let s0 := s.clrReg (spSt r t) (2 ^ 29)
      if (s.reg (spHid r t 2)).toNat = 1 then
        let (ue, s1) := s0.spTouch ck x 3
        let bs := s.spR ck x 8
        let s2 := (s1.setRegN (rkA r (0x3110 + 0x40 * t)) (leNat (bs.take 4))).setRegN (rkA r (0x3114 + 0x40 * t)) (leNat (bs.drop 4))
        s2.setFld (spSt r t) 27 27 (b2n ue)
      else s0.spStore ck x (leBytes 4 (s.reg (spHid r t 4)).toNat ++ leBytes 4 (s.reg (spHid r t 5)).toNat))

/-! ### Logs -/

/-- RANK_MC_LOG_READ. -/
def execRankMcLogRead (q : Req) (r : Rank) (s : State) : Out := .next (s.readLw q (rkA r.val 0x3008) (fun s => s.logPop (rkA r.val 0x3008)))

/-- RANK_SP_UE_LOG_READ. -/
def execRankSpUeLogRead (q : Req) (r : Rank) (s : State) : Out := .next (s.readLw q (rkA r.val 0x300C) (fun s => s.logPop (rkA r.val 0x300C)))

/-- RANK_REPAIR_LOG_READ. -/
def execRankRepairLogRead (q : Req) (r : Rank) (s : State) : Out := .next (s.readLw q (rkA r.val 0x3010) (fun s => s.logPop (rkA r.val 0x3010)))

end Sys2Proof.Machine
end

