-- ==== Sys2Proof/Machine/Flash.lean ====
section
/-! DEFINITION. What a flash command does as it ends, and one that has started where its domain loses its contents (15 R441, R442). -/

namespace Sys2Proof.Machine

/-- FLASH_STATUS and CFG_EV. -/
def flSt : Nat := cfA 0x30
def cfgEv : Nat := cfA 0x38

/-- The bytes that an operation touches. -/
def flLen (kind len : Nat) : Nat := if kind ≤ 2 then len else if kind = 3 then 4096 else 65536

/-- Programming a byte clears bits; what it leaves where the data would set one the manual does not say (log entry 45). -/
def progByte (free : Nat) (old new : Byte) : Byte := if old &&& new = new then new else (Config.freeWord free).setWidth 8

/-- Flash bytes from `a` programmed with `bs`. -/
def State.flashProg (s : State) (a : Nat) (bs : List Byte) : State :=
  let old := s.flR a bs.length
  let new := (old.zip bs).zipIdx.map (fun e => progByte (s.freeCount + e.2) e.1.1 e.1.2)
  { s with flash := mload 0xFF s.flash a new, freeCount := s.freeCount + bs.length }

/-- Flash bytes erased: 0xFF. -/
def State.flashErase (s : State) (a n : Nat) : State := { s with flash := memClear s.flash a (a + n) }

/-- Bytes of the shared SRAM from `x`; beyond its end the manual gives none (log entry 39). -/
def State.stageBytes (s : State) (x n : Nat) : List Byte :=
  (List.range n).map (fun i => if x + i < 0x200000 then (s.srR (x + i) 1).headD 0 else (Config.freeWord (s.freeCount + i)).setWidth 8)

/-- What a command that ends well does. -/
def State.flashDo (s : State) (f : FlCmd) : State :=
  if f.kind = 1 then s.sramLoad f.sram (s.flR f.addr (min f.len (0x200000 - f.sram)))
  else if f.kind = 2 then
    (({ s with freeCount := s.freeCount + f.len }).srSweep f.sram (min f.len (0x200000 - f.sram))).flashProg f.addr (s.stageBytes f.sram f.len)
  else s.flashErase f.addr (flLen f.kind 0)

/-- A command ends well: its effect, DONE in CFG_EV. -/
def State.flashEnd (s : State) (f : FlCmd) : State := ((s.flashDo f).setRegN flSt 0).orReg cfgEv 1

/-- PD_CFG or PD_STW is about to lose its contents: a program or erase that has started runs to completion (R442), in the flash and
here at once; a read and a deferred command are lost (16 R453; log entry 122). -/
def State.flashLast (s : State) : State :=
  match s.cfg.flash with
  | none => s
  | some f => if f.kind = 1 || f.deferred then s else ({ s with cfg := { s.cfg with flash := none } }).flashEnd f

end Sys2Proof.Machine
end

