-- ==== Sys2Proof/Machine/Helpers.lean ====
section
/-! DEFINITION. Helper slots: capability words, command issue, results, owners and slot state, opcodes 0xC0–0xDF
(06 R206, 08 R252–R256, 09 R263–R274, R285–R291). -/

namespace Sys2Proof.Machine

/-! ### Capability words (R272, R291) -/

/-- The capability word of slot 3 of rank `r`. -/
def State.gstCapWord (s : State) (r : Nat) : Word :=
  let c := (s.rank r).gstCap
  let slen := bits c 28 24
  let bad := decide (16 < slen) || (!bit c 29 && decide (slen ≠ 0))
  (c &&& 0x7F0FFFFF) ||| 0x00300000 ||| (if bit c 31 && s.pins.gstPg && !bad then 0x80000000 else 0)

/-- The capability word of a slot. -/
def State.hcap (s : State) (r sl : Nat) : Word :=
  if sl = 0 then 0x80010000 else if sl = 1 then 0x80110000 else if sl = 2 then 0xEC210000 else s.gstCapWord r

/-- PRESENT of slot 3. -/
def State.present3 (s : State) (r : Nat) : Bool := bit (s.gstCapWord r) 31

/-- Declared save length in words. -/
def State.slen (s : State) (r sl : Nat) : Nat :=
  if sl < 2 then 0 else min 16 (bits (s.hcap r sl) 28 24)

/-! ### Slot state (R284, R290) -/

/-- The state words of slot 2 or 3 of a seat. -/
def State.slotState (s : State) (r seat sl : Nat) : List Word :=
  let x := s.rank r
  let ws := tget [] (if sl = 2 then x.sealSets else x.mirror) seat
  (ws ++ List.replicate 16 0).take (s.slen r sl)

/-- Replace the state words; slot 3 presents a restore stream while the guest is present. -/
def State.setSlotState (s : State) (r seat sl : Nat) (ws : List Word) : State :=
  let x := s.rank r
  if sl = 2 then s.setRank r { x with sealSets := tset x.sealSets seat ws }
  else
    let n := ws.length
    let stream := if s.present3 r then (List.range n).map (fun i => GXfer.restore seat i (ws.getD i 0) (decide (i + 1 = n))) else []
    s.setRank r { x with mirror := tset x.mirror seat ws, gq := x.gq ++ stream }

/-- The owner of slot 2 or 3 of a core, and its reservation. -/
def Core.own (co : Core) (sl : Nat) : Option Nat := if sl = 2 then co.own2 else co.own3
def Core.res (co : Core) (sl : Nat) : Option Nat := if sl = 2 then co.res2 else co.res3

/-- Set the owner and the reservation. -/
def Core.setOwn (co : Core) (sl : Nat) (o r : Option Nat) : Core :=
  if sl = 2 then { co with own2 := o, res2 := r } else { co with own3 := o, res3 := r }

/-- The little-endian bytes of words. -/
def wordBytes (ws : List Word) : List Byte := (ws.map (fun w => leBytes 4 w.toNat)).flatten

/-- The words that bytes hold. -/
def bytesWords (bs : List Byte) : List Word :=
  (List.range (bs.length / 4)).map (fun i => BitVec.ofNat 32 (leNat ((bs.drop (4 * i)).take 4)))

/-- A helper save area's slot part (08 R256). -/
def saveArea (k sl : Nat) : Nat := 0x34000 + k * 0x200 + (sl - 2) * 0x100

/-! ### Commands -/

/-- HPUT words that a command takes (R264). -/
def putsOf (sl : Nat) (c : Byte) : Nat := if sl = 1 then b2n (c.getLsbD 4) else if sl = 3 then c.toNat / 64 else 0

/-- The refusal of a command byte at issue (R271). -/
def State.cmdCode (s : State) (r sl : Nat) (c : Byte) : Option Byte :=
  let n := c.toNat
  if sl = 0 then (if n = 1 then none else some 1)
  else if sl = 1 then (if n % 4 = 3 ∨ 32 ≤ n ∨ (c.getLsbD 4 = true ∧ n % 4 = 2) then some 1 else none)
  else if sl = 2 then (if 1 ≤ n ∧ n ≤ 4 then none else some 1)
  else (if s.present3 r then none else some 0xFE)

/-- FAULTADDR of vector 13. -/
def hFault (sl : Nat) (code : Byte) : Word := BitVec.ofNat 32 (sl + 256 * code.toNat)

/-- Vector 13 for a command or an HGET that is refused at issue, counted in RANK_HSYNC_ERR; a command that ended with an error
was counted then (R292). -/
def State.hRefuse (s : State) (key sl : Nat) (code : Byte) : R := .exc (s.count (rkA (rankOf key) 0x158)) 13 (hFault sl code)

/-- The context's commands on a slot that are not killed. -/
def Ctx.cmds (c : Ctx) (sl : Nat) : List HCmd := c.hs.filter (fun h => h.slot = sl && !h.killed)

/-- Vector 17: slot 2 or 3 of a context that is not its owner. -/
def State.notOwner (s : State) (key sl : Nat) : Bool :=
  decide (2 ≤ sl) && decide ((s.core (coreOf key)).own sl ≠ some (ctxNoOf key))

/-- A lazy save comes first (08 R253). -/
def State.lazyDue (s : State) (key sl : Nat) (c : Ctx) : Bool :=
  c.lazy && decide (2 ≤ sl) && decide ((s.core (coreOf key)).own sl = some (ctxNoOf key))

/-- The next epoch: the lowest free value at or above the last, wrapping. A command whose HCMD has retired holds none; one
that a squash removed holds its own until its KILL is reported (R267). -/
def Ctx.nextEp (c : Ctx) : Option Nat :=
  ((List.range 16).map (fun i => (c.lastEp + i) % 16)).find? (fun e => !c.hs.any (fun h => h.sq && h.ep = e))

/-- TAG of a command of the context's packet: allocation generation and index of its replay-buffer entry (R289). -/
def State.tagOf (s : State) (key : Nat) (c : Ctx) : BitVec 16 :=
  match c.entry with
  | some i => BitVec.ofNat 16 ((tget 0 (s.rank (rankOf key)).gens i).toNat * 128 + i)
  | none => 0

/-- The bytes that a parse or hash command reads, as the context sees them when it issues the command; none where a hash command
may not read its range (R271, R279; log entry 92). -/
def State.helperInput (s : State) (key sl : Nat) (c : Ctx) : Option (List Byte) :=
  let n := (opnd c 0).toNat
  if sl = 0 then some (s.seen key (hslot key c) 256)
  else if sl = 1 && decide (n ≤ 2048) then
    (if s.mayRange key c (opnd c 1).toNat n then some (s.seen key (opnd c 1).toNat n) else none)
  else some []

/-- The scratchpad bytes that a command's helper reads or writes (R277, R280, R283). -/
def helperRange (key sl : Nat) (cb : Byte) (c : Ctx) : Nat × Nat :=
  let a := (opnd c 1).toNat
  let b := (opnd c 0).toNat
  if sl = 0 then (hslot key c, 256)
  else if sl = 1 then (a, if b ≤ 2048 then b else 0)
  else if sl = 2 then
    (if cb.toNat = 1 then (b, 12) else if cb.toNat = 2 then (a, if b ≤ 512 then b else 0)
     else if cb.toNat = 3 then (a, if b ≤ 2048 then b else 0) else (a, 16))
  else (0, 0)

/-- The first word of such a range in a bank that is not CORE's: the access raises vector 5 (11 R332). The model raises it when the
command issues, for a bank's owner changes in a seat with no packet only (log entry 113). -/
def State.helperBank (s : State) (key sl : Nat) (cb : Byte) (c : Ctx) : Option Nat :=
  let (a, n) := helperRange key sl cb c
  ((wordsOf a n).find? (fun w => decide (w < 0x8000) && decide (s.bankOwner (coreOf key) (8 * w) ≠ 0))).map (8 * ·)

/-- SPEC of a command: it is speculative where an instruction of its own group goes before it, and where it is the first of its
group, if the group before it has not retired, which is free; no group is in flight before the first one after a start, a sleep, an
entry, a return or a halt (07 R210, R223; log entry 17). -/
def State.specOf (s : State) (r sl : Nat) (c : Ctx) : Bool :=
  decide (sl = 3) && !bit (s.hcap r sl) 30 &&
  (decide (c.grp.idx ≠ 0) || (decide (2 ≤ c.grp.flow) && decide (Config.freePick s.freeCount % 2 = 1)))

/-- A command complete for issue reaches its helper's queue. -/
def State.toHelper (s : State) (key sl ep : Nat) : State :=
  let ck := coreOf key
  let co := s.core ck
  let x := s.rank (rankOf key)
  if sl = 0 then s.setCore ck { co with h0 := co.h0 ++ [⟨key, ep⟩] }
  else if sl = 1 then s.setCore ck { co with h1 := co.h1 ++ [⟨key, ep⟩] }
  else if sl = 2 then s.setRank (rankOf key) { x with sealQ := x.sealQ ++ [⟨key, ep⟩] }
  else s

/-- HCMD c ( a b -- ). Of the helper instructions it alone waits for a lazy save (08 R253): HPUT, HGET, HWAIT and HSYNC send no
command of their own (log entry 114). Where several of R271's codes at issue apply, 0x01 and 0xFE go before 0x03, and 0x03 before 0x09 (the model's choice,
log entry 124). -/
def hcmd (sl : Nat) (cb : Byte) (s : State) (key : Nat) (c : Ctx) : R :=
  let r := rankOf key
  if s.notOwner key sl then .exc s 17 (BitVec.ofNat 32 sl)
  else match stkErr key c 2 0 with
    | some v => .exc s v c.pc
    | none =>
      let cs := c.cmds sl
      match s.cmdCode r sl cb with
      | some code => s.hRefuse key sl code
      | none =>
        if cs.getLast?.any (fun h => decide (h.puts.length < h.need)) then s.hRefuse key sl 3
        else if 2 ≤ (cs.filter (fun h => h.fin)).length then s.hRefuse key sl 9
        else if cs.any (fun h => !h.fin) || c.hs.any (fun h => decide (h.slot = sl) && s.killWaits key h) then .hold
        else if s.lazyDue key sl c then .to s { c with wait := .lazy sl }
        else match c.nextEp with
          | none => .hold
          | some ep => match s.helperBank key sl cb c with
          | some x => .exc s 5 (BitVec.ofNat 32 x)
          | none =>
            let need := putsOf sl cb
            let h : HCmd := { slot := sl, c := cb, a := opnd c 1, b := opnd c 0, need := need, puts := [], ep := ep,
                              lvl := c.elev.toNat, spec := s.specOf r sl c, committed := false, accepted := false, killed := false,
                              res := [], cnt := 0, last := false, err := none, rdy := [], fin := false,
                              inp := s.helperInput key sl c, sq := false, tag := s.tagOf key c }
            let x := s.rank r
            let s1 := if sl = 3 then ({ s with freeCount := s.freeCount + 1 } : State).setRank r { x with gq := x.gq ++ [GXfer.cmd key ep h.tag] }
                      else if need = 0 then s.toHelper key sl ep else s
            .ok s1 { c with os := c.os.drop 2, hs := c.hs ++ [h], lastEp := ep }

/-- HPUT ( v -- ). -/
def hput (sl : Nat) (s : State) (key : Nat) (c : Ctx) : R :=
  let r := rankOf key
  if s.notOwner key sl then .exc s 17 (BitVec.ofNat 32 sl)
  else match stkErr key c 1 0 with
    | some v => .exc s v c.pc
    | none =>
      if sl = 3 && !s.present3 r then s.hRefuse key sl 0xFE
      else match (c.cmds sl).getLast? with
        | none => s.hRefuse key sl 3
        | some h =>
          if h.need ≤ h.puts.length then s.hRefuse key sl 3
          else
            let v := opnd c 0
            let h1 := { h with puts := h.puts ++ [v] }
            let full := decide (h1.puts.length = h1.need)
            let x := s.rank r
            let s1 := if sl = 3 then s.setRank r { x with gq := x.gq ++ [.put key h.ep v full] }
                      else if full then s.toHelper key sl h.ep else s
            .ok s1 { c with os := c.os.drop 1, hs := mapFirst (fun p => p.slot = sl && !p.killed && p.ep = h.ep && !p.fin) (fun _ => h1) c.hs }

/-- Take a command out of a context's list. -/
def Ctx.dropCmd (c : Ctx) (h : HCmd) : Ctx := { c with hs := c.hs.erase h }

/-- HGET ( -- v ). -/
def hget (sl : Nat) (s : State) (key : Nat) (c : Ctx) : R :=
  if s.notOwner key sl then .exc s 17 (BitVec.ofNat 32 sl)
  else match stkErr key c 0 1 with
    | some v => .exc s v c.pc
    | none =>
      match (c.cmds sl).find? (fun h => h.lvl = c.elev.toNat) with
      | none => s.hRefuse key sl 8
      | some h =>
        match h.rdy with
        | [] => .sleep s { c with wait := .again true }
        | w :: rest =>
          let atLast := h.fin && rest.isEmpty
          match (if atLast then h.err else none) with
          | some code => .exc (s.setCtx key (c.dropCmd h)) 13 (hFault sl code)
          | none =>
            let c1 := if atLast then c.dropCmd h else { c with hs := mapFirst (fun p => p = h) (fun p => { p with rdy := rest }) c.hs }
            .ok s { c1 with os := w :: c1.os }

/-- HWAIT and HSYNC: every command of the context on the slot has completed; an error word that is reached raises
vector 13. -/
def hwait (sl : Nat) (s : State) (key : Nat) (c : Ctx) : R :=
  if s.notOwner key sl then .exc s 17 (BitVec.ofNat 32 sl)
  else
    let cs := c.cmds sl
    if cs.any (fun h => !h.fin) then .sleep s { c with wait := .again false }
    else match cs.find? (fun h => h.err.isSome) with
      | some h => .exc (s.setCtx key (c.dropCmd h)) 13 (hFault sl (h.err.getD 0))
      | none => .ok s c

/-- The address checks of HSAVE and HREST (R206): vector 5, then vector 4. -/
def State.saveErr (s : State) (key sl : Nat) (c : Ctx) (a : Word) : Option (Nat × Word) :=
  let k := ctxNoOf key
  let lo := 0x34000 + k * 0x200
  let n := max 1 (4 * s.slen (rankOf key) sl)
  if a.toNat < lo ∨ lo + 0x200 < a.toNat + n ∨ s.mayRange key c a.toNat n = false then some (5, a)
  else if a.toNat % 4 ≠ 0 then some (4, a) else none

/-- The owner's commands on the slot have all completed or been killed. -/
def State.ownerIdle (s : State) (ck sl o : Nat) : Bool := !((s.ctx (ck * 9 + o)).cmds sl).any (fun h => !h.fin)

/-- HSAVE ( addr -- ) (08 R256). -/
def hsave (sl : Nat) (s : State) (key : Nat) (c : Ctx) : R :=
  if !privOf key c then .exc s 2 c.pc
  else match stkErr key c 1 0 with
    | some v => .exc s v c.pc
    | none =>
      let a := opnd c 0
      match s.saveErr key sl c a with
      | some (v, fa) => .exc s v fa
      | none =>
        let c1 := { c with os := c.os.drop 1 }
        let ck := coreOf key
        let k := ctxNoOf key
        let co := s.core ck
        if sl < 2 then .ok s c1
        else if (co.res sl).any (fun j => j ≠ k) then .sleep s { c with wait := .again false }
        else match co.own sl with
          | none => .ok (s.setCore ck (co.setOwn sl none (some k))) c1
          | some o =>
            if !s.ownerIdle ck sl o then .sleep s { c with wait := .again false }
            else
              let r := rankOf key
              let at' := 0x34000 + o * 0x200 + (a.toNat - (0x34000 + k * 0x200))
              let s1 := s.writeMem key at' (wordBytes (s.slotState r (s.seatNo r (coreNoOf key)) sl))
              .ok (s1.setCore ck ((s1.core ck).setOwn sl none (some k))) c1

/-- HREST ( addr -- ) (08 R256). An uncorrectable word of the save area raises vector 16, as a load does (log entry 97). -/
def hrest (sl : Nat) (s : State) (key : Nat) (c : Ctx) : R :=
  if !privOf key c then .exc s 2 c.pc
  else match stkErr key c 1 0 with
    | some v => .exc s v c.pc
    | none =>
      let a := opnd c 0
      match s.saveErr key sl c a with
      | some (v, fa) => .exc s v fa
      | none =>
        let c1 := { c with os := c.os.drop 1 }
        let ck := coreOf key
        let k := ctxNoOf key
        let co := s.core ck
        let r := rankOf key
        if sl < 2 then .ok s c1
        else
          let (bad, bs, s1) := s.readMem key a.toNat (4 * s.slen r sl)
          if bad then .exc s1 16 a
          else if decide (co.res sl ≠ some k) && (co.own sl).any (fun o => o ≠ k) then s.hRefuse key sl 0xFF
          else
            let s2 := s1.setSlotState r (s1.seatNo r (coreNoOf key)) sl (bytesWords bs)
            .ok ((s2.setCore ck ((s2.core ck).setOwn sl (some k) none)).wakeCore ck) c1

/-- HCAP ( -- cap ). -/
def hcapOp (sl : Nat) (s : State) (key : Nat) (c : Ctx) : R :=
  stackOp 0 1 (fun _ => [s.hcap (if isStw key then 0 else rankOf key) sl]) s key c

/-- HCMD c on slot `sl`. -/
def execHcmd (x : Iss) (sl : Fin 4) (c : Byte) (s : State) : Out := .next (s.issue x .helper 2 true (hcmd sl.val c))

/-- HPUT. -/
def execHput (x : Iss) (sl : Fin 4) (s : State) : Out := .next (s.issue x .helper 1 true (hput sl.val))

/-- HGET. -/
def execHget (x : Iss) (sl : Fin 4) (s : State) : Out := .next (s.issue x .helper 1 true (hget sl.val))

/-- HWAIT. -/
def execHwait (x : Iss) (sl : Fin 4) (s : State) : Out := .next (s.issue x .helper 1 true (hwait sl.val))

/-- HSAVE. -/
def execHsave (x : Iss) (sl : Fin 4) (s : State) : Out := .next (s.issue x .helper 1 true (seqd .hSaveRest (hsave sl.val)))

/-- HREST. -/
def execHrest (x : Iss) (sl : Fin 4) (s : State) : Out := .next (s.issue x .helper 1 true (seqd .hSaveRest (hrest sl.val)))

/-- HCAP; it runs in the fault context too (08 R259). -/
def execHcap (x : Iss) (sl : Fin 4) (s : State) : Out := .next (s.issue x .hcap 1 true (hcapOp sl.val))

/-- HSYNC: as HWAIT; an earlier command of the context has retired when it issues. -/
def execHsync (x : Iss) (sl : Fin 4) (s : State) : Out := .next (s.issue x .helper 1 true (hwait sl.val))

/-! ### Results and kills -/

/-- Change the first command of a context that `p` accepts. -/
def State.modCmd (s : State) (key : Nat) (p : HCmd → Bool) (f : HCmd → HCmd) : State :=
  let c := s.ctx key
  s.setCtx key { c with hs := mapFirst p f c.hs }

/-- The helper ends a command with its words and, if any, an error of the last word (R270). -/
def State.helperDone (s : State) (q : HRef) (sl : Nat) (ws : List Word) (err : Option Byte) : State :=
  let s1 := match err with | some _ => s.count (rkA (rankOf q.ctx) 0x158) | none => s
  s1.modCmd q.ctx (fun h => h.slot = sl && !h.killed && h.ep = q.ep && !h.fin)
    (fun h => { h with res := ws, cnt := ws.length, last := true, err := err, accepted := true })

/-- One result word of the oldest incomplete command of a slot reaches the core; the last completes it. -/
def execHelperResult (r : Rank) (c : CoreNo) (k : CtxNo) (sl : Fin 4) (s : State) : Out :=
  let key := pk r.val c.val k.val
  .next (if !s.runs r.val then s
    else match ((s.ctx key).cmds sl.val).find? (fun h => !h.fin && !h.res.isEmpty) with
      | none => s
      | some h =>
        let h1 := { h with rdy := h.rdy ++ h.res.take 1, res := h.res.drop 1, fin := h.last && decide (h.res.length = 1) }
        (s.modCmd key (fun p => p = h) (fun _ => h1)).wakeCore (coreOf key))

/-- The report of a presented KILL reaches the core: the command's epoch is free (R267). -/
def execKillReport (r : Rank) (c : CoreNo) (k : CtxNo) (sl : Fin 4) (s : State) : Out :=
  let key := pk r.val c.val k.val
  .next (if !s.runs r.val then s
    else match (s.ctx key).hs.find? (fun h => h.slot = sl.val && h.killed && !s.killWaits key h) with
      | none => s
      | some h =>
        let cx := s.ctx key
        (s.setCtx key { cx with hs := cx.hs.erase h }).wakeCore (coreOf key))

/-- The lazy save of R253: the slot's state goes to the helper area of the frame at the current MSP, which is the frame's own
unless the handler has moved MSP (log entry 98). A bank that the core does not own raises vector 5 (11 R332). -/
def execLazySave (r : Rank) (c : CoreNo) (k : CtxNo) (s : State) : Out :=
  let key := pk r.val c.val k.val
  let cx := s.ctx key
  .next (match cx.st, cx.wait with
    | .run, .lazy sl =>
      if !s.runs r.val || (cx.cmds sl).any (fun h => !h.fin) then s
      else
        let f := cx.msp.toNat
        match s.sequence key .lazySave with
        | (false, s0) => s0
        | (true, s) =>
        match s.portBad key (f + 0x18) 0x68 with
        | some x => (s.setCtx key { cx with useq := none, wait := .none }).excAt key 5 (BitVec.ofNat 32 x)
        | none =>
          let s1 := s.portW key (f + 0x40) (wordBytes (s.slotState r.val (s.seatNo r.val c.val) sl))
          let info := leNat (s1.spR (coreOf key) (f + 0x18) 4)
          let info2 := (BitVec.ofNat 32 info &&& 0xFCFFFFFF) ||| BitVec.ofNat 32 (2 ^ 25 + (sl - 2) * 2 ^ 24)
          let s2 := s1.portW key (f + 0x18) (leBytes 4 info2.toNat)
          (s2.setCtx key { cx with lazy := false, useq := none, wait := .none }).boundary key
    | _, _ => s)

/-! ### The guest bay (R285–R291) -/

/-- The oldest issue transfer is presented and accepted; a command whose KILL has withdrawn its transfer takes none of a later
command of the same epoch. A rank that leaves ON presents none (16 R450). -/
def execGuestIssue (r : Rank) (s : State) : Out :=
  let x := s.rank r.val
  .next (if !s.ready r.val then s
    else match x.gq with
      | [] => s
      | g :: rest =>
        let s1 := s.setRank r.val { x with gq := rest }
        match g with
        | .cmd key ep _ =>
          let is := fun (h : HCmd) => h.slot = 3 && h.ep = ep && !h.fin && !h.accepted && (!h.killed || s.killWaits key h)
          let spec := (s1.ctx key).hs.any (fun h => is h && h.spec && !h.sq)
          let s2 := s1.modCmd key is (fun h => { h with accepted := true })
          let y := s2.rank r.val
          if spec then s2.setRank r.val { y with gcmt := y.gcmt ++ [⟨key, ep⟩] } else s2
        | _ => s1)

/-- The oldest KILL reaches the bay: where the guest has not accepted the command, its transfers are withdrawn and no notice
is presented; else the notice is presented (R286). A rank that is not ON presents none (01 R21). -/
def execGuestKillNotice (r : Rank) (s : State) : Out :=
  let x := s.rank r.val
  .next (if !s.ready r.val then s
    else match x.gkill with
      | [] => s
      | q :: rest =>
        let isCmd := fun (g : GXfer) => match g with | .cmd k e _ => decide (k = q.ctx) && decide (e = q.ep) | _ => false
        let isPut := fun (g : GXfer) => match g with | .put k e _ _ => decide (k = q.ctx) && decide (e = q.ep) | _ => false
        let gq := if x.gq.any isCmd then x.gq.filter (fun g => !isCmd g && !isPut g) else x.gq
        s.setRank r.val { x with gkill := rest, gq := gq })

/-- COMMIT is presented for a speculative command whose HCMD has retired (R268); by a rank that is ON only (01 R21). -/
def execGuestCommitNotice (r : Rank) (s : State) : Out :=
  let x := s.rank r.val
  .next (if !s.ready r.val then s
    else match x.gcmt with
      | [] => s
      | q :: rest =>
        (s.setRank r.val { x with gcmt := rest }).modCmd q.ctx
          (fun h => h.slot = 3 && !h.killed && h.ep = q.ep && !h.committed) (fun h => { h with committed := true }))

/-- A result transfer: a word for its command, or discarded. One for a command whose kill notice has been presented, or past the sixteenth,
is discarded by R287 and counts; one that arrives before the notice is discarded by 07 R223 (R287, R288, R292). -/
def execGuestResult (r : Rank) (seat : Seat) (k : CtxNo) (ep : Fin 16) (data : Word) (last err : Bool) (code : Byte)
    (s : State) : Out :=
  .next (if !s.ready r.val || !s.pins.gstPg then s
    else match s.seatCore r.val seat.val with
      | none => s
      | some c =>
        let key := pk r.val c k.val
        let is := fun (h : HCmd) => h.slot = 3 && !h.killed && h.ep = ep.val && !h.fin && !h.last && h.accepted
        match (s.ctx key).hs.find? is with
        | none =>
          if (s.ctx key).hs.any (fun h => h.slot = 3 && h.killed && h.accepted && h.ep = ep.val && !s.killWaits key h) then s.count (rkA r.val 0x160) else s
        | some h =>
          if 16 ≤ h.cnt then s.count (rkA r.val 0x160)
          else
            let e := if last && err then some (if 0x10 ≤ code.toNat ∧ code.toNat ≤ 0xEF then code else 0xEF) else none
            let s1 := if e.isSome then s.count (rkA r.val 0x158) else s
            s1.modCmd key is (fun h => { h with res := h.res ++ [data], cnt := h.cnt + 1, last := last, err := e }))

/-- A SAVE transfer updates one mirror word of a seat (R290); with the guest's power-good low it is discarded (01 R18). -/
def execGuestMirrorSave (r : Rank) (seat : Seat) (widx : Fin 16) (data : Word) (s : State) : Out :=
  let x := s.rank r.val
  let ws := (tget [] x.mirror seat.val ++ List.replicate 16 0).take 16
  .next (if !s.ready r.val || !s.pins.gstPg then s else s.setRank r.val { x with mirror := tset x.mirror seat.val (lset ws widx.val data) })

/-- TAINT is set in a packet's metadata copies: the entry, the packet as received and, where bound, the slot (R289). -/
def State.taint (s : State) (r i : Nat) : State :=
  match tfind (s.rank r).entries i with
  | none => s
  | some e =>
    let s1 := s.modEntry r i (fun e =>
      { e with md := { e.md with taint := true }, pkt := { e.pkt with md := { e.pkt.md with taint := true } } })
    match e.bound with
    | none => s1
    | some (c, k, sl) =>
      let a := slotA k sl + 0x103
      s1.spW (r * 13 + c) a [(mget 0 s1.sp (spA (r * 13 + c) a)) ||| 4]

/-- A late error: logged, counted, and TAINT where the entry is held with the same generation (R289). -/
def execGuestLateError (r : Rank) (tag : Half) (code : Byte) (s : State) : Out :=
  let x := s.rank r.val
  let i := tag.toNat % 128
  .next (if !s.ready r.val || !s.pins.gstPg then s
    else
      let hit := (match tfind x.entries i with | some e => decide (e.phase ≠ .mark) | none => false) &&
                 decide ((tget 0 x.gens i).toNat = tag.toNat / 128)
      let s1 := (s.count (rkA r.val 0x160)).logAdd (rkA r.val 0x2090) 8
                  (2 ^ 31 + b2n hit * 2 ^ 29 + code.toNat * 65536 + tag.toNat)
      if hit then (s1.taint r.val i).count (rkA r.val 0x168) else s1)

/-- An incomplete command of slot 3 completes with ERR and code 0xFE: one whose last word is still to come takes a word of 0 as its last
(R265, R291; log entry 121). -/
def HCmd.gone (h : HCmd) : HCmd :=
  let h1 := { h with last := true, err := some 0xFE, need := h.puts.length }
  if h.last then h1 else { h1 with res := h.res ++ [0], cnt := h.cnt + 1 }

/-- Rank `r` finds no guest present: what it has asked of the bay is discarded (01 R18), and every incomplete command of slot 3 completes
with code 0xFE (R291). One that had an error already ended with one, and counts no second time (R292). -/
def State.guestGone (s : State) (r : Nat) : State :=
  if s.present3 r then s
  else
    let inc := fun (h : HCmd) => h.slot = 3 && !h.killed && !h.fin
    let s1 := s.setRank r { s.rank r with gq := [], gkill := [], gcmt := [] }
    forEach ((List.range 117).map (fun j => r * 117 + j)) s1 (fun key s =>
      let c := s.ctx key
      if c.hs.any inc then
        (s.setCtx key { c with hs := c.hs.map (fun h => if inc h then h.gone else h) }).count (rkA r 0x158)
          (c.hs.filter (fun h => inc h && h.err.isNone)).length
      else s)

/-- GST_PG changes; a rank that is not ON finds it out as it wakes (19 R522). -/
def execGstPgChange (pg : Bool) (s : State) : Out :=
  let s1 := { s with pins := { s.pins with gstPg := pg } }
  .next (forEach ((List.range 12).filter s1.isOn) s1 (fun r s => s.guestGone r))

end Sys2Proof.Machine
end

