-- ==== Sys2Proof/Machine/System.lean ====
section
/-! DEFINITION. System and special-register instructions, opcodes 0xB0–0xB9 (05 R164–R166, 06 R200–R205). -/

namespace Sys2Proof.Machine

/-! ### Special registers (05 R164) -/

/-- CSW of a context. -/
def cswOf (key : Nat) (c : Ctx) : Word :=
  BitVec.ofNat 32 (at_ c.ls.length 9 + at_ c.elev.toNat 7 + at_ (b2n c.lazy) 2 + at_ (b2n (isStw key && c.ie)) 1 + b2n (privOf key c))

/-- DEPTHS of a context. -/
def depthsOf (c : Ctx) : Word := BitVec.ofNat 32 (at_ c.rs.length 8 + c.os.length)

/-- HOWN of a core. -/
def hownOf (co : Core) : Word := BitVec.ofNat 32 (co.own2.getD 15 + 16 * co.own3.getD 15)

/-- The value of special register `i`. -/
def State.sreg (s : State) (key : Nat) (c : Ctx) (i : Nat) : Word :=
  let co := s.core (coreOf key)
  match i with
  | 0 => cswOf key c
  | 1 => c.predWord
  | 2 => c.a
  | 3 => c.b
  | 4 => c.msp
  | 5 => co.vbase
  | 6 => if isStw key then 0 else c.turn.setWidth 32
  | 7 => BitVec.ofNat 32 (ctxNoOf key)
  | 8 => BitVec.ofNat 32 (if isStw key then key - 1404 else s.seatNo (rankOf key) (coreNoOf key))
  | 9 => BitVec.ofNat 32 (if isStw key then 15 else rankOf key)
  | 10 => if isStw key then 0 else hownOf co
  | 11 => c.faultaddr
  | 12 => c.cause.setWidth 32
  | 13 => BitVec.ofNat 32 (hslot key c)
  | 14 => depthsOf c
  | _ => co.dseed

/-- Indexes that only the supervisor level reads. -/
def readPriv (i : Nat) : Bool := i = 4 || i = 10 || i = 11 || i = 12 || i = 15

/-- MFS ( -- v ). HSLOT in the fault context is a value the manual does not give (log entry 21). -/
def mfs (i : Nat) (s : State) (key : Nat) (c : Ctx) : R :=
  if readPriv i && !privOf key c then .exc s 2 c.pc
  else match stkErr key c 0 1 with
    | some v => .exc s v c.pc
    | none =>
      if isFlt key && decide (i = 13) then
        .ok { s with freeCount := s.freeCount + 1 } { c with os := Config.freeWord s.freeCount :: c.os }
      else .ok s { c with os := s.sreg key c i :: c.os }

/-- The writes that MTS allows at the context's level. -/
def mayMts (key : Nat) (c : Ctx) (i : Nat) : Bool :=
  i = 1 || i = 2 || i = 3 || (privOf key c && (i = 0 || i = 4 || i = 15 || (i = 5 && isStw key)))

/-- MTS ( v -- ). A VBASE that is no multiple of 64 is kept as written (R151; log entry 94). -/
def mts (i : Nat) (s : State) (key : Nat) (c : Ctx) : R :=
  if !mayMts key c i then .exc s 2 c.pc
  else match stkErr key c 1 0 with
    | some v => .exc s v c.pc
    | none =>
      let v := opnd c 0
      let c1 := { c with os := c.os.drop 1 }
      let ck := coreOf key
      match i with
      | 0 => .ok s (if isStw key then { c1 with ie := v.getLsbD 1 } else c1)
      | 1 => .ok s (c1.setPred v)
      | 2 => .ok s { c1 with a := v }
      | 3 => .ok s { c1 with b := v }
      | 4 => .ok s { c1 with msp := v }
      | 5 => .ok (s.setCore ck { s.core ck with vbase := v &&& 0x3FFFF }) c1
      | _ => .ok (if v = 0 then s else s.setCore ck { s.core ck with dseed := v }) c1

/-! ### The instructions -/

/-- WAIT ( n -- ): a packet core sleeps n[11:0] cycles, 0 acting as YIELD; a steward sleeps n cycles or for an interrupt,
0 for an interrupt alone. A timer counts half cycles. -/
def wait (s : State) (key : Nat) (c : Ctx) : R :=
  match stkErr key c 1 0 with
  | some v => .exc s v c.pc
  | none =>
    let n := opnd c 0
    if isStw key then .sleep s { c with wait := .timer (2 * n.toNat) (decide (n = 0)) }
    else
      let m := bits n 11 0
      if m = 0 then .ok s { c with os := c.os.drop 1 } else .sleep s { c with wait := .timer (2 * m) false }

/-- DICE's step. -/
def xorshift (x : Word) : Word :=
  let x := x ^^^ (x <<< 13)
  let x := x ^^^ (x >>> 17)
  x ^^^ (x <<< 5)

/-- DICE ( -- r ). -/
def dice (s : State) (key : Nat) (c : Ctx) : R :=
  match stkErr key c 0 1 with
  | some v => .exc s v c.pc
  | none =>
    let ck := coreOf key
    let co := s.core ck
    let x := xorshift co.dseed
    .ok (s.setCore ck { co with dseed := x }) { c with os := x :: c.os }

/-- FENCE: the context's stores reach the scratchpad; it waits for abandoned settling operations (06 R202). -/
def fence (s : State) (key : Nat) (c : Ctx) : R :=
  if (s.opsOut key).any (fun o => o.kind = .upd || o.kind = .cas || o.kind = .unlock) then .sleep s { c with wait := .again false }
  else .ok (if isStw key then s else s.drainCore (coreOf key)) c

/-- BRK: halts the core before it retires where BRKHALT is 1, and raises vector 15 when it issues again (06 R205,
18 R504). A context that holds an entry lock goes on issuing before the halt (18 R502), so that it issues BRK again then (the
model's choice, log entry 115). -/
def brk (s : State) (key : Nat) (c : Ctx) : R :=
  let cfg := s.dreg (s.dbgBase key)
  if bit cfg 28 && !c.brkSkip then .to (s.reqHalt (coreOf key)) { c with brkSkip := true }
  else .trap s { c with brkSkip := false } 15 c.pc

/-- The frame at a steward's MSP is one of vector 19 (12 R370). -/
def State.irqFrame (s : State) (key : Nat) (c : Ctx) : Bool :=
  isStw key && decide (c.msp.toNat % 64 = 0) && decide (c.msp.toNat + 0x80 ≤ stackBase key + stackSize key) &&
  decide (leNat (s.srR (c.msp.toNat + 0x18) 4) % 32 = 19)

/-- RTE: ends the fault program in the fault context; vector 2 at ELEV 0, but for a frame of vector 19; else the context
enters RETURN (08 R250, 12 R370). -/
def rte (s : State) (key : Nat) (c : Ctx) : R :=
  if isFlt key then
    let s1 := s.faultEnd (coreOf key) false
    .to s1 (s1.ctx key)
  else if c.elev = 0 && !s.irqFrame key c then .exc s 2 c.pc
  else .to s { c with st := .ret }

/-- YIELD: the order of issue among contexts is the sender's (log entry 5). -/
def execYield (x : Iss) (s : State) : Out := .next (s.issue x .plain 1 true (fun s _ c => .ok s c))

/-- SYS k: vector 14 with FAULTADDR k. -/
def execSys (x : Iss) (b : Byte) (s : State) : Out :=
  .next (s.issue x .plain 2 true (fun s _ c => .trap s c 14 (b.setWidth 32)))

/-- RTE. -/
def execRte (x : Iss) (s : State) : Out := .next (s.issue x .plain 1 true rte)

/-- MFS i; an index of 16 or more is illegal. -/
def execMfs (x : Iss) (i : Byte) (s : State) : Out :=
  .next (s.issue x .plain 2 (decide (i.toNat < 16)) (mfs i.toNat))

/-- MTS i. -/
def execMts (x : Iss) (i : Byte) (s : State) : Out :=
  .next (s.issue x .plain 2 (decide (i.toNat < 16)) (mts i.toNat))

/-- FENCE. -/
def execFence (x : Iss) (s : State) : Out := .next (s.issue x .plain 1 true fence)

/-- DICE. -/
def execDice (x : Iss) (s : State) : Out := .next (s.issue x .plain 1 true dice)

/-- TIME ( -- t ). -/
def execTime (x : Iss) (s : State) : Out :=
  .next (s.issue x .plain 1 true (fun s key c => stackOp 0 1 (fun _ => [s.tick32]) s key c))

/-- BRK. -/
def execBrk (x : Iss) (s : State) : Out := .next (s.issue x .plain 1 true brk)

end Sys2Proof.Machine
end

