-- ==== Sys2Proof/Machine/Exceptions.lean ====
section
/-! DEFINITION. Taking an exception and returning from one, the turn cap, and the fault context (08 R242–R262, 03 R95,
R96; 12 R359, R369–R371). -/

namespace Sys2Proof.Machine

/-! ### The frame (R244, R245) -/

/-- The two words of loop level `l` (level 0 is the outermost). A LOOP near the end of a packet core's code space can have its END beyond it;
the frame keeps the low 16 bits of such an END, so that RTE restores another one (05 R159 is silent; the model's choice, log entry
128). -/
def lvlWords (ls : List Lvl) (l : Nat) : List Word :=
  match ls.reverse[l]? with
  | none => [0, 0]
  | some v => [BitVec.ofNat 32 (v.start.toNat % 65536 + at_ (v.fin.toNat % 65536) 16), v.cnt]

/-- LHIGH on a steward. -/
def lhigh (ls : List Lvl) : Nat :=
  ((List.range 4).map (fun l => match ls.reverse[l]? with
    | none => 0
    | some v => at_ (v.start.toNat / 65536 % 4) (4 * l) + at_ (v.fin.toNat / 65536 % 4) (4 * l + 2))).sum

/-- The frame that the entry of exception `x` writes; the FAULTADDR word of a vector 19 frame is 0 (12 R369). -/
def frameWords (key : Nat) (c : Ctx) (x : Exc) : List Word :=
  let fa := if isStw key && decide (x.vec = 19) then 0 else c.faultaddr
  let info := x.vec + at_ c.cause.toNat 8 + at_ (b2n x.abandoned) 16 + at_ (b2n x.sent) 17
  [if isStw key then x.ret else BitVec.ofNat 32 (x.ret.toNat % 65536), cswOf key c, c.predWord, c.a, c.b, fa,
   BitVec.ofNat 32 info, BitVec.ofNat 32 (if isStw key then lhigh c.ls else 0)] ++
  ((List.range 4).map (lvlWords c.ls)).flatten

/-- A push from `msp` is valid (R244). -/
def pushOk (key : Nat) (msp : Word) : Bool :=
  decide (msp.toNat % 64 = 0) && decide (msp.toNat ≤ stackBase key + stackSize key) && decide (stackBase key + 0x80 ≤ msp.toNat)

/-- A pop at `msp` is valid. -/
def popOk (key : Nat) (msp : Word) : Bool :=
  decide (msp.toNat % 64 = 0) && decide (msp.toNat + 0x80 ≤ stackBase key + stackSize key)

/-- A double fault of a packet context, or a steward fault. -/
def State.dblFault (s : State) (key kind vec : Nat) (fa : Word) : State :=
  if isStw key then s.stwFault (key - 1404) 1 else s.stopCtx key kind vec fa

/-! ### Squashed instructions (07 R222, R223, R268) -/

/-- The operands after an instruction that has not been executed: copies of the cells it takes and free values; none on a
stack error. -/
def ghostOs (k : Nat) (i : GIns) (os : List Word) : Option (List Word) :=
  let (n, out) := stkEff i.op i.b
  if os.length < n then none
  else some ((out.zipIdx).map (fun c => match c.1 with | some j => os.getD j 0 | none => Config.freeWord (k + c.2)) ++ os.drop n)

/-- A later instruction of a faulting group has sent its request before the squash: a helper command without NO_SPEC goes out with its
SPEC, a LOOK or LOOKW as an operation whose result nobody takes. `g` is the context as the core had it at that instruction. -/
def State.ghostSend (s : State) (w : Who) (key : Nat) (g : Ctx) : State :=
  let c := s.ctx key
  let cx := { g with hs := c.hs, lastEp := c.lastEp }
  let lk := fun (kd : TKind) (t : Byte) =>
    match look kd t s key cx with
    | .sleep s1 c1 => (match c1.wait with
      | .top id => { s1 with tb := { s1.tb with ops := s1.tb.ops.map (fun o => if o.id = id then { o with src := nobody, orphan := true } else o) } }
      | _ => s)
    | _ => s
  match (decodeGilin w (s.codeSeenN key g.pc.toNat 8)).1 with
  | .hcmd x sl cb =>
    if isStw key || bit (s.hcap (rankOf key) sl.val) 30 || !guardHolds g x.guard then s
    else (match hcmd sl.val cb s key cx with
      | .ok s1 c1 => s1.setCtx key { c with lastEp := c1.lastEp, hs := c.hs ++ (c1.hs.drop c.hs.length).map (fun h => { h with sq := true }) }
      | _ => s)
  | .look x t => if guardHolds g x.guard then lk .look t else s
  | .lookw x t => if guardHolds g x.guard then lk .lookw t else s
  | _ => s

/-- The group behind an instruction of this opcode issues in the next cycle: its cost is 1 and it does not wait (07 R216, R230). A helper
command to a NO_SPEC slot waits one cycle more. -/
def State.quick (s : State) (key op : Nat) : Bool :=
  decide (op < 0x7C) || op = 0x7E || op = 0x7F || (0x80 ≤ op && op ≤ 0x84) || (0x86 ≤ op && op ≤ 0x88) || op = 0x8A || op = 0x95 ||
  op = 0xA3 || op = 0xA5 || op = 0xA6 || op = 0xB1 || op = 0xB2 || (0xB4 ≤ op && op ≤ 0xB9) ||
  (0xC0 ≤ op && op ≤ 0xDF && ((op % 8 = 0 && !isStw key && !bit (s.hcap (rankOf key) (op / 8 % 4)) 30) || op % 8 = 1 || op % 8 = 6))

/-- The context behind an instruction that a squash removes, with free values in the cells it makes; none where the core fetches no group
that issues in the next cycle: an illegal encoding, a stack error, a cost of more than 1, a branch against its hint (07 R216, R217). -/
def State.ghostNext (s : State) (w : Who) (key : Nat) (g : Ctx) : Option Ctx :=
  let bs := s.codeSeenN key g.pc.toNat 8
  let i := GIns.ofBytes bs
  let fall := g.pc + BitVec.ofNat 32 i.len
  let takes := guardHolds g ((guardOf (bs.getD 0 0).toNat).getD .always)
  let goes := fun (a : R) => match a with | .jump _ c t => some (c.goto t) | _ => none
  if i.cls = .bad then none
  else if !takes then (if i.op = 0x81 || i.op = 0x83 then none else some (g.goto fall))
  else match (decodeGilin w bs).1 with
    | .br x d => if x.guard = .always then goes (branch x.guard d s key g) else none
    | .brT x d => goes (branch x.guard d s key g)
    | .call x t => goes (call x.guard 4 (t.setWidth 32) 0 s key g)
    | .ret _ => goes (ret s key g)
    | .loop _ d => goes (loop d s key g)
    | .lexit _ => goes (lexit s key g)
    | _ =>
      if !s.quick key i.op then none
      else (ghostOs s.freeCount i g.os).map (fun os => { g with os := os }.goto fall)

/-- The `n` instructions of one group that a squash removes, the first with the context `g`; what follows them. The group ends where a
loop's END goes back to its START. -/
def State.ghosts (w : Who) (key : Nat) : Nat → Ctx → State → Option Ctx × State
  | 0, g, s => (some g, s)
  | n + 1, g, s =>
    let i := GIns.ofBytes (s.codeSeenN key g.pc.toNat 8)
    if (s.badFetch key g.pc.toNat i.len).isSome then (none, s)
    else
      let s1 := s.ghostSend w key g
      let s2 : State := { s1 with freeCount := s1.freeCount + 8 }
      match s1.ghostNext w key g with
      | none => (none, s2)
      | some g1 =>
        let g2 := { g1 with grp := { g1.grp with idx := 1 } }
        if g1.pc = g.pc + BitVec.ofNat 32 i.len then State.ghosts w key n g2 s2 else (some g2, s2)

/-- The instructions of the younger group that a squash finds at MH, or none (R210). Only one that issues in the cycle after the faulting
group has sent its LOOK, LOOKW or helper command by then; whether it issued so soon is free (log entry 17). -/
def State.younger (s : State) (w : Who) (key : Nat) : Option Ctx → State
  | none => s
  | some g =>
    let (n, s1) := s.pick 2
    if n = 0 then s1 else (State.ghosts w key (s1.groupAt key g.pc.toNat).length g s1).2

/-- The exception is taken with nothing in flight behind it: between instructions (08 R242, R247), or at an instruction that slept. -/
def Ctx.alone (c : Ctx) (x : Exc) : Bool :=
  x.abandoned || decide (c.wlen ≠ 0) || decide (x.vec = 11) || decide (x.vec = 17) || (decide (x.vec = 15) && decide (c.grp.next = c.pc))

/-- The squash of the instructions behind the one that raised exception `x`, in its group and in a younger one; one that a fetch match
squashed is itself among them (07 R223, 18 R505; log entry 17). -/
def State.squash (s : State) (w : Who) (x : Exc) : State :=
  let key := whoKey w
  let c := s.ctx key
  let s1 := s.setCtx key { c with grp := { c.grp with left := 0 } }
  if c.alone x then s1
  else
    let own : Option Ctx × State :=
      if x.vec = 15 ∧ x.faultaddr = 0 then State.ghosts w key (c.grp.left + 1) c s1
      else if x.ret ≠ c.pc then (some { c with pc := x.ret, grp := { c.grp with idx := 1 } }, s1)
      else match s1.ghostNext w key c with
        | none => (none, s1)
        | some g =>
          let g1 := { g with grp := { g.grp with idx := 1 } }
          if g.pc = c.grp.next then State.ghosts w key c.grp.left g1 { s1 with freeCount := s1.freeCount + 8 }
          else (some g1, s1)
    let s2 := own.2.younger w key own.1
    if (s2.ctx key).hs.any (fun h => h.sq && !h.killed && !h.fin) then s2.killHelpers key (fun h => h.sq) else s2

/-! ### Entry (R247) -/

/-- Steps 2–6 of R247: the frame is pushed and the handler starts one level up. Vector 19 on a steward pushes the depths
on the floor stack, keeps ELEV, PRIV and LAZY, and clears IE (12 R369; log entry 29). A frame in a bank that the core does
not own is a double fault with vector 5 (11 R332; log entry 96). -/
def State.enter (s : State) (key : Nat) (c : Ctx) (x : Exc) : State :=
  if !pushOk key c.msp then s.dblFault key 1 x.vec x.faultaddr
  else match s.portBad key (c.msp.toNat - 0x80) 64 with
  | some y => s.dblFault key 1 5 (BitVec.ofNat 32 y)
  | none =>
    let f := c.msp.toNat - 0x80
    let s1 := s.portW key f (wordBytes (frameWords key c x))
    let irq := isStw key && decide (x.vec = 19)
    let hid : Hidden := ⟨privOf key c, c.os.length, c.rs.length⟩
    let c1 := { c with st := .run, exc := none, useq := none, wait := .none, wlen := 0, msp := BitVec.ofNat 32 f, ls := [],
                       grp := { c.grp with left := 0, flow := 0 }, cause := BitVec.ofNat 5 x.vec, faultaddr := x.faultaddr, pc := s1.vectorOf key x.vec }
    let c2 := if irq then { c1 with floors := (c.os.length, c.rs.length) :: c.floors, ie := false }
              else if c.elev = 0 then { c1 with elev := 1, lazy := true, h1 := hid }
              else { c1 with elev := 2, lazy := true, h2 := hid }
    let s2 := s1.setCtx key c2
    if irq then s2.count (swA (0x210 + 8 * (key - 1404))) else s2.boundary key

/-- EXCEPTION_ENTRY: a context in ENTRY enters its handler, once the sequence of R348 has run: what is younger is squashed (step 1). -/
def execExceptionEntry (w : Who) (s : State) : Out :=
  let key := whoKey w
  let c := s.ctx key
  .next (if c.st ≠ .entry || !s.runs (coreDom (coreOf key)) then s
    else match c.exc with
      | none => s
      | some x => match s.sequence key .excEntry with
        | (false, s1) => s1
        | (true, s1) => let s2 := s1.squash w x; s2.enter key (s2.ctx key) x)

/-! ### Return (R250, R251) -/

/-- The settling operations and helper commands issued at level `k` are acknowledged (step 1). -/
def State.levelQuiet (s : State) (key : Nat) (k : Nat) : Bool :=
  !(s.opsOut key).any (fun o => decide (o.lvl = k) && (o.kind = .upd || o.kind = .cas || o.kind = .unlock)) &&
  !(s.ctx key).hs.any (fun h => decide (h.lvl = k) && !h.killed && !h.fin)

/-- The loop levels of a frame, innermost first. -/
def frameLoops (key : Nat) (ws : List Word) (n : Nat) : List Lvl :=
  ((List.range n).map (fun l =>
    let w := ws.getD (8 + 2 * l) 0
    let hi := if isStw key then bits (ws.getD 7 0) 31 0 / 2 ^ (4 * l) % 16 else 0
    (⟨BitVec.ofNat 32 (bits w 15 0 + at_ (hi % 4) 16), BitVec.ofNat 32 (bits w 31 16 + at_ (hi / 4) 16), ws.getD (9 + 2 * l) 0⟩ : Lvl))).reverse

/-- The checks of R251 and, for a frame of vector 19, of 12 R370. -/
def frameOk (key : Nat) (c : Ctx) (ws : List Word) (irq : Bool) : Bool :=
  let csw := ws.getD 1 0
  let priv := if isStw key then true else if c.elev = 2 then c.h2.priv else c.h1.priv
  let elev := bits csw 8 7
  (decide (b2n (bit csw 0) ≤ b2n priv)) && decide (bits csw 11 9 ≤ 4) && (decide (elev ≠ 0) || !bit csw 2) &&
  (if irq then decide (elev = c.elev.toNat) && !c.floors.isEmpty else decide (elev + 1 = c.elev.toNat))

/-- The frame has a filled helper area. -/
def hfill (key : Nat) (ws : List Word) : Bool := !isStw key && bit (ws.getD 6 0) 25

/-- HFILL: the helper area goes back to the slot, or to the save area where another context owns the slot (R255). -/
def State.refill (s : State) (key : Nat) (area : List Byte) (ws : List Word) : State :=
  let info := ws.getD 6 0
  if !hfill key ws then s
  else
    let sl := 2 + b2n (bit info 24)
    let r := rankOf key
    let ck := coreOf key
    if (s.core ck).own sl = some (ctxNoOf key) then
      s.setSlotState r (s.seatNo r (coreNoOf key)) sl (bytesWords (area.take (4 * s.slen r sl)))
    else s.portW key (saveArea (ctxNoOf key) sl) area

/-- The context after the frame is restored. -/
def Ctx.restored (key : Nat) (c : Ctx) (ws : List Word) (irq : Bool) : Ctx :=
  let csw := ws.getD 1 0
  let fl := if irq then c.floors.headD (0, 0)
            else if c.elev = 2 then (c.h2.ofloor, c.h2.rfloor) else (c.h1.ofloor, c.h1.rfloor)
  let c1 := { c with st := .run, useq := none, wait := .none, wlen := 0, skip := false, brkSkip := false,
                     grp := { c.grp with flow := 0 }, pc := ws.getD 0 0,
                     os := c.os.drop (c.os.length - fl.1), rs := c.rs.drop (c.rs.length - fl.2),
                     ls := frameLoops key ws (bits csw 11 9), a := ws.getD 3 0, b := ws.getD 4 0,
                     faultaddr := ws.getD 5 0, cause := BitVec.ofNat 5 (bits (ws.getD 6 0) 12 8), lazy := bit csw 2,
                     ie := if isStw key then bit csw 1 else c.ie, msp := c.msp + 0x80,
                     hs := if irq then c.hs else c.hs.filter (fun h => decide (h.lvl ≠ c.elev.toNat) || h.killed) }
  let c2 := c1.setPred (ws.getD 2 0)
  if irq then { c2 with floors := c.floors.drop 1 } else { c2 with elev := c.elev - 1 }

/-- EXCEPTION_RETURN: a context in RETURN reads its frame, checks it and goes back to the lower level; an uncorrectable word,
in the helper area too where it is filled, is a double fault (R250, R251, R255, 11 R343). A frame of vector 19 that fails its
checks is a steward fault of cause 5 (12 R370, 17 FLT_STW_CAUSE). -/
def execExceptionReturn (w : Who) (s : State) : Out :=
  let key := whoKey w
  let c := s.ctx key
  .next (if c.st ≠ .ret || !s.runs (coreDom (coreOf key)) || !s.levelQuiet key c.elev.toNat then s
    else
      let f := c.msp.toNat
      match s.sequence key .rte with
      | (false, s) => s
      | (true, s) =>
      if !popOk key c.msp then s.dblFault key 5 18 0
      else match s.portBad key f 64 with
      | some x => s.raise key ⟨5, BitVec.ofNat 32 x, c.pc, false, false⟩
      | none =>
        match s.portR key f 64 with
        | (some x, _, s1) => s1.dblFault key 5 16 (BitVec.ofNat 32 x)
        | (none, bs, s1) =>
          let ws := bytesWords bs
          let irq := isStw key && decide (bits (ws.getD 6 0) 4 0 = 19)
          if !frameOk key c ws irq then (if irq then s1.stwFault (key - 1404) 5 else s1.dblFault key 4 18 0)
          else
            let (bad, area, s2) := if hfill key ws then s1.portR key (f + 0x40) 64 else (none, [], s1)
            match bad with
            | some x => s2.dblFault key 5 16 (BitVec.ofNat 32 x)
            | none => ((s2.refill key area ws).setCtx key (Ctx.restored key c ws irq)).boundary key)

/-! ### The turn cap (03 R95, R96; 08 R242) -/

/-- TURN_CAP_EXPIRY: TURN has reached cap + 1: vector 11, once per packet. A group that has issued retires first; a sleep is abandoned. -/
def execTurnCapExpiry (r : Rank) (c : CoreNo) (k : CtxNo) (s : State) : Out :=
  let key := pk r.val c.val k.val
  let cx := s.ctx key
  let cap := s.capOf r.val (s.mdOf key)
  .next (if cx.v11done || !s.runs r.val || (s.core (coreOf key)).halted || decide (cx.turn.toNat ≤ cap) then s
    else
      let s0 := s.count (rkA r.val 0x130)
      let c1 := { cx with v11done := true }
      let s1 := s0.setCtx key { c1 with v11pend := true }
      match cx.st with
      | .run =>
        if cx.elev = 2 || (cx.inGroup && !cx.held) then s1
        else (s0.setCtx key { c1 with wait := .none, grp := { cx.grp with left := 0, next := cx.pc } }).raise key
          ⟨11, BitVec.ofNat 32 (cap + 1), cx.pc, false, false⟩
      | .sleep => if cx.elev = 2 || decide (cx.wait = .engine) then s1 else s0.abandon key c1
      | .entry | .ret => s1
      | _ => s)

/-- TURN_HARD_LIMIT: TURN has reached cap + 128 and the packet has not ended: a double fault of KIND 6. -/
def execTurnHardLimit (r : Rank) (c : CoreNo) (k : CtxNo) (s : State) : Out :=
  let key := pk r.val c.val k.val
  let cx := s.ctx key
  let cap := s.capOf r.val (s.mdOf key)
  .next (if !s.runs r.val || (s.core (coreOf key)).halted || decide (cx.turn.toNat < cap + 128) then s
    else match cx.st with
      | .run | .sleep | .entry | .ret =>
        let s1 := s.orphanOps key
        s1.stopCtx key 6 11 (BitVec.ofNat 32 (cap + 1))
      | _ => s)

/-! ### The fault context (R257–R262) -/

/-- The words of a fault record for a stopped context: INFO, PC, ADDR, MSP, PKT, TURN. -/
def State.faultRec (s : State) (key : Nat) : List Word :=
  let c := s.ctx key
  let st := c.stop.getD ⟨0, 0, 0, 0, 0⟩
  let md := s.mdOf key
  let info := 2 ^ 31 + at_ st.kind 24 + at_ st.vec 19 + at_ c.elev.toNat 17 + at_ (ctxNoOf key) 12 + puntCodeOf st.kind
  [BitVec.ofNat 32 info, BitVec.ofNat 32 (st.pc.toNat % 65536), st.addr, c.msp,
   BitVec.ofNat 32 (at_ md.attempt.toNat 24 + at_ md.lane.toNat 16 + md.pip.toNat), st.turn.setWidth 32]

/-- Write the seat's registers where they are free, else set OVERRUN; COUNT rises. -/
def State.recordFault (s : State) (r seat : Nat) (ws : List Word) : Bool × State :=
  let a := rkA r (0x1000 + 0x20 * seat)
  let free := !bit (s.reg a) 31
  let s1 := if free then forEach (List.range 6) s (fun i s => s.setReg (a + 4 * i) (ws.getD i 0)) else s.orReg a (2 ^ 30)
  let n := (s1.reg (a + 0x18)).toNat
  (free, s1.setRegN (a + 0x18) (min (n + 1) 0xFFFF))

/-- The squash behind a double fault that an exception made before its entry began (R247 step 1). -/
def State.squashStopped (s : State) (r : Rank) (c : CoreNo) (k : CtxNo) : State :=
  let cx := s.ctx (pk r.val c.val k.val)
  match cx.exc, cx.stop with
  | some x, some t => if t.kind = 1 then s else s.squash (.pkt r c k) x
  | _, _ => s

/-- FAULT_CONTEXT_SERVICE: the oldest STOPPED context: its helper commands are killed and its lookups discarded, and
once its settling operations are acknowledged the record is written and the fault program starts, or, where the image
has none, the packet is punted and the context reset. On a halted core it waits; a halt that has only been requested waits for it
(18 R507). -/
def execFaultContextService (r : Rank) (c : CoreNo) (s : State) : Out :=
  let ck := r.val * 13 + c.val
  let co := s.core ck
  .next (match co.svc, co.stopq with
    | none, k :: rest =>
      let key := pk r.val c.val k
      if !s.runs r.val || (co.halted && !co.haltReq) || decide ((s.ctx key).st ≠ .stopped) || (s.opsOut key).any (fun o => o.kind = .upd || o.kind = .cas || o.kind = .unlock) then s
      else
        match s.sequence key .fltSteps with
        | (false, s) => s
        | (true, s) =>
        let s1 := (((s.squashStopped r c (Fin.ofNat 8 k)).killHelpers key (fun _ => true)).orphanOps key).drainCore ck
        let seat := s1.seatNo r.val c.val
        let ws := s1.faultRec key
        let (wrote, s2) := s1.recordFault r.val seat ws
        let cx := s2.ctx key
        let s3 := s2.spW ck 0x3A000 (wordBytes (ws ++ [depthsOf cx, cx.predWord]))
        let st := cx.stop.getD ⟨0, 0, 0, 0, 0⟩
        let s4 := s3.setCore ck { s3.core ck with svc := some k, svcRec := wrote, stopq := rest }
        let v := s4.vectorOf key 31
        if v = 0xFFFF then s4.faultEnd ck false
        else
          let fk := pk r.val c.val 8
          s4.setCtx fk { Ctx.init fk with st := .run, pc := v, cause := BitVec.ofNat 5 st.vec, faultaddr := st.addr }
    | _, _ => s)

/-- FAULT_PROGRAM_LIMIT: 256 cycles from its start the fault program ends with NESTED set (R259). -/
def execFaultProgramLimit (r : Rank) (c : CoreNo) (s : State) : Out :=
  let ck := r.val * 13 + c.val
  let fk := pk r.val c.val 8
  .next (if !s.runs r.val || (s.core ck).svc.isNone || decide ((s.ctx fk).fcycles < 256) then s
    else s.faultEnd ck true)

end Sys2Proof.Machine
end

