-- ==== Sys2Proof/Machine/Seats.lean ====
section
/-! DEFINITION. Seats: machine checks, core retirement and replay, the reserve, rotation, microcode patches (11
R346–R356, 17 R468–R475). -/

namespace Sys2Proof.Machine

/-! ### The map of cores (17 R472) -/

/-- RANK_CORE_MAP of a rank. -/
def coreMap (r : Nat) : Nat := rkA r 0x3024

/-- RANK_CORE_MAP names the core in seat 12. -/
def State.mapReserve (s : State) (r : Nat) : State := s.setFld (coreMap r) 19 16 ((s.seatCore r 12).getD 15)

/-- Put a core (15: none) in a seat. -/
def State.putSeat (s : State) (r t c : Nat) : State :=
  let x := s.rank r
  (s.setRank r { x with seats := lset x.seats t c }).mapReserve r

/-- The rank has a reserve that no replacement is about to use. -/
def State.hasReserve (s : State) (r : Nat) : Bool := (s.seatCore r 12).isSome && (s.rank r).repl.isEmpty

/-! ### Replay (03 R83, 04 R132) -/

/-- ATTEMPT of the next replay: 15 stays 15 (17 R489). -/
def nextAttempt (a : BitVec 4) : BitVec 4 := if a = 15 then 15 else a + 1

/-- The packet of entry `i` is replayed: DISCARD for its old key, and the packet as received waits in the replay class. A packet
whose bad verdict came while the fault context had it (04 R130) is forfeited in place of its replay (17 R489): its FORFEIT has been
sent, its chain is freed and its mark recorded. -/
def State.replay (s : State) (r i : Nat) : State :=
  match tfind (s.rank r).entries i with
  | none => s
  | some e =>
    let s1 := s.lmsg r (.discard e.md.lane e.md.pip e.md.attempt)
    let x := s1.rank r
    if e.md.verdict = 2 then
      let s2 := (freeChain (0x10 + r) e.md s1).addMark r (markOf e.md) e.md.reinj (some i)
      s2.setRank r ((s2.rank r).settle 512)
    else
    let md := { e.pkt.md with attempt := nextAttempt e.md.attempt }
    (s1.setRank r { x with entries := tset x.entries i { e with md := md, phase := .queued, cls := 0, seq := x.seqNo, reps := [] },
                           seqNo := x.seqNo + 1 }).count (rkA r 0x1A8)

/-- Entries whose packet holds a context of core `c`. -/
def RankSt.heldOn (x : RankSt) (c : Nat) : List (Nat × Nat) :=
  x.entries.filterMap (fun e => match e.2.phase with
    | .inCtx c' k _ => if c' = c then some (e.1, k) else none
    | _ => none)

/-! ### Retirement (17 R469) -/

/-- The fault service of a core is abandoned: a record it has written stays, with PUNT_CODE 0x00 (08 R261, R262). -/
def State.dropService (s : State) (r c : Nat) : State :=
  let ck := r * 13 + c
  let co := s.core ck
  if co.svc.isNone then s
  else
    let s1 := s.spW ck 0x3A000 [0]
    if co.svcRec then s1.clrReg (rkA r (0x1000 + 0x20 * s.seatNo r c)) 0xFF else s1

/-- The clear, the test and the steward access of core `c` in its seat end with it, and the seat's owners and status are those
of an empty seat (log entry 101). -/
def State.dropSeatWork (s : State) (r c : Nat) : State :=
  let t := s.seatNo r c
  let s1 := ((s.endDue r (32 + c)).endDue r (64 + c)).endDue r (16 + t)
  (s1.setReg (spOwn r t) 0).setReg (spSt r t) 0

/-- The core stops: its contexts and its fault context lose all they hold, and their packets are replayed. -/
def State.stopCore (s : State) (r c : Nat) : State :=
  let ck := r * 13 + c
  let held := (s.rank r).heldOn c
  let s1 := forEach (List.range 8) ((s.dropService r c).dropSeatWork r c) (fun k s => s.freeCtx (pk r c k))
  let s2 := s1.setCtx (pk r c 8) (Ctx.init (pk r c 8))
  let co := s2.core ck
  let s3 := s2.setCore ck { co with retired := true, own2 := none, own3 := none, res2 := none, res3 := none, sbuf := [],
                                    beq := [], stopq := [], svc := none, svcRec := false, wdog := 0, stepCtx := none, halted := false, haltReq := false, haltCy := 0,
                                    bgt := none, h0 := [], h1 := [], wb := [], mcheck := none }
  forEach held s3 (fun e s => s.replay r e.1)

/-- A rotation ends early or its reserve is lost: REFUSED with a reason (R356). -/
def State.seatRefuse (s : State) (r reason : Nat) : State :=
  (s.setFld (rkA r 0x3004) 29 29 1).setFld (rkA r 0x3004) 28 26 reason

/-- What the loss of seat `t` does to a rotation and to the reserve: a drain of that seat ends with REASON 6; the loss of
the reserve's core leaves the drained seat drained, with REASON 5, and ends a replacement under way. -/
def State.seatLost (s : State) (r t : Nat) : State :=
  let x := s.rank r
  if t = 12 then
    let s1 := (s.setRank r { x with rot := if x.rot = 3 then 2 else x.rot, repl := [] }).endDue r 0
    if x.rot ≠ 0 then s1.seatRefuse r 5 else s1
  else if x.rot ≠ 0 ∧ x.rotSeat = t then ((s.setRank r { x with rot := 0 }).endDue r 0).seatRefuse r 6
  else if x.rot = 0 ∧ x.repl.isEmpty ∧ (s.seatCore r 12).isSome then
    (s.setRank r { x with repl := [t] }).setDue r 0 (s.rankAfter r 1104)
  else s

/-- Core `c` of rank `r` is retired. Step 6 sets RETIRE and NORSV at every retirement (log entry 36). -/
def State.retire (s : State) (r c : Nat) : State :=
  match s.seatOf r c with
  | none => s
  | some t =>
    if (s.core (r * 13 + c)).retired then s
    else
      let s1 := (((s.stopCore r c).putSeat r t 15).orReg (coreMap r) (2 ^ c)).seatLost r t
      let s2 := (s1.orReg (rkA r 0x3020) 3).count (rkA r 0x1A0)
      { s2 with stkErr := s2.stkErr.filter (fun k => decide (coreOf (k / 4) ≠ r * 13 + c)) }

/-! ### Machine checks (11 R353) -/

/-- A machine check on core `c`: logged, counted, the core retired. -/
def State.machineCheck (s : State) (r c cause uaddr : Nat) : State :=
  let t := s.seatNo r c
  ((s.logAdd (rkA r 0x3008) 4 (2 ^ 31 + at_ t 24 + at_ cause 20 + uaddr)).count (rkA r 0x198)).retire r c

/-- The check of seat 12's store by R355 or 17 R469 is under way on core `c`. -/
def State.storeCheck (s : State) (r c : Nat) : Bool :=
  decide (s.seatCore r 12 = some c) && (decide ((s.rank r).rot = 3) || !(s.rank r).repl.isEmpty)

/-- A machine check of this cause at this micro-address can come now on core `ck`: the one that its sequencer has found, or the
bad parity of a word or map entry read there, which no row of the table makes in advance (log entry 13). -/
def State.checkDue (s : State) (ck : Nat) (cause : Nat) (uaddr : Nat) : Bool :=
  decide ((s.core ck).mcheck = some (cause, uaddr)) ||
  ((s.core ck).mcheck.isNone &&
    (decide (cause = 1 ∧ uaddr < 768) || decide (cause = 2 ∧ 768 ≤ uaddr) || decide (cause = 3)))

/-- MACHINE_CHECK: the sequencer of a core finds one of the causes 1–6, or the check of its store fails with cause 7. -/
def execMachineCheck (m : McTarget) (cause : Fin 16) (uaddr : BitVec 10) (s : State) : Out :=
  .next (match m with
    | .core r c =>
      if !s.runs r.val || !s.seated r.val c.val then s
      else if cause.val = 7 then (if s.storeCheck r.val c.val then s.machineCheck r.val c.val 7 0 else s)
      else if s.checkDue (r.val * 13 + c.val) cause.val uaddr.toNat then s.machineCheck r.val c.val cause.val uaddr.toNat
      else s
    | .stw i =>
      if !s.runs dStw || !(s.stwd i.val).started || (s.stwd i.val).faulted ||
          !s.checkDue (156 + i.val) cause.val uaddr.toNat then s
      else s.stwFault i.val 4)

/-- CORE_WATCHDOG_EXPIRY: 4096 cycles without an issued group; not while the fault context has work, a stopped context that waits
for it among it (17 R468). -/
def execCoreWatchdogExpiry (r : Rank) (c : CoreNo) (s : State) : Out :=
  let co := s.core (r.val * 13 + c.val)
  .next (if !s.runs r.val || !s.seated r.val c.val || decide (co.wdog < 4096) || co.halted || co.svc.isSome || !co.stopq.isEmpty then s
    else s.retire r.val c.val)

/-- RETIRED_CORE_GATED: a retired core whose last slot is unbound is clock-gated (17 R470). -/
def execRetiredCoreGated (r : Rank) (c : CoreNo) (s : State) : Out :=
  let ck := r.val * 13 + c.val
  let co := s.core ck
  .next (if !s.runs r.val || !co.retired || co.gated || (s.rank r.val).boundOn c.val then s
    else s.setCore ck { co with gated := true })

/-! ### The reserve takes a seat (17 R469 steps 4 and 5, 11 R355 steps 3 to 5) -/

/-- The control store and the map of core `ck` pass their parity check. -/
def State.storeGood (s : State) (ck : Nat) : Bool := !s.csErr.any (fun w => decide (w / 2048 = ck))

/-- The bank owners, the tests, the steward accesses and what the block keeps for seats 12 and `t` change places with their
cores. -/
def State.swapSeats (s : State) (r t : Nat) : State :=
  let sw := fun (f : Nat → Nat) (u : State) => (u.setReg (f t) (s.reg (f 12))).setReg (f 12) (s.reg (f t))
  let s1 := forEach (List.range 7) (sw (spSt r) (sw (spOwn r) s)) (fun i u => sw (fun j => spHid r j i) u)
  let put := fun (k : Nat) (d : Option Nat) (u : State) => match d with | some v => u.setDue r k v | none => u.endDue r k
  put 28 (tfind (s.rank r).due (16 + t)) (put (16 + t) (tfind (s.rank r).due 28) s1)

/-- The core of seat 12 takes seat `t`, with the bank owners, the tests and the steward access of seat 12; those of the seat's
last core, if it has one, go to seat 12. -/
def State.seatReserve (s : State) (r t : Nat) : State :=
  match s.seatCore r 12 with
  | none => s
  | some c => ((s.putSeat r 12 15).putSeat r t c).swapSeats r t

/-- RESERVE_TAKES_SEAT: the check of seat 12 that follows a retirement ends. -/
def execReserveTakesSeat (r : Rank) (s : State) : Out :=
  let r := r.val
  .next (match (s.rank r).repl, s.seatCore r 12 with
    | t :: _, some c =>
      if !s.runs r || !s.dueNow r 0 then s
      else if s.storeGood (r * 13 + c) then
        let s1 := s.endDue r 0
        (s1.setRank r { s1.rank r with repl := [] }).seatReserve r t
      else s.machineCheck r c 7 0
    | _, _ => s)

/-! ### The micro-patch of the program library (12 R367) -/

/-- The micro-patch of the packet cores. -/
abbrev libPatch : Nat := 0xC1000

/-- The 256 patch words and 32 map entries of a micro-patch at byte `a` of the shared SRAM. -/
def State.libWords (s : State) (a : Nat) : Tab (BitVec 96) := (List.range 256).map (fun i => (i, BitVec.ofNat 96 (s.srN (a + 12 * i) 12)))
def State.libMap (s : State) (a : Nat) : Tab Word := (List.range 32).map (fun i => (i, BitVec.ofNat 32 (s.srN (a + 3072 + 4 * i) 4)))

/-- The library's micro-patch goes into a packet core; a level of 0 is no patch. -/
def State.libMicro (s : State) (ck : Nat) : State :=
  let lv := s.srN (libPatch + 3200) 2
  let co := s.core ck
  let s1 := if lv = 0 then s.setCore ck { co with patch := [], pmap := [], plevel := 0 }
    else s.setCore ck { co with patch := s.libWords libPatch, pmap := s.libMap libPatch, plevel := BitVec.ofNat 16 lv }
  { s1 with csErr := s1.csErr.filter (fun w => !(decide (w / 2048 = ck) && decide (768 ≤ w % 2048))) }

/-- A rotation of rank `r` needs the library's patch: it has one, of a later level than the core of seat 12 runs (log entry
102). -/
def State.needsPatch (s : State) (ck : Nat) : Bool := decide ((s.core ck).plevel.toNat < s.srN (libPatch + 3200) 2)

/-- The block reads the library where the rotation needs its patch, and patches the core of seat 12. -/
def State.patchReserve (s : State) (r : Nat) : State :=
  let ck := s.seatKey r 12
  if s.isOn dStw && s.needsPatch ck then (s.srSweep libPatch 3208).libMicro ck else s

/-! ### Rotation (11 R355, R356) -/

/-- A RANK_SEAT_CMD write of SEAT `t` that is refused with a reason, or accepted with 0. -/
def State.seatStatus (s : State) (r t reason : Nat) : State :=
  s.setRegN (rkA r 0x3004) (at_ (b2n (reason ≠ 0)) 29 + at_ reason 26 + t)

/-- OP 1. A seat that holds no core is refused as retired (log entry 37). -/
def State.seatDrain (s : State) (r t : Nat) : State :=
  let x := s.rank r
  let reason := if x.rot ≠ 0 then 1 else if !s.hasReserve r then 2 else if 11 < t then 3
    else if (s.seatCore r t).isNone then 6 else 0
  let s1 := s.seatStatus r t reason
  if reason ≠ 0 then s1 else s1.setRank r { x with rot := 1, rotSeat := t }

/-- SEAT_DRAIN. -/
def execSeatDrain (q : Req) (r : Rank) (t : Fin 16) (s : State) : Out :=
  .next (s.writeCmd q (rkA r.val 0x3000) (fun s => s.seatDrain r.val t.val))

/-- SEAT_DRAINED: every context of the seat is FREE and no slot is bound; of a halted seat only after its resume (18 R507). -/
def execSeatDrained (r : Rank) (s : State) : Out :=
  let x := s.rank r.val
  .next (match s.seatCore r.val x.rotSeat with
    | none => s
    | some c =>
      if !s.runs r.val || x.rot ≠ 1 || (s.core (r.val * 13 + c)).halted || (List.range 8).any (fun k => (s.ctx (pk r.val c k)).st ≠ .free) || x.boundOn c then s
      else s.setRank r.val { x with rot := 2 })

/-- OP 2: the core of seat 12 takes the library's patch where it needs it (12 R367), and the check of seat 12 begins. -/
def State.seatRotate (s : State) (r t : Nat) : State :=
  let x := s.rank r
  let reason := if x.rot = 3 then 1 else if x.rot ≠ 2 ∨ x.rotSeat ≠ t then 4 else if (s.seatCore r 12).isNone then 2 else 0
  let s1 := s.seatStatus r t reason
  if reason ≠ 0 then s1 else ((s1.setRank r { x with rot := 3 }).patchReserve r).setDue r 0 (s.rankAfter r 1040)

/-- SEAT_ROTATE. -/
def execSeatRotate (q : Req) (r : Rank) (t : Fin 16) (s : State) : Out :=
  .next (s.writeCmd q (rkA r.val 0x3000) (fun s => s.seatRotate r.val t.val))

/-- The drained core `c`, now in seat 12, is cleared: a full test or a steward access that it has under way goes on, and the
results of its last ones stay (R338, R342). A handover that is still pending (PEND) is dropped: the banks are MOVER's, then CORE's (R334 is
silent; the model's choice, log entry 127). -/
def State.clearReserve (s : State) (r c : Nat) : State := (s.startClear r c).orReg (spSt r 12) ((s.reg (spSt r 12)).toNat &&& 0x7C000000)

/-- SEAT_ROTATION_COMPLETE: the reserve takes the seat and the drained core becomes seat 12 and is cleared; a failed check
is a machine check on the core of seat 12. -/
def execSeatRotationComplete (r : Rank) (s : State) : Out :=
  let r := r.val
  let x := s.rank r
  .next (match s.seatCore r 12, s.seatCore r x.rotSeat with
    | some n, some c =>
      if !s.runs r || x.rot ≠ 3 || !s.dueNow r 0 then s
      else if !s.storeGood (r * 13 + n) then s.machineCheck r n 7 0
      else
        let s1 := s.endDue r 0
        (((s1.setRank r { s1.rank r with rot := 0 }).seatReserve r x.rotSeat).putSeat r 12 c).clearReserve r c
    | _, _ => s)

/-- OP 3: the rotation is cancelled and selection resumes; with no rotation in progress it does nothing. -/
def State.seatCancel (s : State) (r t : Nat) : State :=
  let s1 := s.seatStatus r t 0
  let x := s1.rank r
  if x.rot = 0 then s1 else (s1.setRank r { x with rot := 0 }).endDue r 0

/-- SEAT_CANCEL. -/
def execSeatCancel (q : Req) (r : Rank) (t : Fin 16) (s : State) : Out :=
  .next (s.writeCmd q (rkA r.val 0x3000) (fun s => s.seatCancel r.val t.val))

/-! ### Patches (11 R350, R354) -/

/-- RANK_MC_STATUS of a seat. -/
def mcSt (r t : Nat) : Nat := rkA r (0x311C + 0x40 * t)

/-- RANK_MC_PATCH_DATA`i` of a seat. -/
def mcData (r t i : Nat) : Nat := rkA r (0x3124 + 0x40 * t + 4 * i)

/-- MAP and INDEX of RANK_MC_PATCH_ADDR. -/
def State.mcMap (s : State) (r t : Nat) : Bool := bit (s.reg (rkA r (0x3120 + 0x40 * t))) 31
def State.mcIdx (s : State) (r t : Nat) : Nat := s.fld (rkA r (0x3120 + 0x40 * t)) 7 0

/-- The reason for which a patch command on seat `t` is refused; `op` 1 has two more. -/
def State.mcReason (s : State) (r t op : Nat) : Nat :=
  if t ≠ 12 ∨ !s.hasReserve r then 1
  else if (s.rank r).rot ≠ 0 then 2
  else if op = 1 ∧ s.mcMap r t then
    let w := s.reg (mcData r t 0)
    let pm := (s.core (s.seatKey r t)).pmap
    if bit w 31 ∧ pm.any (fun e => decide (e.1 ≠ s.mcIdx r t) && bit e.2 31 && decide (bits e.2 25 16 = bits w 25 16)) then 3
    else if 767 < bits w 25 16 then 4
    else 0
  else 0

/-- A patch command: `f` where it is not refused. -/
def State.mcCmd (s : State) (r t op : Nat) (f : State → Nat → Core → State) : State :=
  let n := s.mcReason r t op
  let s1 := s.setRegN (mcSt r t) (at_ (b2n (n ≠ 0)) 30 + at_ n 27)
  let ck := s.seatKey r t
  if n ≠ 0 then s1 else f s1 ck (s1.core ck)

/-- OP 1: a word or an entry from DATA, with good parity. A map index above 31 names no entry. -/
def State.mcWrite (s : State) (r t : Nat) (ck : Nat) (co : Core) : State :=
  let i := s.mcIdx r t
  if s.mcMap r t then
    if 31 < i then s
    else
      let s1 := s.setCore ck { co with pmap := tset co.pmap i (s.reg (mcData r t 0) &&& 0x83FF00FF) }
      { s1 with csErr := s1.csErr.filter (fun w => w ≠ ck * 2048 + 1024 + i) }
  else
    let w := s.reg (mcData r t 2) ++ s.reg (mcData r t 1) ++ s.reg (mcData r t 0)
    let s1 := s.setCore ck { co with patch := tset co.patch i w }
    { s1 with csErr := s1.csErr.filter (fun w => w ≠ ck * 2048 + 768 + i) }

/-- OP 2: a word or an entry into DATA. -/
def State.mcRead (s : State) (r t : Nat) (_ck : Nat) (co : Core) : State :=
  let i := s.mcIdx r t
  if s.mcMap r t then (if 31 < i then s else s.setReg (mcData r t 0) (tget 0 co.pmap i))
  else
    let w := tget 0 co.patch i
    ((s.setReg (mcData r t 0) (w.setWidth 32)).setReg (mcData r t 1) ((w >>> 32).setWidth 32)).setReg (mcData r t 2)
      ((w >>> 64).setWidth 32)

/-- The command register of a seat's patch registers. -/
def mcCmdA (r t : Nat) : Nat := rkA r (0x3130 + 0x40 * t)

/-- MC_PATCH_WRITE. -/
def execMcPatchWrite (q : Req) (r : Rank) (t : Seat) (s : State) : Out :=
  .next (s.writeCmd q (mcCmdA r.val t.val) (fun s => s.mcCmd r.val t.val 1 (fun s ck co => s.mcWrite r.val t.val ck co)))

/-- MC_PATCH_READ. -/
def execMcPatchRead (q : Req) (r : Rank) (t : Seat) (s : State) : Out :=
  .next (s.writeCmd q (mcCmdA r.val t.val) (fun s => s.mcCmd r.val t.val 2 (fun s ck co => s.mcRead r.val t.val ck co)))

/-- OP 3: LEVEL from DATA0[15:0]. -/
def State.mcLevel (s : State) (r t ck : Nat) (co : Core) : State :=
  s.setCore ck { co with plevel := (s.reg (mcData r t 0)).setWidth 16 }

/-- OP 4: every map entry becomes invalid, with good parity, LEVEL 0. -/
def State.mcDrop (s : State) (ck : Nat) (co : Core) : State :=
  let s1 := s.setCore ck { co with pmap := tmap co.pmap (fun _ w => w &&& 0x7FFFFFFF), plevel := 0 }
  { s1 with csErr := s1.csErr.filter (fun w => decide (w / 2048 ≠ ck) || decide (w % 2048 < 1024)) }

/-- MC_PATCH_SET_LEVEL. -/
def execMcPatchSetLevel (q : Req) (r : Rank) (t : Seat) (s : State) : Out :=
  .next (s.writeCmd q (mcCmdA r.val t.val) (fun s => s.mcCmd r.val t.val 3 (fun s ck co => s.mcLevel r.val t.val ck co)))

/-- MC_PATCH_INVALIDATE. -/
def execMcPatchInvalidate (q : Req) (r : Rank) (t : Seat) (s : State) : Out :=
  .next (s.writeCmd q (mcCmdA r.val t.val) (fun s => s.mcCmd r.val t.val 4 (fun s ck co => s.mcDrop ck co)))

end Sys2Proof.Machine
end

