-- ==== Sys2Proof/Machine/Stewards.lean ====
section
/-! DEFINITION. Stewards: semaphores, the interrupt controller, interrupt entry, waits, steward faults and restarts (12,
17 R477–R479). -/

namespace Sys2Proof.Machine

/-- The context key and the core key of a steward. -/
def stwKey (i : Nat) : Nat := 1404 + i
def stwCore (i : Nat) : Nat := 156 + i

/-! ### Sources (R373) -/

/-- Rank `r` has a fault to report (17 R475). -/
def State.rankSrc (s : State) (r : Nat) : Bool :=
  (List.range 13).any (fun t => bit (s.reg (rkA r (0x1000 + 0x20 * t))) 31) ||
  !(s.log (rkA r 0x3008)).ents.isEmpty || !(s.log (rkA r 0x300C)).ents.isEmpty || !(s.log (rkA r 0x3010)).ents.isEmpty ||
  bit (s.reg (swA 0x14)) r || decide (s.reg (rkA r 0x3020) ≠ 0) ||
  (s.isOn r && decide ((List.range 12).countP (fun t => (s.seatCore r t).isSome) < 12))

/-- Source `n` is pending. -/
def State.srcPend (s : State) (n : Nat) : Bool :=
  if n < 12 then s.rankSrc n
  else if n < 24 then !(s.log (rkA (n - 12) 0x2090)).ents.isEmpty
  else if n < 56 then decide (s.fld (tbA (0x100 + 4 * (n - 24))) 1 0 ≠ 0)
  else if n < 71 then bit (s.reg (tbA 0x90)) (n - 56)
  else if n < 79 then
    let w := s.reg (bufA 0x24)
    let p := n - 71
    bit w p || bit w (8 + p) || bit w (16 + p)
  else if n < 85 then bit (s.reg (bufA 0x28)) (n - 79)
  else if n < 87 then false
  else if n < 103 then decide (s.reg (inA (0x200 + 8 * (n - 87))) ≠ 0) || decide (s.reg (inA (0x204 + 8 * (n - 87))) ≠ 0)
  else if n < 110 then bit (s.reg (pmA 0x500)) (n - 103)
  else if n < 111 then false
  else if n < 115 then bit (s.reg (tmA 0x38)) (n - 111)
  else if n = 115 then decide (s.reg (swA 0x320) ≠ 0)
  else if n < 120 then (s.stwd (n - 116)).frozen
  else if n < 124 then bit (s.reg (cfA 0x38)) (n - 120)
  else if n < 240 then false
  else s.ic.latches.getLsbD (n - 240)

/-- LEVEL, TARGET and MOD of a source. -/
def State.srcCfg (s : State) (n : Nat) : Word := s.reg (icA (0x1000 + 4 * n))
def State.srcLevel (s : State) (n : Nat) : Nat := bits (s.srcCfg n) 3 0
def State.srcTarget (s : State) (n i : Nat) : Bool := bit (s.srcCfg n) (8 + i)
def State.srcMod (s : State) (n : Nat) : Nat := bits (s.srcCfg n) 25 16

/-- The source is masked. -/
def State.srcMask (s : State) (n : Nat) : Bool := bit (s.reg (icA (4 * (n / 32)))) (n % 32)

/-- Pending, unmasked, of a level other than 0. -/
def State.srcReady (s : State) (n : Nat) : Bool := s.srcPend n && !s.srcMask n && decide (s.srcLevel n ≠ 0)

/-- The source is held by moderation (R380). -/
def State.srcHeld (s : State) (n : Nat) : Bool := (tfind s.ic.timers n).isSome

/-- The source is deliverable (R375). -/
def State.deliverable (s : State) (n : Nat) : Bool := s.srcReady n && !s.srcHeld n

/-! ### Stewards as targets -/

/-- The running level of a steward. -/
def State.running (s : State) (i : Nat) : Nat := (s.stwd i).prio.headD 0

/-- The steward is eligible (R375). -/
def State.stwEligible (s : State) (i : Nat) : Bool :=
  let x := s.stwd i
  s.isOn dStw && x.started && !x.faulted && !x.frozen && !(s.core (stwCore i)).halted

/-- The steward sleeps in WAIT. -/
def State.inWait (s : State) (i : Nat) : Bool :=
  let c := s.ctx (stwKey i)
  decide (c.st = .sleep) && (match c.wait with | .timer _ _ => true | _ => false)

/-- The steward a source is bound to. -/
def State.boundTo (s : State) (n : Nat) : Option Nat := tfind s.ic.bind n

/-- D: the highest level delivered to a steward (R377). -/
def State.dlvLevel (s : State) (i : Nat) : Nat :=
  s.ic.bind.foldl (fun m e => if e.2 = i && s.deliverable e.1 then max m (s.srcLevel e.1) else m) 0

/-- IC_THRESH of a steward. -/
def State.thresh (s : State) (i : Nat) : Nat := s.fld (icA (0x108 + 0x40 * i)) 3 0

/-- D exceeds the steward's running level and its threshold (R369, R372). -/
def State.irqDue (s : State) (i : Nat) : Bool :=
  decide (s.running i < s.dlvLevel i) && decide (s.thresh i < s.dlvLevel i)

/-! ### Routing (R376, R380, R381) -/

/-- The controller's view at a CK_STW edge: a source that has stopped being pending starts its moderation timer, and
bindings that have ended go. -/
def State.icSample (s : State) : State :=
  let pend := (List.range 256).filter s.srcPend
  let s1 := forEach (s.ic.lastPend.filter (fun n => !pend.contains n && decide (s.srcMod n ≠ 0))) s (fun n s =>
    { s with ic := { s.ic with timers := tset s.ic.timers n (1000 * s.srcMod n) } })
  { s1 with ic := { s1.ic with lastPend := pend, bind := tkeep s1.ic.bind (fun n i => s1.deliverable n && s1.stwEligible i) } }

/-- The target of a source among the stewards that `p` accepts: the lowest running level, ties to the first after the
steward chosen last. -/
def State.pickStw (s : State) (n : Nat) (p : Nat → Bool) : Option Nat :=
  let order := (List.range 4).map (fun j => (s.ic.lastStw + 1 + j) % 4)
  (order.filter (fun i => s.stwEligible i && s.srcTarget n i && p i)).foldl (fun b i =>
    match b with
    | none => some i
    | some j => if s.running i < s.running j then some i else b) none

/-- The steward a source goes to, if it can be bound now: a held source only to a steward in WAIT. -/
def State.route (s : State) (n : Nat) : Option Nat :=
  if (s.boundTo n).isSome || !s.srcReady n then none
  else if s.srcHeld n then s.pickStw n s.inWait
  else s.pickStw n (fun _ => true)

/-- INTERRUPT_BIND: the first source that can be bound is bound. -/
def execInterruptBind (s : State) : Out :=
  .next (if !s.runs dStw then s
    else
      let s1 := s.icSample
      match (List.range 256).find? (fun n => (s1.route n).isSome) with
      | none => s1
      | some n => match s1.route n with
        | none => s1
        | some i => { s1 with ic := { s1.ic with bind := tset s1.ic.bind n i, timers := tdel s1.ic.timers n, lastStw := i } })

/-- MODERATION_EXPIRY: the timer of a source runs out. -/
def execModerationExpiry (n : Byte) (s : State) : Out :=
  .next (match tfind s.ic.timers n.toNat with
    | none => s
    | some t =>
      if !s.runs dStw || t ≠ 0 then s
      else { s with ic := { s.ic with timers := tdel s.ic.timers n.toNat } })

/-- STEWARD_INTERRUPT_ENTRY: vector 19 at an instruction boundary, once the last group issued has retired (R369, 08 R247). With 15 interrupt frames the floor stack has no
room, and the entry is not taken (log entry 38). At ELEV 2 step 1 of 08 R247 makes it a double fault, which on a steward is a
steward fault (R371). -/
def execStewardInterruptEntry (i : StwNo) (s : State) : Out :=
  let key := stwKey i.val
  let s1 := s.icSample
  let c := s1.ctx key
  .next (if !s.canIssue key || !c.ie || !s1.irqDue i.val || decide (15 ≤ c.floors.length) || c.inGroup then s
    else if c.elev = 2 then s1.stwFault i.val 1
    else match s1.sequence key .excEntry with
      | (false, s2) => s2
      | (true, s2) => s2.enter key c ⟨19, 0, c.pc, false, false⟩)

/-! ### Waits (06 R200, 12 R372) -/

/-- WAIT, which a wake condition that holds already ends at once (R382). -/
def waitOr (s : State) (key : Nat) (c : Ctx) : R :=
  if isStw key && s.icSample.irqDue (key - 1404) then stackOp 1 0 (fun _ => []) s key c else wait s key c

/-- WAIT. -/
def execWait (x : Iss) (s : State) : Out := .next (s.issue x .plain 1 true waitOr)

/-- WAIT_EXPIRY: the count of a WAIT has ended, or an interrupt wakes a steward. -/
def execWaitExpiry (w : Who) (s : State) : Out :=
  let key := whoKey w
  let c := s.ctx key
  .next (if c.st ≠ .sleep || !s.runs (coreDom (coreOf key)) || s.heldEv key then s
    else match c.wait with
      | .timer n forever =>
        let woken := match w with
          | .stw i => s.icSample.irqDue i.val
          | _ => false
        if (n = 0 && !forever) || woken then s.complete key { c with os := c.os.drop 1 } (c.pc + BitVec.ofNat 32 c.wlen) else s
      | _ => s)

/-! ### The priority stack (R378, R379) -/

/-- A priority-stack fault. -/
def State.freeze (s : State) (i cause lvl : Nat) : State :=
  (s.setStw i { s.stwd i with frozen := true, fcause := cause, flevel := lvl }).count (swA 0x230)

/-- An IC_ENTER write of a level to the steward's own register. -/
def State.icPush (s : State) (i lvl : Nat) : State :=
  let x := s.stwd i
  if x.frozen then s
  else if 1 ≤ lvl ∧ s.running i < lvl then s.setStw i { x with prio := lvl :: x.prio }
  else s.freeze i 1 lvl

/-- An IC_EOI write. -/
def State.icPop (s : State) (i lvl : Nat) : State :=
  let x := s.stwd i
  if x.frozen then s
  else match x.prio with
    | t :: rest => if t = lvl then s.setStw i { x with prio := rest } else s.freeze i 2 lvl
    | [] => s.freeze i 2 lvl

/-- IC_ENTER: only the steward's own write acts. -/
def execIcEnter (q : Req) (i : StwNo) (lvl : Fin 16) (s : State) : Out :=
  .next (s.writeCmd q (icA (0x100 + 0x40 * i.val)) (fun s => if reqStw q = some i.val then s.icPush i.val lvl.val else s))

/-- IC_EOI. -/
def execIcEoi (q : Req) (i : StwNo) (lvl : Fin 16) (s : State) : Out :=
  .next (s.writeCmd q (icA (0x104 + 0x40 * i.val)) (fun s => if reqStw q = some i.val then s.icPop i.val lvl.val else s))

/-- The priority stack of steward `i` is empty and not frozen. -/
def State.stkInit (s : State) (i : Nat) : State :=
  s.setStw i { s.stwd i with prio := [], frozen := false, fcause := 0, flevel := 0 }

/-- IC_STK_INIT: a write of 1 by any steward. -/
def execIcStkInit (q : Req) (i : StwNo) (s : State) : Out :=
  .next (s.writeCmd q (icA (0x10C + 0x40 * i.val)) (fun s => s.stkInit i.val))

/-! ### Masks, latches, configuration (R374, R376) -/

/-- IC_MASK_SET. -/
def execIcMaskSet (q : Req) (k : Fin 8) (w : Word) (s : State) : Out :=
  .next (s.writeCmd q (icA (0x20 + 4 * k.val)) (fun s => s.setReg (icA (4 * k.val)) (s.reg (icA (4 * k.val)) ||| w)))

/-- IC_MASK_CLR. -/
def execIcMaskClr (q : Req) (k : Fin 8) (w : Word) (s : State) : Out :=
  .next (s.writeCmd q (icA (0x40 + 4 * k.val)) (fun s => s.setReg (icA (4 * k.val)) (s.reg (icA (4 * k.val)) &&& ~~~ w)))

/-- A write of IC_PEND_SET: the host sets latches 240–247, a steward 248–255. -/
def State.icPendSet (s : State) (q : Req) (w : Half) : State :=
  let m : BitVec 16 := match q with | .stw _ => 0xFF00 | _ => 0x00FF
  { s with ic := { s.ic with latches := s.ic.latches ||| (w &&& m) } }

/-- A write of IC_PEND_CLR: a steward clears latches. -/
def State.icPendClr (s : State) (w : Half) : State := { s with ic := { s.ic with latches := s.ic.latches &&& ~~~ w } }

/-- IC_PEND_SET. -/
def execIcPendSet (q : Req) (w : Half) (s : State) : Out := .next (s.writeCmd q (icA 0x80) (fun s => s.icPendSet q w))

/-- IC_PEND_CLR. -/
def execIcPendClr (q : Req) (w : Half) (s : State) : Out := .next (s.writeCmd q (icA 0x84) (fun s => s.icPendClr w))

/-- The bits of IC_SRC_CFG. -/
abbrev srcCfgMask : Word := 0x03FF0F0F

/-- IC_SRC_CFG_WRITE: a binding ends where the bound steward leaves TARGET or LEVEL changes. -/
def State.srcWrite (s : State) (n : Nat) (w : Word) : State :=
  let old := s.srcLevel n
  let s1 := s.setReg (icA (0x1000 + 4 * n)) (w &&& srcCfgMask)
  { s1 with ic := { s1.ic with bind := tkeep s1.ic.bind (fun k i => k ≠ n || (s1.srcTarget n i && decide (s1.srcLevel n = old))) } }

/-- IC_SRC_CFG_WRITE. -/
def execIcSrcCfgWrite (q : Req) (n : Byte) (w : Word) (s : State) : Out :=
  .next (s.writeCmd q (icA (0x1000 + 4 * n.toNat)) (fun s => s.icSample.srcWrite n.toNat w))

/-- IC_HOST_DB_SET: a steward notifies the host (R383). -/
def execIcHostDbSet (q : Req) (b : Byte) (s : State) : Out :=
  .next (s.writeCmd q (icA 0x88) (fun s => s.orReg (icA 0x8C) b.toNat))

/-- BLK_IRQ. -/
def State.blkIrq (s : State) : Bool := s.isOn dStw && decide (s.reg (icA 0x8C) ≠ 0)

/-! ### Semaphores (R366) -/

/-- A functional read of STW_SEM`i`: a steward claims a free one. -/
def State.semRead (s : State) (q : Req) (i : Nat) : Word × State :=
  let own := tget 0 s.sems i
  match q with
  | .stw t =>
    if own = 0 then
      let o : BitVec 3 := BitVec.ofNat 3 (t.val + 1)
      (BitVec.ofNat 32 (2 ^ 31 + o.toNat), { s with sems := tset s.sems i o })
    else (own.setWidth 32, s)
  | _ => (own.setWidth 32, s)

/-- STW_SEM_READ. -/
def execStwSemRead (q : Req) (i : Fin 32) (s : State) : Out :=
  .next (s.readLw q (swA (0x100 + 4 * i.val)) (fun s => s.semRead q i.val))

/-- A write of STW_SEM_REL: the owner's write frees semaphore `i`. -/
def State.semRel (s : State) (q : Req) (i : Nat) : State :=
  match q with
  | .stw t => if (tget 0 s.sems i).toNat = t.val + 1 then { s with sems := tset s.sems i 0 } else s
  | _ => s

/-- STW_SEM_REL. -/
def execStwSemRel (q : Req) (i : Fin 32) (s : State) : Out := .next (s.writeCmd q (swA 0x180) (fun s => s.semRel q i.val))

/-! ### Faults and restarts (17 R477–R479) -/

/-- A steward that has started and not stopped. -/
def State.stwLive (s : State) (i : Nat) : Bool := s.runs dStw && (s.stwd i).started && !(s.stwd i).faulted

/-- STEWARD_FAULT: one of the causes 1–5 is detected. -/
def execStewardFault (i : StwNo) (cause : Fin 16) (s : State) : Out :=
  .next (if !s.stwLive i.val || cause.val = 0 || 5 < cause.val then s else s.stwFault i.val cause.val)

/-- STEWARD_WATCHDOG_EXPIRY: SPERIOD µs with no kick. -/
def execStewardWatchdogExpiry (i : StwNo) (s : State) : Out :=
  let co := s.core (stwCore i.val)
  .next (if !s.stwLive i.val || co.halted || decide (co.wdog < 1000 * s.fld (swA 0x300) 15 0) || s.fld (swA 0x300) 15 0 = 0 then s
    else s.stwFault i.val 2)

/-- FLT_WDOG_KICK OWN: the writer's steward watchdog starts its period again. -/
def State.kickOwn (s : State) (q : Req) : State :=
  match q with
  | .stw i => s.setCore (stwCore i.val) { s.core (stwCore i.val) with wdog := 0 }
  | _ => s

/-- FLT_WDOG_KICK BLK: the block watchdog starts its period again. -/
def State.kickBlk (s : State) : State := { s with blkWdog := 0, blkWarn := false }

/-- WDOG_KICK_OWN. -/
def execWdogKickOwn (q : Req) (s : State) : Out := .next (s.writeCmd q (swA 0x304) (fun s => s.kickOwn q))

/-- WDOG_KICK_BLK. -/
def execWdogKickBlk (q : Req) (s : State) : Out := .next (s.writeCmd q (swA 0x304) State.kickBlk)

/-- The context start of a steward: it runs once its sequence has ended; one that goes on goes on with time, and one that meets a machine
check is a steward fault (11 R347, R348, R353; log entry 100). -/
def State.stwLoad (s : State) (i : Nat) : State :=
  let key := stwKey i
  match s.sequence key .ctxStart with
  | (true, s1) => s1.setCtx key { s1.ctx key with st := .run, useq := none }
  | (false, s1) => s1

/-- The steward starts at its entry-0 address with banks, MSP, IDEPTH and both stacks at their reset (R478). -/
def State.stwStart (s : State) (i : Nat) : State :=
  let key := stwKey i
  let s1 := (s.disownOps key).stkInit i
  let s2 := s1.setStw i { s1.stwd i with started := true, faulted := false, acc := none }
  let s3 := s2.setCore (stwCore i) { s2.core (stwCore i) with wdog := 0, sbuf := [], beq := [], mcheck := none, uaddr := 0, ustk := [] }
  (s3.setCtx key { Ctx.init key with st := .loading, pc := s3.vectorOf key 0 }).stwLoad i

/-- FLT_STW_CAUSE of a steward. -/
def stwCause (i : Nat) : Nat := swA (0x310 + 4 * i)

/-- A write of FLT_STW_RESTART is refused: the steward is not stopped by a fault, or OP 1 after CAUSE 3. -/
def State.restartBad (s : State) (i : Nat) (reload : Bool) : Bool :=
  !(s.stwd i).faulted || (!reload && decide (s.fld (stwCause i) 27 24 = 3))

/-- FLT_STW_RESTART OP = 1 naming steward `i`. -/
def State.stwRestart (s : State) (i : Nat) : State :=
  if s.restartBad i false then s.orReg (stwCause i) (2 ^ 31) else (s.clrReg (stwCause i) (2 ^ 31)).stwStart i

/-- STW_RESTART. -/
def execStwRestart (q : Req) (i : StwNo) (s : State) : Out := .next (s.writeCmd q (swA 0x308) (fun s => s.stwRestart i.val))

/-- 256 KiB of the shared SRAM from byte `x`; what lies beyond its end the manual does not give (log entry 39). -/
def State.reloadBytes (s : State) (x : Nat) : List Byte :=
  if x + 0x40000 ≤ 0x200000 then s.srR x 0x40000
  else s.srR x (0x200000 - x) ++ (List.range (x + 0x40000 - 0x200000)).map (fun i => (Config.freeWord (s.freeCount + i)).setWidth 8)

/-- FLT_STW_RESTART OP = 2 naming steward `i`: its code comes from the shared SRAM at 4096 × `src`, whose
words with errors are corrected and counted (12 R363). -/
def State.stwReload (s : State) (i src : Nat) : State :=
  if s.restartBad i true then s.orReg (stwCause i) (2 ^ 31)
  else
    let x := src * 4096
    let s1 := ((s.clrReg (stwCause i) (2 ^ 31)).srSweep x (min 0x40000 (0x200000 - x))).scW i 0 (s.reloadBytes x)
    ({ s1 with freeCount := s1.freeCount + (x + 0x40000 - 0x200000) }).stwStart i

/-- STW_RELOAD_RESTART. -/
def execStwReloadRestart (q : Req) (i : StwNo) (src : Fin 512) (s : State) : Out :=
  .next (s.writeCmd q (swA 0x308) (fun s => s.stwReload i.val src.val))

end Sys2Proof.Machine
end

