-- ==== Sys2Proof/Machine/Power.lean ====
section
/-! DEFINITION. Power domains: votes, entries, wakes, save lists, the library reload, brown-outs, P-levels, P0 credit,
thermal force, clock monitors' lost reference (16). -/

namespace Sys2Proof.Machine

/-! ### Votes (R446, R447) -/

/-- AO is awake: a power-on start has begun, and neither PORST_N nor a loss of VIN_CORE holds the block. -/
def State.awake (s : State) : Bool := !s.cfg.cold

/-- The PMC runs: the block is not BOXED, and CK_PMC is not paused. -/
def State.pmcRuns (s : State) : Bool := s.awake && decide (s.blk ≠ 5) && !s.pm.boxing && !(s.pdom dPmc).paused

/-- HALTED of a core (18 R498): a step has ended only with the halt that follows it. -/
def Core.isHalted (co : Core) : Bool := co.halted && co.stepCtx.isNone && !co.haltReq

/-- Any core or steward is halted by debug. -/
def State.anyHalted (s : State) : Bool := s.cores.any (fun e => e.2.isHalted)

/-- A channel whose lane's path includes rank `r` is ATTACHING, ATTACHED or DETACHING. -/
def State.pathUsed (s : State) (r : Nat) : Bool := s.chSt.any (fun e => decide (e.2 ≠ 0) && onPath (s.laneOf e.1) r)

/-- Bit 6, the vote of ingress. -/
def State.vote6 (s : State) (d : Nat) : Bool :=
  if d < 12 then decide (s.blk = 2) && s.pathUsed d
  else if d = dIn ∨ d = dOut then decide (s.blk = 2) || decide (s.blk = 3)
  else decide (d = dTime) && decide (s.blk = 2)

/-- The votes that bring a rank ON: bits 0–6, unless its library check has failed (R455). -/
def State.wanted (s : State) (r : Nat) : Bool :=
  let x := s.pdom r
  !x.bad && (decide (x.vote ≠ 0) || x.latch || s.vote6 r || decide (s.blk = 0) || decide (s.blk = 1))

/-- Rank `r` needs the table halves and the stewards: it is in a state other than OFF, or about to wake. -/
def State.needsTables (s : State) (r : Nat) : Bool :=
  let x := s.pdom r
  decide (x.st ≠ .off) || x.entering.isSome || x.waking || s.wanted r

/-- Bit 7, the vote of the PMC. -/
def State.vote7 (s : State) (d : Nat) : Bool :=
  decide (s.blk = 0) || decide (s.blk = 1) ||
  ((d = dTblN || d = dTblS || d = dStw) && (List.range 12).any s.needsTables) ||
  (decide (s.blk = 3) && (d = dStw || d = dCfg || d = dIn || d = dOut)) ||
  (d = dDbg && s.anyHalted)

/-- The vote byte of a domain (R445, R446): none is left in BOXED. -/
def State.voteByte (s : State) (d : Nat) : Nat :=
  if s.pm.boxing || s.blk = 5 then 0
  else (s.pdom d).vote.toNat % 64 + 64 * b2n (s.vote6 d) + 128 * b2n (s.vote7 d)

/-- The vote bit of a writer. -/
def voteBit : Req → Nat
  | .ctl => 4
  | .stw i => i.val
  | .dbg => 5

/-- A vote bit of domain `d` becomes 1; during an entry AO latches it (R451). -/
def State.voteSet (s : State) (d b : Nat) : State :=
  let x := s.pdom d
  let new := !x.vote.getLsbD b
  s.setDom d { x with vote := x.vote ||| BitVec.ofNat 8 (2 ^ b), latch := x.latch || (new && x.entering.isSome) }

/-- The CK_PMC cycle of the present time, 10 ns each. -/
def State.pmcCycle (s : State) : Nat := s.now / 10

/-- A write sets a vote bit of domain `d`. -/
def State.voteWrite (s : State) (d b : Nat) : State :=
  let s1 := s.voteSet d b
  s1.setDom d { s1.pdom d with setAt := tset (s1.pdom d).setAt b s1.pmcCycle }

/-- A write clears a vote bit of domain `d`; a bit that a write sets in the same CK_PMC cycle ends set (R464). -/
def State.voteClr (s : State) (d b : Nat) : State :=
  let x := s.pdom d
  if tfind x.setAt b = some s.pmcCycle then s
  else s.setDom d { x with vote := x.vote &&& ~~~ BitVec.ofNat 8 (2 ^ b) }

/-- The domains that a mask names. -/
def domsOf (w : Word) : List Nat := (List.range 20).filter (fun d => bit w d)

/-- The votes and dependencies that hold for a domain in entry: AO latches the event (R451, R464). -/
def State.depLatch (s : State) : State :=
  forEach ((List.range 20).filter (fun d => (s.pdom d).entering.isSome && decide (s.voteByte d ≠ 0))) s (fun d s => s.voteEvent d)

/-- A write of PMC_VOTE_SET, PMC_VOTE_CLR. -/
def State.votesSet (s : State) (q : Req) (w : Word) : State :=
  (forEach (domsOf w) s (fun d s => s.voteWrite d (voteBit q))).depLatch
def State.votesClr (s : State) (q : Req) (w : Word) : State := forEach (domsOf w) s (fun d s => s.voteClr d (voteBit q))

/-- PMC_VOTE_SET: the writer's own bit on every domain of the mask. -/
def execPmcVoteSet (q : Req) (w : Word) (s : State) : Out :=
  .next (s.writeCmd q (pmA 0) (fun s => s.votesSet q w))

/-- PMC_VOTE_CLR. -/
def execPmcVoteClr (q : Req) (w : Word) (s : State) : Out :=
  .next (s.writeCmd q (pmA 4) (fun s => s.votesClr q w))

/-! ### P-levels (R459, R460) -/

/-- A sensor reads above `t` quarters of a degree. -/
def State.hotter (s : State) (t : Int) : Bool :=
  (List.range 16).any (fun i => decide (t < ((s.reg (pmA (0x400 + 4 * i))).setWidth 11).toInt))

/-- The P-level that rank `r` is to run at: the slowest of R460. -/
def State.plTarget (s : State) (r : Nat) : Nat :=
  max (max (s.fld (pmA (0x100 + 4 * r)) 9 8) (if (s.pdom r).exh || s.hotter 420 then 1 else 0)) (if s.pm.force then 2 else 0)

/-- A rank that is ON at another level than its target begins a change, unless one is under way. -/
def State.startP (s : State) (r : Nat) : State :=
  let x := s.pdom r
  let t := s.plTarget r
  if x.st = .on ∧ x.pchg = none ∧ t ≠ x.plevel ∧ s.pmcRuns then s.setDom r { x with pchg := some t } else s

/-- Every rank. -/
def State.startAllP (s : State) : State := forEach (List.range 12) s (fun r s => s.startP r)

/-- A write of PMC_DOM_CFG`d`. -/
def State.domCfg (s : State) (d : Nat) (w : Word) : State := (s.setReg (pmA (0x100 + 4 * d)) (w &&& 0x303)).startAllP

/-- PMC_DOM_CFG_WRITE. -/
def execPmcDomCfgWrite (q : Req) (d : Dom) (w : Word) (s : State) : Out :=
  .next (s.writeCmd q (pmA (0x100 + 4 * d.val)) (fun s => s.domCfg d.val w))

/-- Counts of CK_RANK cycles that rank `r` has under way carry on at `half` half cycles in 2 ns; timed work 1, the code load, counts
CK_STW (R459). -/
def State.rescale (s : State) (r half : Nat) : State :=
  let old := s.rankHalf r
  let x := s.rank r
  s.setRank r { x with due := tmap x.due (fun k t => if k = 1 then t else s.now + ((t - s.now) * old + half - 1) / half) }

/-- PLEVEL_CHANGE_COMPLETE: the supply and the frequency are at the new level; the latest request then starts its own. -/
def execPlevelChangeComplete (r : Rank) (s : State) : Out :=
  let x := s.pdom r.val
  .next (match x.pchg with
    | none => s
    | some t => if !s.pmcRuns then s
        else ((s.rescale r.val (plHalf t)).setDom r.val { x with plevel := t, pchg := none }).startP r.val)

/-- P0 credit of rank `r` in ms: 20 000 less the ms of P0 in the current second and the 200 before it. -/
def State.credit0 (s : State) (r : Nat) : Nat :=
  let now := s.now / 1000000000
  20000 - (((s.pdom r).p0.filter (fun e => decide (now ≤ e.1 + 200))).map (fun e => e.2 / 1000000)).foldl (· + ·) 0

/-- P0_CREDIT_EXHAUSTED. -/
def execP0CreditExhausted (r : Rank) (s : State) : Out :=
  let x := s.pdom r.val
  .next (if x.exh || s.credit0 r.val ≠ 0 then s
    else (((s.setDom r.val { x with exh := true }).orReg (pmA 0x500) 4).count (pmA 0x818)).startP r.val)

/-- P0_CREDIT_RESTORED: the credit has risen back to 2000. -/
def execP0CreditRestored (r : Rank) (s : State) : Out :=
  let x := s.pdom r.val
  .next (if !x.exh || s.credit0 r.val < 2000 then s else (s.setDom r.val { x with exh := false }).startP r.val)

/-! ### What a domain loses (R444, R453) -/

/-- The domain that a stored register belongs to, the schedule tables' to PD_OUT (01 R22); 20 for AO. -/
def keyDom (a : Nat) : Nat :=
  if a < 0x200000 then 20
  else if 0xB000000 ≤ a then (a - 0xB000000) / 4 / 8 / 13
  else if 0x8000000 ≤ a then dOut
  else if tmA 0x800 ≤ a ∧ a < tmA 0x100000 then dOut
  else (region a).getD 20

/-- A register of a domain that AO keeps: the boot records and the maps of cores (15, 17 R472). -/
def keptInAo (a : Nat) : Bool :=
  (decide (cfA 4 ≤ a) && decide (a ≤ cfA 0x14)) || (decide (0x1000000 ≤ a) && decide (a < 0x1C00000) && decide (a % 0x100000 = 0x3024))

/-- Registers, counters, latched words and logs of a domain return to their reset values. -/
def State.loseRegs (s : State) (d : Nat) : State :=
  let p := fun (a : Nat) => decide (keyDom a ≠ d) || keptInAo a
  { s with regs := tkeep s.regs (fun a _ => p a), counters := tkeep s.counters (fun a _ => p a),
           lw := tkeep s.lw (fun a _ => p a), logs := tkeep s.logs (fun a _ => p a) }

/-- Core `c` of a rank after REST or OFF: retirement stays recorded; REST keeps the patch RAM, the map, VBASE and DSEED
with the instruction store (log entry 40). -/
def Core.lost (c : Core) (rest : Bool) : Core :=
  { Core.init with retired := c.retired, gated := c.retired, patch := if rest then c.patch else [],
                   pmap := if rest then c.pmap else [], plevel := if rest then c.plevel else 0,
                   vbase := if rest then c.vbase else 0, dseed := if rest then c.dseed else 1 }

/-- The contents of rank `r` go; `rest` keeps the instruction stores, patch RAM and map. -/
def State.loseRank (s : State) (r : Nat) (rest : Bool) : State :=
  let s1 := s.loseRegs r
  let x := s1.rank r
  let y : RankSt := { RankSt.init with seats := x.seats, exc := x.exc, excSeq := x.excSeq,
                                       nx := if rest then x.nx else 0 }
  let cks := (List.range 13).map (fun c => r * 13 + c)
  let s2 := forEach cks s1 (fun ck s => s.setCore ck ((s.core ck).lost rest))
  { s2.setRank r y with
      sp := memClear s2.sp (spA (13 * r) 0) (spA (13 * r + 13) 0),
      spErr := tkeep s2.spErr (fun w _ => decide (w < spWord (13 * r) 0) || decide (spWord (13 * r + 13) 0 ≤ w)),
      code := if rest then s2.code else memClear s2.code (cdA (13 * r) 0) (cdA (13 * r + 13) 0),
      csErr := if rest then s2.csErr else s2.csErr.filter (fun w => decide (w < 26624 * r) || decide (26624 * r + 26624 ≤ w)),
      ctxs := tkeep s2.ctxs (fun k _ => decide (k < 117 * r) || decide (117 * r + 117 ≤ k)),
      dbg := { s2.dbg with regs := tkeep s2.dbg.regs (fun a _ => decide (a / 0x1000000 ≠ 0x10 + r)) } }

/-- The tiles of a half lose their contents. -/
def State.loseTiles (s : State) (lo hi : Nat) : State :=
  { s with tile := memClear s.tile (tlA lo 0 0) (tlA hi 0 0),
           tileErr := tkeep s.tileErr (fun w _ => decide (w < laneKey lo 0 0) || decide (laneKey hi 0 0 ≤ w)) }

/-- PD_TBLN loses its tiles and their arbiters, the rounds, the table control and the ledger; the arbiters of tiles 16–31 and
the scrub engine are PD_TBLS's (01 R22). -/
def State.loseNorth (s : State) : State :=
  let z := State.reset
  { s.loseTiles 0 16 with
      tb := { z.tb with arb := tkeep s.tb.arb (fun t _ => decide (16 ≤ t)), cls := tkeep s.tb.cls (fun k _ => decide (256 ≤ k)),
                        visited := s.tb.visited, scrubReq := s.tb.scrubReq },
      led := z.led, ledErr := [] }

/-- PD_TBLS loses its tiles, their arbiters with what they have been asked, and the scrub engine. -/
def State.loseSouth (s : State) : State :=
  let s1 := s.loseTiles 16 32
  { s1 with tb := { s1.tb with arb := tkeep s1.tb.arb (fun t _ => decide (t < 16)), cls := tkeep s1.tb.cls (fun k _ => decide (k < 256)),
                               ops := s1.tb.ops.filter (fun o => o.acc.all (fun a => decide (a.tile < 16)) && decide (o.seqHalf ≠ some 1)),
                               visited := [], scrubReq := [] } }

/-- What entry into REST or OFF takes from domain `d`. -/
def State.lose (s : State) (d : Nat) (rest : Bool) : State :=
  let z := State.reset
  if d < 12 then s.loseRank d rest
  else
    let s1 := s.loseRegs d
    if d = dIn then { s1 with ing := z.ing, buf := z.buf, chSt := [] }
    else if d = dOut then { s1 with eg := z.eg, sched := [] }
    else if d = dTblN then s1.loseNorth
    else if d = dTblS then s1.loseSouth
    else if d = dStw then
      let s1 := s.flashLast.loseRegs d
      { s1 with stw := [], stwCode := [], sram := [], sramErr := [], sems := [], ic := z.ic,
                ctxs := tkeep s1.ctxs (fun k _ => decide (k < 1404)), cores := tkeep s1.cores (fun k _ => decide (k < 156)),
                dbg := { s1.dbg with regs := tkeep s1.dbg.regs (fun a _ => decide (a < 0x20000000) || decide (0x30000000 ≤ a)) } }
    else if d = dTime then
      { s1 with time := { z.time with savedAt := s.time.savedAt, saved := s.time.saved, copyNs := s.time.copyNs, copyTick := s.time.copyTick } }
    else if d = dCfg then
      let s1 := s.flashLast.loseRegs d
      { s1 with cfg := { s1.cfg with flash := none, minQ := [] }, fab := { s1.fab with ctl := none } }
    else if d = dDbg then
      { s1 with dbg := { s1.dbg with tap := .reset, ir := 1, dr := [], accStatus := 0, accAddr := 0, accData := 0, accRead := false,
                                     lockIdx := [], xout := 0, pend := none, held := [],
                                     regs := tkeep s1.dbg.regs (fun a _ => decide (a < 0x30000000)) },
                fab := { s1.fab with dbg := none }, logs := tdel s1.logs 0x30000050, lw := tdel s1.lw 0x30000050 }
    else s1

/-! ### Save lists (R453, R465) -/

/-- Where the save list of rank `r` lies in AO memory. -/
def saveA (r : Nat) : Nat := 0x2D40 + 160 * r

/-- The registers of a rank's save list: RANK_TURN_CAP, RANK_PARSE_INFO, RANK_BGT_CTL, RANK_HASH_KEY0–15. -/
def saveRegs (r : Nat) : List Nat := [rkA r 0, rkA r 0x2004, rkA r 0x3014] ++ (List.range 16).map (fun i => rkA r (0x2010 + 4 * i))

/-- The 154 bytes that a rank saves, in the order of R453's list (log entry 10). -/
def State.rankSave (s : State) (r : Nat) : List Byte :=
  let seats := (List.range 13).map (fun t => s.core (s.seatKey r t))
  ((saveRegs r).map (fun a => leBytes 4 (s.reg a).toNat)).flatten ++ (seats.map (fun c => leBytes 4 c.dseed.toNat)).flatten ++
  (seats.map (fun c => leBytes 2 c.plevel.toNat)).flatten

/-- What a rank's save list restores. -/
def State.rankRestore (s : State) (r : Nat) : State :=
  let a := saveA r
  let n := fun (p k : Nat) => leNat (s.aoR (a + p) k)
  let s1 := forEach (List.range 19) s (fun i s => s.setRegN ((saveRegs r).getD i 0) (n (4 * i) 4))
  forEach ((List.range 13).filter (fun t => (s.seatCore r t).isSome)) s1 (fun t s =>
    let ck := s.seatKey r t
    s.setCore ck { s.core ck with dseed := BitVec.ofNat 32 (n (76 + 4 * t) 4), plevel := BitVec.ofNat 16 (n (128 + 2 * t) 2) })

/-- The time and the tick as AO memory holds them: 24 bytes. -/
def Time.aoBytes (t : Time) : List Byte :=
  leBytes 8 t.sec.toNat ++ leBytes 4 t.ns ++ leBytes 4 t.frac.toNat ++ leBytes 8 t.tick.toNat

/-- The PMC copies the time and the tick into AO memory every 1 µs (14 R409; their places, log entry 10). -/
def State.timeCopy (s : State) : State :=
  if s.runs dTime && s.pmcRuns && decide ((s.now + 2) / 1000 ≠ s.now / 1000) then s.aoW 0x2D00 s.time.aoBytes else s

/-- PD_TIME saves the time, the tick, TIME_FREQ and TIME_PPS. -/
def State.timeSave (s : State) : State :=
  let t := s.time
  let s1 := s.aoW 0x2D20 (t.aoBytes ++ leBytes 4 (s.reg (tmA 0x20)).toNat ++ leBytes 4 (s.reg (tmA 0x3C)).toNat)
  { s1 with time := { s1.time with savedAt := s.now, saved := true } }

/-- The timebase resumes from the saved time advanced by the µs that AO has counted (R453). -/
def State.timeRestore (s : State) : State :=
  if !s.time.saved then s
  else
    let n := fun (p k : Nat) => leNat (s.aoR (0x2D20 + p) k)
    let us := (s.now - s.time.savedAt) / 1000 * 1000
    let ns := n 8 4 + us
    let s1 := (s.setRegN (tmA 0x20) (n 24 4)).setRegN (tmA 0x3C) (n 28 4)
    { s1 with time := { s1.time with sec := BitVec.ofNat 48 (n 0 8 + ns / nsPerSec), ns := ns % nsPerSec,
                                     frac := BitVec.ofNat 32 (n 12 4), tick := BitVec.ofNat 64 (n 16 8 + us), restored := true,
                                     locked := true } }

/-- Domain `d` copies its save list to AO memory. -/
def State.save (s : State) (d : Nat) : State :=
  if d < 12 then s.aoW (saveA d) (s.rankSave d)
  else if d = dTime then s.timeSave
  else if d = dCfg then
    s.aoW 0x34C0 (([0x18, 0x24, 0x28, 0x2C].map (fun o => leBytes 4 (s.reg (cfA o)).toNat)).flatten)
  else if d = dDbg then s.aoW 0x35F0 (leBytes 4 ((s.dreg 0x30000004).toNat / 0x1000 % 16 * 0x1000))
  else s

/-- Domain `d` takes its save list back. -/
def State.restore (s : State) (d : Nat) : State :=
  if d < 12 then s.rankRestore d
  else if d = dTime then s.timeRestore
  else if d = dCfg then
    forEach (List.range 4) s (fun i s => s.setRegN (cfA ([0x18, 0x24, 0x28, 0x2C].getD i 0)) (leNat (s.aoR (0x34C0 + 4 * i) 4)))
  else if d = dDbg then
    { s with dbg := { s.dbg with regs := tset s.dbg.regs 0x30000004 (BitVec.ofNat 32 (leNat (s.aoR 0x35F0 4))) } }
  else s

/-! ### Entry (R450, R451) -/

/-- The state that TARGET of PMC_DOM_CFG names; 0 acts as 1. -/
def State.domTarget (s : State) (d : Nat) : DSt :=
  match s.fld (pmA (0x100 + 4 * d)) 1 0 with
  | 2 => .rest
  | 3 => .off
  | _ => .hold

/-- A link that a domain sends on. -/
def sentBy (d k : Nat) : Bool := if k = 0 then decide (d = dIn) else decide (linkFrom k = some d)

/-- The power-good of a sender has fallen: what it has asked of others and they have not accepted is discarded (01 R18), a
debug access among it, which then counts as refused (log entry 118); the guest bay's part of a rank is left with nothing to present
(01 R21). -/
def State.pgFall (s : State) (d : Nat) : State :=
  let s1 := { s with links := tkeep s.links (fun k _ => !sentBy d k),
                     tb := { s.tb with ops := s.tb.ops.filter (fun o => o.kind = .copy || decide (o.req ≠ (if d = dStw then 12 else d)) || decide (12 ≤ d ∧ d ≠ dStw)) } }
  if d < 12 then s1.setRank d { s1.rank d with out := [], gq := [], gkill := [], gcmt := [] }
  else if d = dOut then { s1 with buf := { s1.buf with rd := none } }
  else if d = dIn then { s1 with ing := { s1.ing with vmsgs := [], flush := [] } }
  else if d = dTblS then { s1 with tb := { s1.tb with scrubReq := [] } }
  else if d = dDbg then
    { s1 with fab := { s1.fab with dbg := none },
              dbg := { s1.dbg with pend := none, held := [],
                                   accStatus := if s1.fab.dbg.isSome || s1.dbg.pend.isSome then 2 else s1.dbg.accStatus } }
  else s1

/-- Time of an entry into a state, in ns (R450). -/
def entryTime : DSt → Nat
  | .hold => 100
  | _ => 4000

/-- PD_TIME leaves ON: every copy of the time and of the tick holds its last value (14 R408). -/
def State.holdCopies (s : State) (d : Nat) : State :=
  if d = dTime && s.isOn dTime then { s with time := { s.time with copyNs := s.timeNs, copyTick := s.time.tick } } else s

/-- PG_CFG falls: the request outstanding at the control port is discarded, and nothing is acknowledged (19 R514, R527). -/
def State.dropCtl (s : State) (d : Nat) : State := if d = dCfg then { s with fab := { s.fab with ctl := none } } else s

/-- An entry of domain `d` begins: PG falls. -/
def State.leave (s : State) (d : Nat) (t : DSt) : State :=
  let s1 := (s.holdCopies d).dropCtl d
  s1.setDom d { s1.pdom d with st := t, entering := some t, pchg := none, latch := false, waking := false, tdue := s.now + entryTime t }

/-- DOMAIN_ENTRY: the vote byte is 0, and the domain's entry into its target begins. -/
def execDomainEntry (d : Dom) (s : State) : Out :=
  .next (if !s.pmcRuns || (s.pdom d.val).st ≠ .on || s.voteByte d.val ≠ 0 then s
    else (s.leave d.val (s.domTarget d.val)).depLatch)

/-- Time before the end of an entry at which the requests in flight have completed (step 2 of R450). -/
def requestsLeft : DSt → Nat
  | .hold => 50
  | _ => 3000

/-- The moment `t` lies in the 2 ns from now. -/
def State.passes (s : State) (t : Nat) : Bool := decide (s.now < t) && decide (t ≤ s.now + 2)

/-- The steps of an entry at which something happens but its start and its end: what is still outstanding after step 2 is discarded;
the save list is copied by the end of step 3 (R450; log entry 105). -/
def State.entryStep (s : State) (d : Nat) : State :=
  let x := s.pdom d
  match x.entering with
  | none => s
  | some t =>
    let s1 := if s.passes (x.tdue - requestsLeft t) then s.pgFall d else s
    if t ≠ .hold && s.passes (x.tdue - 2000) then s1.save d else s1

/-- The steps of the entries under way, while CK_PMC runs. -/
def State.entrySteps (s : State) : State :=
  if (s.pdom dPmc).paused then s else forEach (List.range 20) s (fun d s => s.entryStep d)

/-- Time of a wake from a state, in ns (R452). -/
def wakeTime : DSt → Nat
  | .hold => 100
  | .rest => 24000
  | _ => 40000

/-- The clock of domain `d`, or of the PMC (`dPmc`), has stood for `n` ns: the moments at which its timed work ends come that much
later (17 R486, R487; HOLD gates the clock, R450). Timed work 1 of a rank, the code load, counts CK_STW. -/
def State.putOff (s : State) (d n : Nat) : State :=
  if d = dPmc then
    { s with dom := tmap s.dom (fun _ x => if x.entering.isSome || x.waking then { x with tdue := x.tdue + n } else x),
             pm := { s.pm with boxAt := if s.pm.boxing then s.pm.boxAt + n else s.pm.boxAt } }
  else
    { s with ranks := tmap s.ranks (fun r x =>
        { x with due := tmap x.due (fun k t => if (if k = 1 then d = dStw else d = r) then t + n else t) }) }

/-- The domains a rank waits for are ON. -/
def State.depsOn (s : State) (d : Nat) : Bool := decide (12 ≤ d) || (s.isOn dTblN && s.isOn dTblS && s.isOn dStw)

/-- The wake of domain `d` begins. -/
def State.startWake (s : State) (d : Nat) : State :=
  let x := s.pdom d
  let s1 := if x.st = .hold then s.putOff d (s.now - (x.tdue - clockLeft .hold)) else s
  s1.setDom d { x with waking := true, latch := false, tdue := s.now + wakeTime x.st }

/-- DOMAIN_ENTRY_COMPLETE: the contents are gone; a latched wake is replayed at once. -/
def execDomainEntryComplete (d : Dom) (s : State) : Out :=
  let d := d.val
  .next (match (s.pdom d).entering with
    | none => s
    | some t =>
      if !s.pmcRuns || s.now < (s.pdom d).tdue then s
      else
        let s0 := if t = .hold then s else s.lose d (decide (t = .rest))
        let s1 := s0.setDom d { s0.pdom d with entering := none }
        if !(s1.pdom d).latch && s1.voteByte d = 0 then s1
        else
          let s2 := (s1.orReg (pmA 0x500) 16).count (pmA 0x808)
          if s2.depsOn d then s2.startWake d else s2.setDom d { s2.pdom d with latch := true })

/-! ### Wake (R452, R455) -/

/-- DOMAIN_WAKE: a vote is set, or one was latched; a rank waits for the table halves and the stewards, and a rank with
BAD stays OFF. In COLD the start sequence alone turns domains on. -/
def execDomainWake (d : Dom) (s : State) : Out :=
  let d := d.val
  let x := s.pdom d
  .next (if !s.pmcRuns || s.blk = 0 || x.st = .on || x.entering.isSome || x.waking || x.bad || (!x.latch && s.voteByte d = 0) || !s.depsOn d then s
    else (s.startWake d).depLatch)

/-- The order gate of a rank that enters ON: NEXT of every lane is the next pip of ingress (R449). -/
def State.gateFresh (s : State) (r : Nat) : State :=
  s.setRank r { s.rank r with next := s.ing.lanePip, marks := [], gstCap := Config.gstCap r }

/-- The check of patch RAM and map at a wake from REST: a machine check with CAUSE 7 on each core that fails (R352). -/
def State.patchCheck (s : State) (r : Nat) : State :=
  let bad := (List.range 13).filter (fun c => s.csErr.any (fun w => decide (w / 2048 = r * 13 + c) && decide (768 ≤ w % 2048)))
  forEach (bad.filter (fun c => (s.seatOf r c).isSome)) s (fun c s => s.machineCheck r c 7 0)

/-- The grants of the tiles of a half that is ON again are parked on no requester, and the cycles before count as free (10 R323). -/
def State.unpark (s : State) (d : Nat) : State :=
  { s with tb := { s.tb with arb := tmap s.tb.arb (fun t a => if tileDom t = d then { a with park := none, freeCy := 2 } else a) } }

/-- A domain is ON again. -/
def State.wokenUp (s : State) (d : Nat) (was : DSt) : State :=
  if was = .hold then
    if d < 12 then s.guestGone d
    else if d = dDbg then { s with dbg := { s.dbg with tap := .reset, ir := 1 } }
    else s.unpark d
  else
    let s1 := s.restore d
    if 12 ≤ d then s1
    else
      let s2 := s1.gateFresh d
      if was = .rest then s2.patchCheck d else s2.setDom d { s2.pdom d with loading := true }

/-- The clock of domain `d` has stood in HOLD up to this moment: its counts go on, a rank's at P1 (R452, R459). -/
def State.clockBack (s : State) (d : Nat) : State :=
  if (s.pdom d).st ≠ .hold then s
  else
    let s1 := s.putOff d (s.now - ((s.pdom d).tdue - 100))
    if d < 12 then s1.rescale d (plHalf 1) else s1

/-- DOMAIN_WAKE_COMPLETE: PG rises; a rank runs at P1. -/
def execDomainWakeComplete (d : Dom) (s : State) : Out :=
  let x := s.pdom d.val
  .next (if !s.pmcRuns || !x.waking || s.now < x.tdue then s
    else
      let s1 := (s.clockBack d.val).setDom d.val { x with st := .on, waking := false, plevel := if d.val < 12 then 1 else 0, pchg := none, tdue := s.now }
      let s2 := s1.wokenUp d.val x.st
      if d.val < 12 then s2.startP d.val else s2)

/-! ### The program library (12 R367, R368; log entry 41) -/

/-- The code of rank `n` and its record in the shared SRAM. -/
def libCode (n : Nat) : Nat := 0x10000 * n
def libRec (n : Nat) : Nat := 0xC0000 + 0x100 * n

/-- The CRC-32 over a rank's code space and record is good. -/
def State.libGood (s : State) (n : Nat) : Bool :=
  decide (crc32 0 (s.srR (libCode n) 0x10000 ++ s.srR (libRec n) 16) = BitVec.ofNat 32 (s.srN (libRec n + 16) 4))

/-- The library of rank `n` is read for a reload: its code, its record, its check word, and the micro-patch (12 R363). -/
def State.libSweep (s : State) (n : Nat) (micro : Bool) : State :=
  let s1 := (s.srSweep (libCode n) 0x10000).srSweep (libRec n) 20
  if micro then s1.srSweep libPatch 3208 else s1

/-- Library code goes into the instruction store of a core. -/
def State.libStore (s : State) (r ck : Nat) : State :=
  { s with code := mload 0xFF s.code (cdA ck 0) (s.srR (libCode r) 0x10000) }

/-- A seed of 0 loads as 1 (05 R165). -/
def seedOf (n : Nat) : Nat := if n = 0 then 1 else n

/-- The rank's registers and cores take the values of its record: CAP, LCAP, NX map, VBASE, DSEED, parse node count. -/
def State.libRecord (s : State) (r : Nat) : State :=
  let a := libRec r
  let s1 := (s.setRegN (rkA r 0) (s.srN (a + 2) 2 % 4096 + 65536 * (s.srN (a + 4) 2 % 4096))).setRegN (rkA r 0x2004) (s.srN (a + 12) 4 % 128)
  let s2 := s1.setRank r { s1.rank r with nx := BitVec.ofNat 16 (s.srN a 2) }
  forEach ((List.range 13).map (fun c => r * 13 + c)) s2 (fun ck t =>
    t.setCore ck { t.core ck with vbase := BitVec.ofNat 32 (s.srN (a + 6) 2), dseed := BitVec.ofNat 32 (seedOf (s.srN (a + 8) 4)) })

/-- A failed library check: the rank's domain is OFF with BAD, STW_LIB_STATUS names it; what the rank has sent and nobody has accepted
is discarded (01 R18). -/
def State.libBad (s : State) (r : Nat) : State :=
  let s1 := ((s.orReg (swA 0x14) (2 ^ r)).pgFall r).lose r false
  s1.setDom r { s1.pdom r with st := .off, bad := true, loading := false, pchg := none }

/-- LIBRARY_RELOAD_COMPLETE: code into all 13 instruction stores, micro-patch, record; or the check has failed. -/
def execLibraryReloadComplete (r : Rank) (s : State) : Out :=
  let r := r.val
  .next (if !s.runs r || !s.runs dStw || !(s.pdom r).loading then s
    else
      let s0 := s.libSweep r true
      if !s.libGood r then s0.libBad r
      else
      let cks := (List.range 13).map (fun c => r * 13 + c)
      let s1 := forEach cks s0 (fun ck s => (s.libStore r ck).libMicro ck)
      let s2 := s1.libRecord r
      s2.setDom r { s2.pdom r with loading := false, lost := false })

/-- A write of STW_LIB_STATUS: a 1 clears BAD and counts as a new vote event. -/
def State.libClear (s : State) (w : Word) : State :=
  let rs := (List.range 12).filter (fun r => bit w r && bit (s.reg (swA 0x14)) r)
  forEach rs (s.clrReg (swA 0x14) (w.toNat % 4096)) (fun r s =>
    let x := s.pdom r
    s.setDom r { x with bad := false, latch := x.latch || x.bad })

/-- LIB_STATUS_CLEAR. -/
def execLibStatusClear (q : Req) (w : Word) (s : State) : Out := .next (s.writeCmd q (swA 0x14) (fun s => s.libClear w))

/-! ### Brown-outs (R454) -/

/-- BROWNOUT: the retained stores of a rank in REST are lost and its state is OFF; during an entry this can happen once
the regulator is in low-power mode, and with a wake that begins in the same cycle the wake runs as one from OFF (R464). -/
def execBrownout (r : Rank) (s : State) : Out :=
  let r := r.val
  let x := s.pdom r
  let inRest := decide (x.st = .rest) && (match x.entering with
    | some _ => decide (x.tdue ≤ s.now + 1980)
    | none => !x.waking || decide ((x.tdue - wakeTime .rest) / 10 = s.pmcCycle))
  .next (if !s.awake || !inRest then s
    else
      let s1 := if x.entering.isSome then s else s.lose r false
      let y := { s1.pdom r with st := .off, lost := true, entering := x.entering.map (fun _ => .off),
                                tdue := if x.waking then x.tdue - wakeTime .rest + wakeTime .off else x.tdue }
      ((s1.setDom r y).orReg (pmA 0x500) 1).count (pmA 0x810))

/-! ### Thermal force (R461) -/

/-- Sensor `i` reads `temp` quarters of a degree. -/
def State.sense (s : State) (i : Nat) (temp : BitVec 11) : State := s.setRegN (pmA (0x400 + 4 * i)) temp.toNat

/-- THERMAL_FORCE: a sensor above 115 °C forces P2. -/
def execThermalForce (i : Fin 16) (temp : BitVec 11) (s : State) : Out :=
  let s1 := s.sense i.val temp
  .next (if !s.awake || s.blk = 5 then s
    else if s1.pm.force || !s1.hotter 460 then s1.startAllP
    else ((({ s1 with pm := { s1.pm with force := true } }).orReg (pmA 0x500) 2).count (pmA 0x820)).startAllP)

/-! ### Clock monitors (R463) -/

/-- PMC_CLKMON. -/
def clkmon : Nat := pmA 0x450

/-- A monitor fails: its bit of PMC_CLKMON is set and CLKMON of PMC_EV. -/
def State.clkFail (s : State) (b : Nat) : State := (s.orReg clkmon (2 ^ b)).orReg (pmA 0x500) 8

/-- REFCLK_LOST: the DCOs hold their last frequency. -/
def execRefclkLost (s : State) : Out :=
  .next (if !s.awake || s.blk = 5 || bit (s.reg clkmon) 0 then s else s.clkFail 0)

/-- REFCLK_RETURN: the DCOs relock without a step. -/
def execRefclkReturn (s : State) : Out := .next (if s.awake && bit (s.reg clkmon) 0 then s.clrReg clkmon 1 else s)

/-- The domain whose clock a stop bit watches: CK_CTL, CK_BUF, CK_GST (any rank), TCK. -/
def State.clocked (s : State) (k : Nat) : Bool :=
  if k = 0 then s.isOn dCfg else if k = 1 then s.isOn dIn else if k = 2 then (List.range 12).any s.isOn else s.isOn dDbg

/-- CLOCK_STOP: no edge for 10 µs while the clocked domain is ON. -/
def execClockStop (k : Fin 4) (s : State) : Out :=
  .next (if !s.awake || !s.clocked k.val then s else s.clkFail (k.val + 1))

end Sys2Proof.Machine
end

