-- ==== Sys2Proof/Machine/Image.lean ====
section
/-! DEFINITION. The Rolgal image: header, directory, section checks, cross-section checks, and what the config loader
writes (15 R427–R433, with the loader rules of 03 R97, 05 R148–R151, 10 R297, 11 R351, 14 R414, R418, 18 R497). -/

namespace Sys2Proof.Machine

/-! ### Reading the flash -/

/-- Flash address of a slot's image. -/
def slotBase (slot : Nat) : Nat := if slot = 0 then 0 else 0x1800000

/-- A little-endian number of the flash. -/
def State.flN (s : State) (x n : Nat) : Nat := leNat (s.flR x n)

/-- Why an image is refused: the code of R438, the section's TYPE and INDEX, the body offset. -/
structure ImgErr where
  fail : Nat
  ty : Nat
  ix : Nat
  off : Nat
deriving DecidableEq, Repr

/-- A directory entry: TYPE, INDEX, the flash address of the body, its OFFSET, its length, its CRC. -/
structure Sec where
  ty : Nat
  ix : Nat
  base : Nat
  off : Nat
  len : Nat
  crc : Nat
deriving DecidableEq, Repr

/-- BLK_ID, the value of TARGET. -/
abbrev blkId : Nat := 0x01440200

/-- The first element for which a test fails, with its number. -/
def firstBad (n : Nat) (bad : Nat → Bool) : Option Nat := (List.range n).find? bad

/-! ### Header and directory (R427, R428) -/

/-- The header check that fails first; none where all pass. HCRC comes last, once the directory has been read. -/
def State.hdrBad (s : State) (b : Nat) : Option Nat :=
  if s.flN b 4 ≠ 0x544F594B then some 4
  else if s.flN (b + 4) 2 ≠ 1 ∨ s.flN (b + 12) 4 ≠ blkId then some 6
  else if 25165824 < s.flN (b + 8) 4 then some 7
  else if s.flN (b + 6) 2 = 0 ∨ 64 < s.flN (b + 6) 2 then some 8
  else if (crc32 0 (s.flR b 60 ++ s.flR (b + 64) (16 * s.flN (b + 6) 2))).toNat ≠ s.flN (b + 60) 4 then some 5
  else none

/-- The directory. -/
def State.dirOf (s : State) (b : Nat) : List Sec :=
  (List.range (s.flN (b + 6) 2)).map (fun i =>
    let e := b + 64 + 16 * i
    ⟨s.flN e 1, s.flN (e + 1) 1, b + s.flN (e + 4) 4, s.flN (e + 4) 4, s.flN (e + 8) 4, s.flN (e + 12) 4⟩)

/-- The number of indices a TYPE has; 0 for an unknown TYPE. -/
def typeRange (ty : Nat) : Nat :=
  if ty = 0x10 ∨ ty = 0x13 then 12 else if ty = 0x12 then 4
  else if ty ∈ [0x01, 0x02, 0x03, 0x04, 0x11, 0x14, 0x15, 0x16, 0x17] then 1 else 0

/-- Two bodies overlap. -/
def Sec.meets (x y : Sec) : Bool := decide (x.len ≠ 0) && decide (y.len ≠ 0) && decide (x.off < y.off + y.len) && decide (y.off < x.off + x.len)

/-- Pairs of entries that may not stand together. -/
def clash : List Sec → Bool
  | [] => false
  | x :: t => t.any (fun y => (decide (x.ty = y.ty) && decide (x.ix = y.ix)) || x.meets y) || clash t

/-- The directory is refused (R428); a body must start at a multiple of 64 at or after the directory's end (log entry 42). -/
def dirBad (len : Nat) (ds : List Sec) : Bool :=
  ds.any (fun d => decide (typeRange d.ty ≤ d.ix) ||
    (decide (d.len ≠ 0) && (decide (d.off % 64 ≠ 0) || decide (d.off < 64 + 16 * ds.length) || decide (len < d.off + d.len)))) || clash ds

/-- The sections every image must hold. -/
def mandatory : List (Nat × Nat) :=
  [(0x01, 0), (0x02, 0), (0x03, 0), (0x04, 0), (0x12, 0), (0x16, 0)] ++ (List.range 12).map (fun r => (0x10, r))

/-- The section (TYPE, INDEX) with a body. -/
def secOf (ds : List Sec) (ty ix : Nat) : Option Sec := ds.find? (fun d => d.ty = ty && d.ix = ix && d.len ≠ 0)

/-! ### Section bodies (R429–R433): the offset of the first refused item -/

/-- A register described as loaded from BLOCK_PRESETS. -/
def isPreset (a : Nat) : Bool :=
  (decide (bufA 0 ≤ a) && decide (a < bufA 0x20) && decide (a % 4 = 0)) || decide (a = tbA 0x94) || decide (a = swA 0x300) ||
  (decide (0x1000000 ≤ a) && decide (a < 0x1C00000) &&
    (decide (a % 0x100000 = 0x3014) ||
      (decide (0x2010 ≤ a % 0x100000) && decide (a % 0x100000 < 0x2050) && decide (a % 4 = 0))))

/-- The registers loaded from BLOCK_PRESETS. -/
def presets : List Nat :=
  (List.range 8).map (fun p => bufA (4 * p)) ++ [tbA 0x94, swA 0x300] ++
  ((List.range 12).map (fun r => rkA r 0x3014 :: (List.range 16).map (fun i => rkA r (0x2010 + 4 * i)))).flatten

/-- A value that the description of a preset register refuses. -/
def presetBad (a v : Nat) : Bool :=
  if a < bufA 0x20 ∧ bufA 0 ≤ a then decide (v % 8 = 7) || decide (16 < v / 256) || decide (v / 8 % 32 ≠ 0)
  else if a = tbA 0x94 then decide (v < 10) || decide (2000 < v)
  else if a = swA 0x300 then decide (v % 65536 = 0) || decide (v / 65536 = 0)
  else if a % 0x100000 = 0x3014 then (decide (1 ≤ v) && decide (v ≤ 15)) || decide (65535 < v)
  else false

/-- The records of BLOCK_PRESETS: offset, address, value. -/
def State.presetRecs (s : State) (d : Sec) : List (Nat × Nat × Nat) :=
  (List.range (d.len / 8)).map (fun i => (8 * i, s.flN (d.base + 8 * i) 4, s.flN (d.base + 8 * i + 4) 4))

/-- BLOCK_PRESETS: a refused address first; then, after the last record, a value its register does not permit. -/
def State.presetsBad (s : State) (d : Sec) : Option Nat :=
  let rs := s.presetRecs d
  match rs.find? (fun r => !isPreset r.2.1) with
  | some r => some r.1
  | none =>
    if d.len % 8 ≠ 0 then some (d.len / 8 * 8)
    else
      let final := fun (r : Nat × Nat × Nat) => !rs.any (fun q => decide (q.2.1 = r.2.1) && decide (r.1 < q.1))
      match rs.find? (fun r => final r && presetBad r.2.1 r.2.2) with
      | some r => some r.1
      | none => if presets.any (fun a => !rs.any (fun r => decide (r.2.1 = a)) && presetBad a 0) then some d.len else none

/-- A body of fixed length: the offset at which it is short or goes on. -/
def sizeBad (d : Sec) (n : Nat) (k : Option Nat) : Option Nat :=
  match k with
  | some x => if x < d.len then some x else some d.len
  | none => if d.len = n then none else some (min d.len n)

/-- CHANNEL_MAP: reserved bits are 0. -/
def State.chMapBad (s : State) (d : Sec) : Option Nat :=
  sizeBad d 8192 ((firstBad (min 1024 (d.len / 8)) (fun n =>
    decide (0x1FFF < s.flN (d.base + 8 * n) 4) || decide (0x7F < s.flN (d.base + 8 * n + 4) 4))).map (8 * ·))

/-- LANE_MAP: bits 30:16 are 0. -/
def State.laneMapBad (s : State) (d : Sec) : Option Nat :=
  sizeBad d 1024 ((firstBad (min 256 (d.len / 4)) (fun n => decide (s.flN (d.base + 4 * n) 4 / 65536 % 32768 ≠ 0))).map (4 * ·))

/-- ARB_CLASSES: bits 31:30 are 0. -/
def State.arbBad (s : State) (d : Sec) : Option Nat :=
  sizeBad d 128 ((firstBad (min 32 (d.len / 4)) (fun n => decide (2 ^ 30 ≤ s.flN (d.base + 4 * n) 4))).map (4 * ·))

/-- RANK_CODE: CAP and LCAP under R97, VBASE a multiple of 64, CODE_LEN, reserved bytes 0. -/
def State.rankCodeBad (s : State) (d : Sec) : Option Nat :=
  let n := fun (p k : Nat) => s.flN (d.base + p) k
  if d.len < 32 then some d.len
  else if n 2 2 = 0 ∨ 4095 < n 2 2 then some 2
  else if 4095 < n 4 2 ∨ (d.ix ∈ [0, 1, 11] ∧ (n 4 2 = 0 ∨ 140 < n 4 2)) then some 4
  else if n 6 2 % 64 ≠ 0 then some 6
  else if 65536 < n 12 4 ∨ d.len ≠ 32 + n 12 4 then some 12
  else (firstBad 16 (fun i => n (16 + i) 1 ≠ 0)).map (16 + ·)

/-- STEWARD_CODE. -/
def State.stwCodeBad (s : State) (d : Sec) : Option Nat :=
  let n := fun (p k : Nat) => s.flN (d.base + p) k
  if d.len < 32 then some d.len
  else if 0x40000 ≤ n 8 4 ∨ n 8 4 % 64 ≠ 0 then some 8
  else if 262144 < n 16 4 ∨ d.len ≠ 32 + n 16 4 then some 16
  else (firstBad 12 (fun i => n (20 + i) 1 ≠ 0)).map (20 + ·)

/-- A map entry of a micro-patch part: a ROM address above 767, or a valid entry's that an earlier valid entry names (11 R351). -/
def State.mapBad (s : State) (a : Nat) : Option Nat :=
  let w := fun (i : Nat) => BitVec.ofNat 32 (s.flN (a + 4 * i) 4)
  firstBad 32 (fun i => decide (767 < bits (w i) 25 16) || (bit (w i) 31 &&
    (List.range i).any (fun j => bit (w j) 31 && decide (bits (w j) 25 16 = bits (w i) 25 16))))

/-- MICRO_PATCH (11 R351): a part with LEVEL 0 is absent. -/
def State.microBad (s : State) (d : Sec) : Option Nat :=
  if d.len ≠ 6408 then some (min d.len 6408)
  else if s.flN d.base 4 ≠ blkId then some 0
  else
    match (if s.flN (d.base + 4) 2 = 0 then none else s.mapBad (d.base + 3080)) with
    | some i => some (3080 + 4 * i)
    | none => if s.flN (d.base + 6) 2 = 0 then none else (s.mapBad (d.base + 6280)).map (fun i => 6280 + 4 * i)

/-- PARSE_GRAPH: at most 64 nodes of 32 bytes. -/
def parseBad (d : Sec) : Option Nat := if 2048 < d.len then some 2048 else if d.len % 32 ≠ 0 then some (d.len / 32 * 32) else none

/-! ### TABLES (10 R297, 14 R418) -/

/-- A run of rows in one tile. -/
structure Area where
  tile : Nat
  row : Nat
  n : Nat
deriving DecidableEq, Repr

/-- Two areas share a row. -/
def Area.meets (x y : Area) : Bool :=
  decide (x.tile = y.tile) && decide (x.row < y.row + y.n) && decide (y.row < x.row + x.n) && decide (x.n ≠ 0) && decide (y.n ≠ 0)

/-- The areas of a bank in its first copy: entries, then nodes. -/
def State.bankAreas (s : State) (t : Nat) (b : Bool) : List Area :=
  let (ts, tc, _) := s.tPlace t b
  let area := fun (f : Nat → Nat × Nat) => (List.range (2 ^ tc)).map (fun i => (⟨ts + i, (f (ts + i)).1, (f (ts + i)).2⟩ : Area))
  area (s.bankRows t b) ++ (if s.tKind t = 3 ∨ s.tKind t = 4 then area (s.nodeRows t b) else [])

/-- The banks of a table. -/
def State.banks (s : State) (t : Nat) : List Bool := if s.tDual t then [false, true] else [false]

/-- Every area of a table, its second copy included. -/
def State.tableAreas (s : State) (t : Nat) : List Area :=
  let xs := ((s.banks t).map (s.bankAreas t)).flatten
  if s.tMirror t then xs ++ xs.map (fun a => { a with tile := otherTile a.tile }) else xs

/-- A bank that R296 or R297 does not allow: the tiles leave one half or do not start at a multiple of 2^TC (log entry
43), or rows pass 65 535. -/
def State.bankBad (s : State) (t : Nat) (b : Bool) : Bool :=
  let (ts, tc, _) := s.tPlace t b
  decide (4 < tc) || decide (ts % 2 ^ tc ≠ 0) || (s.bankAreas t b).any (fun a => decide (a.n ≠ 0) && decide (65536 < a.row + a.n))

/-- The offset within its descriptor at which table `t` breaks R297 or R418. -/
def State.descBad (s : State) (t : Nat) : Option Nat :=
  let k := s.tKind t
  let w := s.tW t
  let len := s.tLen t
  let p := s.tParam t
  let aux := s.td t 6
  if 5 < k ∨ w = 128 then some 0
  else if (k = 3 ∨ k = 4) ∧ !s.tDual t then some 0
  else if (s.tMeter t ∨ s.tRing t) ∧ (k ≠ 1 ∨ w ≠ 32) then some 0
  else if s.tMeter t ∧ s.tRing t then some 0
  else if s.tDual t ∧ (s.tMeter t ∨ s.tRing t ∨ k = 5) then some 0
  else if k = 0 then none
  else if s.tMirror t ∧ (s.banks t).any (fun b => decide ((s.tPlace t b).1 / 16 ≠ b2n (s.tPrim t))) then some 0
  else if k = 2 ∧ (len % 4 ≠ 0 ∨ !(List.range 24).any (fun i => len / 4 = 2 ^ i) ∨ p % 4 ≠ 0 ∨ p < 4 ∨ w - 8 < p) then some 12
  else if k = 3 ∧ (p = 0 ∨ 16 < p) then some 12
  else if k = 4 ∧ (p = 0 ∨ 6 < p ∨ len ≠ 8 ^ p) then some 12
  else if k = 5 ∧ (bits aux 9 0 = 0 ∨ (w - 8) * 8 < bits aux 9 0 ∨ 100 < bits aux 23 16 ∨ bits aux 15 10 ≠ 0 ∨ bits aux 31 24 ≠ 0) then some 24
  else match (s.banks t).find? (s.bankBad t) with
    | some b => some (if b then 8 else 4)
    | none => none

/-- Areas within a list share a row. -/
def areasMeet : List Area → Bool
  | [] => false
  | x :: t => t.any (fun y => x.meets y) || areasMeet t

/-- The first of the tables `ts` that breaks a rule or shares a row with itself or an earlier one: its descriptor's offset. -/
def State.descsBad (s : State) : List Area → List Nat → Option Nat
  | _, [] => none
  | seen, t :: rest =>
    match s.descBad t with
    | some o => some (32 * t + o)
    | none =>
      let xs := if s.tKind t = 0 then [] else s.tableAreas t
      if areasMeet xs || xs.any (fun x => seen.any (fun y => x.meets y)) then some (32 * t) else s.descsBad (seen ++ xs) rest

/-- The defined bits of descriptor word `w`; reserved bits read 0 (00 R9). -/
def descMask (w : Nat) : Nat := if w = 0 then 0x1FC30700 else if w = 1 ∨ w = 2 then 0x1F70FFFF else 0xFFFFFFFF

/-- The descriptors of a TABLES body in the table registers. -/
def State.putDescs (s : State) (d : Sec) : State :=
  forEach (List.range 256) s (fun t s => forEach (List.range 7) s (fun w s =>
    s.setRegN (tbA (0x1000 + 32 * t + 4 * w)) (s.flN (d.base + 32 * t + 4 * w) 4 &&& descMask w)))

/-- A row record: tile, first row, count, flash address of its data. -/
structure RowRec where
  tile : Nat
  row : Nat
  n : Nat
  base : Nat
deriving DecidableEq, Repr

/-- The row records from body offset `o` on: the records, or the offset of the refused one. -/
def State.rowRecs (s : State) (d : Sec) : Nat → Nat → List RowRec × Option Nat
  | 0, o => ([], if o = d.len then none else some o)
  | fuel + 1, o =>
    if o = d.len then ([], none)
    else
      let n := fun (p k : Nat) => s.flN (d.base + o + p) k
      if d.len < o + 8 ∨ 32 ≤ n 0 1 ∨ n 1 1 ≠ 0 ∨ n 6 2 ≠ 0 ∨ d.len < o + 8 + 32 * n 4 2 ∨ 65536 < n 2 2 + n 4 2 then ([], some o)
      else
        let (rs, e) := s.rowRecs d fuel (o + 8 + 32 * n 4 2)
        (⟨n 0 1, n 2 2, n 4 2, d.base + o + 8⟩ :: rs, e)

/-- TABLES. -/
def State.tablesBad (s : State) (d : Sec) : Option Nat :=
  if d.len < 8192 then some d.len
  else match (s.putDescs d).descsBad [] (List.range 256) with
    | some o => some o
    | none => (s.rowRecs d (d.len / 8) 8192).2

/-! ### SCHEDULES (R432, 14 R414), HOLDUP_TABLE (R433), DEBUG_POLICY (18 R497) -/

/-- A schedule record: its table, LEN, NSPB, CYCLE, flash address of its entries. -/
structure SchRec where
  t : Nat
  len : Nat
  nspb : Nat
  cycle : Nat
  base : Nat
deriving DecidableEq, Repr

/-- The schedule records from body offset `o` on; `seen` are the tables that have one. -/
def State.schRecs (s : State) (d : Sec) : Nat → Nat → List Nat → List SchRec × Option Nat
  | 0, o, _ => ([], if o = d.len then none else some o)
  | fuel + 1, o, seen =>
    if o = d.len then ([], none)
    else
      let n := fun (p k : Nat) => s.flN (d.base + o + p) k
      if d.len < o + 16 ∨ 64 ≤ n 0 1 ∨ n 1 1 ≠ 0 ∨ n 6 2 ≠ 0 ∨ n 12 4 ≠ 0 ∨ n 0 1 ∈ seen ∨ 1024 < n 2 2 ∨ d.len < o + 16 + 4 * n 2 2 then
        ([], some o)
      else match firstBad (n 2 2) (fun i => n (16 + 4 * i) 4 % 2 ^ 24 = 0) with
        | some i => ([], some (o + 16 + 4 * i))
        | none =>
          if n 2 2 ≠ 0 ∧ (n 8 4 < 1000 ∨ nsPerSec < n 8 4) then ([], some (o + 8))
          else
            let (rs, e) := s.schRecs d fuel (o + 16 + 4 * n 2 2) (n 0 1 :: seen)
            (⟨n 0 1, n 2 2, n 4 2, n 8 4, d.base + o + 16⟩ :: rs, e)

/-- HOLDUP_TABLE. -/
def State.holdupBad (s : State) (d : Sec) : Option Nat :=
  sizeBad d 8 (firstBad (min 8 d.len) (fun i => if i < 3 then s.flN (d.base + i) 1 = 0 else s.flN (d.base + i) 1 ≠ 0))

/-- DEBUG_POLICY. -/
def State.policyBad (s : State) (d : Sec) : Option Nat :=
  if d.len = 4 ∧ s.flN d.base 4 < 3 then none else some 0

/-- The refused item of a body. -/
def State.bodyBad (s : State) (d : Sec) : Option Nat :=
  if d.ty = 0x01 then s.presetsBad d
  else if d.ty = 0x02 then s.chMapBad d
  else if d.ty = 0x03 then s.laneMapBad d
  else if d.ty = 0x04 then s.arbBad d
  else if d.ty = 0x10 then s.rankCodeBad d
  else if d.ty = 0x11 then s.microBad d
  else if d.ty = 0x12 then s.stwCodeBad d
  else if d.ty = 0x13 then parseBad d
  else if d.ty = 0x14 then s.tablesBad d
  else if d.ty = 0x15 then (s.schRecs d (d.len / 16) 0 []).2
  else if d.ty = 0x16 then s.holdupBad d
  else s.policyBad d

/-! ### The whole check -/

/-- Bodies in ascending OFFSET; an absent section has none. -/
def insertSec (d : Sec) : List Sec → List Sec
  | [] => [d]
  | e :: t => if d.off < e.off then d :: e :: t else e :: insertSec d t

def byOffset (ds : List Sec) : List Sec := (ds.filter (fun d => d.len ≠ 0)).foldl (fun xs d => insertSec d xs) []

/-- The first body that is refused: an item as it is read, the CRC as the body ends (log entry 44). -/
def State.bodiesBad (s : State) : List Sec → Option ImgErr
  | [] => none
  | d :: t =>
    match s.bodyBad d with
    | some o => some ⟨0x0B, d.ty, d.ix, o⟩
    | none => if (crc32 0 (s.flR d.base d.len)).toNat ≠ d.crc then some ⟨0x09, d.ty, d.ix, 0⟩ else s.bodiesBad t

/-- The value that BLOCK_PRESETS leaves in a register. -/
def State.presetOf (s : State) (d : Sec) (a : Nat) : Nat :=
  (s.presetRecs d).foldl (fun v r => if r.2.1 = a then r.2.2 else v) 0

/-- Cross-section checks, made after the last body: a channel's lane is USED, its POOL has PREFETCH; a rank with a parse
graph leaves room for it and keeps page 15 from execution (05 R148, 09 R275). -/
def State.crossBad (s : State) (ds : List Sec) : Option ImgErr :=
  match secOf ds 1 0, secOf ds 2 0, secOf ds 3 0 with
  | some pre, some cm, some lm =>
    let pref := (List.range 8).map (fun p => s.presetOf pre (bufA (4 * p)) / 256 % 32)
    let used := (List.range 256).map (fun l => decide (2 ^ 31 ≤ s.flN (lm.base + 4 * l) 4))
    match firstBad 1024 (fun n =>
        let w := s.flN (cm.base + 8 * n) 4
        !used.getD (w % 256) false || decide (pref.getD (w / 512 % 8) 0 = 0)) with
    | some n => some ⟨0x0B, 0x02, 0, 8 * n⟩
    | none =>
      ((List.range 12).findSome? (fun r =>
        match secOf ds 0x10 r, secOf ds 0x13 r with
        | some c, some _ =>
          if 63488 < s.flN (c.base + 12) 4 then some ⟨0x0B, 0x10, r, 12⟩
          else if 32768 ≤ s.flN c.base 2 then some ⟨0x0B, 0x10, r, 0⟩
          else none
        | _, _ => none))
  | _, _, _ => none

/-- What the loader finds wrong with the image in a slot; none: it loads. -/
def State.imageBad (s : State) (slot : Nat) : Option ImgErr :=
  let b := slotBase slot
  match s.hdrBad b with
  | some f => some ⟨f, 0, 0, 0⟩
  | none =>
    let ds := s.dirOf b
    if dirBad (s.flN (b + 8) 4) ds then some ⟨8, 0, 0, 0⟩
    else if mandatory.any (fun m => (secOf ds m.1 m.2).isNone) then some ⟨0xA, 0, 0, 0⟩
    else match s.bodiesBad (byOffset ds) with
      | some e => some e
      | none => s.crossBad ds

/-! ### What the loader writes (15 R434 step 4, 12 R367) -/

/-- A body, or nothing where the section is absent. -/
def withSec (ds : List Sec) (ty ix : Nat) (s : State) (f : Sec → State) : State :=
  match secOf ds ty ix with
  | some d => f d
  | none => s

/-- The code space of a rank: its code, then 0xFF, with its parse graph at 0xF800. -/
def State.codeImage (s : State) (c : Sec) (g : Option Sec) : List Byte :=
  let code := s.flR (c.base + 32) (s.flN (c.base + 12) 4)
  let full := code ++ List.replicate (0x10000 - code.length) 0xFF
  match g with
  | none => full
  | some d => overlay full 0xF800 (s.flR d.base d.len)

/-- The program library's entry of rank `r`: code space, record, CRC (log entry 41). -/
def State.putLib (s : State) (r : Nat) (c : Sec) (code : List Byte) (nodes : Nat) : State :=
  let n := fun (p k : Nat) => s.flR (c.base + p) k
  let rec_ := n 0 8 ++ leBytes 4 (seedOf (s.flN (c.base + 8) 4)) ++ leBytes 4 nodes
  let crc := crc32 0 (code ++ rec_)
  (s.sramLoad (libCode r) code).sramLoad (libRec r) (rec_ ++ leBytes 4 crc.toNat)

/-- A micro-patch part in the program library: words, map, level, CRC. -/
def State.putMicroLib (s : State) (a w m lv : Nat) : State :=
  let bs := s.flR w 3072 ++ s.flR m 128 ++ leBytes 4 (s.flN lv 2)
  s.sramLoad a (bs ++ leBytes 4 (crc32 0 bs).toNat)

/-- A rank's code into the library and all 13 instruction stores; its record into registers and cores. -/
def State.loadRank (s : State) (ds : List Sec) (r : Nat) : State :=
  withSec ds 0x10 r s (fun c =>
    let g := secOf ds 0x13 r
    let code := s.codeImage c g
    let nodes := match g with | some d => d.len / 32 | none => 0
    let s1 := s.putLib r c code nodes
    let s2 := forEach (List.range 13) s1 (fun k s => { s with code := mload 0xFF s.code (cdA (13 * r + k) 0) code })
    s2.libRecord r)

/-- A steward's code, NX map, VBASE and DSEED. -/
def State.loadStw (s : State) (ds : List Sec) (i : Nat) : State :=
  withSec ds 0x12 i s (fun d =>
    let s1 := { s with stwCode := mload 0xFF s.stwCode (scA i 0) (s.flR (d.base + 32) (s.flN (d.base + 16) 4)) }
    let s2 := s1.setStw i { s1.stwd i with nx := BitVec.ofNat 64 (s.flN d.base 8) }
    s2.setCore (stwCore i) { s2.core (stwCore i) with vbase := BitVec.ofNat 32 (s.flN (d.base + 8) 4),
                                                      dseed := BitVec.ofNat 32 (seedOf (s.flN (d.base + 12) 4)) })

/-- The patch RAM and map of every core, from the library (11 R351). -/
def State.loadMicro (s : State) (ds : List Sec) : State :=
  withSec ds 0x11 0 s (fun d =>
    let s1 := s.putMicroLib libPatch (d.base + 8) (d.base + 3080) (d.base + 4)
    let s2 := s1.putMicroLib 0xC2000 (d.base + 3208) (d.base + 6280) (d.base + 6)
    let s3 := forEach (List.range 156) s2 (fun ck s => s.libMicro ck)
    let lv := s3.srN (0xC2000 + 3200) 2
    if lv = 0 then s3
    else forEach (List.range 4) s3 (fun i s =>
      s.setCore (stwCore i) { s.core (stwCore i) with patch := s.libWords 0xC2000, pmap := s.libMap 0xC2000, plevel := BitVec.ofNat 16 lv }))

/-- Channel maps, START_PIPs at ingress and at every rank, arbiter classes. -/
def State.loadMaps (s : State) (ds : List Sec) : State :=
  let s1 := withSec ds 2 0 s (fun d => forEach (List.range 1024) s (fun n s =>
    (s.setRegN (inA (0x1000 + 4 * n)) (s.flN (d.base + 8 * n) 4)).setRegN (egA (0x1000 + 4 * n)) (s.flN (d.base + 8 * n + 4) 4)))
  let s2 := withSec ds 3 0 s1 (fun d =>
    let pips : Tab Pip := (List.range 256).map (fun l => (l, BitVec.ofNat 16 (s.flN (d.base + 4 * l) 4)))
    let t := { s1 with ing := { s1.ing with lanePip := pips } }
    forEach (List.range 12) t (fun r s => s.gateFresh r))
  withSec ds 4 0 s2 (fun d =>
    { s2 with tb := { s2.tb with cls := ((List.range 32).map (fun t => (List.range 15).map (fun q =>
        (t * 16 + q, s2.flN (d.base + 4 * t) 4 / 4 ^ q % 4)))).flatten } })

/-- Table descriptors and rows; rows of a tile that starts FAILED are skipped. -/
def State.loadTables (s : State) (ds : List Sec) : State :=
  withSec ds 0x14 0 s (fun d =>
    let s1 := s.putDescs d
    forEach ((s1.rowRecs d (d.len / 8) 8192).1.filter (fun r => !s1.failedTile r.tile)) s1 (fun r s =>
      { s with tile := mload 0 s.tile (tlA r.tile r.row 0) (s.flR r.base (32 * r.n)) }))

/-- Schedules: the operational copies, with base time 0. -/
def State.loadSchedules (s : State) (ds : List Sec) : State :=
  withSec ds 0x15 0 s (fun d =>
    forEach (s.schRecs d (d.len / 16) 0 []).1 s (fun r s =>
      let b := (s.sch r.t).oper
      let s1 := (s.setRegN (schP r.t b 0) (65536 * r.len + r.nspb)).setRegN (schP r.t b 4) (r.cycle % 2 ^ 30)
      forEach (List.range r.len) s1 (fun i s => s.setRegN (schE r.t b i) (s.flN (r.base + 4 * i) 4))))

/-- The contents of the image in a slot, written into the block. -/
def State.loadImage (s : State) (slot : Nat) : State :=
  let b := slotBase slot
  let ds := s.dirOf b
  let s1 := withSec ds 1 0 s (fun d => forEach (s.presetRecs d) s (fun r s => s.setRegN r.2.1 r.2.2))
  let s2 := forEach (List.range 4) (forEach (List.range 12) (s1.loadMaps ds) (fun r s => s.loadRank ds r)) (fun i s => s.loadStw ds i)
  let s3 := ((s2.loadMicro ds).loadTables ds).loadSchedules ds
  let s4 := withSec ds 0x16 0 s3 (fun d => { s3 with cfg := { s3.cfg with holdupTab := s3.flR d.base 3 } })
  let lv : BitVec 2 := match secOf ds 0x17 0 with
    | some d => BitVec.ofNat 2 (s4.flN d.base 4)
    | none => 0
  ({ s4 with dbg := { s4.dbg with level := lv } }).setRegN (cfA 0x18) (s4.flN (b + 16) 4)

end Sys2Proof.Machine
end

