-- ==== Sys2Proof/Machine/Start.lean ====
section
/-! DEFINITION. Start, attempts, minimal mode, the flash, hold-up, BOXED, cold reset (15, 16 R456–R462, 19 R517, R523). -/

namespace Sys2Proof.Machine

/-! ### What survives the loss of every domain -/

/-- Every domain loses its contents, a flash operation that has started runs to completion (15 R442); AO keeps its registers, its memory, the boot records, the maps of cores, the time it
has saved (16 R465, R466). -/
def State.powerClear (s : State) : State :=
  let s := s.flashLast
  let z := State.reset
  let ao := fun (a : Nat) => decide (keyDom a = 20) || keptInAo a
  { z with pending := s.pending, now := s.now, freeCount := s.freeCount, blk := s.blk,
           regs := tkeep s.regs (fun a _ => ao a), counters := tkeep s.counters (fun a _ => ao a),
           lw := tkeep s.lw (fun a _ => ao a), logs := tkeep s.logs (fun a _ => ao a), pins := s.pins, flash := s.flash,
           ao := s.ao, spFaulty := s.spFaulty, spFull := s.spFull, pm := s.pm,
           dom := tmap s.dom (fun _ x => { PDom.init with lost := x.lost, bad := x.bad, p0 := x.p0, exh := x.exh }),
           time := { z.time with savedAt := s.time.savedAt, saved := s.time.saved },
           cfg := { z.cfg with phase := s.cfg.phase, attempts := s.cfg.attempts, slot := s.cfg.slot, prefB := s.cfg.prefB,
                               startAt := s.cfg.startAt, cold := s.cfg.cold } }

/-- Domain `d` still holds its contents: it is ON or in HOLD, or an entry is under way. -/
def State.holds (s : State) (d : Nat) : Bool :=
  decide ((s.pdom d).st = .on) || decide ((s.pdom d).st = .hold) || (s.pdom d).entering.isSome

/-- Every domain goes OFF: those that hold their contents save their lists (16 R453). -/
def State.allOff (s : State) : State := (forEach ((List.range 20).filter s.holds) s (fun d s => s.save d)).powerClear

/-- A program or erase that a loss of VIN_CORE cuts leaves its bytes undefined (R443). -/
def State.cutFlash (s : State) : State :=
  match s.cfg.flash with
  | none => s
  | some f =>
    if f.kind = 1 ∨ f.deferred then s
    else
      let n := if f.kind = 2 then f.len else if f.kind = 3 then 4096 else 65536
      { s with flash := mload 0xFF s.flash f.addr ((List.range n).map (fun i => Config.cutFlashByte (s.freeCount + i))),
               freeCount := s.freeCount + n }

/-- The block is held as in a loss of VIN_CORE (19 R523): AO memory and the records of AO are cleared too. -/
def State.coldClear (s : State) : State :=
  let s1 := s.cutFlash
  { State.reset with pending := s1.pending, now := s1.now, freeCount := s1.freeCount, flash := s1.flash, spFaulty := s1.spFaulty,
                     pins := { s1.pins with detAck := false } }

/-- PORST: PORST_N is recognised low. -/
def execPorst (s : State) : Out :=
  let s1 := s.coldClear
  .next { s1 with pins := { s1.pins with porst := false } }

/-- VIN_CORE_LOSS. -/
def execVinCoreLoss (s : State) : Out :=
  let s1 := s.coldClear
  .next { s1 with pins := { s1.pins with vinCore := false } }

/-! ### The boot control block (R425, R426) -/

/-- Flash address of a BCB copy. -/
def bcbA (k : Nat) : Nat := 0x3000000 + 0x4000 * k

/-- A copy is valid. -/
def State.bcbOk (s : State) (k : Nat) : Bool :=
  decide (s.flN (bcbA k) 4 = 0x4243424B) && decide ((crc32 0 (s.flR (bcbA k) 16380)).toNat = s.flN (bcbA k + 16380) 4)

/-- The copy that the config loader uses: the valid one whose SEQ comes later; copy 0 where neither does. -/
def State.bcbPick (s : State) : Option Nat :=
  let q := fun (k : Nat) => BitVec.ofNat 32 (s.flN (bcbA k + 4) 4)
  match s.bcbOk 0, s.bcbOk 1 with
  | true, true => some (if serBefore (q 0) (q 1) then 1 else 0)
  | true, false => some 0
  | false, true => some 1
  | false, false => none

/-- The preferred slot and the repair map from the BCB; slot A and an empty map where no copy is valid. -/
def State.readBcb (s : State) : State :=
  match s.bcbPick with
  | none => { s with cfg := { s.cfg with prefB := false }, ao := mload 0 s.ao 0x100 (List.replicate 11024 0) }
  | some k =>
    let s1 := { s with cfg := { s.cfg with prefB := decide (s.flN (bcbA k + 8) 1 % 2 = 1) } }
    { s1 with ao := mload 0 s1.ao 0x100 (s1.flR (bcbA k + 16) 11024) }

/-! ### An attempt (R434 steps 1 to 3, R437) -/

/-- The cores of rank `r` that are not retired, ascending. -/
def State.unretired (s : State) (r : Nat) : List Nat := (List.range 13).filter (fun c => !bit (s.reg (coreMap r)) c)

/-- The unretired cores take the seats in ascending number (17 R472); a retired core stays gated. -/
def State.seatAll (s : State) (r : Nat) : State :=
  let cs := s.unretired r
  let s1 := s.setRank r { s.rank r with seats := cs ++ List.replicate (13 - cs.length) 15 }
  let s2 := forEach ((List.range 13).filter (fun c => !cs.contains c)) s1 (fun c s =>
    s.setCore (r * 13 + c) { s.core (r * 13 + c) with retired := true, gated := true })
  s2.mapReserve r

/-- A row of a bank is in the repair map. -/
def State.mapped (s : State) (r t bank row : Nat) : Bool :=
  (List.range 4).any (fun i => decide (leNat (s.aoR (0x100 + ((r * 13 + t) * 8 + bank) * 8 + 2 * i) 2) = 0x8000 + row % 512))

/-- A faulty word lies in a row of the repair map. -/
def State.rowMapped (s : State) (e : Nat × Nat × Nat) : Bool :=
  match s.seatOf (e.1 / 13) (e.1 % 13) with
  | some t => s.mapped (e.1 / 13) t e.2.1 (e.2.2 / 8)
  | none => false

/-- The repair map takes effect for this start: its rows are served by spare rows, and a tile with its FULL mark starts FAILED
(11 R345). -/
def State.applyRepair (s : State) : State :=
  let s1 := forEach (s.spFaulty.filter s.rowMapped) s (fun e s =>
    let x := s.rank (e.1 / 13)
    s.setRank (e.1 / 13) { x with spares := x.spares ++ [e] })
  forEach ((List.range 32).filter (fun t => decide (leNat (s1.aoR (0x100 + 10000 + 32 * t) 4) / 2 ^ 30 % 2 = 1))) s1 (fun t s => s.failTile t 2)

/-- Seat `t` of rank `r` is out of service; the reserve takes a seat 0–11 (11 R345). -/
def State.seatOut (s : State) (r t : Nat) : State :=
  match s.seatCore r t with
  | none => s
  | some _ =>
    let s1 := s.putSeat r t 15
    match s1.seatCore r 12 with
    | some c => if t < 12 then (s1.putSeat r 12 15).putSeat r t c else s1
    | none => s1

/-- Every seat with a FULL bank, seat 12 first. -/
def State.seatsOut (s : State) : State :=
  forEach (s.spFull.filter (fun e => decide (e.2 = 12)) ++ s.spFull.filter (fun e => decide (e.2 ≠ 12))) s (fun e s => s.seatOut e.1 e.2)

/-- BOOT_REASON, offset 4. -/
def bootReason : Nat := cfA 4

/-- Steps 2 and 3: every domain ON, the BCB read where the start is a power-on start, the repair map applied, the flash
found; the image of the attempt's slot comes next (R434, R437). -/
def State.beginAttempt (s : State) : State :=
  let s := if s.fld bootReason 23 16 = 1 then s.readBcb else s
  let slot := if (s.cfg.attempts = 2) ≠ s.cfg.prefB then 1 else 0
  let warm := decide (s.fld bootReason 23 16 = 2)
  let s0 := s.allOff
  let s1 := { s0 with blk := 1, cfg := { s0.cfg with phase := 1, slot := slot, cold := false },
                      dom := (List.range 20).map (fun d => (d, { PDom.init with st := .on, plevel := if d < 12 then 1 else 0,
                                                                                p0 := (s0.pdom d).p0, exh := (s0.pdom d).exh })),
                      time := { s0.time with locked := true } }
  let s2 := (forEach (List.range 12) s1 (fun r s => (s.setRank r { s.rank r with gstCap := Config.gstCap r }).seatAll r)).applyRepair.seatsOut
  let s3 := ((s2.setFld bootReason 27 26 s2.cfg.attempts).setFld bootReason 25 25 slot).setFld bootReason 31 31 0
  let s4 := s3.setRegN (cfA 0x1C) (2 ^ 31 + Config.flashSizeLog2.toNat)
  (if warm then s4.timeRestore else s4).startAllP

/-- A start of a new cause: attempt 1, and the counts of P0 time cleared (16 R460). -/
def State.newStart (s : State) (cause : Nat) : State :=
  (({ s with blk := 0, cfg := { s.cfg with attempts := 1, phase := 4, startAt := s.now },
             dom := tmap s.dom (fun _ x => { x with p0 := [], exh := false }) }).setRegN bootReason (2 ^ 26 + at_ cause 16))

/-- POWER_ON_START: VIN_CORE has reached its minimum and PORST_N is high. -/
def execPowerOnStart (s : State) : Out :=
  .next (if !s.cfg.cold then s
    else
      let s1 := { s with pins := { s.pins with porst := true, vinCore := true } }
      (s1.newStart 1).beginAttempt)

/-- START_ATTEMPT_BEGIN: the next attempt, 1 ms after a failure; after RESTART once egress has sent the reply. -/
def execStartAttemptBegin (s : State) : Out :=
  .next (if s.cfg.phase ≠ 4 || s.pm.coolWait || s.now < s.cfg.startAt || !s.eg.frames.isEmpty then s else s.beginAttempt)

/-! ### A failed attempt (R437–R439) -/

/-- The failure enters BOOT_REC0, BOOT_REASON and, for 0x0B, BOOT_FAIL_OFF. -/
def State.recordFail (s : State) (e : ImgErr) : State :=
  let s1 := (s.setReg (cfA 0x10) (s.reg (cfA 0xC))).setReg (cfA 0xC) (s.reg (cfA 8))
  let s2 := s1.setRegN (cfA 8) (2 ^ 31 + at_ s1.cfg.slot 25 + at_ e.fail 16 + at_ e.ty 8 + e.ix)
  let s3 := s2.setFld bootReason 7 0 e.fail
  if e.fail = 0x0B then s3.setRegN (cfA 0x14) e.off else s3


/-- Minimal mode: PD_STW, PD_CFG, PD_IN and PD_OUT stay ON, every other domain is OFF; CH 0 is served: it enters
ATTACHING as in a start (02 R60, R64; log entry 83); steward 0 alone runs, from its ROM. -/
def State.minimal (s : State) : State :=
  let off := List.range 12 ++ [dTblN, dTblS, dTime, dDbg]
  let s1 := forEach off s (fun d s => ((if s.holds d then s.save d else s).holdCopies d).lose d false)
  let s2 := { s1 with blk := 3, cfg := { s1.cfg with phase := 0, holdupTab := [2, 8, 20], minQ := [] },
                      dom := [dIn, dOut, dStw, dCfg].map (fun d => (d, { PDom.init with st := .on })), stw := [],
                      ctxs := tkeep s1.ctxs (fun k _ => decide (k < 1404)), dbg := { s1.dbg with level := 2 } }
  ((s2.setStw 0 { s2.stwd 0 with started := true }).attach 0).setFld bootReason 24 24 1

/-- An attempt fails: the next begins after 1 ms, or minimal mode after the third. -/
def State.failStart (s : State) (e : ImgErr) : State :=
  let s1 := s.recordFail e
  if 3 ≤ s1.cfg.attempts then s1.minimal
  else
    let s2 := s1.allOff
    { s2 with blk := 0, cfg := { s2.cfg with phase := 4, attempts := s2.cfg.attempts + 1, startAt := s2.now + 1000000 } }

/-- A fault of steward 0 before CFG_START_OK has failed the attempt; what follows comes at START_ATTEMPT_FAIL with 0xD, or with the
next 2 ns (R438; log entry 63). -/
def State.failPending (s : State) : State := if s.cfg.phase = 5 then s.failStart ⟨0xD, 0, 0, 0⟩ else s

/-- START_ATTEMPT_FAIL: a failure of the flash (1–3), a check of the image (4–0xB), a fault of steward 0 (0xD). -/
def execStartAttemptFail (code : Byte) (s : State) : Out :=
  let n := code.toNat
  .next (if s.cfg.phase = 1 then
      if n = 1 ∨ n = 2 then (s.setRegN (cfA 0x1C) 0).failStart ⟨n, 0, 0, 0⟩
      else if n = 3 then s.failStart ⟨n, 0, 0, 0⟩
      else match s.imageBad s.cfg.slot with
        | some e => if e.fail = n then s.failStart e else s
        | none => s
    else if s.cfg.phase = 5 && n = 0xD then s.failStart ⟨n, 0, 0, 0⟩
    else s)

/-- IMAGE_LOADED: the image passes every check and is written into the block; the scratchpads are clear, and the stewards
with code start at their entry-0 addresses (R434 steps 4 to 6). An image that fails a check fails the attempt. -/
def execImageLoaded (s : State) : Out :=
  .next (if s.cfg.phase ≠ 1 then s
    else match s.imageBad s.cfg.slot with
      | some e => s.failStart e
      | none =>
        let ds := s.dirOf (slotBase s.cfg.slot)
        let s1 := s.loadImage s.cfg.slot
        let s2 := forEach ((List.range 4).filter (fun i => (secOf ds 0x12 i).isSome)) s1 (fun i s => s.stwStart i)
        { s2 with cfg := { s2.cfg with phase := 2, startAt := s2.now }, blkWdog := 0, blkWarn := false })

/-! ### A good start (R436, 16 R447) -/

/-- The start is good: RUNNING, the initial votes, CH 0 and the auto-attached channels. -/
def State.goodStart (s : State) : State :=
  let s1 : State := ({ s with blk := 2, cfg := { s.cfg with phase := 3 } } : State).setFld bootReason 31 31 1
  let s2 := forEach (List.range 20) s1 (fun d s => s.voteSet d 0)
  let s3 := s2.voteSet dCfg 4
  let s4 : State := if s3.dbg.level = 2 then s3 else s3.voteSet dDbg 5
  let s5 := if 2 ≤ s4.cfg.attempts then s4.orReg (cfA 0x38) 8 else s4
  forEach ((List.range 1024).filter (fun ch => decide (ch = 0) || bit (s5.inMap ch) 12)) s5 (fun ch s => s.attach ch)

/-- The CK_AO cycle, 1 µs each, of the 2 s limit of a start: a CFG_START_OK in that same cycle is good (R443). -/
def State.startLimit (s : State) : Nat := (s.cfg.startAt + 2000000000) / 1000

/-- A CFG_START_OK write. -/
def State.startOk (s : State) (q : Req) (ok : Bool) : State :=
  if q = .stw 0 && ok && s.blk = 1 && s.cfg.phase = 2 && decide (s.now / 1000 ≤ s.startLimit) then s.goodStart else s

/-- CFG_START_OK. -/
def execCfgStartOk (q : Req) (ok : Bool) (s : State) : Out := .next (s.writeCmd q (cfA 0) (fun s => s.startOk q ok))

/-- START_TIMEOUT: no CFG_START_OK within 2 s of the release. -/
def execStartTimeout (s : State) : Out :=
  .next (if s.cfg.phase ≠ 2 || decide (s.now / 1000 ≤ s.startLimit) then s else s.failStart ⟨0xC, 0, 0, 0⟩)

/-- BLOCK_WATCHDOG_EXPIRY (17 R480). -/
def execBlockWatchdogExpiry (s : State) : Out :=
  let halted := (List.range 4).any (fun i => (s.core (stwCore i)).halted)
  let due := decide (s.fld (swA 0x300) 31 16 ≠ 0) && decide (1000000 * s.fld (swA 0x300) 31 16 ≤ s.blkWdog)
  .next (if !s.runs dStw || halted || !due then s
    else if s.cfg.phase = 2 then s.failStart ⟨0xE, 0, 0, 0⟩
    else if s.cfg.phase ≠ 3 then s
    else
      let s1 := { s with blkWdog := 0 }
      if !s.blkWarn then { s1 with blkWarn := true }.orReg (swA 0x320) 1
      else
        let s2 := { s1 with blkWarn := false }.orReg (swA 0x320) 2
        forEach ((List.range 4).filter (fun i => (s2.stwd i).started)) s2 (fun i s => 
          ((s.setFld (stwCause i) 27 24 6).setFld (stwCause i) 17 0 ((s.ctx (stwKey i)).pc.toNat % 0x40000)).stwStart i))

/-! ### BOXED (16 R456, R457, R462) -/

/-- Domain `d` goes OFF for BOXED: from ON by an entry; one that is entering REST or OFF goes on to OFF; one in HOLD, whose clock stands,
saves its list as it is; a wake is abandoned. -/
def State.boxDom (s : State) (d : Nat) : State :=
  let x := s.pdom d
  let off := fun (t : State) (e : Option DSt) => t.setDom d { x with st := .off, entering := e, waking := false, latch := false, pchg := none }
  if x.st = .on then s.leave d .off
  else if x.st = .hold then off ((s.save d).pgFall d) none
  else off s (x.entering.map (fun _ => .off))

/-- The entry into BOXED begins: votes cleared, the domains enter OFF in parallel (R450, R456). -/
def State.beginBoxed (s : State) (cause sensor temp : Nat) : State :=
  let s1 := forEach (List.range 20) s (fun d s => s.boxDom d)
  let s2 := { s1 with pm := { s1.pm with boxing := true, boxAt := s1.now + 4000, coolWait := false },
                      cfg := { s1.cfg with phase := 0 }, dom := tmap s1.dom (fun _ x => { x with vote := 0 }) }
  s2.setRegN (pmA 0x504) (2 ^ 31 + at_ cause 24 + at_ sensor 20 + temp)

/-- BLOCK_DETACHED: every channel is DETACHED and the free queue is empty (R68 steps 4 to 6). The ledger commits what is due
and discards the rest. A paused PMC begins no entry (17 R487). -/
def execBlockDetached (s : State) : Out :=
  let s1 := s.flushExc
  let hs := s1.ownHandles
  let s2 := hs.foldl (fun (s : State) h => { s with buf := { s.buf with
      freeq := s.buf.freeq ++ [{ id := s.buf.freeNo, h := h, owner := 0, lane := 0, pip := 0, held := false, walking := false, chs := [] }],
      freeNo := s.buf.freeNo + 1 } }) { s1 with buf := { s1.buf with store := [] }, ing := { s1.ing with resv := none } }
  .next (if !s.detaching || s.blk ≠ 2 || s.chSt.any (fun e => e.2 ≠ 0) then s
    else if (s.pdom dPmc).paused || !s2.buf.freeq.isEmpty || !s2.buf.outc.isEmpty || s2.led.ent.any (fun e => e.2.due || e.2.com) then s2
    else
      let n := (s2.led.ent.filter (fun e => e.2.used)).length
      let s3 := ({ s2 with led := { s2.led with ent := [] } }).count (ldA 0x120) n
      let s4 := { s3 with blk := 4, detaching := false, pins := { s3.pins with detAck := true } }
      s4.beginBoxed 1 0 0)

/-- THERMAL_LIMIT: a sensor at 125 °C or more; frames in flight are lost. A paused PMC begins the entry once it goes on (17 R487). -/
def execThermalLimit (i : Fin 16) (temp : BitVec 11) (s : State) : Out :=
  let s1 := s.sense i.val temp
  .next (if !s.awake || s.blk = 5 then s
    else if s.pm.boxing || (s.pdom dPmc).paused || temp.toInt < 500 then s1
    else s1.beginBoxed 2 i.val temp.toNat)

/-- A warm start (R457): after a thermal entry it waits until every sensor reads 110 °C or less. -/
def State.warmStart (s : State) : State :=
  let hot := decide (s.fld (pmA 0x504) 25 24 = 2) && s.hotter 440
  let s1 := s.newStart 2
  if hot then { s1 with pm := { s1.pm with coolWait := true } } else s1.beginAttempt

/-- BOXED_ENTRY: the domains are OFF and the PMC stops; a WAKE_N latched meanwhile is replayed and starts the block again
(R451, R464). -/
def execBoxedEntry (s : State) : Out :=
  .next (if !s.pm.boxing || (s.pdom dPmc).paused || s.now < s.pm.boxAt then s
    else
      let s1 := s.powerClear
      let s2 := { s1 with blk := 5, pm := { s1.pm with boxing := false, boxWake := false, force := false } }
      if s.pm.boxWake then ((s2.orReg (pmA 0x500) 16).count (pmA 0x808)).warmStart else s2)

/-- WAKE_N: a low level of 1 µs or more. -/
def execWakeN (s : State) : Out :=
  .next (if !s.awake then s
    else if s.pm.boxing then { s with pm := { s.pm with boxWake := true } }
    else if s.blk = 5 then s.warmStart
    else if s.blk = 2 || s.blk = 3 then (s.voteSet dCfg 4).orReg (pmA 0x500) 64
    else s)

/-- THERMAL_FORCE_END: every sensor at 110 °C or less ends the P2 force, and lets a waiting warm start go on. -/
def execThermalForceEnd (i : Fin 16) (temp : BitVec 11) (s : State) : Out :=
  let s1 := s.sense i.val temp
  .next (if !s.awake || s.blk = 5 then s
    else if s1.hotter 440 then s1.startAllP
    else
      let w := s1.pm.coolWait
      let s2 := { s1 with pm := { s1.pm with force := false, coolWait := false } }
      if w then s2.beginAttempt else s2.startAllP)

/-! ### Flash commands (R441, R442) -/

/-- The energy of a program (2) or erase (3, 4). -/
def State.energy (s : State) (kind : Nat) : Nat := (s.cfg.holdupTab.getD (kind - 2) 0).toNat

/-- The check of R442 passes: HOLDUP_VALID and enough energy. -/
def State.heldUp (s : State) (kind : Nat) : Bool :=
  bit (s.reg (cfA 0x34)) 31 && decide (s.energy kind ≤ s.fld (cfA 0x34) 7 0)

/-- The lowest reason for which a command is refused; 0 accepted. -/
def State.flReason (s : State) (kind : Nat) : Nat :=
  let a := s.fld (cfA 0x24) 25 0
  let len := s.fld (cfA 0x2C) 16 0
  let n := flLen kind len
  if s.cfg.flash.isSome then 1
  else if (kind = 1 ∧ (len = 0 ∨ 65536 < len)) ∨ (kind = 2 ∧ (len = 0 ∨ 256 < a % 256 + len)) ∨ (kind = 3 ∧ a % 4096 ≠ 0) ∨
      (kind = 4 ∧ a % 65536 ≠ 0) then 2
  else if 2 ≤ kind ∧ a < slotBase s.cfg.slot + 0x1800000 ∧ slotBase s.cfg.slot < a + n then 3
  else if 0x4000000 < a + n then 4
  else 0

/-- A FLASH_CMD write with OP = `kind` 1–4. -/
def State.flashCmd (s : State) (kind : Nat) : State :=
  let n := s.flReason kind
  if n ≠ 0 then ((s.setFld flSt 29 28 2).setFld flSt 27 25 n).orReg cfgEv 2
  else
    let ok := kind = 1 || s.heldUp kind
    let f : FlCmd := ⟨kind, s.fld (cfA 0x24) 25 0, s.fld (cfA 0x28) 20 0, s.fld (cfA 0x2C) 16 0, !ok, none⟩
    let s1 := { s with cfg := { s.cfg with flash := some f } }
    if ok then s1.setRegN flSt (2 ^ 31) else (s1.setRegN flSt (2 ^ 30 + s.energy kind)).orReg cfgEv 4

/-- FLASH_CMD OP = 5: a deferred command is cancelled, one that a change of HOLDUP has let begin in the same CK_CFG cycle, 5 ns, too
(R443). -/
def State.flashCancel (s : State) : State :=
  match s.cfg.flash with
  | some f => if f.deferred || decide (f.tried.map (· / 5) = some (s.now / 5)) then ({ s with cfg := { s.cfg with flash := none } }).setRegN flSt (at_ 5 25) else s
  | none => s

/-- FLASH_READ. -/
def execFlashRead (q : Req) (s : State) : Out := .next (s.writeCmd q (cfA 0x20) (fun s => s.flashCmd 1))
/-- FLASH_PROGRAM. -/
def execFlashProgram (q : Req) (s : State) : Out := .next (s.writeCmd q (cfA 0x20) (fun s => s.flashCmd 2))
/-- FLASH_ERASE_4K. -/
def execFlashErase4k (q : Req) (s : State) : Out := .next (s.writeCmd q (cfA 0x20) (fun s => s.flashCmd 3))
/-- FLASH_ERASE_64K. -/
def execFlashErase64k (q : Req) (s : State) : Out := .next (s.writeCmd q (cfA 0x20) (fun s => s.flashCmd 4))
/-- FLASH_CANCEL. -/
def execFlashCancel (q : Req) (s : State) : Out := .next (s.writeCmd q (cfA 0x20) State.flashCancel)

/-- HOLDUP_CHANGE: a new value is taken where PD_CFG is ON (19 R522); a deferred command is tried again. -/
def execHoldupChange (valid : Bool) (v : Byte) (s : State) : Out :=
  .next (if !s.ready dCfg then s
    else
      let s1 := s.setRegN (cfA 0x34) (2 ^ 31 * b2n valid + v.toNat)
      match s1.cfg.flash with
      | some f => if f.deferred && s1.heldUp f.kind then
          ({ s1 with cfg := { s1.cfg with flash := some { f with deferred := false, tried := some s.now } } }).setRegN flSt (2 ^ 31) else s1
      | none => s1)

/-- FLASH_CMD_COMPLETE: the command in progress ends, well or with a device error or timeout. -/
def execFlashCmdComplete (err : Bool) (s : State) : Out :=
  .next (match s.cfg.flash with
    | none => s
    | some f =>
      if !s.runs dCfg || f.deferred then s
      else
        let s1 := { s with cfg := { s.cfg with flash := none } }
        if err then (s1.setRegN flSt (2 ^ 28)).orReg cfgEv 2
        else s1.flashEnd f)

/-! ### Minimal mode (R439, R440) -/

/-- A command block: its bytes, the frame that carried it, and the state without it. -/
structure MinCmd where
  blk : List Byte
  frame : Option (List Byte)
  rest : State
deriving DecidableEq, Repr

/-- Bytes `p` to `p + n` of a block as a number. -/
def numAt (bs : List Byte) (p n : Nat) : Nat := leNat ((bs.drop p).take n)

/-- The command block in front: in the mailbox while latch 240 is set, or in the first CH 0 frame with the EtherType
0x88B5; the frames before it are discarded. -/
def State.minTake (s : State) (via : MinVia) : Option MinCmd :=
  match via with
  | .mailbox =>
    if s.ic.latches.getLsbD 0 then
      let s1 := s.srSweep 0x1FC000 4112
      some ⟨s1.srR 0x1FC000 4112, none, { s1 with ic := { s1.ic with latches := s1.ic.latches &&& 0xFFFE } }⟩
    else none
  | .frame =>
    match s.cfg.minQ.dropWhile (fun f => decide ((f.drop 12).take 2 ≠ [0x88, 0xB5])) with
    | [] => none
    | f :: t => some ⟨f.drop 14, some f, { s with cfg := { s.cfg with minQ := t } }⟩

/-- The reply: in the mailbox's reply area with IC_HOST_DB bit 0, or as a frame on egress CH 0 (log entry 46). -/
def State.minReply (s : State) (m : MinCmd) (status : Nat) (data : List Byte) : State :=
  let r := m.blk.take 4 ++ leBytes 4 status ++ leBytes 4 data.length ++ leBytes 4 0 ++ data
  match m.frame with
  | none => (s.sramLoad 0x1FE000 r).orReg (icA 0x8C) 1
  | some f =>
    let bs := (f.drop 6).take 6 ++ f.take 6 ++ [0x88, 0xB5] ++ r
    let md := { Meta.zero with verdict := 1, len := BitVec.ofNat 14 (bs.length + 4), egValid := true }
    s.egAdd md (bs ++ [0, 0, 0, 0]) 0 0 none false

/-- What a minimal-mode command comes to: done, or deferred for the energy of an operation kind. -/
inductive MinEnd where
  | done (s : State)
  | defer (kind : Nat)

/-- A minimal-mode program or erase of `kind` is deferred: DEFER and REQ in FLASH_STATUS, DEFER in CFG_EV (R442). -/
def State.minDefer (s : State) (kind : Nat) : State := (s.setRegN flSt (2 ^ 30 + s.energy kind)).orReg cfgEv 4

/-- The check passes after a deferral: DEFER and REQ are 0 again. -/
def State.undefer (s : State) : State := if s.cfg.flash.isNone && bit (s.reg flSt) 30 then s.setRegN flSt 0 else s

/-- A minimal-mode command with OP `op`: `f` runs it on the state without its block, or says for which energy it waits (R440). A block
with an unknown OP is discarded. -/
def State.minRun (s : State) (via : MinVia) (op : Nat) (f : State → MinCmd → MinEnd) : State :=
  if s.blk ≠ 3 || !s.isOn dStw || !s.isOn dCfg then s
  else match s.minTake via with
    | none => s
    | some m =>
      let o := numAt m.blk 0 1
      if o = 0 ∨ 6 < o then m.rest
      else if o ≠ op then s
      else match f m.rest m with
        | .done t => t
        | .defer kind => s.minDefer kind

/-- The seven words of STATUS. -/
def State.minWords (s : State) : List Byte :=
  leBytes 4 blkId ++ ([4, 8, 0xC, 0x10, 0x14, 0x1C].map (fun o => leBytes 4 (s.reg (cfA o)).toNat)).flatten

/-- MINIMAL_STATUS. -/
def execMinimalStatus (via : MinVia) (s : State) : Out :=
  .next (s.minRun via 1 (fun s m => .done (s.minReply m 0 s.minWords)))

/-- A range is refused: beyond 64 MiB, or a byte of a BCB copy. -/
def minRefused (a n : Nat) : Bool :=
  decide (0x4000000 < a + n) || (decide (a < 0x3008000) && decide (0x3000000 < a + n))

/-- LEN of a data command: at most 4096 in the mailbox, 1024 in a frame. -/
def MinCmd.tooLong (m : MinCmd) (n : Nat) : Bool := decide ((if m.frame.isNone then 4096 else 1024) < n)

/-- MINIMAL_ERASE; `x.err` says that the flash answers with an error: STATUS 2, and nothing else changes (R440). -/
def execMinimalErase (x : MinIn) (s : State) : Out :=
  .next (s.minRun x.via 2 (fun s m =>
    let a := numAt m.blk 4 4
    let n := numAt m.blk 8 4
    if a % 65536 ≠ 0 ∨ n % 65536 ≠ 0 ∨ minRefused a n then .done (s.minReply m 1 [])
    else if !s.heldUp 4 then .defer 4
    else if x.err then .done (s.undefer.minReply m 2 [])
    else .done ((s.undefer.flashErase a n).minReply m 0 [])))

/-- MINIMAL_WRITE; `x.err` says that the flash answers with an error: STATUS 2, and nothing else changes (R440). -/
def execMinimalWrite (x : MinIn) (s : State) : Out :=
  .next (s.minRun x.via 3 (fun s m =>
    let a := numAt m.blk 4 4
    let n := numAt m.blk 8 4
    let bs := (m.blk.drop 16).take n
    if m.tooLong n ∨ minRefused a n ∨ bs.length ≠ n then .done (s.minReply m 1 [])
    else if !s.heldUp 2 then .defer 2
    else if x.err then .done (s.undefer.minReply m 2 [])
    else .done ((s.undefer.flashProg a bs).minReply m 0 [])))

/-- MINIMAL_READ; `x.err` says that the flash answers with an error: STATUS 2, and nothing else changes (R440). -/
def execMinimalRead (x : MinIn) (s : State) : Out :=
  .next (s.minRun x.via 4 (fun s m =>
    let a := numAt m.blk 4 4
    let n := numAt m.blk 8 4
    .done (if m.tooLong n ∨ minRefused a n then s.minReply m 1 [] else if x.err then s.minReply m 2 []
          else s.minReply m 0 (s.flR a n))))

/-- The BCB that SETPREF writes: SEQ one later than the copy in force, the repair map of AO memory. -/
def State.newBcb (s : State) (pref : Nat) : List Byte :=
  let seq := match s.bcbPick with | some k => s.flN (bcbA k + 4) 4 + 1 | none => 1
  let b := leBytes 4 0x4243424B ++ leBytes 4 seq ++ leBytes 1 (pref % 2) ++ List.replicate 7 0 ++ s.aoR 0x100 11024 ++
    List.replicate 5340 0
  b ++ leBytes 4 (crc32 0 b).toNat

/-- MINIMAL_SETPREF: writes the copy that the config loader would not choose; `x.err` as for an erase. -/
def execMinimalSetpref (x : MinIn) (s : State) : Out :=
  .next (s.minRun x.via 5 (fun s m =>
    let p := numAt m.blk 4 4 % 2
    let k := match s.bcbPick with | some j => 1 - j | none => 0
    if !s.heldUp 3 then .defer 3
    else if !s.heldUp 2 then .defer 2
    else if x.err then .done (s.undefer.minReply m 2 [])
    else
      let s1 := s.undefer
      let s2 := { s1 with flash := mload 0xFF s1.flash (bcbA k) (s1.newBcb p), cfg := { s1.cfg with prefB := decide (p = 1) } }
      .done (s2.minReply m 0 [])))

/-- MINIMAL_RESTART: replies, then starts again with CAUSE 3. -/
def execMinimalRestart (via : MinVia) (s : State) : Out :=
  .next (s.minRun via 6 (fun s m => .done ((s.minReply m 0 []).newStart 3)))

end Sys2Proof.Machine
end

