-- ==== Sys2Proof/Machine/Faults.lean ====
section
/-! DEFINITION. Islands that restart themselves or pause, the flush of an ingress restart, masked faults, code load and
commit (17 R481–R487, R492; 16 R463). -/

namespace Sys2Proof.Machine

/-- The DCO of a domain is locked: the domain is ON or in HOLD (16 R444), or an entry into REST or OFF has not stopped it yet (16 R450
step 5); 19 is the PMC's. -/
def State.dcoOn (s : State) (d : Nat) : Bool :=
  if d = 19 then s.awake && decide (s.blk ≠ 5)
  else s.alive d || decide ((s.pdom d).st = .hold)

/-! ### Self-restart (R481–R485) -/

/-- The domain and the FLT_ISL_LOG number of an island that restarts itself. -/
def islDom : Isl → Nat
  | .ingress => dIn
  | .egress => dOut
  | .time => dTime

def islNo : Isl → Nat
  | .ingress => 0
  | .egress => 1
  | .time => 2

/-- What stays of a link whose sender restarts: a packet whose transfer the receiver has not accepted is discarded (01 R18), and a skip
token for its pip takes its place, so that its lane goes on (log entry 47). -/
def skipsOf (xs : List LinkItem) : List LinkItem :=
  xs.filterMap (fun x => match x with
    | .pkt p _ _ => some (.skip p.md.lane p.md.pip)
    | .skip lane pip => some (.skip lane pip)
    | _ => none)

/-- The packets on a link. -/
def pktsOf (xs : List LinkItem) : List Meta :=
  xs.filterMap (fun x => match x with | .pkt p _ _ => some p.md | _ => none)

/-- The requests of ingress across its crossings are discarded: the packets on the way to rank 0, whose chains are freed (R481 step 1, 01
R18). A verdict message that has been issued is on its path, ahead of the flush, and goes on: R483 loses only frames that await the issue
of theirs. -/
def State.dropRequests (s : State) : State :=
  forEach (pktsOf (s.link 0)) (s.setLink 0 (skipsOf (s.link 0))) (fun md s => freeChain 0 { md with verdict := 2 } s)

/-- What the buffer port presents, which ingress's restart does not withdraw (13 R385). -/
def State.wrHeld (s : State) : List WItem :=
  match s.ing.wq with
  | .beat l p h i n d :: _ => [.beat l p h i n d]
  | .link l p h g :: _ => if s.buf.cmd = some .link then [.link l p h g] else []
  | [] => []

/-- Ingress at step 4 of its restart: a skip token and a freed chain for every open frame not dispatched, the flush, the
handles of the stores freed. Later segments of a lost frame are discarded up to its EOP; IN_BYTES takes the bytes accepted of it (02 R71;
log entry 47). Lost are the open frames, those that await the issue of their verdict, and the packets on the way to rank 0. -/
def State.ingressReset (s : State) : State :=
  let lost := s.ing.opn.filter (fun e => e.2.hasPip && !e.2.discard)
  let keys := lost.map (fun e => (e.2.md.lane, e.2.md.pip)) ++ s.ing.vq.map (fun w => (w.lane, w.pip)) ++
    (pktsOf (s.link 0)).map (fun md => (md.lane, md.pip))
  let n := keys.eraseDups.length
  let s0 := s.dropRequests.count (inA 0x408) ((lost.map (fun e => e.2.bytes)).foldl (· + ·) 0)
  let s1 := forEach (lost.filter (fun e => !e.2.dispatched)) s0 (fun e s =>
    freeChain 0 { e.2.md with verdict := 2, tail := e.2.handles.headD noBuf } (s.launch 0 (.skip e.2.md.lane e.2.md.pip)))
  let hs := s1.ownHandles
  let s2 := forEach hs { s1 with buf := { s1.buf with store := [], freeq := s1.buf.freeq.map (fun i => { i with held := false }) } }
    (fun h s => freeChain 0 { Meta.zero with verdict := 2, tail := h } s)
  let m : VMsg := { lane := 0, pip := 0, v := 2, len := 0, ranks := List.range 12, eg := true, excq := List.range 12, ledger := true }
  let s3 := { s2 with ing := { s2.ing with opn := tmap s2.ing.opn (fun _ _ => .skip), vq := [], wq := s2.wrHeld, waitCh := none,
                                           resv := none, flush := s2.ing.flush ++ [m] } }
  s3.setDom dIn { s3.pdom dIn with rlost := n }

/-- What comes off the link from rank 11 when egress restarts: its packets are lost with the frames egress holds. -/
def State.takeLink13 (s : State) : List LinkItem → State
  | [] => s
  | .pkt p reps _ :: t => (s.toEgress p reps).takeLink13 t
  | .verdict lane pip v len :: t => (s.verdictEg lane pip v len).takeLink13 t
  | _ :: t => s.takeLink13 t

/-- Egress at step 4 of its restart: frames whose SOP has gone are stomped, the others dropped, every chain freed once. -/
def State.egressReset (s : State) : State :=
  let s1 := (s.setLink 13 []).takeLink13 (s.link 13)
  let n := (s1.eg.frames.filter (fun f => !f.rep)).length
  let s2 := forEach s1.eg.frames s1 (fun f s => s.egKill f)
  s2.setDom dOut { s2.pdom dOut with rlost := n }

/-- The timebase at step 4: a slew in progress is lost and PPS_OUT is low; the time goes on (R485; log entry 48). -/
def State.timeReset (s : State) : State :=
  let s1 := { s with time := { s.time with slew := none, ppsOut := false, ppsDue := false } }
  s1.setDom dTime { s1.pdom dTime with rlost := 0 }

/-- An island restarts itself. A failed DCO (cause 1) does it in HOLD as well (16 R463); the other causes arise in logic that runs. -/
def State.selfRestart (s : State) (i : Isl) (cause : Nat) : State :=
  let d := islDom i
  if !(if cause = 1 then s.dcoOn d else s.isOn d) || (s.pdom d).restarting then s
  else
    let s1 := s.setDom d { s.pdom d with restarting := true, fdue := s.now + 8000, rcause := cause }
    match i with
    | .ingress => s1.ingressReset
    | .egress => s1.egressReset
    | .time => s1.timeReset

/-- ISLAND_SELF_RESTART: the DCO, the parity of the control logic, or the island watchdog. -/
def execIslandSelfRestart (i : Isl) (cause : Fin 4) (s : State) : Out := .next (if cause.val = 0 then s else s.selfRestart i cause.val)

/-- ISLAND_WATCHDOG_EXPIRY: a request has waited 2 µs for acknowledge at a crossing. -/
def execIslandWatchdogExpiry (i : Isl) (s : State) : Out := .next (s.selfRestart i 3)

/-- What an island does as it serves again: the timebase has taken the copied time (14 R409). -/
def State.served (s : State) (i : Isl) : State :=
  match i with
  | .time => { s with time := { s.time with restored := true } }
  | _ => s

/-- ISLAND_RESTART_COMPLETE: the island serves again; ISL, an entry in FLT_ISL_LOG, the counters. -/
def execIslandRestartComplete (i : Isl) (s : State) : Out :=
  let d := islDom i
  let x := s.pdom d
  .next (if !s.dcoOn d || !x.restarting || s.now < x.fdue then s
    else
      let s1 := ((s.setDom d { x with restarting := false }).served i).orReg (swA 0x320) 4
      let s2 := s1.logAdd (swA 0x324) 4 (2 ^ 31 + at_ (islNo i) 28 + at_ x.rcause 26 + x.rlost % 4096)
      (s2.count (swA 0x238)).count (swA 0x240) x.rlost)

/-! ### The flush (R483) -/

/-- Rank `r` forfeits every PENDING packet it holds, and sends the flush behind those it has launched. -/
def State.flushRank (s : State) (r : Nat) : State :=
  let pend := ((s.rank r).entries.filter (fun e => decide (e.2.md.verdict = 0) && decide (e.2.phase ≠ .mark))).map (fun e => (e.2.md.lane, e.2.md.pip))
  let marks := ((s.rank r).marks.filter (fun m => m.own && decide (m.v = 0))).map (fun m => (m.lane, m.pip))
  let s1 := forEach (pend ++ marks) s (fun k s => s.verdictRank r k.1 k.2 2 0)
  let outs := if r = 1 then [12, 2] else [outLink r 0]
  forEach outs s1 (fun l s =>
    let ks := (s.link l).filterMap (fun x => match x with
      | .pkt p _ _ => if p.md.verdict = 0 then some (p.md.lane, p.md.pip) else none
      | _ => none)
    forEach ks s (fun k s => s.tokenOn l k.1 k.2 2 0))

/-- Egress forfeits every PENDING frame it holds. -/
def State.flushEg (s : State) : State :=
  forEach ((s.eg.frames.filter (fun f => decide (f.md.verdict = 0))).map (fun f => (f.md.lane, f.md.pip))) s (fun k s => s.verdictEg k.1 k.2 2 0)

/-- The exception queue of rank `r` forfeits its PENDING packets. -/
def State.flushExcq (s : State) (r : Nat) : State :=
  forEach (((s.rank r).exc.filter (fun e => decide (e.2.md.verdict = 0))).map (fun e => (e.2.md.lane, e.2.md.pip))) s (fun k s =>
    s.verdictExc r k.1 k.2 2 0)

/-- Change the oldest flush that a unit has not seen. -/
def State.modFlush (s : State) (p : VMsg → Bool) (f : VMsg → VMsg) : State :=
  { s with ing := { s.ing with flush := (mapFirst p f s.ing.flush).filter (fun m => !m.done) } }

/-- INGRESS_FLUSH: the flush reaches a unit, behind the verdict messages issued before it. -/
def execIngressFlush (u : VUnit) (s : State) : Out :=
  .next (match u with
    | .rank r =>
      let p := fun (m : VMsg) => m.ranks.contains r.val
      if !s.ing.flush.any p || s.ing.vmsgs.any p then s
      else
        let s1 := s.modFlush p (fun m => { m with ranks := m.ranks.filter (fun x => x ≠ r.val) })
        if !s.isOn r.val then s1 else if !s.runs r.val then s else (s1.lmsg r.val .fmark).flushRank r.val
    | .egress =>
      let p := fun (m : VMsg) => m.eg
      if !s.ing.flush.any p || s.ing.vmsgs.any p then s
      else
        let s1 := s.modFlush p (fun m => { m with eg := false })
        if !s.isOn dOut then s1 else if !s.runs dOut then s else s1.flushEg
    | .excq r =>
      let p := fun (m : VMsg) => m.excq.contains r.val
      if !s.ing.flush.any p || s.ing.vmsgs.any p then s
      else (s.modFlush p (fun m => { m with excq := m.excq.filter (fun x => x ≠ r.val) })).flushExcq r.val)

/-! ### Pause (R486, R487) and the DCO monitors (16 R463) -/

/-- The island of a DCO pauses where the rule is a pause: ranks, table halves, stewards, CK_CFG, and 19 the PMC. -/
def pauses (d : Nat) : Bool := d < 12 || d = dTblN || d = dTblS || d = dStw || d = dCfg || d = 19

/-- Where the pause of DCO `d` is kept. -/
def pauseDom (d : Nat) : Nat := if d = 19 then dPmc else d

/-- The clock of an island stops; everything keeps its state. -/
def State.pause (s : State) (d : Nat) : State :=
  let x := s.pdom (pauseDom d)
  if !pauses d || !s.dcoOn d || x.paused then s else s.setDom (pauseDom d) { x with paused := true, fdue := s.now + 4100 }

/-- DCO_FAIL: DCO_ERR and CLKMON; ingress, egress and the timebase restart, the others pause. -/
def execDcoFail (d : Fin 20) (s : State) : Out :=
  .next (if !s.dcoOn d.val then s
    else
      let s1 := s.clkFail (5 + d.val)
      if d.val = dIn then s1.selfRestart .ingress 1
      else if d.val = dOut then s1.selfRestart .egress 1
      else if d.val = dTime then s1.selfRestart .time 1
      else s1.pause d.val)

/-- ISLAND_PAUSE: an island whose DCO has failed its check stops. -/
def execIslandPause (d : Fin 20) (s : State) : Out := .next (if bit (s.reg clkmon) (5 + d.val) then s.pause d.val else s)

/-- How long a paused island's clock has stood for its pause alone: from the pause to now, but for the time in HOLD, which is put off at
the wake (16 R450, R452); `p` is the moment of the pause. -/
def State.stood (s : State) (d p : Nat) : Nat :=
  let x := s.pdom d
  match x.entering with
  | some t => min s.now (x.tdue - clockLeft t) - p
  | none => if d = dPmc || x.st = .on then s.now - max p x.tdue else if x.st = .hold && !x.waking then x.tdue - clockLeft .hold - p else 0

/-- A sensor that reads 125 °C or more. -/
def State.tooHot (s : State) : Option Nat :=
  (List.range 16).find? (fun i => decide (500 ≤ ((s.reg (pmA (0x400 + 4 * i))).setWidth 11).toInt))

/-- The PMC goes on: a thermal limit that came while it was paused has its entry now (17 R487, 16 R462). -/
def State.pmcBack (s : State) : State :=
  match s.tooHot with
  | some i => if s.pm.boxing || s.blk = 5 then s else s.beginBoxed 2 i (s.fld (pmA (0x400 + 4 * i)) 10 0)
  | none => s

/-- ISLAND_RESUME: the DCO has locked again, and the island goes on from the edge at which it stopped; DCO_ERR and CLKMON stay
set. -/
def execIslandResume (d : Fin 20) (s : State) : Out :=
  let k := pauseDom d.val
  let x := s.pdom k
  .next (if !pauses d.val || !x.paused || s.now < x.fdue then s
    else
      let s1 := ((s.setDom k { x with paused := false }).putOff k (s.stood k (x.fdue - 4100))).startAllP
      if k = dPmc then s1.pmcBack else s1)

/-! ### Logs and masked faults -/

/-- VOTED_FAULT_MASKED: VOTED, and a buffer-port entry whose CAUSE the manual does not give (log entry 49). -/
def execVotedFaultMasked (s : State) : Out :=
  .next (if !s.isOn dIn then s
    else
      let c := (Config.freeWord s.freeCount).toNat % 4
      let s1 := { s with freeCount := s.freeCount + 1 }
      (s1.orReg (swA 0x320) 8).logAdd (swA 0x324) 4 (2 ^ 31 + at_ 3 28 + at_ c 26))

/-- FLT_ISL_LOG_READ. -/
def execFltIslLogRead (q : Req) (s : State) : Out := .next (s.readLw q (swA 0x324) (fun s => s.logPop (swA 0x324)))

/-! ### Code load and commit (R492) -/

/-- RANK_CODE_STATUS holds the last command's REFUSED and REASON; BUSY and NEW are computed where it is read. -/
def codeSt (r : Nat) : Nat := rkA r 0x302C

/-- Seat `t` runs the library code of its rank. -/
def State.runsLib (s : State) (r t : Nat) : Bool :=
  match s.seatCore r t with
  | some c => decide (s.codeR (r * 13 + c) 0 0x10000 = s.srR (libCode r) 0x10000)
  | none => false

/-- A RANK_CODE_CMD write is refused with a reason, or accepted with 0. -/
def State.codeReason (s : State) (r op : Nat) : Nat :=
  if (s.rank r).codeLoad ∨ (s.rank r).rot ≠ 0 then 1
  else if op = 1 then (if !s.hasReserve r then 2 else if !s.libGood r then 3 else 0)
  else if (List.range 13).all (s.runsLib r) then 0 else 4

/-- A RANK_CODE_CMD write with OP 1 or 2. -/
def State.codeCmd (s : State) (r op : Nat) : State :=
  let n := s.codeReason r op
  let s0 := if op = 1 ∧ (n = 0 ∨ n = 3) then s.libSweep r false else if op = 2 ∧ n = 0 then s.srSweep (libRec r) 16 else s
  let s1 := s0.setRegN (codeSt r) (at_ (b2n (n ≠ 0)) 30 + at_ n 27)
  if n ≠ 0 then s1
  else if op = 1 then (s1.setRank r { s1.rank r with codeLoad := true }).setDue r 1 (s1.now + 1024)
  else s1.libRecord r

/-- RANK_CODE_LOAD. -/
def execRankCodeLoad (q : Req) (r : Rank) (s : State) : Out := .next (s.writeCmd q (rkA r.val 0x3028) (fun s => s.codeCmd r.val 1))

/-- RANK_CODE_COMMIT. -/
def execRankCodeCommit (q : Req) (r : Rank) (s : State) : Out := .next (s.writeCmd q (rkA r.val 0x3028) (fun s => s.codeCmd r.val 2))

/-- RANK_CODE_LOAD_COMPLETE: seat 12's instruction store holds the library code. -/
def execRankCodeLoadComplete (r : Rank) (s : State) : Out :=
  let r := r.val
  .next (if !s.runs r || !s.runs dStw || !(s.rank r).codeLoad || !s.dueNow r 1 then s
    else
      let s1 := (s.setRank r { s.rank r with codeLoad := false }).endDue r 1
      match s1.seatCore r 12 with
      | some c => (s1.srSweep (libCode r) 0x10000).libStore r (r * 13 + c)
      | none => s1)

end Sys2Proof.Machine
end

