-- ==== Sys2Proof/Machine/Debug.lean ====
section
/-! DEFINITION. Debug: the TAP, DACC and the debug address space, halts, steps, locked sequences, cross-trigger (18). -/

namespace Sys2Proof.Machine

/-! ### The TAP (R494, R495) -/

/-- The low `n` bits of a number, bit 0 first. -/
def bitsOf (n v : Nat) : List Bool := (List.range n).map (fun i => decide (v / 2 ^ i % 2 = 1))

/-- The TAP answers: PD_DBG is ON. -/
def State.tapOn (s : State) : Bool := s.isOn dDbg

/-- The TAP controller's next state at a TCK edge with TMS (IEEE 1149.1; log entry 118). -/
def tapNext (x : TapSt) (tms : Bool) : TapSt :=
  match x with
  | .reset => if tms then .reset else .idle
  | .idle => if tms then .selDr else .idle
  | .selDr => if tms then .selIr else .capDr
  | .capDr => if tms then .exit1Dr else .shiftDr
  | .shiftDr => if tms then .exit1Dr else .shiftDr
  | .exit1Dr => if tms then .updDr else .pauseDr
  | .pauseDr => if tms then .exit2Dr else .pauseDr
  | .exit2Dr => if tms then .updDr else .shiftDr
  | .updDr => if tms then .selDr else .idle
  | .selIr => if tms then .reset else .capIr
  | .capIr => if tms then .exit1Ir else .shiftIr
  | .shiftIr => if tms then .exit1Ir else .shiftIr
  | .exit1Ir => if tms then .updIr else .pauseIr
  | .pauseIr => if tms then .exit2Ir else .pauseIr
  | .exit2Ir => if tms then .updIr else .shiftIr
  | .updIr => if tms then .selDr else .idle

/-- The controller after a run of TCK edges. -/
def tapRun (x : TapSt) (tms : List Bool) : TapSt := tms.foldl tapNext x

/-- TMS through an instruction scan and a data scan of `n` bits, from Test-Logic-Reset or Run-Test/Idle to Run-Test/Idle. -/
def scanTms (n : Nat) : List Bool :=
  [false, true, true, false, false] ++ List.replicate 5 false ++ [true, true] ++
  [true, false, false] ++ List.replicate (n - 1) false ++ [true, true, false]

/-- An instruction is scanned in, Capture-IR having loaded 0b000001, and its data register captured and scanned (R495). -/
def State.tap (s : State) (ir : BitVec 6) (dr : List Bool) : State :=
  if !s.tapOn then s
  else { s with dbg := { s.dbg with tap := tapRun s.dbg.tap (scanTms dr.length), irCap := 1, ir := ir, dr := dr } }

/-- TAP_RESET: five TCK edges with TMS high; in Test-Logic-Reset the instruction register holds IDCODE. -/
def execTapReset (s : State) : Out :=
  .next (if !s.tapOn then s else { s with dbg := { s.dbg with tap := tapRun s.dbg.tap (List.replicate 5 true), ir := 1 } })

/-- IDCODE: version 2, part 0x0144, JTAG_MFR. -/
def execIdcode (s : State) : Out := .next (s.tap 1 (bitsOf 32 (0x20144000 + 2 * Config.jtagMfr.toNat + 1)))

/-- DSTATUS: LEVEL, any core or steward halted, BLK_STATE. -/
def execDstatus (s : State) : Out :=
  .next (s.tap 2 (bitsOf 32 (s.dbg.level.toNat + 4 * b2n s.anyHalted + 16 * s.blk.toNat)))

/-- BYPASS: one bit. -/
def execBypass (s : State) : Out := .next (s.tap 0x3F [false])

/-! ### Cores by debug target -/

/-- The core key of a seat or steward; none for an empty seat. -/
def State.dbgCore (s : State) : DbgTarget → Option Nat
  | .seat r t => (s.seatCore r.val t.val).map (fun c => r.val * 13 + c)
  | .stw i => some (stwCore i.val)

/-- A context key of a core. -/
def ctxKey (ck k : Nat) : Nat := if ck < 156 then ck * 9 + k else 1404 + (ck - 156)

/-- Contexts of a core. -/
def keysOf (ck : Nat) : List Nat := if ck < 156 then (List.range 9).map (ctxKey ck) else [ctxKey ck 0]

/-! ### Halts (R500–R502) -/

/-- The core is halted: every group of its contexts has retired, its DRV channels fire, and PD_DBG has a vote (16 R447). -/
def State.haltNow (s : State) (ck : Nat) : State :=
  let s0 := forEach (keysOf ck) s (fun k s =>
    let c := s.ctx k
    if c.grp.flow = 0 then s else s.setCtx k { c with grp := { c.grp with flow := 0 } })
  let s1 := s0.setCore ck { s0.core ck with halted := true, haltReq := false, haltCy := 0, stepCtx := none }
  (s1.voteEvent dDbg).fire (bits (s1.dreg (s1.dbgBase (ctxKey ck 0))) 3 0)

/-- Every issued group has retired, the store buffer is empty, the byte engine idle, no entry, return or fault service in
progress, and no stopped context waits for its fault service (R507: a double fault is served before the halt), unless a BRK of the
fault program is what halts (R504). -/
def State.coreQuiet (s : State) (ck : Nat) : Bool :=
  let co := s.core ck
  co.sbuf.isEmpty && co.beq.isEmpty && ((co.svc.isNone && co.stopq.isEmpty) || (s.ctx (ctxKey ck 8)).brkSkip) && co.mcheck.isNone &&
  !(keysOf ck).any (fun k => (s.ctx k).inGroup && decide ((s.ctx k).st = .run)) &&
  (keysOf ck).all (fun k => decide ((s.ctx k).st ≠ .entry) && decide ((s.ctx k).st ≠ .ret))

/-- CORE_HALTED: the drain of a core with a halt request ends; a context that holds a lock goes on first. -/
def execCoreHalted (t : DbgTarget) (s : State) : Out :=
  .next (match s.dbgCore t with
    | none => s
    | some ck =>
      if !s.runs (coreDom ck) || !(s.core ck).haltReq || !s.coreQuiet ck || (keysOf ck).any s.holdsLock then s else s.haltNow ck)

/-- Locks of a core's contexts are broken: LOCK_BROKEN, one log entry each; a later UNLOCK is without effect. -/
def State.breakLock (s : State) (ck : Nat) (l : Lock) : State :=
  let key := l.owner
  let c := s.ctx key
  let s1 := { s with tb := { s.tb with locks := s.tb.locks.filter (fun x => x ≠ l) } }
  let s2 := s1.setCtx key { c with broken := c.broken ++ [(l.table, l.idx)] }
  let who := if ck < 156 then at_ (ck / 13) 25 + at_ (s.seatNo (ck / 13) (ck % 13)) 21 + at_ (ctxNoOf key) 17 else 2 ^ 29 + at_ (ck - 156) 21
  let s3 := s2.logAdd 0x30000050 8 (2 ^ 31 + who + l.table)
  { s3 with dbg := { s3.dbg with lockIdx := if (s2.log 0x30000050).ents.length < 8 then s3.dbg.lockIdx ++ [l.idx] else s3.dbg.lockIdx } }

/-- LOCK_HALT_TIMEOUT: a lock is still held 256 cycles after the request; it is broken, and the core halts (R502), at once or,
where the steps of R500 are not at their end, with the CORE_HALTED that then comes. -/
def execLockHaltTimeout (t : DbgTarget) (s : State) : Out :=
  .next (match s.dbgCore t with
    | none => s
    | some ck =>
      let ls := s.tb.locks.filter (fun l => (keysOf ck).contains l.owner)
      if !s.runs (coreDom ck) || !(s.core ck).haltReq || (s.core ck).haltCy < 256 || ls.isEmpty then s
      else
        let s1 := forEach ls s (fun l s => s.breakLock ck l)
        let b := s1.dbgBase (ctxKey ck 0)
        let s2 : State := { s1 with dbg := { s1.dbg with regs := tset s1.dbg.regs b (s1.dreg b ||| 0x20000000) } }
        if s2.coreQuiet ck then s2.haltNow ck else s2)

/-- The event of R225 that was held from context `key` reaches it (R501); results and expiries have commands of their own. -/
def State.wakeHeld (s : State) (key : Nat) : State :=
  match (s.ctx key).wait with
  | .verdict _ => if (s.mdOf key).verdict = 1 then s.wakeVerdict key else s
  | _ => s.wakeAgain key

/-- A halted core resumes, one with a STEP that waits too: its watchdog starts a full period (17 R488), and held events reach its
contexts. -/
def State.resume (s : State) (ck : Nat) : State :=
  let co := s.core ck
  if s.dbgWaits ck then s.dbgHold ck .resume
  else if !co.halted || co.haltReq then s
  else
    let s1 := s.setCore ck { co with halted := false, stepCtx := none, wdog := 0 }
    let s2 := if decide (156 ≤ ck) && !(List.range 4).any (fun i => (s1.core (stwCore i)).halted) then { s1 with blkWdog := 0 } else s1
    forEach (keysOf ck) s2 (fun k s => s.wakeHeld k)

/-- STEP of context `k` of a halted core: a held event of that context reaches it (R501). -/
def State.step1 (s : State) (ck k : Nat) : State :=
  if s.dbgWaits ck then s.dbgHold ck (.step k)
  else if (s.core ck).isHalted && decide (k < (keysOf ck).length) then
    (s.setCore ck { s.core ck with stepCtx := some k }).wakeHeld (ctxKey ck k)
  else s

/-! ### Cross-trigger (R506) -/

/-- Halted subscribers of the channels `m` resume, but for those that the channels `f` halt in the same cycle (R507). -/
def State.resumeSubs (s : State) (m f : Nat) : State :=
  forEach ((s.subscribers m).filter (fun ck => !(s.subscribers f).contains ck)) s (fun ck s => s.resume ck)

/-- DBG_XTRIG_IN: an input fires its channel where IN_EN lets it. -/
def execDbgXtrigIn (m : BitVec 4) (s : State) : Out :=
  .next (if s.tapOn then s.fire ((m &&& BitVec.ofNat 4 (bits (s.dreg 0x30000004) 15 12)).toNat) else s)

/-! ### The lock log -/

/-- A read of DBG_LOCK_LOG pops its oldest entry and loads DBG_LOCK_IDX. -/
def State.lockLogRead (s : State) : Word × State :=
  let (w, s1) := s.logPop 0x30000050
  (w, match s.dbg.lockIdx with
    | [] => s1
    | i :: t => { s1 with dbg := { s1.dbg with lockIdx := t, regs := tset s1.dbg.regs 0x30000054 (BitVec.ofNat 32 i) } })

/-! ### The debug address space (R498, R499) -/

/-- What a DACC address names: an offset in a core's region, a rank's overlays, or a global register. -/
inductive DReg where
  | core (ck off : Nat)
  | overlay (dom addr : Nat)
  | global (off : Nat)
  | none
deriving DecidableEq, Repr

/-- The part of the debug address space at `a`; rank regions reach an empty seat nowhere. -/
def State.dregion (s : State) (a : Nat) : DReg :=
  if 0x10000000 ≤ a ∧ a < 0x1C000000 then
    let r := (a - 0x10000000) / 0x1000000
    let o := a % 0x1000000
    if 0xF00000 ≤ o then (if o < 0xF00100 then .overlay r a else .none)
    else if o / 0x100000 < 13 then
      (match s.seatCore r (o / 0x100000) with | some c => .core (r * 13 + c) (o % 0x100000) | none => .none)
    else .none
  else if 0x20000000 ≤ a ∧ a < 0x24000000 then
    let i := (a - 0x20000000) / 0x1000000
    let o := a % 0x1000000
    if 0xE0000 ≤ o ∧ o < 0xE0100 then .overlay dStw a
    else if o < 0x100000 then .core (stwCore i) o else .none
  else if 0x30000000 ≤ a ∧ a < 0x30000058 then .global (a - 0x30000000)
  else .none

/-- Even parity over 24 bits of a control-store word. -/
def parity24 (w : BitVec 96) (i : Nat) : Nat :=
  ((List.range 24).map (fun j => b2n (w.getLsbD (24 * i + j)))).foldl (· + ·) 0 % 2

/-- Bytes 0–15 of a control-store word in the debug space: the word, then its parity bits (log entry 11). -/
def State.csBytes (s : State) (ck w : Nat) : Nat :=
  let v := s.csWord ck w
  v.toNat + 2 ^ 96 * ((List.range 4).map (fun i => parity24 v i * 2 ^ i)).foldl (· + ·) 0

/-- The state of a context as the debug space codes it. -/
def cstCode : CSt → Nat
  | .free => 0
  | .loading => 1
  | .run => 2
  | .sleep => 3
  | .entry => 4
  | .ret => 5
  | .ending => 6
  | .stopped => 7

/-- Cell `i` of a stack counted from its bottom. -/
def cellOf {α : Type} (xs : List α) (i : Nat) : Option α := xs.reverse[i]?

/-- A word of a context region; none where no row of R499 lists the offset. The next instruction of a context in SLEEP is the one behind
the instruction that sleeps (08 R240). -/
def State.ctxRead (s : State) (key o : Nat) : Option Word :=
  let c := s.ctx key
  if o < 0x80 then some ((cellOf c.os (o / 4)).getD 0)
  else if o < 0xC0 then some ((cellOf c.rs ((o - 0x80) / 4)).getD 0)
  else if o < 0xF0 then
    match cellOf c.ls ((o - 0xC0) / 12) with
    | some l => some (if (o - 0xC0) / 4 % 3 = 0 then l.start else if (o - 0xC0) / 4 % 3 = 1 then l.fin else l.cnt)
    | none => some 0
  else if o < 0x100 then none
  else if o < 0x140 then some (s.sreg key c ((o - 0x100) / 4))
  else if o < 0x144 then some (if c.st = .sleep then (c.goto (c.pc + BitVec.ofNat 32 c.wlen)).pc else c.pc)
  else if o < 0x148 then some (BitVec.ofNat 32 (cstCode c.st))
  else if o < 0x160 then
    let h := if o < 0x154 then c.h1 else c.h2
    some (BitVec.ofNat 32 (if (o - 0x148) / 4 % 3 = 0 then b2n h.priv else if (o - 0x148) / 4 % 3 = 1 then h.ofloor else h.rfloor))
  else none

/-- Replace cell `i` of a stack counted from its bottom. -/
def setCell {α : Type} (xs : List α) (i : Nat) (v : α) : List α := (lset xs.reverse i v).reverse

/-- The bits of a code address of core `ck` (05 R137). A debug write of one keeps these (the model's choice, log entry 116). -/
def codeAddr (ck : Nat) (w : Word) : Word := w &&& (if ck < 156 then 0xFFFF else 0x3FFFF)

/-- A write of a context region; none where it is refused. -/
def State.ctxWrite (s : State) (key o : Nat) (w : Word) : Option State :=
  let c := s.ctx key
  let ck := coreOf key
  if c.st ≠ .run then none
  else if o < 0x80 then (if o / 4 < c.os.length then some (s.setCtx key { c with os := setCell c.os (o / 4) w }) else none)
  else if o < 0xC0 then
    if (o - 0x80) / 4 < c.rs.length then some (s.setCtx key { c with rs := setCell c.rs ((o - 0x80) / 4) (codeAddr ck w) }) else none
  else if o / 4 = 0x41 then some (s.setCtx key (c.setPred w))
  else if o / 4 = 0x42 then some (s.setCtx key { c with a := w })
  else if o / 4 = 0x43 then some (s.setCtx key { c with b := w })
  else if o / 4 = 0x44 then some (s.setCtx key { c with msp := w })
  else if o / 4 = 0x4F then some (if w = 0 then s else s.setCore ck { s.core ck with dseed := w })
  else if o / 4 = 0x50 then some (s.setCtx key { c with pc := codeAddr ck w, skip := false, brkSkip := false, useq := none, grp := { c.grp with left := 0, flow := 0 } })
  else none

/-- DBG_CORE_CFG of a core. -/
def State.coreCfg (s : State) (ck : Nat) : Word :=
  let co := s.core ck
  (s.dreg (s.dbgBase (ctxKey ck 0)) &&& 0x300000FF) ||| BitVec.ofNat 32 (at_ (b2n co.isHalted) 31 + at_ (b2n co.haltReq) 30)

/-- DBG_HALTED words. -/
def State.haltedWord (s : State) (r : Nat) : Word :=
  if r < 12 then BitVec.ofNat 32 (((List.range 13).map (fun t => b2n (s.core (s.seatKey r t)).isHalted * 2 ^ t)).foldl (· + ·) 0)
  else BitVec.ofNat 32 (((List.range 4).map (fun i => b2n (s.core (stwCore i)).isHalted * 2 ^ i)).foldl (· + ·) 0)

/-- The end of a core's debug registers in its region. -/
def dregTop (ck : Nat) : Nat := if ck < 156 then 0xF0030 else 0xF0090

/-- A DACC read beyond the block registers: STATUS and data. -/
def State.dread (s : State) (a : Nat) : Nat × Word × State :=
  let x := a / 4 * 4
  match s.dregion x with
  | .none => (2, 0, s)
  | .global o =>
    if o = 4 then (0, s.dreg 0x30000004 &&& 0xFF00, s)
    else if 0x10 ≤ o ∧ o ≤ 0x40 then (0, s.haltedWord ((o - 0x10) / 4), s)
    else if o = 0x50 then (0, s.lockLogRead.1, s.lockLogRead.2)
    else if o = 0x54 then (0, s.dreg 0x30000054, s)
    else (0, 0, s)
  | .overlay d y => if !s.isOn d then (2, 0, s) else (0, s.dreg y, s)
  | .core ck o =>
    let hl := (s.core ck).isHalted
    if !s.isOn (coreDom ck) then (2, 0, s)
    else if 0xF0000 ≤ o then
      if dregTop ck ≤ o then (2, 0, s) else if o < 0xF0004 then (0, s.coreCfg ck, s) else (0, s.dreg x, s)
    else if !hl then (2, 0, s)
    else if o < 0x40000 then
      if 156 ≤ ck then (0, BitVec.ofNat 32 (leNat (s.scR (ck - 156) o 4)), s)
      else
        let (ue, s1) := s.spTouch ck o 3
        (if ue then 3 else 0, BitVec.ofNat 32 (leNat (s1.spR ck o 4)), s1)
    else if o < 0x50000 then (if 156 ≤ ck then (2, 0, s) else (0, BitVec.ofNat 32 (leNat (s.codeR ck (o - 0x40000) 4)), s))
    else if o < 0x54000 then
      let w := (o - 0x50000) / 16
      (if s.csErr.contains (ck * 2048 + w) then 3 else 0, BitVec.ofNat 32 (s.csBytes ck w / 2 ^ (8 * (o % 16))), s)
    else if 0x80000 ≤ o ∧ (o - 0x80000) / 0x1000 < (keysOf ck).length then
      match s.ctxRead (ctxKey ck ((o - 0x80000) / 0x1000)) (o % 0x1000) with
      | some w => (0, w, s)
      | none => (2, 0, s)
    else (2, 0, s)

/-- Put a debug register. -/
def State.dset (s : State) (a : Nat) (w : Word) : State := { s with dbg := { s.dbg with regs := tset s.dbg.regs a w } }

/-- The core that RANK and SEAT of DBG_RUN_CMD name. -/
def State.runTarget (s : State) (w : Word) : Option Nat :=
  if bits w 11 8 = 15 then (if bits w 7 4 < 4 then some (stwCore (bits w 7 4)) else none)
  else if bits w 11 8 < 12 then (s.seatCore (bits w 11 8) (bits w 7 4)).map (fun c => bits w 11 8 * 13 + c)
  else none

/-- A DBG_RUN_CMD write. -/
def State.runCmd (s : State) (w : Word) : State :=
  match s.runTarget w with
  | none => s
  | some ck =>
    if !s.isOn (coreDom ck) then s
    else if bits w 17 16 = 1 then s.reqHalt ck
    else if bits w 17 16 = 2 then s.resume ck
    else if bits w 17 16 = 3 then s.step1 ck (bits w 3 0)
    else s

/-- A DBG_XTRIG write: IN_EN, SEEN, RESUME and FIRE (R507: a core that both reach stays halted). -/
def State.xtrigWrite (s : State) (w : Word) : State :=
  let old := s.dreg 0x30000004
  let s1 := s.dset 0x30000004 ((w &&& 0xF000) ||| (old &&& 0xF00 &&& ~~~ w))
  (s1.resumeSubs (bits w 7 4) (bits w 3 0)).fire (bits w 3 0)

/-- A write of a core's debug register at offset `o` of its region: the bits the register has. -/
def State.coreRegWrite (s : State) (o a : Nat) (w : Word) : State :=
  if o < 0xF0004 then
    let old := s.dreg a
    s.dset a ((w &&& 0x100000FF) ||| (old &&& 0x20000000 &&& ~~~ w))
  else if o % 16 = 0 ∧ 0xF0010 ≤ o then s.dset a (w &&& 0xFFFC0000)
  else if (o % 16 = 4 ∨ o % 16 = 8) ∧ 0xF0010 ≤ o then s.dset a w
  else s

/-- A DACC write beyond the block registers: STATUS and state. -/
def State.dwrite (s : State) (a : Nat) (w : Word) : Nat × State :=
  let x := a / 4 * 4
  match s.dregion x with
  | .none => (2, s)
  | .global o => if o = 0 then (0, s.runCmd w) else if o = 4 then (0, s.xtrigWrite w) else (0, s)
  | .overlay d y =>
    if !s.isOn d then (2, s)
    else if y % 16 = 0 then (0, s.dset y (w &&& (if d = dStw then 0x80F3FFFC else 0x80F0FFFC)))
    else if y % 16 = 4 then (0, s.dset y w)
    else (0, s)
  | .core ck o =>
    if !s.isOn (coreDom ck) then (2, s)
    else if 0xF0000 ≤ o then (if dregTop ck ≤ o then (2, s) else (0, s.coreRegWrite o x w))
    else if !(s.core ck).isHalted then (2, s)
    else if o < 0x40000 ∧ ck < 156 then (0, s.spStore ck o (leBytes 4 w.toNat))
    else if 0x80000 ≤ o ∧ (o - 0x80000) / 0x1000 < (keysOf ck).length then
      match s.ctxWrite (ctxKey ck ((o - 0x80000) / 0x1000)) (o % 0x1000) w with
      | some s1 => (0, s1)
      | none => (2, s)
    else (2, s)

/-! ### DACC (R496, R497) -/

/-- The DACC data register after an access: STATUS, ADDR, data. -/
def daccDr (st : Nat) (addr data : Word) : List Bool := bitsOf 32 data.toNat ++ bitsOf 32 addr.toNat ++ bitsOf 2 st

/-- The DACC scan: Capture-DR loads the previous access's STATUS and ADDR and, for a read that gave data, its data; the data bits are
free otherwise (log entry 118). -/
def State.daccScan (s : State) : State :=
  let x := s.dbg
  let data := if x.accRead && (decide (x.accStatus = 0) || decide (x.accStatus = 3)) then x.accData else Config.freeWord s.freeCount
  if !s.tapOn then s else { s with freeCount := s.freeCount + 1 }.tap 8 (daccDr x.accStatus x.accAddr data)

/-- An access ends with STATUS `st`, or is busy with 1: what the next Capture-DR loads. -/
def State.daccEnd (s : State) (st : Nat) (addr data : Word) (rd : Bool) : State :=
  { s with dbg := { s.dbg with accStatus := st, accAddr := addr, accData := data, accRead := rd } }

/-- A block register can be reached from the debug port: its address lies in a region whose domain is ON (R498). -/
def State.dbgReach (s : State) (a : Nat) : Bool := (s.ctlErr (a % 0x4000000 / 4 * 4) 0xF).isNone

/-- A DACC access of a block register waits for the register fabric. -/
def State.daccPost (s : State) (we : Bool) (addr w : Word) : State :=
  let s1 := s.daccEnd 1 addr w (!we)
  { s1 with fab := { s1.fab with dbg := some (we, BitVec.ofNat 26 addr.toNat, w) } }

/-- An access of the debug address space beyond the block registers: a write or a read. -/
def State.daccDo (s : State) (we : Bool) (addr w : Word) : State :=
  if we then (let (st, s1) := s.dwrite addr.toNat w; s1.daccEnd st addr w false)
  else (let (st, v, s1) := s.dread addr.toNat; s1.daccEnd st addr v true)

/-- What the access names lies in a paused island, whose crossing holds it unacknowledged (17 R487). -/
def State.daccHeld (s : State) (addr : Word) : Bool :=
  match s.dregion (addr.toNat / 4 * 4) with
  | .core ck _ => s.isOn (coreDom ck) && s.dbgWaits ck
  | .overlay d _ => s.isOn d && (s.pdom d).paused
  | _ => false

/-- The access, or its wait in the crossing. -/
def State.daccTry (s : State) (we : Bool) (addr w : Word) : State :=
  if s.daccHeld addr then
    let s1 := s.daccEnd 1 addr w (!we)
    { s1 with dbg := { s1.dbg with pend := some (we, addr, w) } }
  else s.daccDo we addr w

/-- What waited for paused islands goes on where they run again, oldest first: the requests to their cores, then the access. -/
def State.dbgGoOn (s : State) : State :=
  let s1 := forEach s.dbg.held { s with dbg := { s.dbg with held := [] } } (fun q s =>
    if !s.isOn (coreDom q.1) then s
    else match q.2 with
      | .halt => s.reqHalt q.1
      | .resume => s.resume q.1
      | .step k => s.step1 q.1 k)
  match s1.dbg.pend with
  | none => s1
  | some (we, addr, w) => { s1 with dbg := { s1.dbg with pend := none } }.daccTry we addr w

/-- DACC_READ: the scan, whose Update-DR is ignored while an access is busy; refused where the level forbids it. -/
def execDaccRead (addr : Word) (s0 : State) : Out :=
  let s := s0.daccScan
  .next (if !s.tapOn || s.dbg.accStatus = 1 then s
    else if addr.toNat < 0x4000000 then
      if s.dbg.level = 0 || s.dbg.level = 1 then (if s.dbgReach addr.toNat then s.daccPost false addr 0 else s.daccEnd 2 addr 0 true)
      else s.daccEnd 2 addr 0 true
    else if s.dbg.level ≠ 0 then s.daccEnd 2 addr 0 true
    else s.daccTry false addr 0)

/-- DACC_WRITE. -/
def execDaccWrite (addr w : Word) (s0 : State) : Out :=
  let s := s0.daccScan
  .next (if !s.tapOn || s.dbg.accStatus = 1 then s
    else if s.dbg.level ≠ 0 then s.daccEnd 2 addr w false
    else if addr.toNat < 0x4000000 then (if s.dbgReach addr.toNat then s.daccPost true addr w else s.daccEnd 2 addr w false)
    else s.daccTry true addr w)

/-! ### The accesses that have rows of their own: DBG_RUN_CMD, DBG_XTRIG, DBG_LOCK_LOG -/

/-- DBG_RUN_CMD's word for operation `op` on context `k` of a core. -/
def runWord (t : DbgTarget) (op k : Nat) : Word :=
  BitVec.ofNat 32 (match t with
    | .seat r n => at_ op 16 + at_ r.val 8 + at_ n.val 4 + k
    | .stw i => at_ op 16 + at_ 15 8 + at_ i.val 4 + k)

/-- DBG_HALT: DBG_RUN_CMD with OP 1. -/
def execDbgHalt (t : DbgTarget) (s : State) : Out := execDaccWrite 0x30000000 (runWord t 1 0) s

/-- DBG_RESUME: OP 2. -/
def execDbgResume (t : DbgTarget) (s : State) : Out := execDaccWrite 0x30000000 (runWord t 2 0) s

/-- DBG_STEP: OP 3, one group of one context. -/
def execDbgStep (t : DbgTarget) (k : Fin 16) (s : State) : Out := execDaccWrite 0x30000000 (runWord t 3 k.val) s

/-- XTRIG_FIRE: a write of DBG_XTRIG's FIRE that keeps IN_EN. -/
def execXtrigFire (m : BitVec 4) (s : State) : Out :=
  execDaccWrite 0x30000004 ((s.dreg 0x30000004 &&& 0xF000) ||| m.setWidth 32) s

/-- XTRIG_RESUME: a write of DBG_XTRIG's RESUME that keeps IN_EN. -/
def execXtrigResume (m : BitVec 4) (s : State) : Out :=
  execDaccWrite 0x30000004 ((s.dreg 0x30000004 &&& 0xF000) ||| (m.setWidth 32 <<< 4)) s

/-- DBG_LOCK_LOG_READ. -/
def execDbgLockLogRead (s : State) : Out := execDaccRead 0x30000050 s

end Sys2Proof.Machine
end

