-- ==== Sys2Proof/Machine/HelperUnits.lean ====
section
/-! DEFINITION. The parse, hash and seal helpers at work (09 R275–R284). -/

namespace Sys2Proof.Machine

/-- The oldest waiting command of a queue. -/
def State.cmdOf (s : State) (q : HRef) (sl : Nat) : Option HCmd :=
  (s.ctx q.ctx).hs.find? (fun h => h.slot = sl && !h.killed && h.ep = q.ep && !h.fin && !h.last)

/-- A helper's read of a range for command `h` of a context: its bytes, those of a parse or hash command as they stood at its
issue (R279); an uncorrectable word sets TAINT (11 R343). -/
def State.helperRead (s : State) (key : Nat) (h : HCmd) (a n : Nat) : List Byte × State :=
  let ck := coreOf key
  let (bad, s1) := s.spTouchN ck 1 (wordsOf a n)
  let s2 := match bad, (s.ctx key).entry with
    | true, some i => s1.taint (rankOf key) i
    | _, _ => s1
  (if h.slot ≤ 1 then h.inp.getD [] else s2.seen key a n, s2)

/-! ### Parse (R275–R278) -/

/-- A node's bytes in the core's code space. -/
def State.pnode (s : State) (ck k : Nat) : List Byte := s.codeR ck (0xF800 + 32 * k) 32

/-- A non-zero reserved bit, or a reserved value, makes a node undefined. -/
def nodeBad (n : List Byte) : Bool :=
  let b := fun i => (n.getD i 0).toNat
  decide (b 1 % 4 = 3) || decide (8 ≤ b 1) || decide (8 ≤ b 5) ||
  (List.range 4).any (fun i => decide (b (9 + 2 * i) / 8 % 2 = 1) || decide (b (9 + 2 * i) % 8 = 5) || decide (b (9 + 2 * i) % 8 = 6)) ||
  (List.range 4).any (fun j => decide (b (18 + 3 * j) / 64 % 2 = 1)) ||
  decide (b 28 / 64 % 2 = 1) || decide (b 30 ≠ 0) || decide (b 31 ≠ 0)

/-- What the walk has gathered. -/
structure PWalk where
  fields : List Nat
  base : Nat
  visits : Nat
  last : Nat
  tag : Nat
  code : Nat

/-- The extractions of a node, in order: the fields after them, and whether none reads beyond byte 255; the fields of those
before a read beyond it stand (R277). -/
def extracts (n head : List Byte) (base : Nat) : List Nat → List Nat → List Nat × Bool
  | [], f => (f, true)
  | i :: is, f =>
    let eoff := (n.getD (8 + 2 * i) 0).toNat
    let e := (n.getD (9 + 2 * i) 0).toNat
    let len := e % 8
    let dst := e / 16
    if len = 7 then extracts n head base is (lset f dst base)
    else if len = 0 then extracts n head base is f
    else if 255 < base + eoff + len - 1 then (f, false)
    else extracts n head base is (lset f dst (beNat ((head.drop (base + eoff)).take len)))

/-- The walk, at most 16 visits. -/
def parseWalk (node : Nat → List Byte) (count : Nat) (head : List Byte) : Nat → Nat → PWalk → PWalk
  | 0, _, w => { w with code := 1 }
  | fuel + 1, k, w =>
    let n := node k
    let b := fun i => (n.getD i 0).toNat
    if count ≤ k || nodeBad n then { w with code := 3 }
    else
      let w1 := { w with visits := w.visits + 1, last := k, tag := b 29 }
      let (f, ok) := extracts n head w.base [0, 1, 2, 3] w.fields
      let w2 := { w1 with fields := f }
      if !ok then { w2 with code := 2 }
      else
        let hvar := b 1 / 4 % 2 = 1
        if hvar ∧ 255 < w.base + b 3 then { w2 with code := 2 }
        else
          let lb := (head.getD (w.base + b 3) 0) &&& (n.getD 4 0)
          let len := if hvar then (lb.toNat / 2 ^ (b 5 % 8) + b 6) * b 7 else b 2
          let sw := b 1 % 4
          if sw ≠ 0 ∧ 255 < w.base + b 0 + sw - 1 then { w2 with code := 2 }
          else
            let v := beNat ((head.drop (w.base + b 0)).take sw)
            let hit := if sw = 0 then none
                       else [0, 1, 2, 3].find? (fun j => decide (128 ≤ b (18 + 3 * j)) && decide (b (16 + 3 * j) + 256 * b (17 + 3 * j) = v))
            let next := match hit with
              | some j => some (b (18 + 3 * j) % 64)
              | none => if 128 ≤ b 28 then some (b 28 % 64) else none
            let w3 := { w2 with base := w.base + len }
            match next with
            | none => w3
            | some k2 => parseWalk node count head fuel k2 w3

/-- The status word (R278). -/
def parseStatus (w : PWalk) : Word :=
  BitVec.ofNat 32 (at_ w.code 28 + at_ w.visits 23 + at_ w.last 17 + at_ (w.base % 512) 8 + w.tag)

/-- PARSE: the parse helper of core `c` serves its oldest command. -/
def execParse (r : Rank) (c : CoreNo) (s : State) : Out :=
  let ck := r.val * 13 + c.val
  let co := s.core ck
  .next (if !s.runs r.val then s
    else match co.h0 with
      | [] => s
      | q :: rest =>
        let s1 := s.setCore ck { co with h0 := rest }
        match s1.cmdOf q 0 with
        | none => s1
        | some h =>
          if h.a &&& 0xFFFF00C0 ≠ 0 then s1.helperDone q 0 [0] (some 7)
          else
            let (head, s2) := s1.helperRead q.ctx h (hslot q.ctx (s1.ctx q.ctx)) 256
            let count := s2.fld (rkA r.val 0x2004) 6 0
            let w := parseWalk (s2.pnode ck) count head 16 (bits h.a 5 0)
                       ⟨List.replicate 16 0, bits h.a 15 8, 0, 0, 0, 0⟩
            let fs := ((List.range 16).filter (fun k => bit h.b k)).map (fun k => BitVec.ofNat 32 (w.fields.getD k 0))
            s2.helperDone q 0 (parseStatus w :: fs) none)

/-! ### Hash (R280, R281) -/

/-- The hash helper of core `c` serves its oldest command where its FN is `fn`. -/
def State.hash (s : State) (r c fn : Nat) : State :=
  let ck := r * 13 + c
  let co := s.core ck
  if !s.runs r then s
  else match co.h1 with
    | [] => s
    | q :: rest =>
      match s.cmdOf q 1 with
      | none => s.setCore ck { co with h1 := rest }
      | some h =>
        if h.c.toNat % 4 ≠ fn then s
        else
          let s1 := s.setCore ck { co with h1 := rest }
          let n := h.b.toNat
          if 2048 < n then s1.helperDone q 1 [0] (some 7)
          else if h.inp.isNone then s1.helperDone q 1 [0] (some 2)
          else
            let (bs, s2) := s1.helperRead q.ctx h h.a.toNat n
            let init := h.puts.headD 0
            let kw := fun i => (s2.reg (rkA r (0x2010 + 16 * (h.c.toNat / 4 % 4) + 4 * i))).toNat
            if fn = 0 then s2.helperDone q 1 [crc32 init bs] none
            else if fn = 1 then s2.helperDone q 1 [crc32c init bs] none
            else
              let v := siphash (BitVec.ofNat 64 (kw 0 + 2 ^ 32 * kw 1)) (BitVec.ofNat 64 (kw 2 + 2 ^ 32 * kw 3)) bs
              s2.helperDone q 1 [v.setWidth 32, (v >>> 32).setWidth 32] none

/-- FN 0. -/
def execHashCrc32 (r : Rank) (c : CoreNo) (s : State) : Out := .next (s.hash r.val c.val 0)

/-- FN 1. -/
def execHashCrc32c (r : Rank) (c : CoreNo) (s : State) : Out := .next (s.hash r.val c.val 1)

/-- FN 2. -/
def execHashSiphash (r : Rank) (c : CoreNo) (s : State) : Out := .next (s.hash r.val c.val 2)

/-! ### Seal (R282–R284). The layout of state word 0 is the model's: slot in bits 9:0, DIR in bit 16, phase in bits 25:24
(0 idle, 1 AAD, 2 data, 3 closed), generation in bits 31:28; the blocks lie in their byte order (log entry 30). -/

/-- The state set of the seat as the helper uses it. -/
structure Seal where
  slot : Nat
  dec : Bool
  phase : Nat
  gen : Nat
  ctr : List Byte
  acc : List Byte
  aad : Nat
  data : Nat

/-- Read a state set of 12 words. -/
def Seal.ofWords (ws : List Word) : Seal :=
  let w := fun i => ws.getD i 0
  { slot := bits (w 0) 9 0, dec := bit (w 0) 16, phase := bits (w 0) 25 24, gen := bits (w 0) 31 28,
    ctr := wordBytes [w 1, w 2, w 3, w 4], acc := wordBytes [w 5, w 6, w 7, w 8], aad := (w 9).toNat, data := (w 10).toNat }

/-- The 12 words of a state set. -/
def Seal.words (x : Seal) : List Word :=
  [BitVec.ofNat 32 (x.slot + at_ (b2n x.dec) 16 + at_ x.phase 24 + at_ x.gen 28)] ++ bytesWords (fit 16 x.ctr) ++
  bytesWords (fit 16 x.acc) ++ [BitVec.ofNat 32 x.aad, BitVec.ofNat 32 x.data, 0]

/-- A key slot. -/
def RankSt.sealKey (x : RankSt) (i : Nat) : SealKey := tget ⟨[], false, false, 0⟩ x.sealKeys i

/-- GHASH over a message, its last block filled with zeros. -/
def ghash (h acc : List Byte) (bs : List Byte) : List Byte := (blocks16 bs).foldl (ghStep h) acc

/-- Counter mode over blocks: the output and the counter block after it. -/
def ctrMode (key : List Byte) : List Byte → List (List Byte) → List Byte × List Byte
  | ctr, [] => ([], ctr)
  | ctr, b :: bs =>
    let c1 := incCtr ctr
    let (out, c2) := ctrMode key c1 bs
    (xorL b (aes key c1) ++ out, c2)

/-- The seat behind a context. -/
def State.seatFor (s : State) (key : Nat) : Nat := s.seatNo (rankOf key) (coreNoOf key)

/-- Put the state set of the seat back. -/
def State.putSeal (s : State) (key : Nat) (x : Seal) : State :=
  let r := rankOf key
  let y := s.rank r
  s.setRank r { y with sealSets := tset y.sealSets (s.seatFor key) x.words }

/-- START: a new message with a valid key slot. -/
def State.sealStart (s : State) (q : HRef) (h : HCmd) (_x : Seal) : State :=
  let key := q.ctx
  let c := s.ctx key
  let slot := bits h.a 9 0
  let k := (s.rank (rankOf key)).sealKey slot
  if !s.mayRange key c h.b.toNat 12 || decide (h.b.toNat % 4 ≠ 0) then s.helperDone q 2 [0] (some 2)
  else if !k.valid then s.helperDone q 2 [0] (some 5)
  else
    let (iv, s1) := s.helperRead key h h.b.toNat 12
    (s1.putSeal key { slot := slot, dec := bit h.a 16, phase := 1, gen := k.gen.toNat, ctr := iv ++ [0, 0, 0, 1],
                      acc := List.replicate 16 0, aad := 0, data := 0 }).helperDone q 2 [0] none

/-- AAD: absorb; a length that is no multiple of 16 closes the AAD. Where several conditions of a seal command fail, the manual gives no order
of their codes: 7 goes before 2, 2 before 6, 6 before 0x0A, and for START 2 before 5 (the model's choice, log entry 124). -/
def State.sealAad (s : State) (q : HRef) (h : HCmd) (x : Seal) : State :=
  let key := q.ctx
  let c := s.ctx key
  let n := h.b.toNat
  let k := (s.rank (rankOf key)).sealKey x.slot
  if 512 < n then s.helperDone q 2 [0] (some 7)
  else if !s.mayRange key c h.a.toNat n then s.helperDone q 2 [0] (some 2)
  else if x.phase ≠ 1 then s.helperDone q 2 [0] (some 6)
  else if k.gen.toNat ≠ x.gen then s.helperDone q 2 [0] (some 0xA)
  else
    let (bs, s1) := s.helperRead key h h.a.toNat n
    let hk := aes k.key (List.replicate 16 0)
    (s1.putSeal key { x with acc := ghash hk x.acc bs, aad := x.aad + n, phase := if n % 16 = 0 then 1 else 2 }).helperDone q 2 [0] none

/-- DATA: encrypt or decrypt in place; a length that is no multiple of 16 closes the data. -/
def State.sealData (s : State) (q : HRef) (h : HCmd) (x : Seal) : State :=
  let key := q.ctx
  let c := s.ctx key
  let n := h.b.toNat
  let k := (s.rank (rankOf key)).sealKey x.slot
  if 2048 < n then s.helperDone q 2 [0] (some 7)
  else if !s.mayRange key c h.a.toNat n then s.helperDone q 2 [0] (some 2)
  else if x.phase ≠ 1 ∧ x.phase ≠ 2 then s.helperDone q 2 [0] (some 6)
  else if k.gen.toNat ≠ x.gen then s.helperDone q 2 [0] (some 0xA)
  else
    let (bs, s1) := s.helperRead key h h.a.toNat n
    let (out, ctr) := ctrMode k.key x.ctr (blocks16 bs)
    let hk := aes k.key (List.replicate 16 0)
    let s2 := s1.portW key h.a.toNat out
    (s2.putSeal key { x with acc := ghash hk x.acc (if x.dec then bs else out), ctr := ctr, data := x.data + n,
                             phase := if n % 16 = 0 then 2 else 3 }).helperDone q 2 [0] none

/-- FINISH: the tag is written, or compared with the one in the scratchpad. -/
def State.sealFinish (s : State) (q : HRef) (h : HCmd) (x : Seal) : State :=
  let key := q.ctx
  let c := s.ctx key
  let k := (s.rank (rankOf key)).sealKey x.slot
  if !s.mayRange key c h.a.toNat 16 || decide (h.a.toNat % 4 ≠ 0) then s.helperDone q 2 [0] (some 2)
  else if x.phase = 0 then s.helperDone q 2 [0] (some 6)
  else if k.gen.toNat ≠ x.gen then s.helperDone q 2 [0] (some 0xA)
  else
    let hk := aes k.key (List.replicate 16 0)
    let lens := beBytes 8 (8 * x.aad) ++ beBytes 8 (8 * x.data)
    let tag := xorL (ghStep hk x.acc lens) (aes k.key (x.ctr.take 12 ++ [0, 0, 0, 1]))
    let idle := { x with phase := 0 }
    if x.dec then
      let (bs, s1) := s.helperRead key h h.a.toNat 16
      (s1.putSeal key idle).helperDone q 2 [if bs = tag then 0 else 1] none
    else ((s.portW key h.a.toNat tag).putSeal key idle).helperDone q 2 [0] none

/-- The seal helper of a rank serves its oldest command where its command byte is `cb`. -/
def State.sealServe (s : State) (r : Nat) (cb : Nat) (f : State → HRef → HCmd → Seal → State) : State :=
  let x := s.rank r
  if !s.runs r then s
  else match x.sealQ with
    | [] => s
    | q :: rest =>
      match s.cmdOf q 2 with
      | none => s.setRank r { x with sealQ := rest }
      | some h =>
        if h.c.toNat ≠ cb then s
        else
          let s1 := s.setRank r { x with sealQ := rest }
          f s1 q h (Seal.ofWords (tget [] x.sealSets (s.seatFor q.ctx)))

/-- START. -/
def execSealStart (r : Rank) (s : State) : Out := .next (s.sealServe r.val 1 State.sealStart)

/-- AAD. -/
def execSealAad (r : Rank) (s : State) : Out := .next (s.sealServe r.val 2 State.sealAad)

/-- DATA. -/
def execSealData (r : Rank) (s : State) : Out := .next (s.sealServe r.val 3 State.sealData)

/-- FINISH. -/
def execSealFinish (r : Rank) (s : State) : Out := .next (s.sealServe r.val 4 State.sealFinish)

/-- RANK_SEAL_KSEL: OP 1 loads the slot from KDATA, OP 2 invalidates it; either advances the generation and clears
KDATA (R282). -/
def State.sealKsel (s : State) (r op slot : Nat) (size : Bool) : State :=
  if op ≠ 1 ∧ op ≠ 2 then s
  else
    let x := s.rank r
    let k := x.sealKey slot
    let kb := wordBytes ((List.range (if size then 8 else 4)).map (fun i => s.reg (rkA r (0x2060 + 4 * i))))
    let k1 : SealKey := if op = 1 then ⟨kb, size, true, k.gen + 1⟩ else { k with valid := false, gen := k.gen + 1 }
    let s1 := s.setRank r { x with sealKeys := tset x.sealKeys slot k1 }
    let s2 := forEach (List.range 8) s1 (fun i s => s.setReg (rkA r (0x2060 + 4 * i)) 0)
    s2.setRegN (rkA r 0x2080) (at_ k1.gen.toNat 28 + at_ slot 16)

/-- RANK_SEAL_KSEL with OP = 1. -/
def execSealKeyLoad (q : Req) (r : Rank) (slot : Fin 1024) (size : Bool) (s : State) : Out :=
  .next (s.writeCmd q (rkA r.val 0x2050) (fun s => s.sealKsel r.val 1 slot.val size))

/-- RANK_SEAL_KSEL with OP = 2. -/
def execSealKeyInvalidate (q : Req) (r : Rank) (slot : Fin 1024) (s : State) : Out :=
  .next (s.writeCmd q (rkA r.val 0x2050) (fun s => s.sealKsel r.val 2 slot.val false))

end Sys2Proof.Machine
end

