-- ==== Sys2Proof/Machine/LoadStore.lean ====
section
/-! DEFINITION. Scratchpad and code-space accesses, opcodes 0x60–0x7F (05 R147, R150–R154; 06 R182–R184). -/

namespace Sys2Proof.Machine

/-- A load whose address is popped ( addr -- v ); `ext` widens the value. -/
def ldPop (n : Nat) (ext : Nat → Word) (s : State) (key : Nat) (c : Ctx) : R :=
  match stkErr key c 1 1 with
  | some v => .exc s v c.pc
  | none => loadAt (c.os.headD 0) n false (fun v => { c with os := ext v :: c.os.drop 1 }) s key c

/-- A store ( v addr -- ). -/
def stPop (n : Nat) (s : State) (key : Nat) (c : Ctx) : R :=
  match stkErr key c 2 0 with
  | some v => .exc s v c.pc
  | none => storeAt (c.os.headD 0) n false (c.os.getD 1 0) { c with os := c.os.drop 2 } s key c

/-- Sign-extension of an 8- or 16-bit value. -/
def sext (w : Nat) (v : Nat) : Word := (BitVec.ofNat w v).signExtend 32

/-- A load through A or B ( -- v ), which moves on by `inc` afterwards (05 R147). -/
def ldReg (useB : Bool) (n inc : Nat) (s : State) (key : Nat) (c : Ctx) : R :=
  match stkErr key c 0 1 with
  | some v => .exc s v c.pc
  | none =>
    let a := if useB then c.b else c.a
    let c1 := if useB then { c with b := c.b + BitVec.ofNat 32 inc } else { c with a := c.a + BitVec.ofNat 32 inc }
    loadAt a n false (fun v => { c1 with os := BitVec.ofNat 32 v :: c.os }) s key c

/-- A store through A or B ( v -- ). -/
def stReg (useB : Bool) (n inc : Nat) (s : State) (key : Nat) (c : Ctx) : R :=
  match stkErr key c 1 0 with
  | some v => .exc s v c.pc
  | none =>
    let a := if useB then c.b else c.a
    let c1 := if useB then { c with b := c.b + BitVec.ofNat 32 inc } else { c with a := c.a + BitVec.ofNat 32 inc }
    storeAt a n false (c.os.headD 0) { c1 with os := c.os.drop 1 } s key c

/-- The effective address of a head-relative form; vector 5 in the fault context (06 R184) or beyond 0x1FF (R182). -/
def headEa (key : Nat) (c : Ctx) (off : Nat) : Option Word :=
  if isFlt key || decide (0x1FF < off) then none else some (BitVec.ofNat 32 (hslot key c + off))

/-- The address that vector 5 of a head-relative form reports. -/
def headFa (key : Nat) (c : Ctx) (off : Nat) : Word := BitVec.ofNat 32 (hslot key c + off)

/-- LDH8, LDH16, LDH32: wire order at offsets 0x000–0x0FF (05 R154). -/
def ldHead (n off : Nat) (s : State) (key : Nat) (c : Ctx) : R :=
  match stkErr key c 0 1 with
  | some v => .exc s v c.pc
  | none =>
    match headEa key c off with
    | none => .exc s 5 (headFa key c off)
    | some a => loadAt a n (decide (off < 0x100)) (fun v => { c with os := BitVec.ofNat 32 v :: c.os }) s key c

/-- STH8, STH16, STH32. -/
def stHead (n off : Nat) (s : State) (key : Nat) (c : Ctx) : R :=
  match stkErr key c 1 0 with
  | some v => .exc s v c.pc
  | none =>
    match headEa key c off with
    | none => .exc s 5 (headFa key c off)
    | some a => storeAt a n (decide (off < 0x100)) (c.os.headD 0) { c with os := c.os.drop 1 } s key c

/-- LDHX ( off -- v ). -/
def ldhx (s : State) (key : Nat) (c : Ctx) : R :=
  match stkErr key c 1 1 with
  | some v => .exc s v c.pc
  | none =>
    match headEa key c (c.os.headD 0).toNat with
    | none => .exc s 5 (headFa key c (c.os.headD 0).toNat)
    | some a => loadAt a 1 false (fun v => { c with os := BitVec.ofNat 32 v :: c.os.drop 1 }) s key c

/-- STHX ( v off -- ). -/
def sthx (s : State) (key : Nat) (c : Ctx) : R :=
  match stkErr key c 2 0 with
  | some v => .exc s v c.pc
  | none =>
    match headEa key c (c.os.headD 0).toNat with
    | none => .exc s 5 (headFa key c (c.os.headD 0).toNat)
    | some a => storeAt a 1 false (c.os.getD 1 0) { c with os := c.os.drop 2 } s key c

/-- LDC8 and LDC32 ( caddr -- v ): code space, with overlays; vector 5 beyond it, then vector 4 (05 R150). -/
def ldCode (n : Nat) (s : State) (key : Nat) (c : Ctx) : R :=
  match stkErr key c 1 1 with
  | some v => .exc s v c.pc
  | none =>
    let a := c.os.headD 0
    if codeTop key ≤ a.toNat then .exc s 5 a
    else if a.toNat % n ≠ 0 then .exc s 4 a
    else .ok s { c with os := BitVec.ofNat 32 (leNat (s.codeSeenN key a.toNat n)) :: c.os.drop 1 }

/-- SETA and SETB ( x -- ) (05 R147). -/
def setAB (useB : Bool) (s : State) (key : Nat) (c : Ctx) : R :=
  match stkErr key c 1 0 with
  | some v => .exc s v c.pc
  | none =>
    let x := c.os.headD 0
    .ok s (if useB then { c with b := x, os := c.os.drop 1 } else { c with a := x, os := c.os.drop 1 })

/-- LD8, zero-extended. -/
def execLd8 (x : Iss) (s : State) : Out := .next (s.issue x .plain 1 true (ldPop 1 (BitVec.ofNat 32)))

/-- LD8S, sign-extended. -/
def execLd8s (x : Iss) (s : State) : Out := .next (s.issue x .plain 1 true (ldPop 1 (sext 8)))

/-- LD16. -/
def execLd16 (x : Iss) (s : State) : Out := .next (s.issue x .plain 1 true (ldPop 2 (BitVec.ofNat 32)))

/-- LD16S. -/
def execLd16s (x : Iss) (s : State) : Out := .next (s.issue x .plain 1 true (ldPop 2 (sext 16)))

/-- LD32. -/
def execLd32 (x : Iss) (s : State) : Out := .next (s.issue x .plain 1 true (ldPop 4 (BitVec.ofNat 32)))

/-- ST8. -/
def execSt8 (x : Iss) (s : State) : Out := .next (s.issue x .plain 1 true (stPop 1))

/-- ST16. -/
def execSt16 (x : Iss) (s : State) : Out := .next (s.issue x .plain 1 true (stPop 2))

/-- ST32. -/
def execSt32 (x : Iss) (s : State) : Out := .next (s.issue x .plain 1 true (stPop 4))

/-- LDA32. -/
def execLda32 (x : Iss) (s : State) : Out := .next (s.issue x .plain 1 true (ldReg false 4 0))

/-- LDA32+. -/
def execLda32Plus (x : Iss) (s : State) : Out := .next (s.issue x .plain 1 true (ldReg false 4 4))

/-- STA32. -/
def execSta32 (x : Iss) (s : State) : Out := .next (s.issue x .plain 1 true (stReg false 4 0))

/-- STA32+. -/
def execSta32Plus (x : Iss) (s : State) : Out := .next (s.issue x .plain 1 true (stReg false 4 4))

/-- LDA8+. -/
def execLda8Plus (x : Iss) (s : State) : Out := .next (s.issue x .plain 1 true (ldReg false 1 1))

/-- STA8+. -/
def execSta8Plus (x : Iss) (s : State) : Out := .next (s.issue x .plain 1 true (stReg false 1 1))

/-- LDB32+. -/
def execLdb32Plus (x : Iss) (s : State) : Out := .next (s.issue x .plain 1 true (ldReg true 4 4))

/-- STB32+. -/
def execStb32Plus (x : Iss) (s : State) : Out := .next (s.issue x .plain 1 true (stReg true 4 4))

/-- LDB32. -/
def execLdb32 (x : Iss) (s : State) : Out := .next (s.issue x .plain 1 true (ldReg true 4 0))

/-- STB32. -/
def execStb32 (x : Iss) (s : State) : Out := .next (s.issue x .plain 1 true (stReg true 4 0))

/-- LDB8+. -/
def execLdb8Plus (x : Iss) (s : State) : Out := .next (s.issue x .plain 1 true (ldReg true 1 1))

/-- STB8+. -/
def execStb8Plus (x : Iss) (s : State) : Out := .next (s.issue x .plain 1 true (stReg true 1 1))

/-- LDH8 off. -/
def execLdh8 (x : Iss) (off : Half) (s : State) : Out := .next (s.issue x .head 3 (immOff off) (ldHead 1 off.toNat))

/-- LDH16 off. -/
def execLdh16 (x : Iss) (off : Half) (s : State) : Out := .next (s.issue x .head 3 (immOff off) (ldHead 2 off.toNat))

/-- LDH32 off. -/
def execLdh32 (x : Iss) (off : Half) (s : State) : Out := .next (s.issue x .head 3 (immOff off) (ldHead 4 off.toNat))

/-- STH8 off. -/
def execSth8 (x : Iss) (off : Half) (s : State) : Out := .next (s.issue x .head 3 (immOff off) (stHead 1 off.toNat))

/-- STH16 off. -/
def execSth16 (x : Iss) (off : Half) (s : State) : Out := .next (s.issue x .head 3 (immOff off) (stHead 2 off.toNat))

/-- STH32 off. -/
def execSth32 (x : Iss) (off : Half) (s : State) : Out := .next (s.issue x .head 3 (immOff off) (stHead 4 off.toNat))

/-- LDHX. -/
def execLdhx (x : Iss) (s : State) : Out := .next (s.issue x .head 1 true (ldhx))

/-- STHX. -/
def execSthx (x : Iss) (s : State) : Out := .next (s.issue x .head 1 true (sthx))

/-- LDC8. -/
def execLdc8 (x : Iss) (s : State) : Out := .next (s.issue x .plain 1 true (ldCode 1))

/-- LDC32. -/
def execLdc32 (x : Iss) (s : State) : Out := .next (s.issue x .plain 1 true (ldCode 4))

/-- SETA. -/
def execSeta (x : Iss) (s : State) : Out := .next (s.issue x .plain 1 true (setAB false))

/-- SETB. -/
def execSetb (x : Iss) (s : State) : Out := .next (s.issue x .plain 1 true (setAB true))

end Sys2Proof.Machine
end

