-- ==== Sys2Proof/Machine/Regs.lean ====
section
/-! DEFINITION. Every register of the address map: what a read returns, its side effect, what a write does (00 R6–R9, R528;
19 R508–R518), and the register fabric (12 R362). -/

namespace Sys2Proof.Machine

/-! ### Counters (02 R71) -/

/-- The _LO address of the counter that the word at `a` belongs to. -/
def ctrBase (a : Nat) : Option Nat :=
  let inS := fun (lo n : Nat) => if lo ≤ a ∧ a < lo + 8 * n then some (lo + (a - lo) / 8 * 8) else none
  if 0x1000000 ≤ a ∧ a < 0x1C00000 then
    let b := a - a % 0x100000
    if b + 0x100 ≤ a ∧ a < b + 0x150 then inS (b + 0x100) 10 else inS (b + 0x150) 13
  else if a < 0x100000 then inS 0x100 1
  else if a < 0x200000 then inS (pmA 0x800) 5
  else if a < 0x300000 then inS (swA 0x200) 10
  else if a < 0x500000 then inS (tmA 0x900) 4
  else if a < 0x600000 then inS (bufA 0x400) 8
  else if a < 0x700000 then inS (inA 0x400) 10
  else if a < 0x800000 then inS (egA 0x400) 5
  else if a < ldA 0 then inS (tbA 0x800) 6
  else inS (ldA 0x100) 11

/-- The word of a counter at `a` as it stands. -/
def State.ctrWord (s : State) (b a : Nat) : Word := if a = b then (s.ctr b).setWidth 32 else (s.ctr b >>> 32).setWidth 32

/-! ### What each region returns, with no side effect -/

/-- Bits gathered into a word: bit `i` is `p i`. -/
def wordOf (n : Nat) (p : Nat → Bool) : Nat := (List.range n).foldl (fun m i => m + b2n (p i) * 2 ^ i) 0

/-- Block identity and state (19). -/
def State.peekBlk (s : State) (a : Nat) : Nat :=
  if a = 0 then 0x01440200
  else if a = 4 then at_ (b2n s.pins.detAck) 9 + at_ (b2n s.pins.detReq) 8 + s.blk.toNat
  else if a = 8 then (s.reg 8).toNat
  else 0

/-- PMC_DOM_STATE of a domain (16). -/
def State.domState (s : State) (d : Nat) : Nat :=
  let x := s.pdom d
  let code := match x.st with | .off => 0 | .on => 1 | .hold => 2 | .rest => 3
  at_ (b2n (s.isOn d)) 31 + at_ (b2n x.lost) 30 + at_ (b2n x.latch) 29 + at_ (b2n x.bad) 28 +
  (if d < 12 then at_ (b2n s.pm.force) 10 + at_ (b2n (x.exh || s.hotter 420)) 9 + at_ x.plevel 4 else 0) +
  (if x.entering.isSome then 4 else if x.waking then 5 else code)

/-- The PMC's registers (16). -/
def State.peekPmc (s : State) (o : Nat) : Nat :=
  if 0x10 ≤ o ∧ o < 0x24 then (List.range 4).foldl (fun n j => n + s.voteByte (o - 0x10 + j) * 256 ^ j) 0
  else if 0x200 ≤ o ∧ o < 0x250 then s.domState ((o - 0x200) / 4)
  else if 0x300 ≤ o ∧ o < 0x330 then at_ (b2n (s.pdom ((o - 0x300) / 4)).exh) 31 + s.credit0 ((o - 0x300) / 4)
  else if (0x100 ≤ o ∧ o < 0x150) ∨ (0x400 ≤ o ∧ o < 0x440) ∨ o = 0x450 ∨ o = 0x500 ∨ o = 0x504 then (s.reg (pmA o)).toNat
  else 0

/-- IC_STATUS of a steward. -/
def State.icStatus (s : State) (i : Nat) : Nat :=
  let x := s.stwd i
  at_ (b2n x.frozen) 31 + at_ x.fcause 29 + at_ x.flevel 20 + at_ (s.dlvLevel i) 16 + at_ x.prio.length 8 + s.running i

/-- The entries `lo` and up of a steward's priority stack, entry 0 the oldest. -/
def State.icStack (s : State) (i lo : Nat) : Nat :=
  (((s.stwd i).prio.reverse.drop lo).take 8).reverse.foldl (fun n e => n * 16 + e % 16) 0

/-- The interrupt controller's registers (12). -/
def State.peekIc (s : State) (o : Nat) : Nat :=
  if o < 0x20 ∨ o = 0x8C ∨ (0x1000 ≤ o ∧ o < 0x1400) then (s.reg (icA o)).toNat
  else if 0x60 ≤ o ∧ o < 0x80 then wordOf 32 (fun j => s.srcPend (8 * (o - 0x60) + j))
  else if 0x100 ≤ o ∧ o < 0x200 then
    let i := (o - 0x100) / 0x40
    let p := o % 0x40
    if p = 0x08 then (s.reg (icA o)).toNat
    else if p = 0x10 then s.icStatus i
    else if p = 0x14 then s.icStack i 0
    else if p = 0x18 then s.icStack i 8
    else if 0x20 ≤ p then wordOf 32 (fun j => let n := 8 * (p - 0x20) + j; decide (s.boundTo n = some i) && s.deliverable n)
    else 0
  else 0

/-- STW_STATUS of a steward (12). -/
def State.stwStatus (s : State) (i : Nat) : Nat :=
  let c := s.ctx (stwKey i)
  let x := s.stwd i
  let st := if x.faulted then 4 else if !x.started then 0 else if (s.core (stwCore i)).isHalted then 3 else if s.inWait i then 2 else 1
  at_ st 8 + at_ c.elev.toNat 6 + c.floors.length

/-- The steward cluster's registers (12, 17). -/
def State.peekStw (s : State) (o : Nat) : Nat :=
  if o < 0x10 then s.stwStatus (o / 4)
  else if o = 0x10 ∨ o = 0x14 ∨ o = 0x300 ∨ (0x310 ≤ o ∧ o < 0x324) then (s.reg (swA o)).toNat
  else if o = 0x324 ∨ (0x100 ≤ o ∧ o < 0x180) then (s.lwLast (swA o)).toNat
  else 0

/-- The config loader's and the flash's registers (15). -/
def State.peekCfg (s : State) (o : Nat) : Nat := if (4 ≤ o ∧ o < 0x20) ∨ (0x24 ≤ o ∧ o < 0x3C) then (s.reg (cfA o)).toNat else 0

/-- TIME_STATUS. -/
def State.timeStatus (s : State) : Nat :=
  let t := s.time
  at_ (b2n t.slew.isSome) 31 + at_ (b2n t.refused) 30 + at_ (b2n t.set) 3 + at_ (b2n t.restored) 2 + at_ (b2n t.refLost) 1 + b2n t.locked

/-- A register of schedule table `t` at offset `p` (14). -/
def State.peekSch (s : State) (t p : Nat) : Nat :=
  let x := s.sch t
  if p < 0x14 then (s.reg (schP t (!x.oper) p)).toNat
  else if p < 0x28 then (s.reg (schP t x.oper (p - 0x14))).toNat
  else if p = 0x28 then x.swNs
  else if p = 0x2C then x.swSec.toNat % 2 ^ 32
  else if p = 0x30 then x.swSec.toNat / 2 ^ 32
  else if p = 0x34 then at_ (b2n x.pend) 31 + at_ (b2n x.wrRefused) 30 + s.schEntry t
  else 0

/-- The timebase's and the schedules' registers (14); the companions of TIME_NOW_NS return what it captured (R421). -/
def State.peekTime (s : State) (o : Nat) : Nat :=
  if o = 0 then s.time.ns
  else if o = 4 then (tget 0 s.time.capSec 0).toNat % 2 ^ 32
  else if o = 8 then (tget 0 s.time.capSec 0).toNat / 2 ^ 32
  else if o = 0xC then (tget 0 s.time.capFrac 0).toNat / 2 ^ 16
  else if o = 0x10 then (tget 0 s.time.capTick 0).toNat
  else if (0x20 ≤ o ∧ o < 0x30) ∨ o = 0x38 ∨ o = 0x3C ∨ o = 0x804 then (s.reg (tmA o)).toNat
  else if o = 0x34 then s.timeStatus
  else if 0x1000 ≤ o ∧ o < 0x2000 then s.peekSch ((o - 0x1000) / 64) (o % 64)
  else if 0x40000 ≤ o ∧ o < 0xC0000 then
    let t := o % 0x40000 / 0x1000
    let b := (s.sch t).oper
    (s.reg (schE t (if o < 0x80000 then !b else b) (o % 0x1000 / 4))).toNat
  else 0

/-- The buffer port's registers (13). -/
def State.peekBuf (s : State) (o : Nat) : Nat :=
  if o < 0x20 ∨ o = 0x24 ∨ o = 0x28 then (s.reg (bufA o)).toNat
  else if o = 0x20 then at_ s.buf.empty.toNat 16 + at_ s.buf.low.toNat 8 + s.buf.warn.toNat
  else if o = 0x2C then (s.lwLast (bufA o)).toNat
  else if o = 0x30 then s.buf.freeq.length
  else 0

/-- The ingress and channel registers (02). -/
def State.peekIn (s : State) (o : Nat) : Nat :=
  if o = 4 ∨ o = 8 ∨ (0x200 ≤ o ∧ o < 0x280) ∨ (0x1000 ≤ o ∧ o < 0x2000) then (s.reg (inA o)).toNat
  else if o = 0xC then
    let ch := s.fld (inA 8) 9 0
    at_ (s.chan ch).toNat 24 + at_ (s.held ch % 4096) 12 + s.inflight ch % 4096
  else if 0x100 ≤ o ∧ o < 0x200 then (List.range 16).foldl (fun n j => n + (s.chan (4 * (o - 0x100) + j)).toNat * 4 ^ j) 0
  else 0

/-- The egress registers (02). -/
def State.peekEg (s : State) (o : Nat) : Nat :=
  if 0x1000 ≤ o ∧ o < 0x2000 then (s.reg (egA o)).toNat
  else if 0x2000 ≤ o ∧ o < 0x3000 then s.creditOf ((o - 0x2000) / 4)
  else 0

/-- The active seats of a rank. -/
def State.active (s : State) (r : Nat) : Nat := (List.range 12).countP (fun t => (s.seatCore r t).isSome)

/-- RANK_STATUS (03). -/
def State.rankStatus (s : State) (r : Nat) : Nat :=
  at_ (b2n (s.hasReserve r)) 31 + at_ (s.active r) 24 + at_ (s.freeReplay r) 16 + at_ (s.eligCount r) 8 + (s.rank r).reinjQ.length

/-- RANK_GATE_INFO of the lane that RANK_GATE_SEL names (03). -/
def State.gateInfo (s : State) (r : Nat) : Nat :=
  let lane : Lane := BitVec.ofNat 8 (s.fld (rkA r 8) 7 0)
  let x := s.rank r
  let w := (x.entries.filter (fun e => decide (e.2.md.lane = lane) && (match e.2.phase with | .gate _ _ _ => true | _ => false))).length
  let m := (x.marks.filter (fun m => decide (m.lane = lane) && m.held.isNone)).length
  at_ (w % 256) 24 + at_ (m % 256) 16 + (x.nextOf lane).toNat

/-- RANK_PUNT_STATUS (03). -/
def State.puntStatus (s : State) (r : Nat) : Nat :=
  let h := (s.rank r).exc.filter (fun e => s.isHeld r e.1)
  at_ h.length 8 + (h.filter (fun e => !e.2.popped)).length

/-- RANK_SEAT_STATUS (11). -/
def State.seatWord (s : State) (r : Nat) : Nat :=
  let x := s.rank r
  let w := (s.reg (rkA r 0x3004)).toNat
  at_ (b2n (decide (x.rot ≠ 0))) 31 + at_ (b2n (decide (2 ≤ x.rot) && decide (x.rotSeat = w % 16))) 30 + w

/-- RANK_MC_STATUS of a seat (11). -/
def State.mcStatus (s : State) (r t : Nat) : Nat :=
  let w := (s.reg (mcSt r t)).toNat
  match s.seatCore r t with
  | none => w
  | some c =>
    let co := s.core (r * 13 + c)
    2 ^ 31 + w + at_ (co.pmap.filter (fun e => bit e.2 31)).length 21 + co.plevel.toNat

/-- RANK_CODE_STATUS (17). -/
def State.codeStatus (s : State) (r : Nat) : Nat :=
  at_ (b2n (s.rank r).codeLoad) 31 + (s.reg (codeSt r)).toNat + wordOf 13 (s.runsLib r)

/-- The registers of a seat at offset `p` of its block (11). -/
def State.peekSeat (s : State) (r t p : Nat) : Nat :=
  let a := rkA r (0x3100 + 0x40 * t + p)
  if p = 0x04 then (s.reg a).toNat + at_ (b2n ((s.seatCore r t).any (fun c => (s.core (r * 13 + c)).bgt.isSome))) 12
  else if p = 0x1C then s.mcStatus r t
  else if p = 0x00 ∨ p = 0x08 ∨ p = 0x10 ∨ p = 0x14 ∨ (0x20 ≤ p ∧ p < 0x30) then (s.reg a).toNat
  else 0

/-- A rank's registers (03, 08, 09, 11, 17). -/
def State.peekRank (s : State) (r o : Nat) : Nat :=
  let a := rkA r o
  if o = 0 ∨ o = 8 ∨ o = 0x1C then (s.reg a).toNat
  else if o = 4 then s.rankStatus r
  else if o = 0xC then s.gateInfo r
  else if o = 0x10 then s.puntStatus r
  else if o = 0x14 ∨ o = 0x2090 ∨ o = 0x3008 ∨ o = 0x300C ∨ o = 0x3010 then (s.lwLast a).toNat
  else if 0x1000 ≤ o ∧ o < 0x11A0 then (if o % 0x20 = 0x1C then 0 else (s.reg a).toNat)
  else if o = 0x2000 then (s.gstCapWord r).toNat
  else if o = 0x2004 ∨ (0x2010 ≤ o ∧ o < 0x2050) ∨ o = 0x3014 ∨ o = 0x3024 then (s.reg a).toNat
  else if o = 0x2080 then (s.reg a).toNat + ((s.rank r).sealKeys.filter (fun e => e.2.valid)).length
  else if o = 0x3004 then s.seatWord r
  else if o = 0x3020 then (s.reg a).toNat + at_ (b2n (decide (s.active r < 12))) 2
  else if o = 0x302C then s.codeStatus r
  else if 0x3100 ≤ o ∧ o < 0x3440 then s.peekSeat r ((o - 0x3100) / 0x40) ((o - 0x3100) % 0x40)
  else 0

/-- TBL_TILE_STATUS of a tile; 0 while the half's domain is not ON (19 R515). -/
def State.tileStatus (s : State) (t : Nat) : Nat :=
  if !s.isOn (tileDom t) then 0
  else
    let b := s.arb t
    at_ (b2n b.failed) 31 + at_ b.failCause 29 + at_ (min b.ueRows.length 255) 16 + s.fld (tbA (0x100 + 4 * t)) 1 0

/-- The table registers (10). -/
def State.peekTbl (s : State) (o : Nat) : Nat :=
  let a := tbA o
  if o = 4 ∨ (0x20 ≤ o ∧ o < 0x40) ∨ o = 0x90 ∨ o = 0x94 ∨ (0x300 ≤ o ∧ o < 0x320) ∨ (0x400 ≤ o ∧ o < 0x600) then (s.reg a).toNat
  else if o = 8 then at_ (b2n s.tb.busy) 31 + at_ (b2n s.tb.cmdDone) 30 + at_ s.tb.cmdReason 27
  else if o = 0x10 then at_ (b2n s.tb.plive) 31 + at_ (b2n s.tb.refused) 30 + at_ s.tb.prev.toNat 8 + s.tb.cur.toNat
  else if o = 0x14 then at_ (s.roundCount s.tb.prev % 65536) 16 + s.roundCount s.tb.cur % 65536
  else if o = 0x80 then (s.lwLast a).toNat
  else if 0x100 ≤ o ∧ o < 0x180 then s.tileStatus ((o - 0x100) / 4)
  else if 0x1000 ≤ o ∧ o < 0x3000 then
    if o % 32 = 28 then
      let t := (o - 0x1000) / 32
      at_ (b2n (s.abank t)) 31 + at_ (b2n (s.pbank t)) 30 + tget 0 s.tb.rnext t % 2 ^ 24
    else (s.reg a).toNat
  else 0

/-- The 32 bytes of a ledger entry (04 R118). -/
def LEntry.bytes (e : LEntry) : List Byte :=
  leBytes 1 e.lane.toNat ++ leBytes 2 e.pip.toNat ++ leBytes 1 (e.rank + 16 * e.attempt.toNat) ++
  leBytes 1 (b2n e.used + 2 * b2n e.vgood + 4 * b2n e.rel + 8 * e.op.toNat) ++ leBytes 1 e.table.toNat ++
  leBytes 1 e.round.toNat ++ leBytes 1 (e.seq % 16) ++ fit 24 e.payload

/-- The ledger's registers and its window (04). -/
def State.peekLed (s : State) (o : Nat) : Nat :=
  if o = 0 then s.fill
  else if o = 4 then s.led.peak
  else if o = 8 then at_ (b2n (decide (s.fill = 16384))) 2 + at_ (b2n s.led.safAll) 1 + b2n s.led.safLong
  else if o = 0xC then (s.lwLast (ldA 0xC)).toNat
  else if 0x80000 ≤ o ∧ o < 0x100000 then
    match tfind s.led.ent ((o - 0x80000) / 32) with
    | some e => leNat ((e.bytes.drop (o % 32)).take 4)
    | none => 0
  else 0

/-- A byte of AO memory as the diagnostic mirror shows it: the repair map, the save lists of the ranks and of PD_CFG; a
byte whose place the manual does not give is free (16 R465; log entry 10). -/
def State.aoSeen (s : State) (x : Nat) : Byte :=
  if (0x100 ≤ x ∧ x < 0x2C10) ∨ (0x2D40 ≤ x ∧ x < 0x34E0) then mget 0 s.ao x
  else if x < 0x2C10 ∨ (0x2D00 ≤ x ∧ x < 0x3600) then Config.aoByte (s.freeCount + x)
  else 0

/-- The diagnostic mirrors (19 R516). -/
def State.peekMirror (s : State) (o : Nat) : Nat :=
  if o < 0x30 then (s.reg (rkA (o / 4) 0x3024)).toNat
  else if 0x40 ≤ o ∧ o < 0x54 then (s.reg (cfA (o - 0x3C))).toNat
  else if 0x10000 ≤ o ∧ o < 0x14000 then leNat ((List.range 4).map (fun i => s.aoSeen (o - 0x10000 + i)))
  else 0

/-- A debug peek of the register at word address `a`: no side effect; of an LW register, the value of the last functional
read (00 R6). An offset that no register occupies reads 0 (19 R512). -/
def State.peek (s : State) (a : Nat) : Word :=
  match ctrBase a with
  | some b => s.ctrWord b a
  | none => BitVec.ofNat 32 (
    if a < 0x100000 then s.peekBlk a
    else if a < 0x200000 then s.peekPmc (a - 0x100000)
    else if a < 0x208000 then s.peekIc (a - 0x200000)
    else if a < 0x300000 then s.peekStw (a - 0x208000)
    else if a < 0x400000 then s.peekCfg (a - 0x300000)
    else if a < 0x500000 then s.peekTime (a - 0x400000)
    else if a < 0x600000 then s.peekBuf (a - 0x500000)
    else if a < 0x700000 then s.peekIn (a - 0x600000)
    else if a < 0x800000 then s.peekEg (a - 0x700000)
    else if 0x1000000 ≤ a ∧ a < 0x1C00000 then s.peekRank ((a - 0x1000000) / 0x100000) (a % 0x100000)
    else if 0x2000000 ≤ a ∧ a < 0x2080000 then s.peekTbl (a - 0x2000000)
    else if 0x2080000 ≤ a ∧ a < 0x2180000 then s.peekLed (a - 0x2080000)
    else if 0x3000000 ≤ a ∧ a < 0x3200000 then s.srN (a - 0x3000000) 4
    else if 0x3F00000 ≤ a ∧ a < 0x4000000 then s.peekMirror (a - 0x3F00000)
    else 0)

/-! ### Functional reads and their side effects -/

/-- The log registers (00 R528). -/
def isLog (a : Nat) : Bool :=
  decide (a = ldA 0xC) || decide (a = tbA 0x80) || decide (a = swA 0x324) || decide (a = bufA 0x2C) ||
  (decide (0x1000000 ≤ a) && decide (a < 0x1C00000) && [0x2090, 0x3008, 0x300C, 0x3010].contains (a % 0x100000))

/-- The RC registers that are stored: CTL_ERR_INFO and the fault records' counts (00 R6). -/
def isRc (a : Nat) : Bool :=
  decide (a = 8) ||
  (decide (0x1000000 ≤ a) && decide (a < 0x1C00000) && decide (0x1000 ≤ a % 0x100000) && decide (a % 0x100000 < 0x11A0) &&
   decide (a % 0x20 = 0x18))

/-- A stored RC register returns its value and is cleared. -/
def State.readRc (s : State) (a : Nat) : Word × State := (s.reg a, s.setReg a 0)

/-- An LW register's functional read with its side effect; none elsewhere. -/
def State.lwRead (s : State) (q : Req) (a : Nat) : Option (Word × State) :=
  if isLog a then some (s.logPop a)
  else if 0x1000000 ≤ a ∧ a < 0x1C00000 ∧ a % 0x100000 = 0x14 then some (s.puntPop ((a - 0x1000000) / 0x100000))
  else if swA 0x100 ≤ a ∧ a < swA 0x180 then some (s.semRead q ((a - swA 0x100) / 4))
  else none

/-- A functional read of the register at word address `a` (00 R6). -/
def State.readReg (s : State) (q : Req) (a : Nat) : Word × State :=
  match ctrBase a with
  | some b => if a = b then s.ctrLo q b else (s.hiLatch q, s)
  | none =>
    match s.lwRead q a with
    | some (w, s1) => (w, s1.lwKeep a w)
    | none =>
      if isRc a then s.readRc a
      else if a = ldA 4 then s.peakRead
      else if a = tmA 0 then s.timeNow
      else if inWindow a then
        let s1 := (s.srTouch [(a - 0x3000000) / 8]).2
        (s1.peek a, s1)
      else if 0x3F10000 ≤ a ∧ a < 0x3F14000 then (s.peek a, { s with freeCount := s.freeCount + 0x4000 })
      else (s.peek a, s)

/-! ### Writes -/

/-- Writes of the interrupt controller's registers. -/
def State.putIc (s : State) (q : Req) (o : Nat) (w : Word) : State :=
  if 0x20 ≤ o ∧ o < 0x40 then s.setReg (icA (o - 0x20)) (s.reg (icA (o - 0x20)) ||| w)
  else if 0x40 ≤ o ∧ o < 0x60 then s.setReg (icA (o - 0x40)) (s.reg (icA (o - 0x40)) &&& ~~~ w)
  else if o = 0x80 then s.icPendSet q (w.setWidth 16)
  else if o = 0x84 then s.icPendClr (w.setWidth 16)
  else if o = 0x88 then s.orReg (icA 0x8C) (w.toNat % 256)
  else if o = 0x8C then s.clrReg (icA 0x8C) w.toNat
  else if 0x100 ≤ o ∧ o < 0x200 then
    let i := (o - 0x100) / 0x40
    let p := o % 0x40
    if p = 0 then (if reqStw q = some i then s.icPush i (w.toNat % 16) else s)
    else if p = 4 then (if reqStw q = some i then s.icPop i (w.toNat % 16) else s)
    else if p = 8 then s.setReg (icA o) (w &&& 0xF)
    else if p = 0xC then (if bit w 0 then s.stkInit i else s)
    else s
  else if 0x1000 ≤ o ∧ o < 0x1400 then s.icSample.srcWrite ((o - 0x1000) / 4) w
  else s

/-- Writes of the steward cluster's registers. -/
def State.putStw (s : State) (q : Req) (o : Nat) (w : Word) : State :=
  if o = 0x10 then s.setReg (swA 0x10) (w &&& 1)
  else if o = 0x14 then s.libClear w
  else if o = 0x180 then s.semRel q (w.toNat % 32)
  else if o = 0x304 then
    let s1 := if bit w 0 then s.kickOwn q else s
    if bit w 1 then s1.kickBlk else s1
  else if o = 0x308 then
    if bits w 17 16 = 1 then s.stwRestart (bits w 1 0) else if bits w 17 16 = 2 then s.stwReload (bits w 1 0) (bits w 12 4)
    else if !(s.stwd (bits w 1 0)).faulted then s.orReg (stwCause (bits w 1 0)) (2 ^ 31) else s
  else if o = 0x320 then s.clrReg (swA 0x320) w.toNat
  else s

/-- Writes of the config loader's and the flash's registers. -/
def State.putCfg (s : State) (q : Req) (o : Nat) (w : Word) : State :=
  if o = 0 then s.startOk q (bit w 0)
  else if o = 0x20 then
    let op := bits w 2 0
    if 1 ≤ op ∧ op ≤ 4 then s.flashCmd op else if op = 5 then s.flashCancel else s
  else if o = 0x24 then s.setReg (cfA o) (w &&& 0x3FFFFFF)
  else if o = 0x28 then s.setReg (cfA o) (w &&& 0x1FFFFF)
  else if o = 0x2C then s.setReg (cfA o) (w &&& 0x1FFFF)
  else if o = 0x38 then s.clrReg (cfA o) w.toNat
  else s

/-- A write of a schedule table's register at offset `p`: an admin parameter of a table with a pending switch is refused
(14 R413). -/
def State.putSch (s : State) (t p : Nat) (w : Word) : State :=
  let x := s.sch t
  if p < 0x14 then
    if x.pend then s.setSch t { x with wrRefused := true }
    else
      let m : Word := if p = 0 then 0x07FFFFFF else if p = 0xC then 0xFFFFFFFF else if p = 0x10 then 0xFFFF else 0x3FFFFFFF
      s.setReg (schP t (!x.oper) p) (w &&& m)
  else if p = 0x34 ∧ bit w 30 then s.setSch t { x with wrRefused := false }
  else s

/-- Writes of the timebase's and the schedules' registers. -/
def State.putTimeReg (s : State) (o : Nat) (w : Word) : State :=
  if o = 0x20 then s.setReg (tmA o) (clampAdj w)
  else if o = 0x24 ∨ o = 0x28 then s.setReg (tmA o) w
  else if o = 0x2C then s.setReg (tmA o) (w &&& 0xFFFF)
  else if o = 0x30 then
    if bits w 1 0 = 1 then s.timeStep else if bits w 1 0 = 2 then s.timeSlew else if bits w 1 0 = 3 then s.timeSet else s
  else if o = 0x34 then (if bit w 2 then { s with time := { s.time with restored := false } } else s)
  else if o = 0x38 then s.clrReg (tmA o) w.toNat
  else if o = 0x3C then s.ppsSet w
  else if o = 0x800 then
    if bits w 17 16 = 1 then s.schCommit (w.toNat % 64) else if bits w 17 16 = 2 then s.schCancel (w.toNat % 64) else s
  else if 0x1000 ≤ o ∧ o < 0x2000 then s.putSch ((o - 0x1000) / 64) (o % 64) w
  else if 0x40000 ≤ o ∧ o < 0xC0000 then s.schEntryWrite (tmA o) w
  else s

/-- Writes of the ingress and channel registers. -/
def State.putIn (s : State) (q : Req) (o : Nat) (w : Word) : State :=
  if o = 0 then (if bits w 17 16 = 1 ∨ bits w 17 16 = 2 then s.chCmd q (bits w 17 16) (bits w 9 0) else s)
  else if o = 8 then s.setReg (inA o) (w &&& 0x3FF)
  else if 0x200 ≤ o ∧ o < 0x280 then s.clrReg (inA o) w.toNat
  else s

/-- Writing 1 to VALID of RANK_FAULTREC_INFO clears VALID and OVERRUN (08 R262). -/
def State.faultClear (s : State) (a : Nat) (w : Word) : State := if bit w 31 then s.clrReg a (2 ^ 31 + 2 ^ 30) else s

/-- Writes of a seat's registers at offset `p` of its block. -/
def State.putSeatReg (s : State) (r t p : Nat) (w : Word) : State :=
  let a := rkA r (0x3100 + 0x40 * t + p)
  if p = 0 then s.ownerWrite r t (w &&& 0xFFFF)
  else if p = 0x08 then s.setReg a (w &&& 0x3FFF8)
  else if p = 0x0C then (if bits w 1 0 = 1 ∨ bits w 1 0 = 2 then s.accCmd r t (bits w 1 0) else s)
  else if p = 0x10 ∨ p = 0x14 ∨ (0x24 ≤ p ∧ p < 0x30) then s.setReg a w
  else if p = 0x18 then (if bit w 0 then s.testStart r t else s)
  else if p = 0x20 then s.setReg a (w &&& 0x800000FF)
  else if p = 0x30 then
    let op := bits w 2 0
    if op = 1 then s.mcCmd r t 1 (fun s ck co => s.mcWrite r t ck co)
    else if op = 2 then s.mcCmd r t 2 (fun s ck co => s.mcRead r t ck co)
    else if op = 3 then s.mcCmd r t 3 (fun s ck co => s.mcLevel r t ck co)
    else if op = 4 then s.mcCmd r t 4 (fun s ck co => s.mcDrop ck co)
    else s
  else s

/-- Writes of a rank's registers. -/
def State.putRank (s : State) (r o : Nat) (w : Word) : State :=
  let a := rkA r o
  if o = 8 then s.setReg a (w &&& 0xFF)
  else if o = 0x18 then
    if bits w 17 16 = 1 ∨ bits w 17 16 = 2 then s.reinjWrite r (bits w 5 0) (bits w 11 8) (decide (bits w 17 16 = 1)) else s
  else if 0x1000 ≤ o ∧ o < 0x11A0 ∧ o % 0x20 = 0 then s.faultClear a w
  else if o = 0x2050 then s.sealKsel r (bits w 25 24) (bits w 9 0) (bit w 16)
  else if 0x2060 ≤ o ∧ o < 0x2080 then s.setReg a w
  else if o = 0x3000 then
    if bits w 17 16 = 1 then s.seatDrain r (bits w 3 0)
    else if bits w 17 16 = 2 then s.seatRotate r (bits w 3 0)
    else if bits w 17 16 = 3 then s.seatCancel r (bits w 3 0)
    else s
  else if o = 0x3020 then s.clrReg a (w.toNat % 4)
  else if o = 0x3028 then (if bits w 1 0 = 1 ∨ bits w 1 0 = 2 then s.codeCmd r (bits w 1 0) else s)
  else if 0x3100 ≤ o ∧ o < 0x3440 then s.putSeatReg r ((o - 0x3100) / 0x40) ((o - 0x3100) % 0x40) w
  else s

/-- A TBL_CMD write. -/
def State.tblCmdWrite (s : State) (w : Word) : State :=
  match bits w 31 28 with
  | 1 => s.cmdEntry false (bit w 27) (bits w 7 0)
  | 2 => s.cmdEntry true (bit w 27) (bits w 7 0)
  | 3 => s.cmdRows false (bits w 26 22)
  | 4 => s.cmdRows true (bits w 26 22)
  | 5 => s.cmdFail
  | _ => s

/-- Writes of the table registers; TBL_STAGE keeps 0 for a table with DUAL = 0. -/
def State.putTbl (s : State) (o : Nat) (w : Word) : State :=
  let a := tbA o
  if o = 0 then s.tblCmdWrite w
  else if o = 4 ∨ (0x400 ≤ o ∧ o < 0x600) then s.setReg a w
  else if o = 0x18 then (if bit w 0 then s.openRound else s)
  else if 0x20 ≤ o ∧ o < 0x40 then s.setRegN a (wordOf 32 (fun j => bit w j && s.tDual (8 * (o - 0x20) + j)))
  else if o = 0x90 then s.clrReg a w.toNat
  else if 0x100 ≤ o ∧ o < 0x180 then (if s.isOn (tileDom ((o - 0x100) / 4)) then s.clrReg a (w.toNat % 4) else s)
  else if 0x300 ≤ o ∧ o < 0x320 then s.writeReloc ((o - 0x300) / 4) w
  else s

/-- A write through the SRAM window: the enabled bytes (19 R511). A steward's write to the program library needs WREN (12
R368); the host's go to its mailbox only (R365). -/
def State.putWindow (s : State) (q : Req) (a : Nat) (w : Word) (be : BitVec 4) : State :=
  let x := a - 0x3000000
  if (reqStw q).isSome && decide (x < 0xE0000) && !bit (s.reg (swA 0x10)) 0 then s
  else if be = 0 then s
  else
    let old := s.srR x 4
    let new := (List.range 4).map (fun i => if be.getLsbD i then (leBytes 4 w.toNat).getD i 0 else old.getD i 0)
    { s.srW x new with sramErr := tdel s.sramErr (x / 8) }

/-- The effect of a write that reaches the register at word address `a` and that the writer may make (00 R7, R9). -/
def State.writeReg (s : State) (q : Req) (a : Nat) (w : Word) (be : BitVec 4) : State :=
  if a < 0x100000 then s
  else if a < 0x200000 then
    let o := a - 0x100000
    if o = 0 then s.votesSet q w
    else if o = 4 then s.votesClr q w
    else if 0x100 ≤ o ∧ o < 0x150 then s.domCfg ((o - 0x100) / 4) w
    else if o = 0x500 then s.clrReg a w.toNat
    else s
  else if a < 0x208000 then s.putIc q (a - 0x200000) w
  else if a < 0x300000 then s.putStw q (a - 0x208000) w
  else if a < 0x400000 then s.putCfg q (a - 0x300000) w
  else if a < 0x500000 then s.putTimeReg (a - 0x400000) w
  else if a < 0x600000 then (if a = bufA 0x24 ∨ a = bufA 0x28 then s.clrReg a w.toNat else s)
  else if a < 0x700000 then s.putIn q (a - 0x600000) w
  else if 0x1000000 ≤ a ∧ a < 0x1C00000 then s.putRank ((a - 0x1000000) / 0x100000) (a % 0x100000) w
  else if 0x2000000 ≤ a ∧ a < 0x2080000 then s.putTbl (a - 0x2000000) w
  else if inWindow a then s.putWindow q a w be
  else s

/-! ### Rows that read or write one register -/

/-- COUNTER_LO_READ (02 R71). -/
def execCounterLoRead (q : Req) (addr : RegAddr) (s : State) : Out :=
  let a := addr.toNat / 4 * 4
  .next (match ctrBase a with
    | none => s
    | some b => if a ≠ b then s else s.readCmd q a (fun s => s.ctrLo q b) (fun s => s.ctrWord b a))

/-- COUNTER_HI_READ: the requester's latch; a debug peek returns the current upper word. -/
def execCounterHiRead (q : Req) (addr : RegAddr) (s : State) : Out :=
  let a := addr.toNat / 4 * 4
  .next (match ctrBase a with
    | none => s
    | some b => if a = b then s else s.readCmd q a (fun s => (s.hiLatch q, s)) (fun s => s.ctrWord b a))

/-- RANK_FAULTREC_INFO of a seat. -/
def faultInfo (r t : Nat) : Nat := rkA r (0x1000 + 0x20 * t)

/-- FAULTREC_INFO_CLEAR. -/
def execFaultrecInfoClear (q : Req) (r : Rank) (t : Seat) (w : Word) (s : State) : Out :=
  .next (s.writeCmd q (faultInfo r.val t.val) (fun s => s.faultClear (faultInfo r.val t.val) w))

/-- FAULTREC_COUNT_READ. -/
def execFaultrecCountRead (q : Req) (r : Rank) (t : Seat) (s : State) : Out :=
  let a := faultInfo r.val t.val + 0x18
  .next (s.readCmd q a (fun s => s.readRc a) (fun s => s.reg a))

/-- RANK_GST_LATE_READ. -/
def execRankGstLateRead (q : Req) (r : Rank) (s : State) : Out :=
  .next (s.readLw q (rkA r.val 0x2090) (fun s => s.logPop (rkA r.val 0x2090)))

/-- TBL_UE_LOG_READ. -/
def execTblUeLogRead (q : Req) (s : State) : Out := .next (s.readLw q (tbA 0x80) (fun s => s.logPop (tbA 0x80)))

/-- CTL_ERR_INFO_READ. -/
def execCtlErrInfoRead (q : Req) (s : State) : Out := .next (s.readCmd q 8 (fun s => s.readRc 8) (fun s => s.reg 8))

/-- REGISTER_WRITE: a write of any register by a requester that reaches it (19 R511–R513). -/
def execRegisterWrite (q : Req) (addr : RegAddr) (w : Word) (be : BitVec 4) (s : State) : Out :=
  let a := addr.toNat / 4 * 4
  let be := match q with | .ctl => be | _ => 0xF
  .next (s.onReach q a be ((s.mayWrite q a (fun s => s.writeReg q a w be)).acked q a))

/-! ### The register fabric (12 R362, 19 R509–R512, 18 R498) -/

/-- A steward's access: vector 5 where the control port would answer CTL_ERR; else the load or store completes. -/
def State.fabStw (s : State) (i : Nat) (x : StwAcc) : State :=
  let key := stwKey i
  let a := x.addr.toNat
  let ea : Word := BitVec.ofNat 32 (0xF0000000 + a)
  let s0 := s.setStw i { s.stwd i with acc := none }
  if (s.ctlErr a 0xF).isSome then s0.excAt key 5 ea
  else
    let (w, s1) : Word × State := if x.we then (0, s0.writeReg (.stw ⟨i % 4, Nat.mod_lt _ (by decide)⟩) a x.data 0xF)
                                  else s0.readReg (.stw ⟨i % 4, Nat.mod_lt _ (by decide)⟩) a
    let c := s1.ctx key
    let c1 := { c with os := if x.we then x.os else w :: x.os, a := x.a, b := x.b }
    if c.st = .sleep && decide (c.wait = .fabric) then
      let (s2, c2) := s1.dataMatch key ea (!x.we) c1
      s2.complete key c2 (c.pc + BitVec.ofNat 32 c.wlen)
    else s1

/-- The control port's request is performed and acknowledged: CTL_ERR with CTL_ERR_INFO, or the read or write. -/
def State.fabCtl (s : State) (m : CtlReq) : State :=
  let a := 4 * m.addr.toNat
  let done := fun (s : State) (w : Word) (err : Bool) =>
    { s with fab := { s.fab with ctl := none, ack := true, err := err, rdata := w } }
  match s.ctlErr a m.be with
  | some n => done (s.ctlFail a n) 0 true
  | none =>
    if m.we then done (s.mayWrite .ctl a (fun s => s.writeReg .ctl a m.wdata m.be)) 0 false
    else if m.be = 0 then done s 0 false
    else
      let (w, s1) := s.readReg .ctl a
      done s1 w false

/-- The register word at `a` is read from a memory word with an uncorrectable error: in the shared SRAM's window, or the ledger's. -/
def State.peekBad (s : State) (a : Nat) : Bool :=
  if inWindow a then decide (tfind s.sramErr ((a - 0x3000000) / 8) = some true)
  else if ldA 0x80000 ≤ a ∧ a < ldA 0x100000 then decide (tfind s.ledErr ((a - ldA 0x80000) / 32) = some true)
  else false

/-- A debug access: a peek, with STATUS 3 for data with an uncorrectable error, or a write as the control port makes it; STATUS 2 where
the region does not answer (18 R496, R498). -/
def State.fabDbg (s : State) (we : Bool) (addr : RegAddr) (w : Word) : State :=
  let a := addr.toNat / 4 * 4
  let s0 := { s with fab := { s.fab with dbg := none } }
  if (s.ctlErr a 0xF).isSome then s0.daccEnd 2 s.dbg.accAddr w (!we)
  else if we then (s0.mayWrite .dbg a (fun s => s.writeReg .dbg a w 0xF)).daccEnd 0 s.dbg.accAddr w false
  else { s0.daccEnd (if s0.peekBad a then 3 else 0) s.dbg.accAddr (s0.peek a) true with freeCount := s0.freeCount + 0x4000 }

/-- The steward whose access is next within the cluster's turns; one to an island that is paused or restarts itself waits, as it does at
every requester (17 R487; log entry 117). -/
def State.fabSteward (s : State) : Option (Nat × StwAcc) :=
  if !s.runs dStw then none
  else ((List.range 4).map (fun j => (s.fab.lastStw + 1 + j) % 4)).findSome? (fun i =>
    ((s.stwd i).acc.filter (fun x => s.serves x.addr.toNat)).map (fun x => (i, x)))

/-- Requester `k` of the rotation is served, where it has an access waiting. The control port's clock is CK_CTL, which a pause of CK_CFG
leaves running (19 R508, R510). -/
def State.fabServe (s : State) (k : Nat) : Option State :=
  let s1 := { s with fab := { s.fab with last := k } }
  if k = 0 then s.fabSteward.map (fun p => ({ s1 with fab := { s1.fab with lastStw := p.1 } }).fabStw p.1 p.2)
  else if k = 1 then (if s.isOn dCfg then (s.fab.ctl.filter (fun m => s.serves (4 * m.addr.toNat))).map s1.fabCtl else none)
  else if s.runs dDbg then (s.fab.dbg.filter (fun d => s.serves (d.2.1.toNat / 4 * 4))).map (fun d => s1.fabDbg d.1 d.2.1 d.2.2)
  else none

/-- REGISTER_FABRIC_ACCESS: the control port takes a request where none is outstanding (19 R509), then the fabric performs
one access, served in rotation. CTL_ACK lasts until the next access. -/
def execRegisterFabricAccess (present : Option CtlReq) (s : State) : Out :=
  let s0 := { s with fab := { s.fab with ack := false, err := false, rdata := 0 } }
  let s1 := if s0.isOn dCfg && s0.fab.ctl.isNone then { s0 with fab := { s0.fab with ctl := present } } else s0
  .next ((((List.range 3).map (fun j => (s1.fab.last + 1 + j) % 3)).findSome? s1.fabServe).getD s1)

end Sys2Proof.Machine
end

