-- ==== Sys2Proof/Machine/Stack.lean ====
section
/-! DEFINITION. Stack operations and literals, opcodes 0x00–0x22 (06 R174, R179). -/

namespace Sys2Proof.Machine

/-- PICK n: copies the cell n below the top; vector 7 where n is not below the depth (06 R179). -/
def pick (n : Nat) (s : State) (key : Nat) (c : Ctx) : R :=
  if c.os.length ≤ n then .exc s 7 c.pc
  else match stkErr key c 0 1 with
    | some v => .exc s v c.pc
    | none => .ok s { c with os := c.os.getD n 0 :: c.os }

/-- PUT n: pops v, then overwrites the cell n below the top (06 R179). -/
def put (n : Nat) (s : State) (key : Nat) (c : Ctx) : R :=
  match stkErr key c 1 0 with
  | some v => .exc s v c.pc
  | none =>
    if c.os.length - 1 ≤ n then .exc s 7 c.pc
    else .ok s { c with os := lset (c.os.drop 1) n (c.os.headD 0) }

/-- Push one cell. -/
def push (w : Word) : State → Nat → Ctx → R := stackOp 0 1 (fun _ => [w])

/-- DEPTH: the whole depth before the push (06 R179). -/
def depth (s : State) (key : Nat) (c : Ctx) : R := push (BitVec.ofNat 32 c.os.length) s key c

/-- DUP ( a -- a a ). -/
def execDup (x : Iss) (s : State) : Out := .next (s.issue x .plain 1 true (stackOp 1 2 (fun o => [(o.getD 0 0), (o.getD 0 0)])))

/-- DROP ( a -- ). -/
def execDrop (x : Iss) (s : State) : Out := .next (s.issue x .plain 1 true (stackOp 1 0 (fun _ => [])))

/-- SWAP ( a b -- b a ). -/
def execSwap (x : Iss) (s : State) : Out := .next (s.issue x .plain 1 true (stackOp 2 2 (fun o => [(o.getD 0 0), (o.getD 1 0)])))

/-- OVER ( a b -- a b a ). -/
def execOver (x : Iss) (s : State) : Out := .next (s.issue x .plain 1 true (stackOp 2 3 (fun o => [(o.getD 1 0), (o.getD 0 0), (o.getD 1 0)])))

/-- ROT ( a b c -- b c a ). -/
def execRot (x : Iss) (s : State) : Out := .next (s.issue x .plain 1 true (stackOp 3 3 (fun o => [(o.getD 1 0), (o.getD 0 0), (o.getD 2 0)])))

/-- NIP ( a b -- b ). -/
def execNip (x : Iss) (s : State) : Out := .next (s.issue x .plain 1 true (stackOp 2 1 (fun o => [(o.getD 0 0)])))

/-- TUCK ( a b -- b a b ). -/
def execTuck (x : Iss) (s : State) : Out := .next (s.issue x .plain 1 true (stackOp 2 3 (fun o => [(o.getD 0 0), (o.getD 1 0), (o.getD 0 0)])))

/-- 2DUP ( a b -- a b a b ). -/
def execTwoDup (x : Iss) (s : State) : Out := .next (s.issue x .plain 1 true (stackOp 2 4 (fun o => [(o.getD 1 0), (o.getD 0 0), (o.getD 1 0), (o.getD 0 0)])))

/-- 2DROP ( a b -- ). -/
def execTwoDrop (x : Iss) (s : State) : Out := .next (s.issue x .plain 1 true (stackOp 2 0 (fun _ => [])))

/-- 2SWAP ( a b c d -- c d a b ). -/
def execTwoSwap (x : Iss) (s : State) : Out := .next (s.issue x .plain 1 true (stackOp 4 4 (fun o => [(o.getD 1 0), (o.getD 0 0), (o.getD 3 0), (o.getD 2 0)])))

/-- 2OVER ( a b c d -- a b c d a b ). -/
def execTwoOver (x : Iss) (s : State) : Out := .next (s.issue x .plain 1 true (stackOp 4 6 (fun o => [(o.getD 3 0), (o.getD 2 0), (o.getD 1 0), (o.getD 0 0), (o.getD 3 0), (o.getD 2 0)])))

/-- −ROT ( a b c -- c a b ). -/
def execMinusRot (x : Iss) (s : State) : Out := .next (s.issue x .plain 1 true (stackOp 3 3 (fun o => [(o.getD 0 0), (o.getD 2 0), (o.getD 1 0)])))

/-- NOP does nothing (05 R134); the loop end test follows it as every instruction (R160). -/
def execNop (x : Iss) (s : State) : Out := .next (s.issue x .plain 1 true (fun s _ c => .ok s c))

/-- PICK n. -/
def execPick (x : Iss) (b : Byte) (s : State) : Out := .next (s.issue x .plain 2 (imm5 b) (pick b.toNat))

/-- DEPTH ( -- d ). -/
def execDepth (x : Iss) (s : State) : Out := .next (s.issue x .plain 1 true (depth))

/-- PUT n. -/
def execPut (x : Iss) (b : Byte) (s : State) : Out := .next (s.issue x .plain 2 (imm5 b) (put b.toNat))

/-- LIT.0 … LIT.15 ( -- k ). -/
def execLitN (x : Iss) (n : Fin 16) (s : State) : Out := .next (s.issue x .plain 1 true (push (BitVec.ofNat 32 n.val)))

/-- LIT8: the operand byte, zero-extended. -/
def execLit8 (x : Iss) (b : Byte) (s : State) : Out := .next (s.issue x .plain 2 true (push (b.setWidth 32)))

/-- LIT16: the operand halfword, zero-extended. -/
def execLit16 (x : Iss) (h : Half) (s : State) : Out := .next (s.issue x .plain 3 true (push (h.setWidth 32)))

/-- LIT32: the operand word. -/
def execLit32 (x : Iss) (w : Word) (s : State) : Out := .next (s.issue x .plain 5 true (push w))

end Sys2Proof.Machine
end

