-- ==== Sys2Proof/Machine/Dispatch.lean ====
section
/-! DEFINITION. One arm per command: each is one direct call of that command's meaning. -/

namespace Sys2Proof.Machine

def exec (i : Instr) (s : State) : Host.Outcome State Fault Refusal :=
  match i with
  | .ingressSegment l0 l1 => Sys2Proof.Machine.execIngressSegment l0 l1 s
  | .pauseEvent => Sys2Proof.Machine.execPauseEvent s
  | .inPauseNlChange => Sys2Proof.Machine.execInPauseNlChange s
  | .egressFrameStart ch lane => Sys2Proof.Machine.execEgressFrameStart ch lane s
  | .egressSegment port ch lane => Sys2Proof.Machine.execEgressSegment port ch lane s
  | .egCreditReturn ch cnt => Sys2Proof.Machine.execEgCreditReturn ch cnt s
  | .chAttach q ch => Sys2Proof.Machine.execChAttach q ch s
  | .chDetach q ch => Sys2Proof.Machine.execChDetach q ch s
  | .channelAttached ch => Sys2Proof.Machine.execChannelAttached ch s
  | .channelDetached ch => Sys2Proof.Machine.execChannelDetached ch s
  | .blkDetachReq => Sys2Proof.Machine.execBlkDetachReq s
  | .blockDetached => Sys2Proof.Machine.execBlockDetached s
  | .blkDetachReqFall => Sys2Proof.Machine.execBlkDetachReqFall s
  | .counterLoRead q addr => Sys2Proof.Machine.execCounterLoRead q addr s
  | .counterHiRead q addr => Sys2Proof.Machine.execCounterHiRead q addr s
  | .hopTransfer l => Sys2Proof.Machine.execHopTransfer l s
  | .skipToken l => Sys2Proof.Machine.execSkipToken l s
  | .verdictToken l => Sys2Proof.Machine.execVerdictToken l s
  | .dispatchSelect r => Sys2Proof.Machine.execDispatchSelect r s
  | .contextStart r c k => Sys2Proof.Machine.execContextStart r c k s
  | .headSlotWritten r c k sl => Sys2Proof.Machine.execHeadSlotWritten r c k sl s
  | .gateRelease r => Sys2Proof.Machine.execGateRelease r s
  | .gatePassMark r => Sys2Proof.Machine.execGatePassMark r s
  | .rankPuntPop q r => Sys2Proof.Machine.execRankPuntPop q r s
  | .rankReinjReinject q r idx target => Sys2Proof.Machine.execRankReinjReinject q r idx target s
  | .rankReinjDrop q r idx => Sys2Proof.Machine.execRankReinjDrop q r idx s
  | .turnCapExpiry r c k => Sys2Proof.Machine.execTurnCapExpiry r c k s
  | .turnHardLimit r c k => Sys2Proof.Machine.execTurnHardLimit r c k s
  | .verdictMessage lane pip => Sys2Proof.Machine.execVerdictMessage lane pip s
  | .verdictArrive u lane pip => Sys2Proof.Machine.execVerdictArrive u lane pip s
  | .ledgerEntry r idx => Sys2Proof.Machine.execLedgerEntry r idx s
  | .ledgerRelease r => Sys2Proof.Machine.execLedgerRelease r s
  | .ledgerDiscard r => Sys2Proof.Machine.execLedgerDiscard r s
  | .ledgerForfeit r => Sys2Proof.Machine.execLedgerForfeit r s
  | .ledgerVerdict => Sys2Proof.Machine.execLedgerVerdict s
  | .ledgerFlush => Sys2Proof.Machine.execLedgerFlush s
  | .ledgerCommit idx => Sys2Proof.Machine.execLedgerCommit idx s
  | .ledgerPeakRead q => Sys2Proof.Machine.execLedgerPeakRead q s
  | .ledgerUeLogRead q => Sys2Proof.Machine.execLedgerUeLogRead q s
  | .nop x => Sys2Proof.Machine.execNop x s
  | .dup x => Sys2Proof.Machine.execDup x s
  | .drop x => Sys2Proof.Machine.execDrop x s
  | .swap x => Sys2Proof.Machine.execSwap x s
  | .over x => Sys2Proof.Machine.execOver x s
  | .rot x => Sys2Proof.Machine.execRot x s
  | .nip x => Sys2Proof.Machine.execNip x s
  | .tuck x => Sys2Proof.Machine.execTuck x s
  | .twoDup x => Sys2Proof.Machine.execTwoDup x s
  | .twoDrop x => Sys2Proof.Machine.execTwoDrop x s
  | .twoSwap x => Sys2Proof.Machine.execTwoSwap x s
  | .twoOver x => Sys2Proof.Machine.execTwoOver x s
  | .minusRot x => Sys2Proof.Machine.execMinusRot x s
  | .pick x b => Sys2Proof.Machine.execPick x b s
  | .depth x => Sys2Proof.Machine.execDepth x s
  | .put x b => Sys2Proof.Machine.execPut x b s
  | .litN x n => Sys2Proof.Machine.execLitN x n s
  | .lit8 x b => Sys2Proof.Machine.execLit8 x b s
  | .lit16 x h => Sys2Proof.Machine.execLit16 x h s
  | .lit32 x w => Sys2Proof.Machine.execLit32 x w s
  | .add x => Sys2Proof.Machine.execAdd x s
  | .sub x => Sys2Proof.Machine.execSub x s
  | .neg x => Sys2Proof.Machine.execNeg x s
  | .inc x => Sys2Proof.Machine.execInc x s
  | .dec x => Sys2Proof.Machine.execDec x s
  | .and x => Sys2Proof.Machine.execAnd x s
  | .or x => Sys2Proof.Machine.execOr x s
  | .xor x => Sys2Proof.Machine.execXor x s
  | .not x => Sys2Proof.Machine.execNot x s
  | .andn x => Sys2Proof.Machine.execAndn x s
  | .shl x => Sys2Proof.Machine.execShl x s
  | .shr x => Sys2Proof.Machine.execShr x s
  | .sar x => Sys2Proof.Machine.execSar x s
  | .rol x => Sys2Proof.Machine.execRol x s
  | .ror x => Sys2Proof.Machine.execRor x s
  | .shli x b => Sys2Proof.Machine.execShli x b s
  | .shri x b => Sys2Proof.Machine.execShri x b s
  | .sari x b => Sys2Proof.Machine.execSari x b s
  | .extr x pos len => Sys2Proof.Machine.execExtr x pos len s
  | .ins x pos len => Sys2Proof.Machine.execIns x pos len s
  | .clz x => Sys2Proof.Machine.execClz x s
  | .popc x => Sys2Proof.Machine.execPopc x s
  | .bswap32 x => Sys2Proof.Machine.execBswap32 x s
  | .bswap16 x => Sys2Proof.Machine.execBswap16 x s
  | .mul x => Sys2Proof.Machine.execMul x s
  | .mulh x => Sys2Proof.Machine.execMulh x s
  | .mulhu x => Sys2Proof.Machine.execMulhu x s
  | .min x => Sys2Proof.Machine.execMin x s
  | .max x => Sys2Proof.Machine.execMax x s
  | .ceq x p => Sys2Proof.Machine.execCeq x p s
  | .cne x p => Sys2Proof.Machine.execCne x p s
  | .clt x p => Sys2Proof.Machine.execClt x p s
  | .cle x p => Sys2Proof.Machine.execCle x p s
  | .cgt x p => Sys2Proof.Machine.execCgt x p s
  | .cge x p => Sys2Proof.Machine.execCge x p s
  | .cltu x p => Sys2Proof.Machine.execCltu x p s
  | .cleu x p => Sys2Proof.Machine.execCleu x p s
  | .cgtu x p => Sys2Proof.Machine.execCgtu x p s
  | .cgeu x p => Sys2Proof.Machine.execCgeu x p s
  | .ceqz x p => Sys2Proof.Machine.execCeqz x p s
  | .cnez x p => Sys2Proof.Machine.execCnez x p s
  | .cbit x p => Sys2Proof.Machine.execCbit x p s
  | .cmask x p => Sys2Proof.Machine.execCmask x p s
  | .cser16 x p => Sys2Proof.Machine.execCser16 x p s
  | .cser32 x p => Sys2Proof.Machine.execCser32 x p s
  | .pand x b => Sys2Proof.Machine.execPand x b s
  | .por x b => Sys2Proof.Machine.execPor x b s
  | .pxor x b => Sys2Proof.Machine.execPxor x b s
  | .pandn x b => Sys2Proof.Machine.execPandn x b s
  | .pmov x b => Sys2Proof.Machine.execPmov x b s
  | .pnot x b => Sys2Proof.Machine.execPnot x b s
  | .pset x p => Sys2Proof.Machine.execPset x p s
  | .pclr x p => Sys2Proof.Machine.execPclr x p s
  | .ppush x p => Sys2Proof.Machine.execPpush x p s
  | .ppop x p => Sys2Proof.Machine.execPpop x p s
  | .pall x => Sys2Proof.Machine.execPall x s
  | .pload x => Sys2Proof.Machine.execPload x s
  | .ld8 x => Sys2Proof.Machine.execLd8 x s
  | .ld8s x => Sys2Proof.Machine.execLd8s x s
  | .ld16 x => Sys2Proof.Machine.execLd16 x s
  | .ld16s x => Sys2Proof.Machine.execLd16s x s
  | .ld32 x => Sys2Proof.Machine.execLd32 x s
  | .st8 x => Sys2Proof.Machine.execSt8 x s
  | .st16 x => Sys2Proof.Machine.execSt16 x s
  | .st32 x => Sys2Proof.Machine.execSt32 x s
  | .lda32 x => Sys2Proof.Machine.execLda32 x s
  | .lda32Plus x => Sys2Proof.Machine.execLda32Plus x s
  | .sta32 x => Sys2Proof.Machine.execSta32 x s
  | .sta32Plus x => Sys2Proof.Machine.execSta32Plus x s
  | .lda8Plus x => Sys2Proof.Machine.execLda8Plus x s
  | .sta8Plus x => Sys2Proof.Machine.execSta8Plus x s
  | .ldb32Plus x => Sys2Proof.Machine.execLdb32Plus x s
  | .stb32Plus x => Sys2Proof.Machine.execStb32Plus x s
  | .ldb32 x => Sys2Proof.Machine.execLdb32 x s
  | .stb32 x => Sys2Proof.Machine.execStb32 x s
  | .ldb8Plus x => Sys2Proof.Machine.execLdb8Plus x s
  | .stb8Plus x => Sys2Proof.Machine.execStb8Plus x s
  | .ldh8 x off => Sys2Proof.Machine.execLdh8 x off s
  | .ldh16 x off => Sys2Proof.Machine.execLdh16 x off s
  | .ldh32 x off => Sys2Proof.Machine.execLdh32 x off s
  | .sth8 x off => Sys2Proof.Machine.execSth8 x off s
  | .sth16 x off => Sys2Proof.Machine.execSth16 x off s
  | .sth32 x off => Sys2Proof.Machine.execSth32 x off s
  | .ldhx x => Sys2Proof.Machine.execLdhx x s
  | .sthx x => Sys2Proof.Machine.execSthx x s
  | .ldc8 x => Sys2Proof.Machine.execLdc8 x s
  | .ldc32 x => Sys2Proof.Machine.execLdc32 x s
  | .seta x => Sys2Proof.Machine.execSeta x s
  | .setb x => Sys2Proof.Machine.execSetb x s
  | .br x d => Sys2Proof.Machine.execBr x d s
  | .brT x d => Sys2Proof.Machine.execBrT x d s
  | .call x addr => Sys2Proof.Machine.execCall x addr s
  | .calli x => Sys2Proof.Machine.execCalli x s
  | .ret x => Sys2Proof.Machine.execRet x s
  | .loop x d => Sys2Proof.Machine.execLoop x d s
  | .lexit x => Sys2Proof.Machine.execLexit x s
  | .jmpi x => Sys2Proof.Machine.execJmpi x s
  | .lcnt x => Sys2Proof.Machine.execLcnt x s
  | .done x => Sys2Proof.Machine.execDone x s
  | .droppkt x => Sys2Proof.Machine.execDroppkt x s
  | .punt x b => Sys2Proof.Machine.execPunt x b s
  | .packetEnd r c k => Sys2Proof.Machine.execPacketEnd r c k s
  | .emit x => Sys2Proof.Machine.execEmit x s
  | .skipto x => Sys2Proof.Machine.execSkipto x s
  | .setlane x => Sys2Proof.Machine.execSetlane x s
  | .look x t => Sys2Proof.Machine.execLook x t s
  | .lookw x t => Sys2Proof.Machine.execLookw x t s
  | .upd x t => Sys2Proof.Machine.execUpd x t s
  | .cnt x t => Sys2Proof.Machine.execCnt x t s
  | .mtr x t => Sys2Proof.Machine.execMtr x t s
  | .lrn x t => Sys2Proof.Machine.execLrn x t s
  | .log x t => Sys2Proof.Machine.execLog x t s
  | .cas x t => Sys2Proof.Machine.execCas x t s
  | .unlock x t => Sys2Proof.Machine.execUnlock x t s
  | .wait x => Sys2Proof.Machine.execWait x s
  | .waitExpiry w => Sys2Proof.Machine.execWaitExpiry w s
  | .yield x => Sys2Proof.Machine.execYield x s
  | .sys x b => Sys2Proof.Machine.execSys x b s
  | .rte x => Sys2Proof.Machine.execRte x s
  | .exceptionReturn w => Sys2Proof.Machine.execExceptionReturn w s
  | .mfs x i0 => Sys2Proof.Machine.execMfs x i0 s
  | .mts x i0 => Sys2Proof.Machine.execMts x i0 s
  | .fence x => Sys2Proof.Machine.execFence x s
  | .dice x => Sys2Proof.Machine.execDice x s
  | .time x => Sys2Proof.Machine.execTime x s
  | .brk x => Sys2Proof.Machine.execBrk x s
  | .illegalOpcode x op nxt => Sys2Proof.Machine.execIllegalOpcode x op nxt s
  | .hcmd x sl c => Sys2Proof.Machine.execHcmd x sl c s
  | .hput x sl => Sys2Proof.Machine.execHput x sl s
  | .hget x sl => Sys2Proof.Machine.execHget x sl s
  | .hwait x sl => Sys2Proof.Machine.execHwait x sl s
  | .hsave x sl => Sys2Proof.Machine.execHsave x sl s
  | .hrest x sl => Sys2Proof.Machine.execHrest x sl s
  | .hcap x sl => Sys2Proof.Machine.execHcap x sl s
  | .hsync x sl => Sys2Proof.Machine.execHsync x sl s
  | .csum16 x => Sys2Proof.Machine.execCsum16 x s
  | .movb x => Sys2Proof.Machine.execMovb x s
  | .fillb x => Sys2Proof.Machine.execFillb x s
  | .cmpb x => Sys2Proof.Machine.execCmpb x s
  | .byteEngineComplete r c => Sys2Proof.Machine.execByteEngineComplete r c s
  | .storeBufferRelease r c => Sys2Proof.Machine.execStoreBufferRelease r c s
  | .lookupResult w => Sys2Proof.Machine.execLookupResult w s
  | .tableAck w => Sys2Proof.Machine.execTableAck w s
  | .exceptionEntry w => Sys2Proof.Machine.execExceptionEntry w s
  | .lazySave r c k => Sys2Proof.Machine.execLazySave r c k s
  | .faultContextService r c => Sys2Proof.Machine.execFaultContextService r c s
  | .faultProgramLimit r c => Sys2Proof.Machine.execFaultProgramLimit r c s
  | .faultrecInfoClear q r s0 w => Sys2Proof.Machine.execFaultrecInfoClear q r s0 w s
  | .faultrecCountRead q r s0 => Sys2Proof.Machine.execFaultrecCountRead q r s0 s
  | .helperResult r c k sl => Sys2Proof.Machine.execHelperResult r c k sl s
  | .killReport r c k sl => Sys2Proof.Machine.execKillReport r c k sl s
  | .parse r c => Sys2Proof.Machine.execParse r c s
  | .hashCrc32 r c => Sys2Proof.Machine.execHashCrc32 r c s
  | .hashCrc32c r c => Sys2Proof.Machine.execHashCrc32c r c s
  | .hashSiphash r c => Sys2Proof.Machine.execHashSiphash r c s
  | .sealStart r => Sys2Proof.Machine.execSealStart r s
  | .sealAad r => Sys2Proof.Machine.execSealAad r s
  | .sealData r => Sys2Proof.Machine.execSealData r s
  | .sealFinish r => Sys2Proof.Machine.execSealFinish r s
  | .sealKeyLoad q r slot size => Sys2Proof.Machine.execSealKeyLoad q r slot size s
  | .sealKeyInvalidate q r slot => Sys2Proof.Machine.execSealKeyInvalidate q r slot s
  | .guestIssue r => Sys2Proof.Machine.execGuestIssue r s
  | .guestKillNotice r => Sys2Proof.Machine.execGuestKillNotice r s
  | .guestCommitNotice r => Sys2Proof.Machine.execGuestCommitNotice r s
  | .guestResult r s0 k ep data last err code => Sys2Proof.Machine.execGuestResult r s0 k ep data last err code s
  | .guestMirrorSave r s0 widx data => Sys2Proof.Machine.execGuestMirrorSave r s0 widx data s
  | .guestLateError r tag code => Sys2Proof.Machine.execGuestLateError r tag code s
  | .gstPgChange pg => Sys2Proof.Machine.execGstPgChange pg s
  | .rankGstLateRead q r => Sys2Proof.Machine.execRankGstLateRead q r s
  | .tileTransaction t => Sys2Proof.Machine.execTileTransaction t s
  | .overhold t => Sys2Proof.Machine.execOverhold t s
  | .insertSequencer half => Sys2Proof.Machine.execInsertSequencer half s
  | .tileFail t parity => Sys2Proof.Machine.execTileFail t parity s
  | .scrubVisit t row => Sys2Proof.Machine.execScrubVisit t row s
  | .tblRoundOpen q => Sys2Proof.Machine.execTblRoundOpen q s
  | .pliveClear => Sys2Proof.Machine.execPliveClear s
  | .tblCmdReadEntry q bank tid => Sys2Proof.Machine.execTblCmdReadEntry q bank tid s
  | .tblCmdWriteEntry q bank tid => Sys2Proof.Machine.execTblCmdWriteEntry q bank tid s
  | .tblCmdReadRows q len => Sys2Proof.Machine.execTblCmdReadRows q len s
  | .tblCmdWriteRows q len => Sys2Proof.Machine.execTblCmdWriteRows q len s
  | .tblCmdFailTile q => Sys2Proof.Machine.execTblCmdFailTile q s
  | .tblCmdComplete => Sys2Proof.Machine.execTblCmdComplete s
  | .tblRelocWrite q k w => Sys2Proof.Machine.execTblRelocWrite q k w s
  | .tblUeLogRead q => Sys2Proof.Machine.execTblUeLogRead q s
  | .eccWriteback r c bank => Sys2Proof.Machine.execEccWriteback r c bank s
  | .rankSpOwnerWrite q r s0 w => Sys2Proof.Machine.execRankSpOwnerWrite q r s0 w s
  | .spHandoverEffect r s0 bank => Sys2Proof.Machine.execSpHandoverEffect r s0 bank s
  | .spClearEnd r c => Sys2Proof.Machine.execSpClearEnd r c s
  | .bgtRegionStart r c => Sys2Proof.Machine.execBgtRegionStart r c s
  | .bgtRegionComplete r c => Sys2Proof.Machine.execBgtRegionComplete r c s
  | .spTestStart q r s0 => Sys2Proof.Machine.execSpTestStart q r s0 s
  | .spTestComplete r s0 => Sys2Proof.Machine.execSpTestComplete r s0 s
  | .spAccRead q r s0 => Sys2Proof.Machine.execSpAccRead q r s0 s
  | .spAccWrite q r s0 => Sys2Proof.Machine.execSpAccWrite q r s0 s
  | .spAccComplete r s0 => Sys2Proof.Machine.execSpAccComplete r s0 s
  | .machineCheck m cause uaddr => Sys2Proof.Machine.execMachineCheck m cause uaddr s
  | .retiredCoreGated r c => Sys2Proof.Machine.execRetiredCoreGated r c s
  | .mcPatchWrite q r s0 => Sys2Proof.Machine.execMcPatchWrite q r s0 s
  | .mcPatchRead q r s0 => Sys2Proof.Machine.execMcPatchRead q r s0 s
  | .mcPatchSetLevel q r s0 => Sys2Proof.Machine.execMcPatchSetLevel q r s0 s
  | .mcPatchInvalidate q r s0 => Sys2Proof.Machine.execMcPatchInvalidate q r s0 s
  | .rankMcLogRead q r => Sys2Proof.Machine.execRankMcLogRead q r s
  | .rankSpUeLogRead q r => Sys2Proof.Machine.execRankSpUeLogRead q r s
  | .rankRepairLogRead q r => Sys2Proof.Machine.execRankRepairLogRead q r s
  | .seatDrain q r s0 => Sys2Proof.Machine.execSeatDrain q r s0 s
  | .seatDrained r => Sys2Proof.Machine.execSeatDrained r s
  | .seatRotate q r s0 => Sys2Proof.Machine.execSeatRotate q r s0 s
  | .seatRotationComplete r => Sys2Proof.Machine.execSeatRotationComplete r s
  | .seatCancel q r s0 => Sys2Proof.Machine.execSeatCancel q r s0 s
  | .registerFabricAccess present => Sys2Proof.Machine.execRegisterFabricAccess present s
  | .stwSemRead q i0 => Sys2Proof.Machine.execStwSemRead q i0 s
  | .stwSemRel q i0 => Sys2Proof.Machine.execStwSemRel q i0 s
  | .stewardFault s0 cause => Sys2Proof.Machine.execStewardFault s0 cause s
  | .interruptBind => Sys2Proof.Machine.execInterruptBind s
  | .stewardInterruptEntry s0 => Sys2Proof.Machine.execStewardInterruptEntry s0 s
  | .icEnter q s0 lvl => Sys2Proof.Machine.execIcEnter q s0 lvl s
  | .icEoi q s0 lvl => Sys2Proof.Machine.execIcEoi q s0 lvl s
  | .icStkInit q s0 => Sys2Proof.Machine.execIcStkInit q s0 s
  | .icMaskSet q k w => Sys2Proof.Machine.execIcMaskSet q k w s
  | .icMaskClr q k w => Sys2Proof.Machine.execIcMaskClr q k w s
  | .icPendSet q w => Sys2Proof.Machine.execIcPendSet q w s
  | .icPendClr q w => Sys2Proof.Machine.execIcPendClr q w s
  | .icSrcCfgWrite q n w => Sys2Proof.Machine.execIcSrcCfgWrite q n w s
  | .moderationExpiry n => Sys2Proof.Machine.execModerationExpiry n s
  | .icHostDbSet q b => Sys2Proof.Machine.execIcHostDbSet q b s
  | .libStatusClear q w => Sys2Proof.Machine.execLibStatusClear q w s
  | .bufAlloc p => Sys2Proof.Machine.execBufAlloc p s
  | .allocBackoffExpiry p => Sys2Proof.Machine.execAllocBackoffExpiry p s
  | .bufLink => Sys2Proof.Machine.execBufLink s
  | .bufFree => Sys2Proof.Machine.execBufFree s
  | .bufResponse st h => Sys2Proof.Machine.execBufResponse st h s
  | .bufWriteBeat => Sys2Proof.Machine.execBufWriteBeat s
  | .bufReadRequest ch lane => Sys2Proof.Machine.execBufReadRequest ch lane s
  | .bufReadData data nxt err => Sys2Proof.Machine.execBufReadData data nxt err s
  | .bufWriteError h => Sys2Proof.Machine.execBufWriteError h s
  | .bufPoolInput warn low empty => Sys2Proof.Machine.execBufPoolInput warn low empty s
  | .bufLateTimeout => Sys2Proof.Machine.execBufLateTimeout s
  | .bufErrLogRead q => Sys2Proof.Machine.execBufErrLogRead q s
  | .timeRefLost => Sys2Proof.Machine.execTimeRefLost s
  | .timeRefReturn => Sys2Proof.Machine.execTimeRefReturn s
  | .timeFreqWrite q w => Sys2Proof.Machine.execTimeFreqWrite q w s
  | .timeStep q => Sys2Proof.Machine.execTimeStep q s
  | .timeSlew q => Sys2Proof.Machine.execTimeSlew q s
  | .slewStep => Sys2Proof.Machine.execSlewStep s
  | .timeSet q => Sys2Proof.Machine.execTimeSet q s
  | .timeNowNsRead q => Sys2Proof.Machine.execTimeNowNsRead q s
  | .ppsRise => Sys2Proof.Machine.execPpsRise s
  | .ppsFall => Sys2Proof.Machine.execPpsFall s
  | .schedCommit q t => Sys2Proof.Machine.execSchedCommit q t s
  | .schedCancel q t => Sys2Proof.Machine.execSchedCancel q t s
  | .schedSwitch t => Sys2Proof.Machine.execSchedSwitch t s
  | .schedEntryWrite q addr w => Sys2Proof.Machine.execSchedEntryWrite q addr w s
  | .powerOnStart => Sys2Proof.Machine.execPowerOnStart s
  | .startAttemptFail code => Sys2Proof.Machine.execStartAttemptFail code s
  | .startAttemptBegin => Sys2Proof.Machine.execStartAttemptBegin s
  | .cfgStartOk q ok => Sys2Proof.Machine.execCfgStartOk q ok s
  | .startTimeout => Sys2Proof.Machine.execStartTimeout s
  | .minimalStatus via => Sys2Proof.Machine.execMinimalStatus via s
  | .minimalErase x => Sys2Proof.Machine.execMinimalErase x s
  | .minimalWrite x => Sys2Proof.Machine.execMinimalWrite x s
  | .minimalRead x => Sys2Proof.Machine.execMinimalRead x s
  | .minimalSetpref x => Sys2Proof.Machine.execMinimalSetpref x s
  | .minimalRestart via => Sys2Proof.Machine.execMinimalRestart via s
  | .flashRead q => Sys2Proof.Machine.execFlashRead q s
  | .flashProgram q => Sys2Proof.Machine.execFlashProgram q s
  | .flashErase4k q => Sys2Proof.Machine.execFlashErase4k q s
  | .flashErase64k q => Sys2Proof.Machine.execFlashErase64k q s
  | .flashCancel q => Sys2Proof.Machine.execFlashCancel q s
  | .holdupChange valid v => Sys2Proof.Machine.execHoldupChange valid v s
  | .flashCmdComplete err => Sys2Proof.Machine.execFlashCmdComplete err s
  | .pmcVoteSet q w => Sys2Proof.Machine.execPmcVoteSet q w s
  | .pmcVoteClr q w => Sys2Proof.Machine.execPmcVoteClr q w s
  | .pmcDomCfgWrite q d w => Sys2Proof.Machine.execPmcDomCfgWrite q d w s
  | .domainEntry d => Sys2Proof.Machine.execDomainEntry d s
  | .domainEntryComplete d => Sys2Proof.Machine.execDomainEntryComplete d s
  | .domainWake d => Sys2Proof.Machine.execDomainWake d s
  | .domainWakeComplete d => Sys2Proof.Machine.execDomainWakeComplete d s
  | .libraryReloadComplete r => Sys2Proof.Machine.execLibraryReloadComplete r s
  | .brownout r => Sys2Proof.Machine.execBrownout r s
  | .plevelChangeComplete r => Sys2Proof.Machine.execPlevelChangeComplete r s
  | .p0CreditExhausted r => Sys2Proof.Machine.execP0CreditExhausted r s
  | .p0CreditRestored r => Sys2Proof.Machine.execP0CreditRestored r s
  | .thermalForce i0 temp => Sys2Proof.Machine.execThermalForce i0 temp s
  | .thermalForceEnd i0 temp => Sys2Proof.Machine.execThermalForceEnd i0 temp s
  | .thermalLimit i0 temp => Sys2Proof.Machine.execThermalLimit i0 temp s
  | .boxedEntry => Sys2Proof.Machine.execBoxedEntry s
  | .wakeN => Sys2Proof.Machine.execWakeN s
  | .refclkLost => Sys2Proof.Machine.execRefclkLost s
  | .dcoFail d => Sys2Proof.Machine.execDcoFail d s
  | .clockStop k => Sys2Proof.Machine.execClockStop k s
  | .porst => Sys2Proof.Machine.execPorst s
  | .vinCoreLoss => Sys2Proof.Machine.execVinCoreLoss s
  | .coreWatchdogExpiry r c => Sys2Proof.Machine.execCoreWatchdogExpiry r c s
  | .stewardWatchdogExpiry s0 => Sys2Proof.Machine.execStewardWatchdogExpiry s0 s
  | .wdogKickOwn q => Sys2Proof.Machine.execWdogKickOwn q s
  | .wdogKickBlk q => Sys2Proof.Machine.execWdogKickBlk q s
  | .blockWatchdogExpiry => Sys2Proof.Machine.execBlockWatchdogExpiry s
  | .stwRestart q s0 => Sys2Proof.Machine.execStwRestart q s0 s
  | .stwReloadRestart q s0 src => Sys2Proof.Machine.execStwReloadRestart q s0 src s
  | .islandWatchdogExpiry i0 => Sys2Proof.Machine.execIslandWatchdogExpiry i0 s
  | .islandSelfRestart i0 cause => Sys2Proof.Machine.execIslandSelfRestart i0 cause s
  | .ingressFlush u => Sys2Proof.Machine.execIngressFlush u s
  | .islandPause d => Sys2Proof.Machine.execIslandPause d s
  | .islandResume d => Sys2Proof.Machine.execIslandResume d s
  | .fltIslLogRead q => Sys2Proof.Machine.execFltIslLogRead q s
  | .rankCodeLoad q r => Sys2Proof.Machine.execRankCodeLoad q r s
  | .rankCodeLoadComplete r => Sys2Proof.Machine.execRankCodeLoadComplete r s
  | .rankCodeCommit q r => Sys2Proof.Machine.execRankCodeCommit q r s
  | .tapReset => Sys2Proof.Machine.execTapReset s
  | .idcode => Sys2Proof.Machine.execIdcode s
  | .dstatus => Sys2Proof.Machine.execDstatus s
  | .bypass => Sys2Proof.Machine.execBypass s
  | .daccRead addr => Sys2Proof.Machine.execDaccRead addr s
  | .daccWrite addr w => Sys2Proof.Machine.execDaccWrite addr w s
  | .dbgHalt t => Sys2Proof.Machine.execDbgHalt t s
  | .dbgResume t => Sys2Proof.Machine.execDbgResume t s
  | .dbgStep t k => Sys2Proof.Machine.execDbgStep t k s
  | .coreHalted t => Sys2Proof.Machine.execCoreHalted t s
  | .lockHaltTimeout t => Sys2Proof.Machine.execLockHaltTimeout t s
  | .xtrigFire m => Sys2Proof.Machine.execXtrigFire m s
  | .xtrigResume m => Sys2Proof.Machine.execXtrigResume m s
  | .dbgXtrigIn m => Sys2Proof.Machine.execDbgXtrigIn m s
  | .dbgLockLogRead => Sys2Proof.Machine.execDbgLockLogRead s
  | .ctlErrInfoRead q => Sys2Proof.Machine.execCtlErrInfoRead q s
  | .registerWrite q addr w be => Sys2Proof.Machine.execRegisterWrite q addr w be s
  | .refclkReturn => Sys2Proof.Machine.execRefclkReturn s
  | .imageLoaded => Sys2Proof.Machine.execImageLoaded s
  | .reserveTakesSeat r => Sys2Proof.Machine.execReserveTakesSeat r s
  | .islandRestartComplete i0 => Sys2Proof.Machine.execIslandRestartComplete i0 s
  | .votedFaultMasked => Sys2Proof.Machine.execVotedFaultMasked s

end Sys2Proof.Machine
end

