-- ==== Sys2Proof/Machine/Tick.lean ====
section
/-! DEFINITION. What the clocks do in 2 ns in which no command comes (log entry 2): time, the timebase, TURN, WAIT timers,
watchdogs, P0 time, the counters of cycles. -/

namespace Sys2Proof.Machine

/-- Whole cycles in the 2 ns from time `now` of a clock with `half` half cycles in 2 ns. -/
def cyclesIn (half now : Nat) : Nat := half * (now / 2 + 1) / 2 - half * (now / 2) / 2

/-- Half cycles in 2 ns of the clock of a core (16 R459; CK_STW 1 GHz). -/
def State.coreHalf (s : State) (ck : Nat) : Nat := if ck < 156 then s.rankHalf (ck / 13) else 4

/-- A context is occupied: by a packet, stopped or ending too, or by its service (03 R95, 07 R229). -/
def CSt.live : CSt → Bool
  | .free | .loading => false
  | _ => true

/-- TURN (03 R95; it stops while the core is halted, 18 R501), the timer of a WAIT, the fault program's cycles (08 R259). -/
def State.tickCtx (s : State) (key : Nat) (c : Ctx) : Ctx :=
  let ck := coreOf key
  if !s.runs (coreDom ck) then c
  else
    let half := s.coreHalf ck
    let n := if (s.core ck).halted || !c.st.live then 0 else cyclesIn half s.now
    let w := match c.wait with
      | .timer t f => Wait.timer (t - half) f
      | w => w
    { c with wait := w, turn := if c.entry.isSome then BitVec.ofNat 13 (min (c.turn.toNat + n) 8191) else c.turn,
             fcycles := if isFlt key then c.fcycles + n else c.fcycles }

/-- The retired stores of the cores of each rank that runs reach their scratchpads, one a cycle (07 R220). -/
def State.tickStores (s : State) : State :=
  forEach ((s.cores.filter (fun e => decide (e.1 < 156) && !e.2.sbuf.isEmpty && s.runs (coreDom e.1))).map (·.1)) s
    (fun ck s => s.releaseN ck (cyclesIn (s.coreHalf ck) s.now))

/-- The moderation timers count while CK_STW runs (12 R380). -/
def State.tickTimers (s : State) : State :=
  if s.runs dStw then { s with ic := { s.ic with timers := tmap s.ic.timers (fun _ t => t - 2) } } else s

/-- A core with bad parity in a bank of an operand, return or loop stack is retired (17 R467; where the marks come from, log entry
13). -/
def State.tickStacks (s : State) : State :=
  forEach ((s.stkErr.map (fun k => coreOf (k / 4))).eraseDups.filter (fun ck => decide (ck < 156) && s.runs (coreDom ck))) s
    (fun ck s => s.retire (ck / 13) (ck % 13))

/-- The packet cores that have an eligible context, issue nothing in these 2 ns, and whose fault context has no work, a stopped context
that waits for it among it (17 R468). -/
def State.idleCores (s : State) : List Nat :=
  ((s.ctxs.filter (fun e => decide (e.1 < 1404) && !isFlt e.1 && (s.core (coreOf e.1)).svc.isNone && (s.core (coreOf e.1)).stopq.isEmpty &&
    s.canIssue e.1)).map
    (fun e => coreOf e.1)).eraseDups

/-- The watchdogs: cycles of a packet core up to 4096, ns of a steward and of the block (17 R468, R477, R480, R487, R488). -/
def State.tickWdogs (s : State) : State :=
  let s1 := forEach s.idleCores s (fun ck s =>
    let co := s.core ck
    s.setCore ck { co with wdog := min (co.wdog + cyclesIn (s.coreHalf ck) s.now) 4096 })
  let s2 := forEach (List.range 4) s1 (fun i s =>
    let co := s.core (stwCore i)
    if s.stwLive i && !co.halted then s.setCore (stwCore i) { co with wdog := co.wdog + 2 } else s)
  if s2.runs dStw && (decide (s2.cfg.phase = 2) || decide (s2.cfg.phase = 3)) &&
      !(List.range 4).any (fun i => (s2.core (stwCore i)).halted) then
    { s2 with blkWdog := s2.blkWdog + 2 }
  else s2

/-- The cycles since the halt request of each core that has one (18 R502). -/
def State.tickHalts (s : State) : State :=
  { s with cores := tmap s.cores (fun ck co =>
      if co.haltReq && s.runs (coreDom ck) then { co with haltCy := min (co.haltCy + cyclesIn (s.coreHalf ck) s.now) 256 } else co) }

/-- The ns of P0 of each rank in each second, over the last 200 seconds and the current one (16 R460). -/
def State.tickP0 (s : State) : State :=
  let sec := s.now / nsPerSec
  forEach ((List.range 12).filter (fun r => s.isOn r && decide ((s.pdom r).plevel = 0))) s (fun r s =>
    let x := s.pdom r
    s.setDom r { x with p0 := tmod 0 (tkeep x.p0 (fun k _ => decide (sec ≤ k + 200))) sec (· + 2) })

/-- Ingress waits for a handle: the pool's store is empty and the pool is not EMPTY (13 R391). -/
def State.handleWait (s : State) : Bool :=
  match s.ing.waitCh with
  | some ch => (s.handles (s.poolOf ch)).isEmpty && !s.poolEmpty (s.poolOf ch)
  | none => false

/-- IN_READY_LOW and BUF_HANDLE_WAIT, in CK_IN cycles, those of a restart once the DCO has locked among them (17 R481); RANK_MOVER_STALL,
in CK_RANK cycles (02 R37, 13 R391, 11 R337). -/
def State.tickCounts (s : State) : State :=
  let low := s.clockRuns dIn && (!s.inReady || s.handleWait)
  let s1 := if low then s.count (inA 0x448) 2 else s
  let s2 := if s.runs dIn && s.handleWait then s1.count (bufA 0x438) 2 else s1
  forEach ((List.range 12).filter s.moverHeld) s2 (fun r s => s.count (rkA r 0x190) (cyclesIn (s.rankHalf r) s.now))

/-- The timebase advances: while the island restarts itself the time goes on (log entry 48). -/
def State.tickTime (s : State) : State :=
  if s.alive dTime && (s.pdom dTime).restarting && !(s.pdom dTime).paused then
    let x := s.pdom dTime
    let s1 := (s.setDom dTime { x with restarting := false }).timeEdge
    s1.setDom dTime x
  else s.timeEdge

/-- The stewards whose context start still runs go on with it (11 R347). -/
def State.stwLoads (s : State) : State :=
  forEach (List.range 4) s (fun i s => if decide ((s.ctx (stwKey i)).st = .loading) && s.stwLive i then s.stwLoad i else s)

/-- What 2 ns with no command do. -/
def State.tick (s : State) : State :=
  let s1 := { s with ctxs := tmap s.ctxs s.tickCtx }
  let s2 := s1.tickStacks.tickStores.tickWdogs.tickHalts.tickP0.tickCounts.tickTime.timeCopy.entrySteps.failPending.depLatch.dbgGoOn.stwLoads
  let s3 := (if s2.runs dStw then s2.icSample else s2).tickTimers.present1.present2.overruns.ackFall
  { s3 with now := s3.now + 2, eg := { s3.eg with lastSeg := [] }, dbg := { s3.dbg with xout := 0 } }

end Sys2Proof.Machine
end

