-- ==== Sys2Proof/Safety.lean ====
section
/-! DEFINITION. What the claims call safe: a step that answers a next state, memories in canonical form. -/

namespace Sys2Proof.Machine

/-- The outcome is a next state. -/
def runsOn (o : Host.Outcome State Fault Refusal) : Prop := ∃ t, o = .next t

/-- Every addressed memory is in its canonical form: addresses rise and no entry equals the unlisted byte. -/
def State.memsWf (s : State) : Prop :=
  s.sp.wf 0 = true ∧ s.code.wf 0xFF = true ∧ s.stwCode.wf 0xFF = true ∧ s.sram.wf 0 = true ∧ s.tile.wf 0 = true ∧
  s.flash.wf 0xFF = true ∧ s.ao.wf 0 = true

end Sys2Proof.Machine
end

