-- ==== Sys2Proof/Certificates/Slice0/Obligations.lean ====
section
/-! DEFINITION. The statements for the provers: what the manual's rules say of each family of commands and of the whole
machine. -/

open Sys2Proof Sys2Proof.Machine

/-! ### Register accesses -/

/-- Requester `q` reaches the register at `a`: it can make an access, the address exists in a domain that is ON, and the island
there is neither paused nor restarting itself. -/
def Sys2Proof.Claim.Reaches (s : State) (q : Req) (a : Nat) : Prop :=
  s.reqOk q = true ∧ s.ctlErr a 0xF = none ∧ s.serves a = true

/-- A write of requester `q` to the register at `a` has its effect (19 R512, R513; 18 R498). -/
def Sys2Proof.Claim.MayWrite (s : State) (q : Req) (a : Nat) : Prop :=
  Sys2Proof.Claim.Reaches s q a ∧
  match q with
  | .stw _ => True
  | .ctl => hostMay a = true
  | .dbg => s.dbg.level = 0 ∧ hostMay a = true

/-- A write of requester `q` to the register at `a` is acknowledged: CTL_ACK without CTL_ERR and with CTL_RDATA 0, or STATUS 0 of
the debug access (19 R509, 18 R496). -/
def Sys2Proof.Claim.acked (q : Req) (a : Nat) (s : State) : State :=
  match q with
  | .ctl => { s with fab := { s.fab with ack := true, err := false, rdata := 0 } }
  | .stw _ => s
  | .dbg => { s with dbg := { s.dbg with accStatus := 0, accAddr := BitVec.ofNat 32 a, accRead := false } }

/-! ### The queue -/

/-- A step performs the command at the front of the queue with the queue's rest. The queue is the model's own (log entry 5). -/
def Obligations.StepTakesFrontCommand : Prop :=
  ∀ (c : Instr) (rest : List Instr) (s : State), step { s with pending := c :: rest } = exec c { s with pending := rest }

/-- A step with an empty queue lets 2 ns pass (the model's choice, log entry 2) and leaves the queue empty. Where no domain leaves ON,
no stack bank of a core is marked bad, no start attempt fails and nothing that debug asks of a paused island waits, it changes no code,
shared SRAM, tile or flash memory, no rank, no link and no table; the scratchpads stay where no retired store waits in a core that runs, and AO memory stays but for the time's
copy of each µs. -/
def Obligations.IdleStepPassesTwoNs : Prop :=
  ∀ s : State, s.pending = [] → ∃ t, step s = .next t ∧ t.now = s.now + 2 ∧ t.pending = [] ∧
    ((∀ d, s.leaving d = false) → s.stkErr = [] → s.cfg.phase ≠ 5 → s.dbg.pend = none → s.dbg.held = [] →
    t.code = s.code ∧ t.stwCode = s.stwCode ∧ t.sram = s.sram ∧ t.tile = s.tile ∧ t.flash = s.flash ∧ t.ranks = s.ranks ∧
    t.links = s.links ∧ t.tb = s.tb ∧ t.led = s.led ∧
    ((∀ ck, ck < 156 → (s.core ck).sbuf = [] ∨ s.runs (coreDom ck) = false) → t.sp = s.sp) ∧
    (s.runs dTime = false ∨ (s.now + 2) / 1000 = s.now / 1000 → t.ao = s.ao))

/-! ### One Gilin instruction -/

/-- Context `x.who` issues an instruction of `len` bytes in state `s0`, and executes it in state `s`: the core's retired stores
have reached the scratchpad and the instruction has its place in its group (07 R215, R220). It can issue, its bytes may be
fetched, no comparator watches the pc, the guard holds, no exception or trigger waits for the boundary, and no sequence of
control-store words has begun. -/
def Sys2Proof.Claim.Ready (s0 s : State) (x : Iss) (len : Nat) : Prop :=
  s0.canIssue (whoKey x.who) = true ∧ s = s0.entered (whoKey x.who) (guardLen x.guard + len) ∧
  s.badFetch (whoKey x.who) (s.ctx (whoKey x.who)).pc.toNat (guardLen x.guard + len) = none ∧
  s.matches (whoKey x.who) (s.ctx (whoKey x.who)).pc true false = [] ∧
  guardHolds (s.ctx (whoKey x.who)) x.guard = true ∧
  (s.ctx (whoKey x.who)).v11pend = false ∧ (s.ctx (whoKey x.who)).trig = false ∧ (s.ctx (whoKey x.who)).useq = none

/-- The address after the instruction. -/
def Sys2Proof.Claim.after (s : State) (x : Iss) (len : Nat) : Word :=
  (s.ctx (whoKey x.who)).pc + BitVec.ofNat 32 (guardLen x.guard + len)

/-- Context `key` becomes `c` and goes on at `t`, where the end test of the innermost loop level is made; the core records
that an instruction issued. Nothing else changes. -/
def Sys2Proof.Claim.retire (s : State) (key : Nat) (c : Ctx) (t : Word) : State :=
  (s.setCtx key ({ c with st := .run, wait := .none, wlen := 0, skip := false, brkSkip := false }.goto t)).issued key

/-- The context `c` sleeps in an instruction of `len` bytes, for `w`; no group of it is in flight behind it (07 R217). -/
def Sys2Proof.Claim.asleep (c : Ctx) (w : Wait) (len : Nat) : Ctx :=
  { c with st := .sleep, wait := w, wlen := len, grp := { c.grp with flow := 0 } }

/-- The frame of `retire`: every other context and core and every other field is unchanged, and of the core only the
watchdog count and the debug step's record change. -/
def Obligations.RetireFrame : Prop :=
  ∀ (s : State) (key : Nat) (c : Ctx) (t : Word),
    let u := Sys2Proof.Claim.retire s key c t
    (∀ j, j ≠ key → u.ctx j = s.ctx j) ∧ (∀ j, j ≠ coreOf key → u.core j = s.core j) ∧
    { u.core (coreOf key) with wdog := (s.core (coreOf key)).wdog, stepCtx := (s.core (coreOf key)).stepCtx,
                               haltReq := (s.core (coreOf key)).haltReq } = s.core (coreOf key) ∧
    { u with ctxs := s.ctxs, cores := s.cores } = s

/-! ### Stack operations, opcodes 0x00–0x22 -/

/-- The stack operations of fixed effect: issue, length, operands taken, and the operand stack (top first) before and after. -/
def Sys2Proof.Claim.stackFx : Instr → List Word → Option (Iss × Nat × Nat × List Word)
  | .nop x, os => some (x, 1, 0, os)
  | .dup x, a :: t => some (x, 1, 1, a :: a :: t)
  | .drop x, _ :: t => some (x, 1, 1, t)
  | .swap x, b :: a :: t => some (x, 1, 2, a :: b :: t)
  | .over x, b :: a :: t => some (x, 1, 2, a :: b :: a :: t)
  | .rot x, c :: b :: a :: t => some (x, 1, 3, a :: c :: b :: t)
  | .nip x, b :: _ :: t => some (x, 1, 2, b :: t)
  | .tuck x, b :: a :: t => some (x, 1, 2, b :: a :: b :: t)
  | .twoDup x, b :: a :: t => some (x, 1, 2, b :: a :: b :: a :: t)
  | .twoDrop x, _ :: _ :: t => some (x, 1, 2, t)
  | .twoSwap x, d :: c :: b :: a :: t => some (x, 1, 4, b :: a :: d :: c :: t)
  | .twoOver x, d :: c :: b :: a :: t => some (x, 1, 4, b :: a :: d :: c :: b :: a :: t)
  | .minusRot x, c :: b :: a :: t => some (x, 1, 3, b :: a :: c :: t)
  | .depth x, os => some (x, 1, 0, BitVec.ofNat 32 os.length :: os)
  | .litN x n, os => some (x, 1, 0, BitVec.ofNat 32 n.val :: os)
  | .lit8 x b, os => some (x, 2, 0, b.setWidth 32 :: os)
  | .lit16 x h, os => some (x, 3, 0, h.setWidth 32 :: os)
  | .lit32 x w, os => some (x, 5, 0, w :: os)
  | _, _ => none

/-- NOP, DUP, DROP, SWAP, OVER, ROT, NIP, TUCK, 2DUP, 2DROP, 2SWAP, 2OVER, −ROT, DEPTH, LIT.n, LIT8, LIT16 and LIT32 complete
with the operand stack of their stack effect (06, R142, R143). -/
def Obligations.StackOperationsResult : Prop :=
  ∀ (i : Instr) (s0 s : State) (x : Iss) (len k : Nat) (os' : List Word),
    Sys2Proof.Claim.stackFx i (s.ctx (whoKey x.who)).os = some (x, len, k, os') → Sys2Proof.Claim.Ready s0 s x len →
    (stkFloors (s.ctx (whoKey x.who))).1 + k ≤ (s.ctx (whoKey x.who)).os.length →
    os'.length ≤ (stkLimits (whoKey x.who) (s.ctx (whoKey x.who))).1 →
    exec i s0 = .next (Sys2Proof.Claim.retire s (whoKey x.who) { s.ctx (whoKey x.who) with os := os' } (Sys2Proof.Claim.after s x len))

/-- 06 R179 for PICK, PUT and DEPTH. The floor stops only PUT's pop; PICK 0 acts as DUP and PUT 0 as NIP. -/
def Obligations.PickPutResult : Prop :=
  ∀ (s0 s : State) (x : Iss) (n : Byte), n.toNat < 32 →
    let key := whoKey x.who
    let c := s.ctx key
    (Sys2Proof.Claim.Ready s0 s x 2 →
      (n.toNat < c.os.length → c.os.length < (stkLimits key c).1 → (stkFloors c).1 ≤ c.os.length →
        exec (.pick x n) s0 =
          .next (Sys2Proof.Claim.retire s key { c with os := c.os.getD n.toNat 0 :: c.os } (Sys2Proof.Claim.after s x 2))) ∧
      (c.os.length ≤ n.toNat → exec (.pick x n) s0 = .next ((s.excAt key 7 c.pc).issued key)) ∧
      (∀ v rest, c.os = v :: rest → (stkFloors c).1 ≤ rest.length → rest.length ≤ (stkLimits key c).1 →
        (n.toNat < rest.length → exec (.put x n) s0 =
          .next (Sys2Proof.Claim.retire s key { c with os := rest.take n.toNat ++ v :: rest.drop (n.toNat + 1) }
                  (Sys2Proof.Claim.after s x 2))) ∧
        (rest.length ≤ n.toNat → exec (.put x n) s0 = .next ((s.excAt key 7 c.pc).issued key)))) ∧
    (Sys2Proof.Claim.Ready s0 s x 1 → c.os.length < (stkLimits key c).1 → (stkFloors c).1 ≤ c.os.length →
      exec (.depth x) s0 = .next (Sys2Proof.Claim.retire s key { c with os := BitVec.ofNat 32 c.os.length :: c.os }
        (Sys2Proof.Claim.after s x 1)))

/-! ### Arithmetic, logic and bit fields, opcodes 0x23–0x3F -/

/-- The cells that the two-operand instructions leave for ( a b -- ), as numbers modulo 2^32. -/
def Sys2Proof.Claim.arith2 : Instr → Word → Word → Option (Iss × Nat × Word)
  | .add x, a, b => some (x, 1, BitVec.ofNat 32 (a.toNat + b.toNat))
  | .sub x, a, b => some (x, 1, BitVec.ofInt 32 ((a.toNat : Int) - b.toNat))
  | .and x, a, b => some (x, 1, BitVec.ofNat 32 (a.toNat &&& b.toNat))
  | .or x, a, b => some (x, 1, BitVec.ofNat 32 (a.toNat ||| b.toNat))
  | .xor x, a, b => some (x, 1, BitVec.ofNat 32 (a.toNat ^^^ b.toNat))
  | .andn x, a, b => some (x, 1, a &&& ~~~ b)
  | .shl x, a, n => some (x, 1, BitVec.ofNat 32 (a.toNat * 2 ^ (n.toNat % 32)))
  | .shr x, a, n => some (x, 1, BitVec.ofNat 32 (a.toNat / 2 ^ (n.toNat % 32)))
  | .sar x, a, n => some (x, 1, BitVec.ofInt 32 (a.toInt / 2 ^ (n.toNat % 32)))
  | .rol x, a, n => some (x, 1, BitVec.ofNat 32 (a.toNat * 2 ^ (n.toNat % 32) + a.toNat / 2 ^ (32 - n.toNat % 32)))
  | .ror x, a, n => some (x, 1, BitVec.ofNat 32 (a.toNat / 2 ^ (n.toNat % 32) + a.toNat * 2 ^ (32 - n.toNat % 32)))
  | .mul x, a, b => some (x, 1, BitVec.ofNat 32 (a.toNat * b.toNat))
  | .mulh x, a, b => some (x, 1, BitVec.ofInt 32 (a.toInt * b.toInt / 2 ^ 32))
  | .mulhu x, a, b => some (x, 1, BitVec.ofNat 32 (a.toNat * b.toNat / 2 ^ 32))
  | .min x, a, b => some (x, 1, if a.toInt ≤ b.toInt then a else b)
  | .max x, a, b => some (x, 1, if a.toInt ≤ b.toInt then b else a)
  | .ins x p l, a, f =>
    if p.toNat < 32 ∧ 1 ≤ l.toNat ∧ p.toNat + l.toNat ≤ 32 then
      some (x, 3, BitVec.ofNat 32 (a.toNat - a.toNat / 2 ^ p.toNat % 2 ^ l.toNat * 2 ^ p.toNat +
                                   f.toNat % 2 ^ l.toNat * 2 ^ p.toNat))
    else none
  | _, _, _ => none

/-- The cells that the one-operand instructions leave for ( a -- ). -/
def Sys2Proof.Claim.arith1 : Instr → Word → Option (Iss × Nat × Word)
  | .neg x, a => some (x, 1, BitVec.ofInt 32 (-(a.toNat : Int)))
  | .inc x, a => some (x, 1, BitVec.ofNat 32 (a.toNat + 1))
  | .dec x, a => some (x, 1, BitVec.ofInt 32 ((a.toNat : Int) - 1))
  | .not x, a => some (x, 1, BitVec.ofNat 32 (2 ^ 32 - 1 - a.toNat))
  | .shli x n, a => if n.toNat < 32 then some (x, 2, BitVec.ofNat 32 (a.toNat * 2 ^ n.toNat)) else none
  | .shri x n, a => if n.toNat < 32 then some (x, 2, BitVec.ofNat 32 (a.toNat / 2 ^ n.toNat)) else none
  | .sari x n, a => if n.toNat < 32 then some (x, 2, BitVec.ofInt 32 (a.toInt / 2 ^ n.toNat)) else none
  | .extr x p l, a =>
    if p.toNat < 32 ∧ 1 ≤ l.toNat ∧ p.toNat + l.toNat ≤ 32 then
      some (x, 3, BitVec.ofNat 32 (a.toNat / 2 ^ p.toNat % 2 ^ l.toNat))
    else none
  | .clz x, a => some (x, 1, if a = 0 then 32 else BitVec.ofNat 32 (31 - a.toNat.log2))
  | .popc x, a => some (x, 1, BitVec.ofNat 32 ((List.range 32).foldl (fun n i => n + a.toNat / 2 ^ i % 2) 0))
  | .bswap32 x, a => some (x, 1, a.extractLsb' 0 8 ++ a.extractLsb' 8 8 ++ a.extractLsb' 16 8 ++ a.extractLsb' 24 8)
  | .bswap16 x, a => some (x, 1, (0 : BitVec 16) ++ a.extractLsb' 0 8 ++ a.extractLsb' 8 8)
  | _, _ => none

/-- ADD, SUB, AND, OR, XOR, ANDN, SHL, SHR, SAR, ROL, ROR, MUL, MULH, MULHU, MIN, MAX and INS complete with the cell of their
rule (05 R138, R139; 06 R180). -/
def Obligations.TwoOperandArithmetic : Prop :=
  ∀ (i : Instr) (s0 s : State) (x : Iss) (len : Nat) (a b w : Word) (rest : List Word),
    Sys2Proof.Claim.arith2 i a b = some (x, len, w) → Sys2Proof.Claim.Ready s0 s x len →
    (s.ctx (whoKey x.who)).os = b :: a :: rest → (stkFloors (s.ctx (whoKey x.who))).1 ≤ rest.length →
    rest.length < (stkLimits (whoKey x.who) (s.ctx (whoKey x.who))).1 →
    exec i s0 = .next (Sys2Proof.Claim.retire s (whoKey x.who) { s.ctx (whoKey x.who) with os := w :: rest }
      (Sys2Proof.Claim.after s x len))

/-- NEG, INC, DEC, NOT, SHLI, SHRI, SARI, EXTR, CLZ, POPC, BSWAP32 and BSWAP16 complete with the cell of their rule. -/
def Obligations.OneOperandArithmetic : Prop :=
  ∀ (i : Instr) (s0 s : State) (x : Iss) (len : Nat) (a w : Word) (rest : List Word),
    Sys2Proof.Claim.arith1 i a = some (x, len, w) → Sys2Proof.Claim.Ready s0 s x len →
    (s.ctx (whoKey x.who)).os = a :: rest → (stkFloors (s.ctx (whoKey x.who))).1 ≤ rest.length →
    rest.length < (stkLimits (whoKey x.who) (s.ctx (whoKey x.who))).1 →
    exec i s0 = .next (Sys2Proof.Claim.retire s (whoKey x.who) { s.ctx (whoKey x.who) with os := w :: rest }
      (Sys2Proof.Claim.after s x len))

/-! ### Compares and predicates, opcodes 0x40–0x5B -/

/-- The truth value of the compares of ( a b -- ), and the predicate named. -/
def Sys2Proof.Claim.cmp2 : Instr → Word → Word → Option (Iss × Byte × Bool)
  | .ceq x p, a, b => some (x, p, decide (a.toNat = b.toNat))
  | .cne x p, a, b => some (x, p, decide (a.toNat ≠ b.toNat))
  | .clt x p, a, b => some (x, p, decide (a.toInt < b.toInt))
  | .cle x p, a, b => some (x, p, decide (a.toInt ≤ b.toInt))
  | .cgt x p, a, b => some (x, p, decide (b.toInt < a.toInt))
  | .cge x p, a, b => some (x, p, decide (b.toInt ≤ a.toInt))
  | .cltu x p, a, b => some (x, p, decide (a.toNat < b.toNat))
  | .cleu x p, a, b => some (x, p, decide (a.toNat ≤ b.toNat))
  | .cgtu x p, a, b => some (x, p, decide (b.toNat < a.toNat))
  | .cgeu x p, a, b => some (x, p, decide (b.toNat ≤ a.toNat))
  | .cbit x p, a, n => some (x, p, decide (a.toNat / 2 ^ (n.toNat % 32) % 2 = 1))
  | .cmask x p, a, m => some (x, p, decide (a.toNat &&& m.toNat = m.toNat))
  | .cser16 x p, a, b =>
    let d := (b.toNat % 65536 + 65536 - a.toNat % 65536) % 65536
    some (x, p, decide (1 ≤ d ∧ d ≤ 32767))
  | .cser32 x p, a, b =>
    let d := (b.toNat + 2 ^ 32 - a.toNat) % 2 ^ 32
    some (x, p, decide (1 ≤ d ∧ d ≤ 2 ^ 31 - 1))
  | _, _, _ => none

/-- The truth value of the compares of one operand, PPOP among them. -/
def Sys2Proof.Claim.cmp1 : Instr → Word → Option (Iss × Byte × Bool)
  | .ceqz x p, a => some (x, p, decide (a.toNat = 0))
  | .cnez x p, a => some (x, p, decide (a.toNat ≠ 0))
  | .ppop x p, a => some (x, p, decide (a.toNat ≠ 0))
  | _, _ => none

/-- Predicate `n` of `t` is `v`, every other predicate as in `c`; for p0 nothing. -/
def Sys2Proof.Claim.PredIs (c t : Ctx) (n : Nat) (v : Bool) : Prop :=
  (∀ j, j < 8 → t.pr j = if j = n ∧ n ≠ 0 then v else c.pr j) ∧ t.pred.getLsbD 0 = c.pred.getLsbD 0

/-- CEQ, CNE, CLT, CLE, CGT, CGE, CLTU, CLEU, CGTU, CGEU, CBIT, CMASK, CSER16, CSER32, CEQZ, CNEZ and PPOP (05 R146, 06 R181). -/
def Obligations.CompareResult : Prop :=
  ∀ (i : Instr) (s0 s : State) (x : Iss) (p : Byte) (v : Bool) (a b : Word) (rest : List Word), p.toNat < 8 →
    Sys2Proof.Claim.Ready s0 s x 2 → (stkFloors (s.ctx (whoKey x.who))).1 ≤ rest.length →
    rest.length ≤ (stkLimits (whoKey x.who) (s.ctx (whoKey x.who))).1 →
    ((Sys2Proof.Claim.cmp2 i a b = some (x, p, v) ∧ (s.ctx (whoKey x.who)).os = b :: a :: rest) ∨
     (Sys2Proof.Claim.cmp1 i a = some (x, p, v) ∧ (s.ctx (whoKey x.who)).os = a :: rest)) →
    ∃ pr, Sys2Proof.Claim.PredIs (s.ctx (whoKey x.who)) { s.ctx (whoKey x.who) with pred := pr } p.toNat v ∧
      Ctx.pr { s.ctx (whoKey x.who) with pred := pr } 0 = true ∧
      exec i s0 = .next (Sys2Proof.Claim.retire s (whoKey x.who) { s.ctx (whoKey x.who) with os := rest, pred := pr }
        (Sys2Proof.Claim.after s x 2))

/-- The predicate operations: issue, predicate written and its new value. -/
def Sys2Proof.Claim.predFx : Instr → Ctx → Option (Iss × Byte × Nat × Bool)
  | .pand x b, c => some (x, b, b.toNat % 8, c.pr (b.toNat % 8) && c.pr (b.toNat / 16))
  | .por x b, c => some (x, b, b.toNat % 8, c.pr (b.toNat % 8) || c.pr (b.toNat / 16))
  | .pxor x b, c => some (x, b, b.toNat % 8, c.pr (b.toNat % 8) ^^ c.pr (b.toNat / 16))
  | .pandn x b, c => some (x, b, b.toNat % 8, c.pr (b.toNat % 8) && !c.pr (b.toNat / 16))
  | .pmov x b, c => some (x, b, b.toNat % 8, c.pr (b.toNat / 16))
  | .pnot x b, c => some (x, b, b.toNat % 8, !c.pr (b.toNat / 16))
  | .pset x p, _ => if p.toNat < 8 then some (x, p, p.toNat, true) else none
  | .pclr x p, _ => if p.toNat < 8 then some (x, p, p.toNat, false) else none
  | _, _ => none

/-- PAND, POR, PXOR, PANDN, PMOV, PNOT, PSET, PCLR, PPUSH, PALL and PLOAD (05 R146, 06 R181). -/
def Obligations.PredicateOperationsResult : Prop :=
  ∀ (s0 s : State) (x : Iss),
    let key := whoKey x.who
    let c := s.ctx key
    (∀ i b n v, Sys2Proof.Claim.predFx i c = some (x, b, n, v) → b.toNat < 128 → b.toNat / 8 % 2 = 0 → Sys2Proof.Claim.Ready s0 s x 2 →
      ∃ pr, Sys2Proof.Claim.PredIs c { c with pred := pr } n v ∧
        exec i s0 = .next (Sys2Proof.Claim.retire s key { c with pred := pr } (Sys2Proof.Claim.after s x 2))) ∧
    (∀ p : Byte, p.toNat < 8 → Sys2Proof.Claim.Ready s0 s x 2 → (stkFloors c).1 ≤ c.os.length →
      c.os.length < (stkLimits key c).1 →
      exec (.ppush x p) s0 = .next (Sys2Proof.Claim.retire s key { c with os := (if c.pr p.toNat then 1 else 0) :: c.os }
        (Sys2Proof.Claim.after s x 2))) ∧
    (Sys2Proof.Claim.Ready s0 s x 1 → (stkFloors c).1 ≤ c.os.length → c.os.length < (stkLimits key c).1 →
      exec (.pall x) s0 = .next (Sys2Proof.Claim.retire s key { c with os := BitVec.setWidth 32 (c.pred ||| 1) :: c.os }
        (Sys2Proof.Claim.after s x 1))) ∧
    (∀ a rest, c.os = a :: rest → Sys2Proof.Claim.Ready s0 s x 1 → (stkFloors c).1 ≤ rest.length →
      rest.length ≤ (stkLimits key c).1 →
      ∃ pr : Byte, (∀ j, 0 < j → j < 8 → Ctx.pr { c with pred := pr } j = a.getLsbD j) ∧
        exec (.pload x) s0 = .next (Sys2Proof.Claim.retire s key { c with os := rest, pred := pr }
          (Sys2Proof.Claim.after s x 1)))

/-! ### Where an instruction does not run: halted contexts, fetch, encoding, guard -/

/-- The Gilin instructions with their issue and their length without the guard. -/
def Sys2Proof.Claim.gilin : Instr → Option (Iss × Nat)
  | .nop x => some (x, 1) | .dup x => some (x, 1) | .drop x => some (x, 1) | .swap x => some (x, 1) | .over x => some (x, 1)
  | .rot x => some (x, 1) | .nip x => some (x, 1) | .tuck x => some (x, 1) | .twoDup x => some (x, 1)
  | .twoDrop x => some (x, 1) | .twoSwap x => some (x, 1) | .twoOver x => some (x, 1) | .minusRot x => some (x, 1)
  | .pick x _ => some (x, 2) | .depth x => some (x, 1) | .put x _ => some (x, 2) | .litN x _ => some (x, 1)
  | .lit8 x _ => some (x, 2) | .lit16 x _ => some (x, 3) | .lit32 x _ => some (x, 5)
  | .add x => some (x, 1) | .sub x => some (x, 1) | .neg x => some (x, 1) | .inc x => some (x, 1) | .dec x => some (x, 1)
  | .and x => some (x, 1) | .or x => some (x, 1) | .xor x => some (x, 1) | .not x => some (x, 1) | .andn x => some (x, 1)
  | .shl x => some (x, 1) | .shr x => some (x, 1) | .sar x => some (x, 1) | .rol x => some (x, 1) | .ror x => some (x, 1)
  | .shli x _ => some (x, 2) | .shri x _ => some (x, 2) | .sari x _ => some (x, 2) | .extr x _ _ => some (x, 3)
  | .ins x _ _ => some (x, 3) | .clz x => some (x, 1) | .popc x => some (x, 1) | .bswap32 x => some (x, 1)
  | .bswap16 x => some (x, 1) | .mul x => some (x, 1) | .mulh x => some (x, 1) | .mulhu x => some (x, 1)
  | .min x => some (x, 1) | .max x => some (x, 1)
  | .ceq x _ => some (x, 2) | .cne x _ => some (x, 2) | .clt x _ => some (x, 2) | .cle x _ => some (x, 2)
  | .cgt x _ => some (x, 2) | .cge x _ => some (x, 2) | .cltu x _ => some (x, 2) | .cleu x _ => some (x, 2)
  | .cgtu x _ => some (x, 2) | .cgeu x _ => some (x, 2) | .ceqz x _ => some (x, 2) | .cnez x _ => some (x, 2)
  | .cbit x _ => some (x, 2) | .cmask x _ => some (x, 2) | .cser16 x _ => some (x, 2) | .cser32 x _ => some (x, 2)
  | .pand x _ => some (x, 2) | .por x _ => some (x, 2) | .pxor x _ => some (x, 2) | .pandn x _ => some (x, 2)
  | .pmov x _ => some (x, 2) | .pnot x _ => some (x, 2) | .pset x _ => some (x, 2) | .pclr x _ => some (x, 2)
  | .ppush x _ => some (x, 2) | .ppop x _ => some (x, 2) | .pall x => some (x, 1) | .pload x => some (x, 1)
  | .ld8 x => some (x, 1) | .ld8s x => some (x, 1) | .ld16 x => some (x, 1) | .ld16s x => some (x, 1) | .ld32 x => some (x, 1)
  | .st8 x => some (x, 1) | .st16 x => some (x, 1) | .st32 x => some (x, 1) | .lda32 x => some (x, 1)
  | .lda32Plus x => some (x, 1) | .sta32 x => some (x, 1) | .sta32Plus x => some (x, 1) | .lda8Plus x => some (x, 1)
  | .sta8Plus x => some (x, 1) | .ldb32Plus x => some (x, 1) | .stb32Plus x => some (x, 1) | .ldb32 x => some (x, 1)
  | .stb32 x => some (x, 1) | .ldb8Plus x => some (x, 1) | .stb8Plus x => some (x, 1) | .ldh8 x _ => some (x, 3)
  | .ldh16 x _ => some (x, 3) | .ldh32 x _ => some (x, 3) | .sth8 x _ => some (x, 3) | .sth16 x _ => some (x, 3)
  | .sth32 x _ => some (x, 3) | .ldhx x => some (x, 1) | .sthx x => some (x, 1) | .ldc8 x => some (x, 1)
  | .ldc32 x => some (x, 1) | .seta x => some (x, 1) | .setb x => some (x, 1)
  | .br x (.r8 _) => some (x, 2) | .br x (.r16 _) => some (x, 3) | .brT x (.r8 _) => some (x, 2) | .brT x (.r16 _) => some (x, 3)
  | .call x _ => some (x, 4) | .calli x => some (x, 1) | .ret x => some (x, 1) | .loop x _ => some (x, 3)
  | .lexit x => some (x, 1) | .jmpi x => some (x, 1) | .lcnt x => some (x, 1)
  | .done x => some (x, 1) | .droppkt x => some (x, 1) | .punt x _ => some (x, 2) | .emit x => some (x, 1)
  | .skipto x => some (x, 1) | .setlane x => some (x, 1)
  | .look x _ => some (x, 2) | .lookw x _ => some (x, 2) | .upd x _ => some (x, 2) | .cnt x _ => some (x, 2)
  | .mtr x _ => some (x, 2) | .lrn x _ => some (x, 2) | .log x _ => some (x, 2) | .cas x _ => some (x, 2)
  | .unlock x _ => some (x, 2)
  | .wait x => some (x, 1) | .yield x => some (x, 1) | .sys x _ => some (x, 2) | .rte x => some (x, 1)
  | .mfs x _ => some (x, 2) | .mts x _ => some (x, 2) | .fence x => some (x, 1) | .dice x => some (x, 1)
  | .time x => some (x, 1) | .brk x => some (x, 1)
  | .hcmd x _ _ => some (x, 2) | .hput x _ => some (x, 1) | .hget x _ => some (x, 1) | .hwait x _ => some (x, 1)
  | .hsave x _ => some (x, 1) | .hrest x _ => some (x, 1) | .hcap x _ => some (x, 1) | .hsync x _ => some (x, 1)
  | .csum16 x => some (x, 2) | .movb x => some (x, 2) | .fillb x => some (x, 2) | .cmpb x => some (x, 2)
  | _ => none

/-- Operand bytes outside 05 R169, a displacement of 0 and a guarded LOOP (R158, R159). -/
def Sys2Proof.Claim.badOperand : Instr → Bool
  | .pick _ n => decide (32 ≤ n.toNat) | .put _ n => decide (32 ≤ n.toNat)
  | .shli _ n => decide (32 ≤ n.toNat) | .shri _ n => decide (32 ≤ n.toNat) | .sari _ n => decide (32 ≤ n.toNat)
  | .extr _ p l => decide (32 ≤ p.toNat ∨ l.toNat = 0 ∨ 32 < p.toNat + l.toNat)
  | .ins _ p l => decide (32 ≤ p.toNat ∨ l.toNat = 0 ∨ 32 < p.toNat + l.toNat)
  | .ceq _ p => decide (8 ≤ p.toNat) | .cne _ p => decide (8 ≤ p.toNat) | .clt _ p => decide (8 ≤ p.toNat)
  | .cle _ p => decide (8 ≤ p.toNat) | .cgt _ p => decide (8 ≤ p.toNat) | .cge _ p => decide (8 ≤ p.toNat)
  | .cltu _ p => decide (8 ≤ p.toNat) | .cleu _ p => decide (8 ≤ p.toNat) | .cgtu _ p => decide (8 ≤ p.toNat)
  | .cgeu _ p => decide (8 ≤ p.toNat) | .ceqz _ p => decide (8 ≤ p.toNat) | .cnez _ p => decide (8 ≤ p.toNat)
  | .cbit _ p => decide (8 ≤ p.toNat) | .cmask _ p => decide (8 ≤ p.toNat) | .cser16 _ p => decide (8 ≤ p.toNat)
  | .cser32 _ p => decide (8 ≤ p.toNat) | .pset _ p => decide (8 ≤ p.toNat) | .pclr _ p => decide (8 ≤ p.toNat)
  | .ppush _ p => decide (8 ≤ p.toNat) | .ppop _ p => decide (8 ≤ p.toNat)
  | .pand _ b => decide (128 ≤ b.toNat ∨ b.toNat / 8 % 2 = 1) | .por _ b => decide (128 ≤ b.toNat ∨ b.toNat / 8 % 2 = 1)
  | .pxor _ b => decide (128 ≤ b.toNat ∨ b.toNat / 8 % 2 = 1) | .pandn _ b => decide (128 ≤ b.toNat ∨ b.toNat / 8 % 2 = 1)
  | .pmov _ b => decide (128 ≤ b.toNat ∨ b.toNat / 8 % 2 = 1) | .pnot _ b => decide (128 ≤ b.toNat ∨ b.toNat / 8 % 2 = 1)
  | .ldh8 _ o => decide (512 ≤ o.toNat) | .ldh16 _ o => decide (512 ≤ o.toNat) | .ldh32 _ o => decide (512 ≤ o.toNat)
  | .sth8 _ o => decide (512 ≤ o.toNat) | .sth16 _ o => decide (512 ≤ o.toNat) | .sth32 _ o => decide (512 ≤ o.toNat)
  | .loop x d => decide (d = 0) || decide (x.guard ≠ .always)
  | .punt _ b => decide (128 ≤ b.toNat) | .mfs _ i => decide (16 ≤ i.toNat) | .mts _ i => decide (16 ≤ i.toNat)
  | _ => false

/-- The packet opcodes 0x90–0x95. -/
def Sys2Proof.Claim.packetOp : Instr → Bool
  | .done _ | .droppkt _ | .punt _ _ | .emit _ | .skipto _ | .setlane _ => true
  | _ => false

/-- The instructions that a steward (`stw`) or the fault context refuses with vector 1 when they execute (06 R184, R206; 08
R259). -/
def Sys2Proof.Claim.refused (stw : Bool) : Instr → Bool
  | .done _ | .droppkt _ | .punt _ _ | .emit _ | .skipto _ | .setlane _ | .look _ _ | .lookw _ _ | .upd _ _ | .cnt _ _ | .mtr _ _
  | .lrn _ _ | .log _ _ | .cas _ _ | .unlock _ _ => !stw
  | .hcmd _ _ _ | .hput _ _ | .hget _ _ | .hwait _ _ | .hsave _ _ | .hrest _ _ | .hsync _ _ => true
  | .hcap _ _ | .ldh8 _ _ | .ldh16 _ _ | .ldh32 _ _ | .sth8 _ _ | .sth16 _ _ | .sth32 _ _ | .ldhx _ | .sthx _ => stw
  | _ => false

/-- A context that cannot issue does nothing (the model's choice, log entry 1); fetching a byte that is not executable
raises vector 3 with its address, before any other condition of the instruction (05 R149, R172). A comparator of 18 R505 that watches the
pc comes before it. -/
def Obligations.IssueAndFetch : Prop :=
  ∀ (i : Instr) (s0 s : State) (x : Iss) (len : Nat), Sys2Proof.Claim.gilin i = some (x, len) →
    let key := whoKey x.who
    (s0.canIssue key = false → exec i s0 = .next s0) ∧
    (s0.canIssue key = true → s = s0.entered key (guardLen x.guard + len) → s.matches key (s.ctx key).pc true false = [] →
      ∀ a, s.badFetch key (s.ctx key).pc.toNat (guardLen x.guard + len) = some a →
      s.mayFetch key a = false ∧ (s.ctx key).pc.toNat ≤ a ∧ a < (s.ctx key).pc.toNat + guardLen x.guard + len ∧
      exec i s0 = .next ((s.excAt key 3 (BitVec.ofNat 32 a)).issued key))

/-- 05 R169 with R157: an illegal operand byte raises vector 1, whatever the guard says, and so do the packet opcodes on a
steward (R171). ILLEGAL_OPCODE: the reserved entries of the opcode map (05 R170), the undefined extension operations and a guard
before a guard or LOOP (R158) do too. The instructions that a steward or the fault context refuses (06 R184, R206; 08 R259)
raise it where their guard holds. No comparator of 18 R505 watches the pc. -/
def Obligations.IllegalOperandRaisesVectorOne : Prop :=
  (∀ (i : Instr) (s0 s : State) (x : Iss) (len : Nat), Sys2Proof.Claim.gilin i = some (x, len) →
     let key := whoKey x.who
     s0.canIssue key = true → s = s0.entered key (guardLen x.guard + len) → s.matches key (s.ctx key).pc true false = [] →
     s.badFetch key (s.ctx key).pc.toNat (guardLen x.guard + len) = none →
     ((Sys2Proof.Claim.badOperand i = true ∨ (Sys2Proof.Claim.packetOp i = true ∧ isStw key = true)) →
       exec i s0 = .next ((s.excAt key 1 (s.ctx key).pc).issued key)) ∧
     (Sys2Proof.Claim.badOperand i = false → Sys2Proof.Claim.Ready s0 s x len →
       (isStw key = true ∨ isFlt key = true) → Sys2Proof.Claim.refused (isStw key) i = true →
       exec i s0 = .next ((s.excAt key 1 (s.ctx key).pc).issued key))) ∧
  (∀ (s0 s : State) (x : Iss) (op nxt : Byte),
     let n := guardLen x.guard + (if 0xE0 ≤ op.toNat ∧ op.toNat ≤ 0xF0 then 2 else 1)
     ((0x5C ≤ op.toNat ∧ op.toNat ≤ 0x5F) ∨ (0x8B ≤ op.toNat ∧ op.toNat ≤ 0x8F) ∨ (0x96 ≤ op.toNat ∧ op.toNat ≤ 0x9F) ∨
      (0xA9 ≤ op.toNat ∧ op.toNat ≤ 0xAF) ∨ (0xBA ≤ op.toNat ∧ op.toNat ≤ 0xBF) ∨ 0xF1 ≤ op.toNat ∨
      (op.toNat = 0xF0 ∧ 4 ≤ nxt.toNat) ∨
      (0xE0 ≤ op.toNat ∧ op.toNat ≤ 0xEF ∧ ((0xE0 ≤ nxt.toNat ∧ nxt.toNat ≤ 0xEF) ∨ nxt.toNat = 0x87))) →
     s0.canIssue (whoKey x.who) = true → s = s0.entered (whoKey x.who) n →
     s.matches (whoKey x.who) (s.ctx (whoKey x.who)).pc true false = [] →
     s.badFetch (whoKey x.who) (s.ctx (whoKey x.who)).pc.toNat n = none →
     exec (.illegalOpcode x op nxt) s0 = .next ((s.excAt (whoKey x.who) 1 (s.ctx (whoKey x.who)).pc).issued (whoKey x.who)))

/-- 05 R157: a guard fails exactly where its predicate has the other value, and a failed guard does nothing but fall through. -/
def Obligations.FailedGuardDoesNothing : Prop :=
  ∀ (i : Instr) (s0 s : State) (x : Iss) (len : Nat),
    Sys2Proof.Claim.gilin i = some (x, len) → Sys2Proof.Claim.badOperand i = false →
    let key := whoKey x.who
    (isStw key = true → Sys2Proof.Claim.packetOp i = false) →
    s0.canIssue key = true → s = s0.entered key (guardLen x.guard + len) →
    s.badFetch key (s.ctx key).pc.toNat (guardLen x.guard + len) = none →
    s.matches key (s.ctx key).pc true false = [] → (s.ctx key).v11pend = false → (s.ctx key).trig = false →
    (guardHolds (s.ctx key) x.guard = false ↔
      (∃ n : Fin 8, (x.guard = .ifp n ∧ Ctx.pr (s.ctx key) n.val = false) ∨ (x.guard = .ifnot n ∧ Ctx.pr (s.ctx key) n.val = true))) ∧
    (guardHolds (s.ctx key) x.guard = false →
      exec i s0 = .next (Sys2Proof.Claim.retire s key (s.ctx key) (Sys2Proof.Claim.after s x len)))

/-- 05 R142 and R143 for the instructions that take k cells and leave m, listed in `cells`. -/
def Sys2Proof.Claim.cells : Instr → Option (Nat × Nat)
  | .dup _ => some (1, 2) | .drop _ => some (1, 0) | .swap _ => some (2, 2) | .over _ => some (2, 3) | .rot _ => some (3, 3)
  | .nip _ => some (2, 1) | .tuck _ => some (2, 3) | .twoDup _ => some (2, 4) | .twoDrop _ => some (2, 0)
  | .twoSwap _ => some (4, 4) | .twoOver _ => some (4, 6) | .minusRot _ => some (3, 3) | .depth _ => some (0, 1)
  | .litN _ _ => some (0, 1) | .lit8 _ _ => some (0, 1) | .lit16 _ _ => some (0, 1) | .lit32 _ _ => some (0, 1)
  | .add _ => some (2, 1) | .sub _ => some (2, 1) | .neg _ => some (1, 1) | .inc _ => some (1, 1) | .dec _ => some (1, 1)
  | .and _ => some (2, 1) | .or _ => some (2, 1) | .xor _ => some (2, 1) | .not _ => some (1, 1) | .andn _ => some (2, 1)
  | .shl _ => some (2, 1) | .shr _ => some (2, 1) | .sar _ => some (2, 1) | .rol _ => some (2, 1) | .ror _ => some (2, 1)
  | .shli _ _ => some (1, 1) | .shri _ _ => some (1, 1) | .sari _ _ => some (1, 1) | .extr _ _ _ => some (1, 1)
  | .ins _ _ _ => some (2, 1) | .clz _ => some (1, 1) | .popc _ => some (1, 1) | .bswap32 _ => some (1, 1)
  | .bswap16 _ => some (1, 1) | .mul _ => some (2, 1) | .mulh _ => some (2, 1) | .mulhu _ => some (2, 1)
  | .min _ => some (2, 1) | .max _ => some (2, 1)
  | .ceq _ _ => some (2, 0) | .cne _ _ => some (2, 0) | .clt _ _ => some (2, 0) | .cle _ _ => some (2, 0)
  | .cgt _ _ => some (2, 0) | .cge _ _ => some (2, 0) | .cltu _ _ => some (2, 0) | .cleu _ _ => some (2, 0)
  | .cgtu _ _ => some (2, 0) | .cgeu _ _ => some (2, 0) | .ceqz _ _ => some (1, 0) | .cnez _ _ => some (1, 0)
  | .cbit _ _ => some (2, 0) | .cmask _ _ => some (2, 0) | .cser16 _ _ => some (2, 0) | .cser32 _ _ => some (2, 0)
  | .ppush _ _ => some (0, 1) | .ppop _ _ => some (1, 0) | .pall _ => some (0, 1) | .pload _ => some (1, 0)
  | .ld8 _ => some (1, 1) | .ld8s _ => some (1, 1) | .ld16 _ => some (1, 1) | .ld16s _ => some (1, 1) | .ld32 _ => some (1, 1)
  | .st8 _ => some (2, 0) | .st16 _ => some (2, 0) | .st32 _ => some (2, 0) | .lda32 _ => some (0, 1)
  | .lda32Plus _ => some (0, 1) | .sta32 _ => some (1, 0) | .sta32Plus _ => some (1, 0) | .lda8Plus _ => some (0, 1)
  | .sta8Plus _ => some (1, 0) | .ldb32Plus _ => some (0, 1) | .stb32Plus _ => some (1, 0) | .ldb32 _ => some (0, 1)
  | .stb32 _ => some (1, 0) | .ldb8Plus _ => some (0, 1) | .stb8Plus _ => some (1, 0)
  | .ldc8 _ => some (1, 1) | .ldc32 _ => some (1, 1) | .seta _ => some (1, 0) | .setb _ => some (1, 0) | .lcnt _ => some (0, 1)
  | .csum16 _ => some (3, 1) | .movb _ => some (3, 0) | .fillb _ => some (3, 0) | .cmpb _ => some (3, 1)
  | _ => none

/-- 05 R142, R143: underflow against the floor raises vector 7, overflow against the limit vector 6, in this order. -/
def Obligations.StackErrorVectors : Prop :=
  ∀ (i : Instr) (s0 s : State) (x : Iss) (len k m : Nat), Sys2Proof.Claim.gilin i = some (x, len) →
    Sys2Proof.Claim.badOperand i = false → Sys2Proof.Claim.cells i = some (k, m) → Sys2Proof.Claim.Ready s0 s x len →
    s.microClean (coreOf (whoKey x.who)) = true →
    let key := whoKey x.who
    let c := s.ctx key
    (c.os.length < (stkFloors c).1 + k → exec i s0 = .next ((s.excAt key 7 c.pc).issued key)) ∧
    ((stkFloors c).1 + k ≤ c.os.length → (stkLimits key c).1 + k < c.os.length + m →
      exec i s0 = .next ((s.excAt key 6 c.pc).issued key)) ∧
    stkLimits key c = (if isStw key = false ∧ isFlt key = false ∧ c.elev = 0 then (28, 14) else (32, 16))

/-! ### Loads and stores, opcodes 0x60–0x7F -/

/-- The value of little-endian bytes, as a cell. -/
def Sys2Proof.Claim.le (bs : List Byte) : Word := BitVec.ofNat 32 (leNat bs)

/-- The loads: issue, length, address, bytes, value of the bytes, cells popped, A and B afterwards (05 R147, R154). -/
def Sys2Proof.Claim.loadFx (i : Instr) (key : Nat) (c : Ctx) :
    Option (Iss × Nat × Word × Nat × (List Byte → Word) × Nat × Word × Word) :=
  let top := c.os.headD 0
  let sx := fun (w : Nat) (bs : List Byte) =>
    BitVec.ofInt 32 (if leNat bs < 2 ^ (w - 1) then (leNat bs : Int) else (leNat bs : Int) - 2 ^ w)
  let slot := fun (off : Nat) => BitVec.ofNat 32 (slotA (ctxNoOf key) c.slot + off)
  let wire := fun (off : Nat) (bs : List Byte) => if off < 0x100 then Sys2Proof.Claim.le bs.reverse else Sys2Proof.Claim.le bs
  match i with
  | .ld8 x => some (x, 1, top, 1, Sys2Proof.Claim.le, 1, c.a, c.b)
  | .ld8s x => some (x, 1, top, 1, sx 8, 1, c.a, c.b)
  | .ld16 x => some (x, 1, top, 2, Sys2Proof.Claim.le, 1, c.a, c.b)
  | .ld16s x => some (x, 1, top, 2, sx 16, 1, c.a, c.b)
  | .ld32 x => some (x, 1, top, 4, Sys2Proof.Claim.le, 1, c.a, c.b)
  | .lda32 x => some (x, 1, c.a, 4, Sys2Proof.Claim.le, 0, c.a, c.b)
  | .lda32Plus x => some (x, 1, c.a, 4, Sys2Proof.Claim.le, 0, c.a + 4, c.b)
  | .lda8Plus x => some (x, 1, c.a, 1, Sys2Proof.Claim.le, 0, c.a + 1, c.b)
  | .ldb32 x => some (x, 1, c.b, 4, Sys2Proof.Claim.le, 0, c.a, c.b)
  | .ldb32Plus x => some (x, 1, c.b, 4, Sys2Proof.Claim.le, 0, c.a, c.b + 4)
  | .ldb8Plus x => some (x, 1, c.b, 1, Sys2Proof.Claim.le, 0, c.a, c.b + 1)
  | .ldh8 x off => if off.toNat < 512 then some (x, 3, slot off.toNat, 1, wire off.toNat, 0, c.a, c.b) else none
  | .ldh16 x off => if off.toNat < 512 then some (x, 3, slot off.toNat, 2, wire off.toNat, 0, c.a, c.b) else none
  | .ldh32 x off => if off.toNat < 512 then some (x, 3, slot off.toNat, 4, wire off.toNat, 0, c.a, c.b) else none
  | .ldhx x => if top.toNat < 512 then some (x, 1, slot top.toNat, 1, Sys2Proof.Claim.le, 1, c.a, c.b) else none
  | _ => none

/-- The stores: issue, length, address, bytes stored, cells popped, A and B afterwards. -/
def Sys2Proof.Claim.storeFx (i : Instr) (key : Nat) (c : Ctx) : Option (Iss × Nat × Word × List Byte × Nat × Word × Word) :=
  let top := c.os.headD 0
  let under := c.os.getD 1 0
  let slot := fun (off : Nat) => BitVec.ofNat 32 (slotA (ctxNoOf key) c.slot + off)
  let wire := fun (off n : Nat) (v : Word) => if off < 0x100 then (leBytes n v.toNat).reverse else leBytes n v.toNat
  match i with
  | .st8 x => some (x, 1, top, leBytes 1 under.toNat, 2, c.a, c.b)
  | .st16 x => some (x, 1, top, leBytes 2 under.toNat, 2, c.a, c.b)
  | .st32 x => some (x, 1, top, leBytes 4 under.toNat, 2, c.a, c.b)
  | .sta32 x => some (x, 1, c.a, leBytes 4 top.toNat, 1, c.a, c.b)
  | .sta32Plus x => some (x, 1, c.a, leBytes 4 top.toNat, 1, c.a + 4, c.b)
  | .sta8Plus x => some (x, 1, c.a, leBytes 1 top.toNat, 1, c.a + 1, c.b)
  | .stb32 x => some (x, 1, c.b, leBytes 4 top.toNat, 1, c.a, c.b)
  | .stb32Plus x => some (x, 1, c.b, leBytes 4 top.toNat, 1, c.a, c.b + 4)
  | .stb8Plus x => some (x, 1, c.b, leBytes 1 top.toNat, 1, c.a, c.b + 1)
  | .sth8 x off => if off.toNat < 512 then some (x, 3, slot off.toNat, wire off.toNat 1 top, 1, c.a, c.b) else none
  | .sth16 x off => if off.toNat < 512 then some (x, 3, slot off.toNat, wire off.toNat 2 top, 1, c.a, c.b) else none
  | .sth32 x off => if off.toNat < 512 then some (x, 3, slot off.toNat, wire off.toNat 4 top, 1, c.a, c.b) else none
  | .sthx x => if top.toNat < 512 then some (x, 1, slot top.toNat, leBytes 1 under.toNat, 2, c.a, c.b) else none
  | _ => none

/-- The head-relative forms. -/
def Sys2Proof.Claim.headForm : Instr → Bool
  | .ldh8 _ _ | .ldh16 _ _ | .ldh32 _ _ | .sth8 _ _ | .sth16 _ _ | .sth32 _ _ | .ldhx _ | .sthx _ => true
  | _ => false

/-- The loads of a packet core's context (05 R147, R152–R154; 06 R182). The bytes are those the context sees: its own buffered
stores over the scratchpad (07 R220). -/
def Obligations.LoadResult : Prop :=
  ∀ (i : Instr) (s0 s : State) (x : Iss) (len n pops : Nat) (a ra rb : Word) (val : List Byte → Word),
    let key := whoKey x.who
    let c := s.ctx key
    Sys2Proof.Claim.loadFx i key c = some (x, len, a, n, val, pops, ra, rb) → isStw key = false →
    (Sys2Proof.Claim.headForm i = true → isFlt key = false) →
    Sys2Proof.Claim.Ready s0 s x len → (stkFloors c).1 + pops ≤ c.os.length → c.os.length + 1 ≤ (stkLimits key c).1 + pops →
    s.mayByte key c a.toNat = true → s.mayByte key c (a.toNat + n - 1) = true → a.toNat % n = 0 →
    (∀ w ∈ wordsOf a.toNat n, tfind s.spErr (spWord (coreOf key) (w * 8)) = none) → (s.core (coreOf key)).bgt = none →
    s.matches key a false true = [] →
    exec i s0 = .next (Sys2Proof.Claim.retire s key { c with os := val (s.seen key a.toNat n) :: c.os.drop pops, a := ra, b := rb }
      (Sys2Proof.Claim.after s x len))

/-- The stores of a packet core's context: the entry goes into the store buffer, and no memory changes; STORE_BUFFER_RELEASE (07
R220, 06 R183) then writes the oldest store's bytes and no other byte, and makes good the check bits of the words it touches. A release
into a region under test aborts the test, which RANK_BGT_ABORT counts (11 R341). -/
def Obligations.StoreResult : Prop :=
  (∀ (i : Instr) (s0 s : State) (x : Iss) (len pops : Nat) (a ra rb : Word) (bs : List Byte),
     let key := whoKey x.who
     let c := s.ctx key
     let co := s.core (coreOf key)
     Sys2Proof.Claim.storeFx i key c = some (x, len, a, bs, pops, ra, rb) → isStw key = false →
     (Sys2Proof.Claim.headForm i = true → isFlt key = false) →
     Sys2Proof.Claim.Ready s0 s x len → (stkFloors c).1 + pops ≤ c.os.length → c.os.length ≤ (stkLimits key c).1 + pops →
     s.mayByte key c a.toNat = true → s.mayByte key c (a.toNat + bs.length - 1) = true → a.toNat % bs.length = 0 →
     co.bgt = none → s.matches key a false false = [] →
     exec i s0 = .next (Sys2Proof.Claim.retire (s.setCore (coreOf key) { co with sbuf := co.sbuf ++ [⟨ctxNoOf key, a.toNat, bs⟩] }) key
       { c with os := c.os.drop pops, a := ra, b := rb } (Sys2Proof.Claim.after s x len))) ∧
  (∀ (s : State) (r : Rank) (c : CoreNo) (e : SbEnt) (rest : List SbEnt),
     let ck := r.val * 13 + c.val
     s.runs r.val = true → (s.core ck).sbuf = e :: rest → s.sp.wf 0 = true → (s.core ck).bgt = none →
     ∃ t, exec (.storeBufferRelease r c) s = .next t ∧ t.core ck = { s.core ck with sbuf := rest } ∧
       (∀ j, j < e.bs.length → mget 0 t.sp (spA ck e.addr + j) = e.bs.getD j 0) ∧
       (∀ a, (a < spA ck e.addr ∨ spA ck e.addr + e.bs.length ≤ a) → mget 0 t.sp a = mget 0 s.sp a) ∧
       (∀ w, w ∈ wordsOf e.addr e.bs.length → tfind t.spErr (spWord ck (8 * w)) = none) ∧
       (∀ q, (∀ w ∈ wordsOf e.addr e.bs.length, q ≠ spWord ck (8 * w)) → tfind t.spErr q = tfind s.spErr q) ∧
       (∀ j, j ≠ ck → t.core j = s.core j) ∧ { t with cores := s.cores, sp := s.sp, spErr := s.spErr } = s) ∧
  (∀ (s : State) (r : Rank) (c : CoreNo) (e : SbEnt) (rest : List SbEnt) (rg : Nat) (row : List Byte),
     let ck := r.val * 13 + c.val
     s.runs r.val = true → (s.core ck).sbuf = e :: rest → s.sp.wf 0 = true → (s.core ck).bgt = some (rg, row) →
     e.bs ≠ [] → e.addr / 64 ≤ rg → rg ≤ (e.addr + e.bs.length - 1) / 64 →
     ∃ t, exec (.storeBufferRelease r c) s = .next t ∧ t.core ck = { s.core ck with sbuf := rest, bgt := none } ∧
       t.ctr (rkA r.val 0x188) = s.ctr (rkA r.val 0x188) + 1 ∧
       (∀ j, j < e.bs.length → mget 0 t.sp (spA ck e.addr + j) = e.bs.getD j 0) ∧
       (∀ a, (a < spA ck e.addr ∨ spA ck e.addr + e.bs.length ≤ a) → mget 0 t.sp a = mget 0 s.sp a))

/-- 05 R152, R153, R172 and 06 R183: vector 5 before vector 4 before vector 16, with the address in FAULTADDR. -/
def Obligations.AccessFaultVectors : Prop :=
  ∀ (i : Instr) (s0 s : State) (x : Iss) (len n pops pushes : Nat) (a : Word),
    let key := whoKey x.who
    let c := s.ctx key
    ((∃ val ra rb, Sys2Proof.Claim.loadFx i key c = some (x, len, a, n, val, pops, ra, rb) ∧ pushes = 1) ∨
     (∃ bs ra rb, Sys2Proof.Claim.storeFx i key c = some (x, len, a, bs, pops, ra, rb) ∧ n = bs.length ∧ pushes = 0)) →
    isStw key = false → (Sys2Proof.Claim.headForm i = true → isFlt key = false) →
    Sys2Proof.Claim.Ready s0 s x len → (stkFloors c).1 + pops ≤ c.os.length → c.os.length + pushes ≤ (stkLimits key c).1 + pops →
    ((s.mayByte key c a.toNat && s.mayByte key c (a.toNat + n - 1)) = false →
      exec i s0 = .next ((s.excAt key 5 a).issued key)) ∧
    ((s.mayByte key c a.toNat && s.mayByte key c (a.toNat + n - 1)) = true → a.toNat % n ≠ 0 →
      exec i s0 = .next ((s.excAt key 4 a).issued key)) ∧
    ((s.mayByte key c a.toNat && s.mayByte key c (a.toNat + n - 1)) = true → a.toNat % n = 0 → pushes = 1 →
      (s.core (coreOf key)).bgt = none → tfind s.spErr (spWord (coreOf key) a.toNat) = some true →
      exec i s0 = .next (((s.spUe (coreOf key) (a.toNat / 8 * 8) 0).excAt key 16 a).issued key))

/-- 12 R361 for a steward's loads and stores by address: aligned accesses of the shared SRAM and of the registers, and, in the second
part, the accesses that raise vector 5 (outside both areas, a part of the bytes outside the SRAM, a register whose region does not
answer) or vector 4 (misaligned, a register by 8 or 16 bits). -/
def Obligations.StewardAccessResult : Prop :=
  (∀ (i : Instr) (s0 s : State) (x : Iss) (j : StwNo) (len n pops : Nat) (a ra rb : Word) (val : List Byte → Word) (bs : List Byte),
    let key := 1404 + j.val
    let c := s.ctx key
    x.who = .stw j → Sys2Proof.Claim.headForm i = false → Sys2Proof.Claim.Ready s0 s x len → (stkFloors c).1 + pops ≤ c.os.length →
    a.toNat % n = 0 →
    (Sys2Proof.Claim.loadFx i key c = some (x, len, a, n, val, pops, ra, rb) → c.os.length + 1 ≤ (stkLimits key c).1 + pops →
      (a.toNat < 0x200000 → (∀ w ∈ wordsOf a.toNat n, tfind s.sramErr w = none) → s.matches key a false true = [] →
        exec i s0 = .next (Sys2Proof.Claim.retire s key { c with os := val (s.srR a.toNat n) :: c.os.drop pops, a := ra, b := rb }
          (Sys2Proof.Claim.after s x len))) ∧
      (0xF0000000 ≤ a.toNat → a.toNat < 0xF4000000 → n = 4 → s.ctlErr (a.toNat - 0xF0000000) 0xF = none →
        exec i s0 = .next (((s.setStw j.val { s.stwd j.val with
            acc := some ⟨false, BitVec.ofNat 26 (a.toNat - 0xF0000000), 0, c.os.drop pops, ra, rb⟩ }).setCtx key
          (Sys2Proof.Claim.asleep c .fabric (guardLen x.guard + len))).issued key))) ∧
    (Sys2Proof.Claim.storeFx i key c = some (x, len, a, bs, pops, ra, rb) → c.os.length ≤ (stkLimits key c).1 + pops → n = bs.length →
      ((0xE0000 ≤ a.toNat ∨ bit (s.reg (swA 0x10)) 0 = true) → a.toNat < 0x200000 → s.matches key a false false = [] →
        exec i s0 = .next (Sys2Proof.Claim.retire { s.srW a.toNat bs with
            sramErr := tkeep s.sramErr (fun w _ => !(wordsOf a.toNat n).contains w) } key
          { c with os := c.os.drop pops, a := ra, b := rb } (Sys2Proof.Claim.after s x len))) ∧
      (a.toNat < 0xE0000 → bit (s.reg (swA 0x10)) 0 = false → s.matches key a false false = [] →
        exec i s0 = .next (Sys2Proof.Claim.retire s key { c with os := c.os.drop pops, a := ra, b := rb }
          (Sys2Proof.Claim.after s x len))) ∧
      (0xF0000000 ≤ a.toNat → a.toNat < 0xF4000000 → n = 4 → s.ctlErr (a.toNat - 0xF0000000) 0xF = none →
        ∃ v, leBytes 4 v.toNat = bs ∧
        exec i s0 = .next (((s.setStw j.val { s.stwd j.val with
            acc := some ⟨true, BitVec.ofNat 26 (a.toNat - 0xF0000000), v, c.os.drop pops, ra, rb⟩ }).setCtx key
          (Sys2Proof.Claim.asleep c .fabric (guardLen x.guard + len))).issued key)))) ∧
  (∀ (i : Instr) (s0 s : State) (x : Iss) (j : StwNo) (len n pops pushes : Nat) (a : Word),
    let key := 1404 + j.val
    let c := s.ctx key
    let off := a.toNat - 0xF0000000
    let raises := fun (v : Nat) => exec i s0 = .next ((s.excAt key v a).issued key)
    x.who = .stw j → Sys2Proof.Claim.headForm i = false →
    ((∃ val ra rb, Sys2Proof.Claim.loadFx i key c = some (x, len, a, n, val, pops, ra, rb) ∧ pushes = 1) ∨
     (∃ bs ra rb, Sys2Proof.Claim.storeFx i key c = some (x, len, a, bs, pops, ra, rb) ∧ n = bs.length ∧ pushes = 0)) →
    Sys2Proof.Claim.Ready s0 s x len → (stkFloors c).1 + pops ≤ c.os.length → c.os.length + pushes ≤ (stkLimits key c).1 + pops →
    (a.toNat < 0x200000 → 0x200000 < a.toNat + n → raises 5) ∧
    (a.toNat + n ≤ 0x200000 → a.toNat % n ≠ 0 → raises 4) ∧
    (0x200000 ≤ a.toNat → (a.toNat < 0xF0000000 ∨ 0xF4000000 ≤ a.toNat) → raises 5) ∧
    (0xF0000000 ≤ a.toNat → a.toNat < 0xF4000000 → s.ctlErr off 0xF ≠ none → raises 5) ∧
    (0xF0000000 ≤ a.toNat → a.toNat < 0xF4000000 → s.ctlErr off 0xF = none → (n ≠ 4 ∨ a.toNat % 4 ≠ 0) → raises 4))

/-- LDC8 and LDC32 (05 R150, with the overlays of 18 R503), SETA and SETB (05 R147). -/
def Obligations.CodeLoadAndPointerResult : Prop :=
  ∀ (s0 s : State) (x : Iss) (a : Word) (rest : List Word),
    let key := whoKey x.who
    let c := s.ctx key
    c.os = a :: rest → Sys2Proof.Claim.Ready s0 s x 1 → (stkFloors c).1 ≤ rest.length →
    (rest.length < (stkLimits key c).1 →
      (a.toNat < codeTop key →
        exec (.ldc8 x) s0 = .next (Sys2Proof.Claim.retire s key { c with os := (s.codeSeen key a.toNat).setWidth 32 :: rest }
          (Sys2Proof.Claim.after s x 1)) ∧
        (a.toNat % 4 = 0 → exec (.ldc32 x) s0 = .next (Sys2Proof.Claim.retire s key
          { c with os := (s.codeSeen key (a.toNat + 3) ++ s.codeSeen key (a.toNat + 2) ++ s.codeSeen key (a.toNat + 1) ++
                          s.codeSeen key a.toNat) :: rest } (Sys2Proof.Claim.after s x 1))) ∧
        (a.toNat % 4 ≠ 0 → exec (.ldc32 x) s0 = .next ((s.excAt key 4 a).issued key))) ∧
      (codeTop key ≤ a.toNat → exec (.ldc8 x) s0 = .next ((s.excAt key 5 a).issued key) ∧
        exec (.ldc32 x) s0 = .next ((s.excAt key 5 a).issued key)) ∧
      codeTop key = (if isStw key then 262144 else 65536) ∧
      ((∀ k, k < 16 → bit (s.dreg (ovlBase key + 16 * k)) 31 = false) → s.codeSeen key a.toNat = s.codeByte key a.toNat) ∧
      (∀ k, k < 16 → bit (s.dreg (ovlBase key + 16 * k)) 31 = true → bits (s.dreg (ovlBase key + 16 * k)) 17 2 = a.toNat / 4 →
        bit (s.dreg (ovlBase key + 16 * k)) (20 + a.toNat % 4) = true →
        (∀ j, j < k → bit (s.dreg (ovlBase key + 16 * j)) 31 = false) →
        s.codeSeen key a.toNat = BitVec.ofNat 8 ((s.dreg (ovlBase key + 16 * k + 4)).toNat / 256 ^ (a.toNat % 4)))) ∧
    (rest.length ≤ (stkLimits key c).1 →
      exec (.seta x) s0 = .next (Sys2Proof.Claim.retire s key { c with a := a, os := rest } (Sys2Proof.Claim.after s x 1)) ∧
      exec (.setb x) s0 = .next (Sys2Proof.Claim.retire s key { c with b := a, os := rest } (Sys2Proof.Claim.after s x 1)))

/-! ### Control transfer, opcodes 0x80–0x8A -/

/-- The control transfers: issue, target, operand stack, return stack and loop levels afterwards. -/
def Sys2Proof.Claim.jumpFx (i : Instr) (key : Nat) (c : Ctx) : Option (Iss × Nat × Word × List Word × List Word × List Lvl) :=
  let aft := fun (x : Iss) (n : Nat) => c.pc + BitVec.ofNat 32 (guardLen x.guard + n)
  let fl := stkFloors c
  let lim := stkLimits key c
  let ra := fun (x : Iss) (n : Nat) => BitVec.ofNat 32 ((aft x n).toNat % (if isStw key then 262144 else 65536))
  match i, c.os, c.rs, c.ls with
  | .br x (.r8 d), os, rs, ls => some (x, 2, BitVec.ofInt 32 ((aft x 2).toNat + d.toInt), os, rs, ls)
  | .br x (.r16 d), os, rs, ls => some (x, 3, BitVec.ofInt 32 ((aft x 3).toNat + d.toInt), os, rs, ls)
  | .brT x (.r8 d), os, rs, ls => some (x, 2, BitVec.ofInt 32 ((aft x 2).toNat + d.toInt), os, rs, ls)
  | .brT x (.r16 d), os, rs, ls => some (x, 3, BitVec.ofInt 32 ((aft x 3).toNat + d.toInt), os, rs, ls)
  | .jmpi x, t :: os, rs, ls => if fl.1 ≤ os.length ∧ os.length ≤ lim.1 then some (x, 1, t, os, rs, ls) else none
  | .call x a, os, rs, ls =>
    if fl.2 ≤ rs.length ∧ rs.length < lim.2 then some (x, 4, BitVec.ofNat 32 a.toNat, os, ra x 4 :: rs, ls) else none
  | .calli x, t :: os, rs, ls =>
    if fl.1 ≤ os.length ∧ os.length ≤ lim.1 ∧ fl.2 ≤ rs.length ∧ rs.length < lim.2 then some (x, 1, t, os, ra x 1 :: rs, ls)
    else none
  | _, _, _, _ => none

/-- 06 R186 and R187 with R185: the target of a control transfer, vector 3 beyond the code space, and the return stack. That the
address pushed is taken modulo the code space is the model's choice (log entry 95). -/
def Obligations.BranchAndCallResult : Prop :=
  ((∀ (i : Instr) (s0 s : State) (x : Iss) (len : Nat) (t : Word) (os rs : List Word) (ls : List Lvl),
     let key := whoKey x.who
     let c := s.ctx key
     Sys2Proof.Claim.jumpFx i key c = some (x, len, t, os, rs, ls) → Sys2Proof.Claim.Ready s0 s x len →
     (t.toNat < (if isStw key then 262144 else 65536) →
       exec i s0 = .next (Sys2Proof.Claim.retire s key { c with os := os, rs := rs, ls := ls } t)) ∧
     ((if isStw key then 262144 else 65536) ≤ t.toNat → exec i s0 = .next ((s.excAt key 3 t).issued key))) ∧
   (∀ (i : Instr) (s0 s : State) (x : Iss) (len : Nat), Sys2Proof.Claim.gilin i = some (x, len) →
     s0.canIssue (whoKey x.who) = true → s = s0.entered (whoKey x.who) (guardLen x.guard + len) →
     s.matches (whoKey x.who) (s.ctx (whoKey x.who)).pc true false = [] →
     s.mayFetch (whoKey x.who) (s.ctx (whoKey x.who)).pc.toNat = false →
     exec i s0 = .next ((s.excAt (whoKey x.who) 3 (BitVec.ofNat 32 (s.ctx (whoKey x.who)).pc.toNat)).issued (whoKey x.who)))) ∧
  (∀ (s0 s : State) (x : Iss),
     let key := whoKey x.who
     let c := s.ctx key
     (Sys2Proof.Claim.Ready s0 s x 1 → ∀ t rest, c.rs = t :: rest → (stkFloors c).2 ≤ rest.length → rest.length ≤ (stkLimits key c).2 →
       exec (.ret x) s0 = .next (Sys2Proof.Claim.retire s key { c with rs := rest } t)) ∧
     (Sys2Proof.Claim.Ready s0 s x 1 → (c.rs = [] ∨ c.rs.length ≤ (stkFloors c).2) →
       exec (.ret x) s0 = .next ((s.excAt key 9 c.pc).issued key)) ∧
     (∀ a : BitVec 24, Sys2Proof.Claim.Ready s0 s x 4 → a.toNat < codeTop key → c.rs.length = (stkLimits key c).2 →
       (stkFloors c).2 ≤ c.rs.length → exec (.call x a) s0 = .next ((s.excAt key 8 c.pc).issued key)) ∧
     (∀ a rest, Sys2Proof.Claim.Ready s0 s x 1 → c.os = a :: rest → (stkFloors c).1 ≤ rest.length → rest.length ≤ (stkLimits key c).1 →
       a.toNat < codeTop key → c.rs.length = (stkLimits key c).2 → (stkFloors c).2 ≤ c.rs.length →
       exec (.calli x) s0 = .next ((s.excAt key 8 c.pc).issued key)) ∧
     (∀ a : BitVec 24, Sys2Proof.Claim.Ready s0 s x 4 → a.toNat < codeTop key → c.rs.length < (stkLimits key c).2 →
       (stkFloors c).2 ≤ c.rs.length →
       exec (.call x a) s0 = .next (Sys2Proof.Claim.retire s key
         { c with rs := BitVec.ofNat 32 ((Sys2Proof.Claim.after s x 4).toNat % codeTop key) :: c.rs } (a.setWidth 32))))

/-- 05 R159, R161 and 06 R188, with the end test of 05 R160: the innermost level only. -/
def Obligations.LoopInstructions : Prop :=
  (∀ (s0 s : State) (x : Iss),
     let key := whoKey x.who
     let c := s.ctx key
     (∀ (d : Half) n rest, x.guard = .always → Sys2Proof.Claim.Ready s0 s x 3 → c.os = n :: rest → d ≠ 0 → (stkFloors c).1 ≤ rest.length →
       rest.length ≤ (stkLimits key c).1 →
       (n = 0 → exec (.loop x d) s0 = .next (Sys2Proof.Claim.retire s key { c with os := rest } (c.pc + 3 + d.setWidth 32))) ∧
       (n ≠ 0 → c.ls.length < 4 → exec (.loop x d) s0 = .next (Sys2Proof.Claim.retire s key
         { c with os := rest, ls := ⟨c.pc + 3, c.pc + 3 + d.setWidth 32, n⟩ :: c.ls } (c.pc + 3))) ∧
       (n ≠ 0 → 4 ≤ c.ls.length → exec (.loop x d) s0 = .next ((s.excAt key 10 c.pc).issued key))) ∧
     (Sys2Proof.Claim.Ready s0 s x 1 →
       (∀ l rest, c.ls = l :: rest → exec (.lexit x) s0 = .next (Sys2Proof.Claim.retire s key { c with ls := rest } l.fin)) ∧
       (c.ls = [] → exec (.lexit x) s0 = .next ((s.excAt key 9 c.pc).issued key)) ∧
       ((stkFloors c).1 ≤ c.os.length → c.os.length < (stkLimits key c).1 →
         exec (.lcnt x) s0 = .next (Sys2Proof.Claim.retire s key
           { c with os := (match c.ls with | [] => 0 | l :: _ => l.cnt) :: c.os } (Sys2Proof.Claim.after s x 1))))) ∧
  (∀ (c : Ctx) (l : Lvl) (rest : List Lvl) (t : Word), c.ls = l :: rest →
     (t ≠ l.fin → c.goto t = { c with pc := t }) ∧
     (t = l.fin → l.cnt - 1 ≠ 0 → c.goto t = { c with pc := l.start, ls := { l with cnt := l.cnt - 1 } :: rest }) ∧
     (t = l.fin → l.cnt - 1 = 0 → c.goto t = { c with pc := l.fin, ls := rest }))

/-! ### Packet instructions, opcodes 0x90–0x95, and the end of a packet -/

/-- DONE, DROPPKT and PUNT (06 R189, R190), and PACKET_END (03 R100). -/
def Obligations.PacketEndInstructions : Prop :=
  (∀ (s0 s : State) (r : Rank) (c : CoreNo) (k : CtxNo) (g : Guard),
     let x : Iss := ⟨.pkt r c k, g⟩
     let key := pk r.val c.val k.val
     (Sys2Proof.Claim.Ready s0 s x 1 → s.holdsLock key = false →
       let u := s.killHelpers key HCmd.awaits
       exec (.done x) s0 = .next ((u.setCtx key { u.ctx key with st := .ending, wait := .none, ending := some .done }).issued key) ∧
       exec (.droppkt x) s0 = .next ((u.setCtx key { u.ctx key with st := .ending, wait := .none, ending := some .drop }).issued key) ∧
       (∀ h ∈ (u.ctx key).hs, h.killed = false → h.fin = false → h.need ≤ h.puts.length)) ∧
     (Sys2Proof.Claim.Ready s0 s x 1 → s.holdsLock key = true →
       exec (.done x) s0 = .next ((s.excAt key 12 (BitVec.ofNat 32 (s.lowLock key % 256 + 256 * 7))).issued key) ∧
       exec (.droppkt x) s0 = .next ((s.excAt key 12 (BitVec.ofNat 32 (s.lowLock key % 256 + 256 * 7))).issued key)) ∧
     (∀ b : Byte, Sys2Proof.Claim.Ready s0 s x 2 → b.toNat < 128 →
       let u := (s.dropLocks key).killHelpers key HCmd.awaits
       exec (.punt x b) s0 = .next ((u.setCtx key { u.ctx key with st := .ending, wait := .none, ending := some (.punt b) }).issued key) ∧
       (∀ l ∈ u.tb.locks, l.owner ≠ key))) ∧
  (∀ (s : State) (r : Rank) (c : CoreNo) (k : CtxNo) (i : Nat) (e : REntry),
     let key := pk r.val c.val k.val
     (s.ctx key).st = .ending → s.runs r.val = true → s.quiet key = true → (s.ctx key).entry = some i →
     tfind (s.rank r.val).entries i = some e →
     ∃ t, exec (.packetEnd r c k) s = .next t ∧ (t.ctx key).st = .free ∧ (t.ctx key).entry = none ∧
       ((s.ctx key).ending = some .done → ∃ e', tfind (t.rank r.val).entries i = some e' ∧ e'.md = e.md ∧
         e'.reps = (s.ctx key).reps ∧ ∃ sl, e'.phase = .gate c.val k.val sl) ∧
       ((s.ctx key).ending = some .drop → t.ctr (rkA r.val 0x128) = s.ctr (rkA r.val 0x128) + 1 ∧
         ∀ e', tfind (t.rank r.val).entries i = some e' → e'.phase = .mark) ∧
       (∀ b, (s.ctx key).ending = some (.punt b) →
         (∀ e', tfind (t.rank r.val).entries i = some e' → e'.phase = .mark) ∧
         ((∃ j, j < 64 ∧ tfind (s.rank r.val).exc j = none) →
           ∃ j q, tfind (s.rank r.val).exc j = none ∧ tfind (t.rank r.val).exc j = some q ∧ q.md.puntCode = b)))

/-- EMIT, SETLANE and SKIPTO (06 R192, R193). SKIPTO raises vector 5 where a bank of its slot is not the core's (11 R332; that it does so
at its issue is the model's choice, log entry 113). -/
def Obligations.EmitSetlaneSkiptoResult : Prop :=
  ∀ (s0 s : State) (r : Rank) (cn : CoreNo) (k : CtxNo) (g : Guard) (a b : Word) (rest : List Word),
    let x : Iss := ⟨.pkt r cn k, g⟩
    let key := pk r.val cn.val k.val
    let c := s.ctx key
    Sys2Proof.Claim.Ready s0 s x 1 → (stkFloors c).1 ≤ rest.length → rest.length ≤ (stkLimits key c).1 →
    (r.val = 11 → c.os = b :: a :: rest → c.reps.length < 7 →
      exec (.emit x) s0 = .next (Sys2Proof.Claim.retire s key
        { c with os := rest, reps := c.reps ++ [⟨BitVec.ofNat 10 a.toNat, BitVec.ofNat 3 b.toNat, c.setLane.getD (s.mdOf key).lane⟩] }
        (Sys2Proof.Claim.after s x 1))) ∧
    (r.val = 11 → c.os = b :: a :: rest → 7 ≤ c.reps.length →
      exec (.emit x) s0 = .next ((s.excAt key 12 (BitVec.ofNat 32 (256 * 8))).issued key)) ∧
    (r.val = 11 → c.os = a :: rest →
      exec (.setlane x) s0 = .next (Sys2Proof.Claim.retire s key { c with os := rest, setLane := some (BitVec.ofNat 8 a.toNat) }
        (Sys2Proof.Claim.after s x 1))) ∧
    (r.val ≠ 11 → exec (.emit x) s0 = .next ((s.excAt key 1 c.pc).issued key) ∧
      exec (.setlane x) s0 = .next ((s.excAt key 1 c.pc).issued key)) ∧
    (c.os = a :: rest → s.microClean (coreOf key) = true →
      ((a.toInt < -64 ∨ 192 < a.toInt) → exec (.skipto x) s0 = .next ((s.excAt key 12 (BitVec.ofNat 32 (256 * 9))).issued key)) ∧
      (-64 ≤ a.toInt → a.toInt ≤ 192 → (s.mdOf key).verdict ≠ 1 →
        exec (.skipto x) s0 =
          .next ((s.setCtx key (Sys2Proof.Claim.asleep c (.verdict none) (guardLen g + 1))).issued key)) ∧
      (-64 ≤ a.toInt → a.toInt ≤ 192 → (s.mdOf key).verdict = 1 → skipBad (s.mdOf key) a.toInt = true →
        exec (.skipto x) s0 = .next ((s.excAt key 12 (BitVec.ofNat 32 (256 * 9))).issued key)) ∧
      (-64 ≤ a.toInt → a.toInt ≤ 192 → (s.mdOf key).verdict = 1 → skipBad (s.mdOf key) a.toInt = false →
        s.portBad key (0x38000 + 0x400 * k.val + 0x200 * c.slot) 0x108 = none →
        exec (.skipto x) s0 = .next (((s.setCore (coreOf key) { s.core (coreOf key) with
            beq := (s.core (coreOf key)).beq ++ [⟨k.val, 4, a, 0, 0⟩] }).setCtx key
          (Sys2Proof.Claim.asleep c .engine (guardLen g + 1))).issued key)) ∧
      (∀ y, -64 ≤ a.toInt → a.toInt ≤ 192 → (s.mdOf key).verdict = 1 → skipBad (s.mdOf key) a.toInt = false →
        s.portBad key (0x38000 + 0x400 * k.val + 0x200 * c.slot) 0x108 = some y →
        exec (.skipto x) s0 = .next ((s.excAt key 5 (BitVec.ofNat 32 y)).issued key)))

/-! ### Table operations, opcodes 0xA0–0xA8 -/

/-- A sleeping context's instruction completes with operand stack `os`: it goes on after the instruction. -/
def Sys2Proof.Claim.wakes (s : State) (key : Nat) (os : List Word) : State :=
  s.setCtx key (Ctx.goto { s.ctx key with os := os, st := .run, wait := .none, wlen := 0, skip := false, brkSkip := false }
    ((s.ctx key).pc + BitVec.ofNat 32 (s.ctx key).wlen))

/-- Context `key` sleeps for an operation that table memory lists, of kind `kd` on table `t`. -/
def Sys2Proof.Claim.Sent (s u : State) (key len : Nat) (kd : TKind) (t : Byte) (p : TOp → Prop) : Prop :=
  (∃ o ∈ u.tb.ops, o.id = s.tb.opNo ∧ o.src = key ∧ o.kind = kd ∧ o.table = t.toNat ∧ o.fin = false ∧ p o) ∧
  u.ctx key = Sys2Proof.Claim.asleep (s.ctx key) (.top s.tb.opNo) len ∧
  (∀ j, j ≠ key → u.ctx j = s.ctx j) ∧ { u with ctxs := s.ctxs, cores := s.cores, tb := s.tb } = s

/-- LOOK, LOOKW, MTR, UPD, CAS and UNLOCK at issue (06 R194–R198, 04 R113). The key operand reads without an error. -/
def Obligations.TableRequestIsSent : Prop :=
  ∀ (s0 s : State) (r : Rank) (cn : CoreNo) (k : CtxNo) (g : Guard) (t : Byte) (w0 w1 w2 : Word) (rest : List Word) (kb db : List Byte),
    let x : Iss := ⟨.pkt r cn k, g⟩
    let key := pk r.val cn.val k.val
    let c := s.ctx key
    let len := guardLen g + 2
    Sys2Proof.Claim.Ready s0 s x 2 → s.tDead t.toNat (s.bankFor key t.toNat) = false → s.leaving r.val = false →
    (stkFloors c).1 ≤ rest.length → rest.length < (stkLimits key c).1 →
    (c.os = w0 :: w1 :: rest → s.tCheck .look t.toNat = none → s.badIdx t.toNat w1 = false →
      s.opKey key t.toNat w1 = (false, kb, s) → s.rngErr key c (s.keyRng t.toNat w1 ++ [⟨w0, s.tW t.toNat, 8⟩]) = none →
      (∃ u, exec (.look x t) s0 = .next u ∧
        Sys2Proof.Claim.Sent s u key len .look t (fun o => o.key = kb ∧ o.idx = w1.toNat ∧ o.raddr = w0)) ∧
      (∃ u, exec (.lookw x t) s0 = .next u ∧
        Sys2Proof.Claim.Sent s u key len .lookw t (fun o => o.key = kb ∧ o.idx = w1.toNat ∧ o.raddr = w0))) ∧
    (c.os = w0 :: w1 :: rest → s.tCheck .mtr t.toNat = none → s.badIdx t.toNat w1 = false → c.seq < 16 →
      ∃ u, exec (.mtr x t) s0 = .next u ∧
        Sys2Proof.Claim.Sent s u key len .mtr t (fun o => o.idx = w1.toNat ∧ o.w0.toNat = w0.toNat % 65536)) ∧
    (c.os = w0 :: w1 :: rest → s.tCheck .upd t.toNat = none → s.badIdx t.toNat w1 = false →
      s.opKey key t.toNat w1 = (false, kb, s) → s.readMem key w0.toNat (s.updLen t.toNat) = (false, db, s) →
      s.rngErr key c (s.keyRng t.toNat w1 ++ [⟨w0, s.updLen t.toNat, 8⟩]) = none →
      ((s.mdOf key).verdict = 1 → ∃ u, exec (.upd x t) s0 = .next u ∧
        Sys2Proof.Claim.Sent s u key len .upd t (fun o => o.key = kb ∧ o.idx = w1.toNat ∧ o.data = db)) ∧
      ((s.mdOf key).verdict ≠ 1 → ∃ o, o.kind = TKind.upd ∧ o.table = t.toNat ∧ o.data = db ∧
        exec (.upd x t) s0 = .next ((s.setCtx key (Sys2Proof.Claim.asleep c (.verdict (some o)) len)).issued key))) ∧
    (c.os = w0 :: w1 :: w2 :: rest → s.tCheck .cas t.toNat = none → s.badIdx t.toNat w2 = false →
      s.opKey key t.toNat w2 = (false, kb, s) → s.rngErr key c (s.keyRng t.toNat w2) = none →
      (s.tKind t.toNat = 5 → w0 = 0) →
      (s.tKind t.toNat ≠ 5 → (s.locksOf key).length < 4 ∧ ∀ l ∈ s.locksOf key, l.table < t.toNat) →
      ((s.mdOf key).verdict = 1 → ∃ u, exec (.cas x t) s0 = .next u ∧
        Sys2Proof.Claim.Sent s u key len .cas t (fun o => o.key = kb ∧ o.idx = w2.toNat ∧ o.w0 = w1 ∧ o.w1 = w0)) ∧
      ((s.mdOf key).verdict ≠ 1 → ∃ o, o.kind = TKind.cas ∧ o.table = t.toNat ∧ o.w0 = w1 ∧ o.w1 = w0 ∧
        exec (.cas x t) s0 = .next ((s.setCtx key (Sys2Proof.Claim.asleep c (.verdict (some o)) len)).issued key))) ∧
    (c.os = w0 :: rest → s.tCheck .unlock t.toNat = none → s.badIdx t.toNat w0 = false →
      s.opKey key t.toNat w0 = (false, kb, s) → s.rngErr key c (s.keyRng t.toNat w0) = none →
      ∀ i, s.unlockIdx t.toNat (s.bankFor key t.toNat) w0 kb = some i → c.broken.contains (t.toNat, i) = false →
        (s.locksOf key).any (fun l => l.table = t.toNat && l.idx = i) = true →
        ∃ u, exec (.unlock x t) s0 = .next u ∧ Sys2Proof.Claim.Sent s u key len .unlock t (fun o => o.idx = i))

/-- CNT, LRN and LOG (06 R196, 04 R119, R127): the entry leaves at retire, or the context sleeps for room in the ledger. The
memory operands read without an error. When the link counts as full is the model's choice (log entry 81). -/
def Obligations.DeferredOperationsResult : Prop :=
  ∀ (s0 s : State) (r : Rank) (cn : CoreNo) (k : CtxNo) (g : Guard) (t : Byte) (w0 w1 w2 : Word) (rest : List Word) (kb : List Byte),
    let x : Iss := ⟨.pkt r cn k, g⟩
    let key := pk r.val cn.val k.val
    let c := s.ctx key
    let md := s.mdOf key
    let ent := fun (op : BitVec 2) (pl : List Byte) => (
      { lane := md.lane, pip := md.pip, rank := r.val, attempt := md.attempt, used := true, vgood := decide (md.verdict = 1),
        rel := false, com := false, op := op, table := t, round := md.round, seq := c.seq, payload := fit 24 pl } : LEntry)
    let go := fun (op : BitVec 2) (pl : List Byte) =>
      if s.ledgerFull r.val then ((s.count (ldA 0x140)).setCtx key
        (Sys2Proof.Claim.asleep c (.ledger (ent op pl)) (guardLen g + 2))).issued key
      else Sys2Proof.Claim.retire (s.setRank r.val { s.rank r.val with out := (s.rank r.val).out ++ [.entry (ent op pl)] }) key
        { c with os := rest, seq := c.seq + 1 } (Sys2Proof.Claim.after s x 2)
    Sys2Proof.Claim.Ready s0 s x 2 → (stkFloors c).1 ≤ rest.length → rest.length ≤ (stkLimits key c).1 → s.leaving r.val = false →
    (c.os = w0 :: w1 :: w2 :: rest → s.tCheck .cnt t.toNat = none → s.badIdx t.toNat w2 = false →
      (c.seq < 16 → exec (.cnt x t) s0 = .next (go 0 (leBytes 4 w2.toNat ++ leBytes 4 w1.toNat ++ leBytes 4 w0.toNat))) ∧
      (16 ≤ c.seq → exec (.cnt x t) s0 = .next ((s.excAt key 12 (BitVec.ofNat 32 (t.toNat + 256 * 4))).issued key))) ∧
    (c.os = w0 :: w1 :: rest → s.tCheck .lrn t.toNat = none → s.rngErr key c (s.keyRng t.toNat w1) = none →
      s.opKey key t.toNat w1 = (false, kb, s) →
      (c.seq < 16 → exec (.lrn x t) s0 = .next (go 2 (fit 16 kb ++ leBytes 4 w0.toNat))) ∧
      (16 ≤ c.seq → exec (.lrn x t) s0 = .next ((s.excAt key 12 (BitVec.ofNat 32 (t.toNat + 256 * 4))).issued key))) ∧
    (c.os = w0 :: rest → s.tCheck .log t.toNat = none → s.rngErr key c [⟨w0, 20, 4⟩] = none →
      s.readMem key w0.toNat 20 = (false, kb, s) →
      (c.seq < 16 → exec (.log x t) s0 = .next (go 3 (kb ++ leBytes 4 s.tick32.toNat))) ∧
      (16 ≤ c.seq → exec (.log x t) s0 = .next ((s.excAt key 12 (BitVec.ofNat 32 (t.toNat + 256 * 4))).issued key)))

/-- LOOKUP_RESULT and TABLE_ACK (06 R194–R198, 10 R318). That a meter's charge leaves when the colour has come, and when the ledger
counts as full for it, are the model's choices (log entries 26 and 81). -/
def Obligations.TableResultsReachTheContext : Prop :=
  ∀ (s : State) (r : Rank) (cn : CoreNo) (k : CtxNo) (o : TOp),
    let key := pk r.val cn.val k.val
    let c := s.ctx key
    let u : State := { s with tb := { s.tb with ops := s.tb.ops.filter (fun p => p.id ≠ o.id) } }
    s.doneOp key = some o → c.v11pend = false → c.trig = false → s.leaving r.val = false →
    ((o.kind = .look ∨ o.kind = .lookw) →
      (o.ue = false → o.res ≠ 1 →
        exec (.lookupResult (.pkt r cn k)) s = .next (Sys2Proof.Claim.wakes u key (o.res :: c.os.drop 2))) ∧
      (o.ue = false → o.res = 1 →
        exec (.lookupResult (.pkt r cn k)) s =
          .next (Sys2Proof.Claim.wakes (u.writeMem key o.raddr.toNat o.out) key (1 :: c.os.drop 2))) ∧
      (o.ue = true → exec (.lookupResult (.pkt r cn k)) s = .next (u.endPunt key 0x83))) ∧
    (o.kind = .mtr → o.ue = true → exec (.lookupResult (.pkt r cn k)) s = .next (u.endPunt key 0x83)) ∧
    (o.kind = .mtr → o.ue = false → ∃ t e, exec (.lookupResult (.pkt r cn k)) s = .next t ∧ e.op = 1 ∧ e.table.toNat = o.table % 256 ∧
      e.seq = c.seq ∧ e.payload = fit 24 (leBytes 4 o.idx ++ leBytes 2 o.w0.toNat ++ [0, 0] ++ leBytes 4 o.w1.toNat) ∧
      (s.ledgerFull r.val = false → (t.rank r.val).out = (s.rank r.val).out ++ [.entry e] ∧ (t.ctx key).st = .run ∧
        (t.ctx key).os = o.res :: c.os.drop 2 ∧ (t.ctx key).seq = c.seq + 1) ∧
      (s.ledgerFull r.val = true → t = (s.count (ldA 0x140)).setCtx key { c with wait := .ledger e })) ∧
    (o.kind = .upd → exec (.tableAck (.pkt r cn k)) s = .next (Sys2Proof.Claim.wakes u key (o.res :: c.os.drop 2))) ∧
    (o.kind = .cas → exec (.tableAck (.pkt r cn k)) s = .next (Sys2Proof.Claim.wakes u key (o.res :: c.os.drop 3))) ∧
    (o.kind = .unlock → exec (.tableAck (.pkt r cn k)) s = .next (Sys2Proof.Claim.wakes u key (c.os.drop 1)))

/-! ### System instructions and special registers, opcodes 0xB0–0xB9 -/

/-- WAIT, YIELD, FENCE, TIME, DICE, SYS, BRK and RTE of a packet context (05 R165; 06 R200–R205). The count of WAIT is in cycles of
CK_RANK, two half cycles each. -/
def Obligations.SystemInstructionsResult : Prop :=
  ∀ (s0 s : State) (r : Rank) (cn : CoreNo) (k : CtxNo) (g : Guard),
    let x : Iss := ⟨.pkt r cn k, g⟩
    let key := pk r.val cn.val k.val
    let ck := coreOf key
    let c := s.ctx key
    (Sys2Proof.Claim.Ready s0 s x 1 →
      (∀ n rest, c.os = n :: rest → (stkFloors c).1 ≤ rest.length → rest.length ≤ (stkLimits key c).1 →
        (n.toNat % 4096 = 0 → exec (.wait x) s0 = .next (Sys2Proof.Claim.retire s key { c with os := rest } (Sys2Proof.Claim.after s x 1))) ∧
        (n.toNat % 4096 ≠ 0 → exec (.wait x) s0 = .next ((s.setCtx key
          (Sys2Proof.Claim.asleep c (.timer (2 * (n.toNat % 4096)) false) (guardLen g + 1))).issued key))) ∧
      exec (.yield x) s0 = .next (Sys2Proof.Claim.retire s key c (Sys2Proof.Claim.after s x 1)) ∧
      ((s.opsOut key).all (fun o => decide (o.kind ≠ .upd) && decide (o.kind ≠ .cas) && decide (o.kind ≠ .unlock)) = true →
        exec (.fence x) s0 = .next (Sys2Proof.Claim.retire s key c (Sys2Proof.Claim.after s x 1)) ∧ (s.core ck).sbuf = []) ∧
      ((s.opsOut key).any (fun o => decide (o.kind = .upd) || decide (o.kind = .cas) || decide (o.kind = .unlock)) = true →
        exec (.fence x) s0 = .next ((s.setCtx key (Sys2Proof.Claim.asleep c (.again false) (guardLen g + 1))).issued key)) ∧
      ((stkFloors c).1 ≤ c.os.length → c.os.length < (stkLimits key c).1 →
        exec (.time x) s0 = .next (Sys2Proof.Claim.retire s key { c with os := BitVec.setWidth 32 (if s.isOn dTime then s.time.tick else s.time.copyTick) :: c.os }
          (Sys2Proof.Claim.after s x 1)) ∧
        (let d1 := (s.core ck).dseed ^^^ ((s.core ck).dseed <<< 13)
         let d2 := d1 ^^^ (d1 >>> 17)
         let d3 := d2 ^^^ (d2 <<< 5)
         exec (.dice x) s0 = .next (Sys2Proof.Claim.retire (s.setCore ck { s.core ck with dseed := d3 }) key
           { c with os := d3 :: c.os } (Sys2Proof.Claim.after s x 1)))) ∧
      (bit (s.dreg (s.dbgBase key)) 28 = true → c.brkSkip = false →
        exec (.brk x) s0 = .next ((s.reqHalt ck).setCtx key { c with brkSkip := true })) ∧
      ((bit (s.dreg (s.dbgBase key)) 28 = false ∨ c.brkSkip = true) →
        exec (.brk x) s0 = .next (((s.setCtx key { c with ls := (c.goto (Sys2Proof.Claim.after s x 1)).ls }).raise key
          ⟨15, c.pc, (c.goto (Sys2Proof.Claim.after s x 1)).pc, false, false⟩).issued key)) ∧
      (c.elev = 0 → exec (.rte x) s0 = .next ((s.excAt key 2 c.pc).issued key)) ∧
      (c.elev ≠ 0 → exec (.rte x) s0 = .next ((s.setCtx key { c with st := .ret }).issued key))) ∧
    (∀ b : Byte, Sys2Proof.Claim.Ready s0 s x 2 →
      exec (.sys x b) s0 = .next (((s.setCtx key { c with ls := (c.goto (Sys2Proof.Claim.after s x 2)).ls }).raise key
        ⟨14, BitVec.ofNat 32 b.toNat, (c.goto (Sys2Proof.Claim.after s x 2)).pc, false, false⟩).issued key))

/-- MFS and MTS of a packet context (05 R164, R166, R171). -/
def Obligations.SpecialRegisterAccess : Prop :=
  ∀ (s0 s : State) (r : Rank) (cn : CoreNo) (k : CtxNo) (g : Guard) (i : Byte),
    let x : Iss := ⟨.pkt r cn k, g⟩
    let key := pk r.val cn.val k.val
    let ck := coreOf key
    let c := s.ctx key
    let co := s.core ck
    let seat := s.seatNo r.val cn.val
    let vals : List Word :=
      [BitVec.ofNat 32 (c.ls.length * 512 + c.elev.toNat * 128 + (if c.lazy then 4 else 0) + (if c.elev = 0 then 0 else 1)),
       BitVec.setWidth 32 (c.pred ||| 1), c.a, c.b, c.msp, co.vbase, BitVec.setWidth 32 c.turn, BitVec.ofNat 32 k.val,
       BitVec.ofNat 32 seat, BitVec.ofNat 32 r.val, BitVec.ofNat 32 (co.own2.getD 15 + 16 * co.own3.getD 15), c.faultaddr,
       BitVec.setWidth 32 c.cause, BitVec.ofNat 32 (0x38000 + 0x400 * k.val + 0x200 * c.slot),
       BitVec.ofNat 32 (c.rs.length * 256 + c.os.length), co.dseed]
    Sys2Proof.Claim.Ready s0 s x 2 → i.toNat < 16 →
    ((stkFloors c).1 ≤ c.os.length → c.os.length < (stkLimits key c).1 → (c.elev ≠ 0 ∨ i.toNat ∉ [4, 10, 11, 12, 15]) →
      exec (.mfs x i) s0 = .next (Sys2Proof.Claim.retire s key { c with os := vals.getD i.toNat 0 :: c.os } (Sys2Proof.Claim.after s x 2))) ∧
    (c.elev = 0 → i.toNat ∈ [4, 10, 11, 12, 15] → exec (.mfs x i) s0 = .next ((s.excAt key 2 c.pc).issued key)) ∧
    ((i.toNat ∉ [0, 1, 2, 3, 4, 15] ∨ (c.elev = 0 ∧ i.toNat ∈ [0, 4, 15])) → exec (.mts x i) s0 = .next ((s.excAt key 2 c.pc).issued key)) ∧
    (∀ v rest, c.os = v :: rest → (stkFloors c).1 ≤ rest.length → rest.length ≤ (stkLimits key c).1 →
      let go := fun (u : State) (d : Ctx) => exec (.mts x i) s0 = .next (Sys2Proof.Claim.retire u key d (Sys2Proof.Claim.after s x 2))
      (i.toNat = 1 → go s { c with os := rest, pred := BitVec.setWidth 8 v ||| 1 }) ∧
      (i.toNat = 2 → go s { c with os := rest, a := v }) ∧ (i.toNat = 3 → go s { c with os := rest, b := v }) ∧
      (c.elev ≠ 0 → i.toNat = 0 → go s { c with os := rest }) ∧ (c.elev ≠ 0 → i.toNat = 4 → go s { c with os := rest, msp := v }) ∧
      (c.elev ≠ 0 → i.toNat = 15 → v ≠ 0 → go (s.setCore ck { co with dseed := v }) { c with os := rest }) ∧
      (c.elev ≠ 0 → i.toNat = 15 → v = 0 → go s { c with os := rest }))

/-! ### Exceptions, the turn cap and the fault context -/

/-- Taking an exception in a packet context (05 R144, 08 R239, R257). -/
def Obligations.ExceptionTaken : Prop :=
  ∀ (s : State) (r : Rank) (cn : CoreNo) (k : CtxNo) (x : Exc),
    let key := pk r.val cn.val k.val
    let ck := r.val * 13 + cn.val
    let c := s.ctx key
    let stackErr : Prop := 6 ≤ x.vec ∧ x.vec ≤ 10
    let stopped := fun (kind : Nat) => (s.raise key x).ctx key =
      { c with st := .stopped, wait := .none, exc := some x, stop := some ⟨kind, x.vec, x.faultaddr, c.pc, c.turn⟩ } ∧ k.val ∈ ((s.raise key x).core ck).stopq
    (c.elev ≠ 2 → (c.elev = 0 ∨ ¬ stackErr) →
      s.raise key x = s.setCtx key { c with st := .entry, wait := .none, skip := false, brkSkip := false, exc := some x }) ∧
    (c.elev ≠ 0 → stackErr → stopped 2) ∧ (c.elev = 2 → ¬ stackErr → stopped 3) ∧
    { s.raise key x with ctxs := s.ctxs, cores := s.cores } = s ∧ (∀ j, j ≠ key → (s.raise key x).ctx j = s.ctx j) ∧
    (∀ j, j ≠ ck → (s.raise key x).core j = s.core j)

/-- EXCEPTION_ENTRY (08 R244–R247), with the frame word by word as R245 lays it out. The instructions behind the faulting one are
squashed before (07 R223): `s` is the state after that. Nothing is squashed where the instruction slept or its wait was abandoned, or
where the exception came between instructions (08 R242, R247); where its group has no further instruction, a younger group is squashed or
none is, which is free (log entry 17), and with none only the count of free values moves. The frame's bank belongs to the core, or the entry is a double fault with vector 5 (11 R332; the
KIND is the model's choice, log entry 96). -/
def Obligations.ExceptionEntryResult : Prop :=
  ∀ (s0 s : State) (r : Rank) (cn : CoreNo) (k : CtxNo) (x : Exc),
    let key := pk r.val cn.val k.val
    let c := s.ctx key
    let c0 := s0.ctx key
    let lvl := fun (l : Nat) => match c.ls.reverse[l]? with
      | none => [(0 : Word), 0]
      | some v => [BitVec.ofNat 32 (v.start.toNat % 65536 + 65536 * (v.fin.toNat % 65536)), v.cnt]
    let frame : List Word :=
      [BitVec.ofNat 32 (x.ret.toNat % 65536),
       BitVec.ofNat 32 (c.ls.length * 512 + c.elev.toNat * 128 + (if c.lazy then 4 else 0) + (if c.elev = 0 then 0 else 1)),
       BitVec.setWidth 32 (c.pred ||| 1), c.a, c.b, c.faultaddr,
       BitVec.ofNat 32 (x.vec + 256 * c.cause.toNat + (if x.abandoned then 2 ^ 16 else 0) + (if x.sent then 2 ^ 17 else 0)), 0] ++
      lvl 0 ++ lvl 1 ++ lvl 2 ++ lvl 3
    (s0.ctx key).st = .entry → s0.runs r.val = true → (s0.ctx key).exc = some x → s = s0.squash (.pkt r cn k) x →
    s0.microClean (coreOf key) = true → c.v11pend = false → c.trig = false → c.elev.toNat ≤ 1 →
    (c.msp.toNat % 64 = 0 → c.msp.toNat ≤ 0x30000 + 0x800 * k.val + 0x800 → 0x30000 + 0x800 * k.val + 0x80 ≤ c.msp.toNat →
      (s.portBad key (c.msp.toNat - 128) 64 = none →
        ∃ t u, u = s.portW key (c.msp.toNat - 128) (frame.flatMap (fun w => leBytes 4 w.toNat)) ∧ exec (.exceptionEntry (.pkt r cn k)) s0 = .next t ∧
          t.ctx key = { c with st := .run, exc := none, useq := none, wait := .none, wlen := 0, msp := c.msp - 128, ls := [],
                               grp := { c.grp with left := 0, flow := 0 }, cause := BitVec.ofNat 5 x.vec, faultaddr := x.faultaddr, pc := u.vectorOf key x.vec,
                               lazy := true, elev := c.elev + 1,
                               h1 := (if c.elev = 0 then ⟨false, c.os.length, c.rs.length⟩ else c.h1),
                               h2 := (if c.elev = 0 then c.h2 else ⟨true, c.os.length, c.rs.length⟩) } ∧
          (∀ j, j ≠ key → t.ctx j = s.ctx j) ∧ { t with ctxs := u.ctxs } = u) ∧
      (∀ y, s.portBad key (c.msp.toNat - 128) 64 = some y →
        exec (.exceptionEntry (.pkt r cn k)) s0 = .next (s.stopCtx key 1 5 (BitVec.ofNat 32 y)))) ∧
    ((c.msp.toNat % 64 ≠ 0 ∨ 0x30000 + 0x800 * k.val + 0x800 < c.msp.toNat ∨ c.msp.toNat < 0x30000 + 0x800 * k.val + 0x80) →
      exec (.exceptionEntry (.pkt r cn k)) s0 = .next (s.stopCtx key 1 x.vec x.faultaddr)) ∧
    ((c0.wlen ≠ 0 ∨ x.abandoned = true ∨ x.vec = 11 ∨ x.vec = 17 ∨ (x.vec = 15 ∧ c0.grp.next = c0.pc)) →
      s = s0.setCtx key { c0 with grp := { c0.grp with left := 0 } }) ∧
    (c0.wlen = 0 → x.abandoned = false → x.vec ∉ [11, 15, 17] → x.ret = c0.pc → c0.grp.left = 0 →
      (∀ h ∈ c0.hs, h.sq = true → h.killed = true ∨ h.fin = true) →
      Config.freePick s0.freeCount % 2 = 0 → Config.freePick (s0.freeCount + 8) % 2 = 0 →
      ∃ n, s = { s0.setCtx key { c0 with grp := { c0.grp with left := 0 } } with freeCount := s0.freeCount + n })

/-- EXCEPTION_RETURN (08 R246, R250, R251, R255; 11 R343). The core's retired stores have reached the scratchpad in `d`. That a frame in
a bank which the core does not own raises vector 5 at the level of the handler is the model's choice (log entry 96). -/
def Obligations.ExceptionReturnResult : Prop :=
  ∀ (s d : State) (r : Rank) (cn : CoreNo) (k : CtxNo),
    let key := pk r.val cn.val k.val
    let ck := coreOf key
    let c := s.ctx key
    let ws := bytesWords (d.spR ck c.msp.toNat 64)
    let area := d.spR ck (c.msp.toNat + 64) 64
    let fl := if c.elev = 2 then c.h2 else c.h1
    c.st = .ret → s.runs r.val = true → s.levelQuiet key c.elev.toNat = true → c.v11pend = false → c.trig = false → (c.elev = 1 ∨ c.elev = 2) →
    s.microClean ck = true → d = s.drainCore ck →
    (popOk key c.msp = false → exec (.exceptionReturn (.pkt r cn k)) s = .next (s.stopCtx key 5 18 0)) ∧
    (∀ y, popOk key c.msp = true → s.portBad key c.msp.toNat 64 = some y →
      exec (.exceptionReturn (.pkt r cn k)) s = .next (s.raise key ⟨5, BitVec.ofNat 32 y, c.pc, false, false⟩)) ∧
    (popOk key c.msp = true → s.portBad key c.msp.toNat 64 = none →
      (∀ w ∈ wordsOf c.msp.toNat 128, tfind d.spErr (spWord ck (8 * w)) = none) →
      (frameOk key c ws false = false → exec (.exceptionReturn (.pkt r cn k)) s = .next (d.stopCtx key 4 18 0)) ∧
      (frameOk key c ws false = true →
        ∃ t u, exec (.exceptionReturn (.pkt r cn k)) s = .next t ∧ (t.ctx key).st = .run ∧
          (t.ctx key).pc = ws.getD 0 0 ∧ (t.ctx key).elev = c.elev - 1 ∧ (t.ctx key).msp = c.msp + 128 ∧
          (t.ctx key).os = c.os.drop (c.os.length - fl.ofloor) ∧ (t.ctx key).rs = c.rs.drop (c.rs.length - fl.rfloor) ∧
          (t.ctx key).a = ws.getD 3 0 ∧ (t.ctx key).b = ws.getD 4 0 ∧ (t.ctx key).faultaddr = ws.getD 5 0 ∧
          (t.ctx key).pred = (BitVec.setWidth 8 (ws.getD 2 0)) ||| 1 ∧ (t.ctx key).lazy = bit (ws.getD 1 0) 2 ∧
          (t.ctx key).ls.length = bits (ws.getD 1 0) 11 9 ∧ (t.ctx key).cause = BitVec.ofNat 5 (bits (ws.getD 6 0) 12 8) ∧
          (t.ctx key).wait = .none ∧ (t.ctx key).useq = none ∧ (∀ j, j ≠ key → t.ctx j = s.ctx j) ∧ u = d.refill key area ws ∧ { t with ctxs := u.ctxs } = u ∧
          (bit (ws.getD 6 0) 25 = false → u = d)))

/-- TURN_CAP_EXPIRY, TURN_HARD_LIMIT, FAULT_CONTEXT_SERVICE and FAULT_PROGRAM_LIMIT (03 R95, R96; 08 R242, R257–R259). -/
def Obligations.TurnCapAndFaultContext : Prop :=
  ∀ (s : State) (r : Rank) (cn : CoreNo) (k : CtxNo),
    let key := pk r.val cn.val k.val
    let ck := r.val * 13 + cn.val
    let fk := pk r.val cn.val 8
    let c := s.ctx key
    let cap := s.capOf r.val (s.mdOf key)
    let sent : Bool := match c.wait with
      | .top _ => true
      | .again b => b
      | .ledger e => decide (e.op = 1)
      | _ => false
    s.runs r.val = true → (s.core ck).halted = false →
    (c.st = .run → c.elev ≠ 2 → (c.grp.left = 0 ∨ c.pc ≠ c.grp.next ∨ ∃ sl, c.wait = .lazy sl) → c.v11done = false → cap < c.turn.toNat →
      exec (.turnCapExpiry r cn k) s = .next (((s.count (rkA r.val 0x130)).setCtx key
        { c with v11done := true, wait := .none, grp := { c.grp with left := 0, next := c.pc } }).raise key
          ⟨11, BitVec.ofNat 32 (cap + 1), c.pc, false, false⟩)) ∧
    (c.st = .run → (c.elev = 2 ∨ (c.grp.left ≠ 0 ∧ c.pc = c.grp.next ∧ ∀ sl, c.wait ≠ .lazy sl)) → c.v11done = false → cap < c.turn.toNat →
      exec (.turnCapExpiry r cn k) s = .next ((s.count (rkA r.val 0x130)).setCtx key { c with v11done := true, v11pend := true })) ∧
    (c.st = .sleep → c.elev ≠ 2 → c.wait ≠ .engine → c.v11done = false → cap < c.turn.toNat →
      exec (.turnCapExpiry r cn k) s = .next ((((s.count (rkA r.val 0x130)).orphanOps key).setCtx key
        { c with v11done := true, v11pend := false, wlen := 0 }).raise key
          ⟨11, BitVec.ofNat 32 (cap + 1), c.pc, true, sent⟩)) ∧
    (c.v11done = true → exec (.turnCapExpiry r cn k) s = .next s) ∧
    (c.st ∈ [CSt.run, .sleep, .entry, .ret] → cap + 128 ≤ c.turn.toNat →
      exec (.turnHardLimit r cn k) s = .next ((s.orphanOps key).stopCtx key 6 11 (BitVec.ofNat 32 (cap + 1)))) ∧
    (∀ rest, (s.core ck).svc = none → (s.core ck).stopq = k.val :: rest → c.st = .stopped → s.microClean ck = true →
      (s.opsOut key).all (fun o => decide (o.kind ≠ .upd) && decide (o.kind ≠ .cas) && decide (o.kind ≠ .unlock)) = true →
      s.vectorOf key 31 ≠ 0xFFFF →
      ∃ t, exec (.faultContextService r cn) s = .next t ∧ (t.core ck).svc = some k.val ∧ (t.core ck).stopq = rest ∧
        (t.ctx fk).st = .run ∧ (t.ctx fk).pc = s.vectorOf key 31 ∧
        (∀ st, c.stop = some st → (t.ctx fk).faultaddr = st.addr ∧ (t.ctx fk).cause = BitVec.ofNat 5 st.vec)) ∧
    ((s.core ck).svc.isSome = true → 256 ≤ (s.ctx fk).fcycles → exec (.faultProgramLimit r cn) s = .next (s.faultEnd ck true)) ∧
    ((s.ctx fk).fcycles < 256 → exec (.faultProgramLimit r cn) s = .next s)

/-! ### Byte engine, helpers and guest port -/

/-- CSUM16, MOVB, FILLB, CMPB and BYTE_ENGINE_COMPLETE (06 R207–R209, 07 R218). -/
def Obligations.ByteEngineResult : Prop :=
  ∀ (s0 s : State) (r : Rank) (cn : CoreNo) (k : CtxNo) (g : Guard) (w0 w1 w2 : Word) (rest : List Word),
    let x : Iss := ⟨.pkt r cn k, g⟩
    let key := pk r.val cn.val k.val
    let ck := coreOf key
    let c := s.ctx key
    let co := s.core ck
    let join := fun (kind : Nat) => ((s.setCore ck { co with beq := co.beq ++ [⟨k.val, kind, w2, w1, w0⟩] }).setCtx key
      (Sys2Proof.Claim.asleep c .engine (guardLen g + 2))).issued key
    (Sys2Proof.Claim.Ready s0 s x 2 → s.microClean ck = true → c.os = w0 :: w1 :: w2 :: rest → (stkFloors c).1 ≤ rest.length →
      rest.length < (stkLimits key c).1 →
      (s.lenBad key c w2 w1 = none → exec (.csum16 x) s0 = .next (join 0) ∧ exec (.fillb x) s0 = .next (join 2)) ∧
      (s.lenBad key c w2 w0 = none → s.lenBad key c w1 w0 = none →
        exec (.movb x) s0 = .next (join 1) ∧ exec (.cmpb x) s0 = .next (join 3)) ∧
      (∀ fa, s.lenBad key c w2 w1 = some fa → exec (.fillb x) s0 = .next ((s.excAt key 5 fa).issued key))) ∧
    (∀ (b : BeOp) (more : List BeOp), s.runs r.val = true → co.beq = b :: more → b.ctx = k.val → c.st = .sleep → c.wait = .engine →
      c.v11pend = false → c.trig = false → co.bgt = none → s.spErr = [] →
      let u := s.setCore ck { co with beq := more }
      let rd := fun (a n : Word) => u.seen key a.toNat n.toNat
      (b.kind = 0 → b.y ≠ 0 → exec (.byteEngineComplete r cn) s = .next (Sys2Proof.Claim.wakes u key
        (BitVec.ofNat 32 (foldCarry (sumPairs (rd b.x b.y) (b.z.toNat % 65536))) :: c.os.drop 3))) ∧
      (b.kind = 0 → b.y = 0 → exec (.byteEngineComplete r cn) s = .next (Sys2Proof.Claim.wakes u key (b.z :: c.os.drop 3))) ∧
      (b.kind = 1 → exec (.byteEngineComplete r cn) s =
        .next (Sys2Proof.Claim.wakes (u.writeMem key b.y.toNat (rd b.x b.z)) key (c.os.drop 3))) ∧
      (b.kind = 2 → exec (.byteEngineComplete r cn) s =
        .next (Sys2Proof.Claim.wakes (u.writeMem key b.x.toNat (List.replicate b.y.toNat (BitVec.ofNat 8 b.z.toNat))) key (c.os.drop 3))) ∧
      (b.kind = 3 → exec (.byteEngineComplete r cn) s = .next (Sys2Proof.Claim.wakes u key
        (BitVec.ofNat 32 (firstDiff (rd b.x b.z) (rd b.y b.z) 0) :: c.os.drop 3))) ∧
      (b.kind = 4 → ∀ i e, c.entry = some i → tfind (s.rank r.val).entries i = some e →
        ∃ t, exec (.byteEngineComplete r cn) s = .next t ∧ (t.ctx key).st = .run ∧ (t.ctx key).os = c.os.drop 1 ∧
          ∃ e', tfind (t.rank r.val).entries i = some e' ∧ e'.md.len = BitVec.ofInt 14 ((e.md.len.toNat : Int) - b.x.toInt)))

/-- The helper instructions (06 R206, 08 R256, 09 R264–R272). The model's choice: whether the first instruction of a group is
speculative, which is free (log entry 17), that a parse or hash command's bytes are those at its issue (log entry 92), and that a bank
of another owner stops the command at its issue (log entry 113). -/
def Obligations.HelperInstructionsResult : Prop :=
  ∀ (s0 s : State) (r : Rank) (cn : CoreNo) (k : CtxNo) (g : Guard) (sl : Fin 4) (rest : List Word),
    let key := pk r.val cn.val k.val
    let x : Iss := ⟨.pkt r cn k, g⟩
    let ck := coreOf key
    let c := s.ctx key
    let co := s.core ck
    let go := fun (u : State) (d : Ctx) (len : Nat) => Host.Outcome.next (Sys2Proof.Claim.retire u key d (Sys2Proof.Claim.after s x len))
    let mine := sl.val < 2 ∨ co.own sl.val = some k.val
    (∀ (cb : Byte) (a b : Word) (ep : Nat), Sys2Proof.Claim.Ready s0 s x 2 → mine → c.os = b :: a :: rest → (stkFloors c).1 ≤ rest.length →
      rest.length ≤ (stkLimits key c).1 → s.cmdCode r.val sl.val cb = none → c.cmds sl.val = [] → c.lazy = false → c.nextEp = some ep →
      (∀ h ∈ c.hs, h.slot = sl.val → s.killWaits key h = false) → s.helperBank key sl.val cb c = none →
      ∃ t h, exec (.hcmd x sl cb) s0 = .next t ∧ t.ctx key = Ctx.goto
          { c with os := rest, hs := c.hs ++ [h], lastEp := ep, st := .run, wait := .none, wlen := 0, skip := false, brkSkip := false }
          (Sys2Proof.Claim.after s x 2) ∧
        h.slot = sl.val ∧ h.c = cb ∧ h.a = a ∧ h.b = b ∧ h.ep = ep ∧ h.need = putsOf sl.val cb ∧ h.puts = [] ∧ h.fin = false ∧
        h.spec = (decide (sl.val = 3) && !bit (s.hcap r.val sl.val) 30 &&
          (decide (c.grp.idx ≠ 0) || (decide (2 ≤ c.grp.flow) && decide (Config.freePick s.freeCount % 2 = 1)))) ∧ h.tag = s.tagOf key c ∧
        (sl.val = 0 → h.inp = some (s.seen key (0x38000 + 0x400 * k.val + 0x200 * c.slot) 256)) ∧
        (sl.val = 1 → b.toNat ≤ 2048 → s.mayRange key c a.toNat b.toNat = true → h.inp = some (s.seen key a.toNat b.toNat)) ∧
        (sl.val = 1 → b.toNat ≤ 2048 → s.mayRange key c a.toNat b.toNat = false → h.inp = none) ∧
        (sl.val = 3 → (t.rank r.val).gq = (s.rank r.val).gq ++ [.cmd key ep (s.tagOf key c)]) ∧
        (sl.val = 2 → (t.rank r.val).sealQ = (s.rank r.val).sealQ ++ [⟨key, ep⟩])) ∧
    (∀ (v : Word) (h : HCmd), Sys2Proof.Claim.Ready s0 s x 1 → mine → c.os = v :: rest → (stkFloors c).1 ≤ rest.length →
      rest.length ≤ (stkLimits key c).1 → (sl.val = 3 → s.present3 r.val = true) → c.cmds sl.val = [h] → h.puts.length < h.need →
      h.fin = false → ∃ t, exec (.hput x sl) s0 = .next t ∧ (t.ctx key).os = rest ∧ (t.ctx key).st = .run ∧
        ∃ h' ∈ (t.ctx key).hs, h' = { h with puts := h.puts ++ [v] }) ∧
    (∀ (h : HCmd) (w : Word) (more : List Word), Sys2Proof.Claim.Ready s0 s x 1 → mine → (stkFloors c).1 ≤ c.os.length →
      c.os.length < (stkLimits key c).1 → (c.cmds sl.val).find? (fun h => h.lvl = c.elev.toNat) = some h →
      (h.rdy = w :: more → (h.fin = false ∨ more ≠ []) → exec (.hget x sl) s0 =
        go s { c with os := w :: c.os, hs := mapFirst (fun p => p = h) (fun p => { p with rdy := more }) c.hs } 1) ∧
      (h.rdy = [w] → h.fin = true → h.err = none → exec (.hget x sl) s0 = go s { c with os := w :: c.os, hs := c.hs.erase h } 1) ∧
      (h.rdy = [] → exec (.hget x sl) s0 =
        .next ((s.setCtx key (Sys2Proof.Claim.asleep c (.again true) (guardLen g + 1))).issued key))) ∧
    (Sys2Proof.Claim.Ready s0 s x 1 → mine →
      ((∀ h ∈ c.cmds sl.val, h.fin = true ∧ h.err = none) → exec (.hwait x sl) s0 = go s c 1 ∧ exec (.hsync x sl) s0 = go s c 1) ∧
      ((∃ h ∈ c.cmds sl.val, h.fin = false) →
        exec (.hwait x sl) s0 = .next ((s.setCtx key (Sys2Proof.Claim.asleep c (.again false) (guardLen g + 1))).issued key) ∧
        exec (.hsync x sl) s0 = .next ((s.setCtx key (Sys2Proof.Claim.asleep c (.again false) (guardLen g + 1))).issued key))) ∧
    (Sys2Proof.Claim.Ready s0 s x 1 → (stkFloors c).1 ≤ c.os.length → c.os.length < (stkLimits key c).1 →
      exec (.hcap x sl) s0 = go s { c with os := s.hcap r.val sl.val :: c.os } 1) ∧
    (∀ a, Sys2Proof.Claim.Ready s0 s x 1 → s.microClean ck = true → c.elev ≠ 0 → c.os = a :: rest → (stkFloors c).1 ≤ rest.length → rest.length ≤ (stkLimits key c).1 →
      s.saveErr key sl.val c a = none →
      (sl.val < 2 → exec (.hsave x sl) s0 = go s { c with os := rest } 1 ∧ exec (.hrest x sl) s0 = go s { c with os := rest } 1) ∧
      (2 ≤ sl.val → co.own sl.val = none → (co.res sl.val = none ∨ co.res sl.val = some k.val) →
        exec (.hsave x sl) s0 = go (s.setCore ck (co.setOwn sl.val none (some k.val))) { c with os := rest } 1) ∧
      (2 ≤ sl.val → (co.res sl.val = some k.val ∨ co.own sl.val = none ∨ co.own sl.val = some k.val) → co.bgt = none → s.spErr = [] →
        ∃ t, exec (.hrest x sl) s0 = .next t ∧ (t.core ck).own sl.val = some k.val ∧ (t.core ck).res sl.val = none ∧
          (t.ctx key).os = rest)) ∧
    (Sys2Proof.Claim.Ready s0 s x 1 → s.microClean ck = true → c.elev = 0 → exec (.hsave x sl) s0 = .next ((s.excAt key 2 c.pc).issued key) ∧
      exec (.hrest x sl) s0 = .next ((s.excAt key 2 c.pc).issued key)) ∧
    (∀ (cb : Byte) (a b : Word) (y : Nat), Sys2Proof.Claim.Ready s0 s x 2 → mine → c.os = b :: a :: rest → (stkFloors c).1 ≤ rest.length →
      rest.length ≤ (stkLimits key c).1 → s.cmdCode r.val sl.val cb = none → c.cmds sl.val = [] → c.lazy = false →
      (∀ h ∈ c.hs, h.slot = sl.val → s.killWaits key h = false) → c.nextEp ≠ none → s.helperBank key sl.val cb c = some y →
      exec (.hcmd x sl cb) s0 = .next ((s.excAt key 5 (BitVec.ofNat 32 y)).issued key)) ∧
    (∀ cb, Sys2Proof.Claim.Ready s0 s x 2 → 2 ≤ sl.val → co.own sl.val ≠ some k.val →
      exec (.hcmd x sl cb) s0 = .next ((s.excAt key 17 (BitVec.ofNat 32 sl.val)).issued key))

/-- PARSE, the HASH and SEAL rows, HELPER_RESULT, KILL_REPORT and the key rows (09 R267–R284). The model's choice: a hash or parse
covers the bytes as they stood at the command's issue (log entry 92), `crc32`, `crc32c`, `siphash`, `aes`, `ghStep` and `ctrMode` are
the algorithms that the manual names only (log entry 16), and a seal's state set is laid out as log entry 30 says. -/
def Obligations.HelperUnitsResult : Prop :=
  ∀ (s : State) (r : Rank) (cn : CoreNo) (k : CtxNo) (h : HCmd) (ep : Nat) (rest : List HRef),
    let key := pk r.val cn.val k.val
    let ck := r.val * 13 + cn.val
    let co := s.core ck
    let q : HRef := ⟨key, ep⟩
    let n := h.b.toNat
    let ended := fun (t : State) (u : State) (sl : Nat) (ws : List Word) (e : Option Byte) => t = u.helperDone q sl ws e
    s.runs r.val = true →
    (co.h1 = q :: rest → s.cmdOf q 1 = some h → s.spErr = [] →
      let u := s.setCore ck { co with h1 := rest }
      let kw := fun (i : Nat) => (s.reg (rkA r.val (0x2010 + 16 * (h.c.toNat / 4 % 4) + 4 * i))).toNat
      (∀ bs, n ≤ 2048 → h.inp = some bs →
        let sip := siphash (BitVec.ofNat 64 (kw 0 + 2 ^ 32 * kw 1)) (BitVec.ofNat 64 (kw 2 + 2 ^ 32 * kw 3)) bs
        (h.c.toNat % 4 = 0 → ∃ t, exec (.hashCrc32 r cn) s = .next t ∧ ended t u 1 [crc32 (h.puts.headD 0) bs] none) ∧
        (h.c.toNat % 4 = 1 → ∃ t, exec (.hashCrc32c r cn) s = .next t ∧ ended t u 1 [crc32c (h.puts.headD 0) bs] none) ∧
        (h.c.toNat % 4 = 2 → ∃ t, exec (.hashSiphash r cn) s = .next t ∧
          ended t u 1 [BitVec.setWidth 32 sip, BitVec.setWidth 32 (sip >>> 32)] none)) ∧
      (∀ code : Byte, ((2048 < n ∧ code = 7) ∨ (n ≤ 2048 ∧ h.inp = none ∧ code = 2)) →
        (h.c.toNat % 4 = 0 → ∃ t, exec (.hashCrc32 r cn) s = .next t ∧ ended t u 1 [0] (some code)) ∧
        (h.c.toNat % 4 = 1 → ∃ t, exec (.hashCrc32c r cn) s = .next t ∧ ended t u 1 [0] (some code)) ∧
        (h.c.toNat % 4 = 2 → ∃ t, exec (.hashSiphash r cn) s = .next t ∧ ended t u 1 [0] (some code)))) ∧
    (co.h0 = q :: rest → s.cmdOf q 0 = some h →
      let u := s.setCore ck { co with h0 := rest }
      (h.a &&& 0xFFFF00C0 ≠ 0 → ∃ t, exec (.parse r cn) s = .next t ∧ ended t u 0 [0] (some 7)) ∧
      (∀ bs, h.a &&& 0xFFFF00C0 = 0 → s.spErr = [] → h.inp = some bs →
        ∃ t w fields, exec (.parse r cn) s = .next t ∧ ended t u 0 (parseStatus w :: fields) none ∧
          w = parseWalk (s.pnode ck) (s.fld (rkA r.val 0x2004) 6 0) bs 16 (h.a.toNat % 64)
                ⟨List.replicate 16 0, h.a.toNat / 256 % 256, 0, 0, 0, 0⟩ ∧
          fields.length = ((List.range 16).filter (fun i => h.b.getLsbD i)).length)) ∧
    ((s.rank r.val).sealQ = q :: rest → s.cmdOf q 2 = some h →
      let u := s.setRank r.val { s.rank r.val with sealQ := rest }
      (∀ cb : Nat, 1 ≤ cb → cb ≤ 4 → h.c.toNat = cb →
        ∃ t v w e, exec (if cb = 1 then .sealStart r else if cb = 2 then .sealAad r else if cb = 3 then .sealData r else .sealFinish r) s = .next t ∧
          ended t v 2 [w] e ∧ (v.rank r.val).sealQ = (u.rank r.val).sealQ) ∧
      (∀ y : Seal, y = Seal.ofWords (tget [] (s.rank r.val).sealSets (s.seatNo r.val cn.val)) → s.spErr = [] →
        let sk := (s.rank r.val).sealKey y.slot
        let hk := aes sk.key (List.replicate 16 0)
        let tag := xorL (ghStep hk y.acc (beBytes 8 (8 * y.aad) ++ beBytes 8 (8 * y.data))) (aes sk.key (y.ctr.take 12 ++ [0, 0, 0, 1]))
        (h.c.toNat = 1 → s.mayRange key (s.ctx key) n 12 = true → n % 4 = 0 → ((s.rank r.val).sealKey (bits h.a 9 0)).valid = true →
          exec (.sealStart r) s = .next ((u.putSeal key ⟨bits h.a 9 0, bit h.a 16, 1,
            ((s.rank r.val).sealKey (bits h.a 9 0)).gen.toNat, u.seen key n 12 ++ [0, 0, 0, 1], List.replicate 16 0, 0, 0⟩).helperDone
              q 2 [0] none)) ∧
        (h.c.toNat = 2 → n ≤ 512 → s.mayRange key (s.ctx key) h.a.toNat n = true → y.phase = 1 → sk.gen.toNat = y.gen →
          exec (.sealAad r) s = .next ((u.putSeal key
            { y with acc := ghash hk y.acc (u.seen key h.a.toNat n), aad := y.aad + n, phase := if n % 16 = 0 then 1 else 2 }).helperDone
              q 2 [0] none)) ∧
        (h.c.toNat = 3 → n ≤ 2048 → s.mayRange key (s.ctx key) h.a.toNat n = true → (y.phase = 1 ∨ y.phase = 2) → sk.gen.toNat = y.gen →
          let bs := u.seen key h.a.toNat n
          let (out, ctr) := ctrMode sk.key y.ctr (blocks16 bs)
          let y1 : Seal := { y with ctr := ctr, data := y.data + n, phase := if n % 16 = 0 then 2 else 3 }
          exec (.sealData r) s = .next (((u.portW key h.a.toNat out).putSeal key
            { y1 with acc := ghash hk y.acc (if y.dec then bs else out) }).helperDone q 2 [0] none)) ∧
        (h.c.toNat = 4 → s.mayRange key (s.ctx key) h.a.toNat 16 = true → h.a.toNat % 4 = 0 → y.phase ≠ 0 → sk.gen.toNat = y.gen →
          (y.dec = false → exec (.sealFinish r) s =
            .next (((u.portW key h.a.toNat tag).putSeal key { y with phase := 0 }).helperDone q 2 [0] none)) ∧
          (y.dec = true → exec (.sealFinish r) s =
            .next ((u.putSeal key { y with phase := 0 }).helperDone q 2 [if u.seen key h.a.toNat 16 = tag then 0 else 1] none))))) ∧
    (∀ sl : Fin 4, ((s.ctx key).cmds sl.val).find? (fun h => !h.fin && !h.res.isEmpty) = some h →
      exec (.helperResult r cn k sl) s = .next ((s.modCmd key (fun p => p = h) (fun _ =>
        { h with rdy := h.rdy ++ h.res.take 1, res := h.res.drop 1, fin := h.last && decide (h.res.length = 1) })).wakeCore
          (coreOf key))) ∧
    (∀ sl : Fin 4, (s.ctx key).hs.find? (fun h => h.slot = sl.val && h.killed && !s.killWaits key h) = some h →
      exec (.killReport r cn k sl) s = .next ((s.setCtx key { s.ctx key with hs := (s.ctx key).hs.erase h }).wakeCore (coreOf key))) ∧
    (∀ (q : Req) (slot : Fin 1024) (size : Bool), Sys2Proof.Claim.MayWrite s q (rkA r.val 0x2050) →
      (∃ t, exec (.sealKeyLoad q r slot size) s = .next t ∧ ((t.rank r.val).sealKey slot.val).valid = true ∧
        ((t.rank r.val).sealKey slot.val).gen = ((s.rank r.val).sealKey slot.val).gen + 1 ∧
        ((t.rank r.val).sealKey slot.val).key.length = (if size then 32 else 16) ∧ ∀ i, i < 8 → t.reg (rkA r.val (0x2060 + 4 * i)) = 0) ∧
      (∃ t, exec (.sealKeyInvalidate q r slot) s = .next t ∧ ((t.rank r.val).sealKey slot.val).valid = false ∧
        ((t.rank r.val).sealKey slot.val).gen = ((s.rank r.val).sealKey slot.val).gen + 1 ∧ ∀ i, i < 8 → t.reg (rkA r.val (0x2060 + 4 * i)) = 0))

/-- The guest rows (09 R285–R291). A rank that leaves ON presents nothing (01 R21). With no guest in its bay every incomplete command of
slot 3 has its last word, with code 0xFE (R291; which word that is: the model's choice, log entry 121). -/
def Obligations.GuestPortResult : Prop :=
  ∀ (s : State) (r : Rank),
    let x := s.rank r.val
    (s.runs r.val = true → s.leaving r.val = false →
      (∀ g rest, x.gq = g :: rest → ∃ t, exec (.guestIssue r) s = .next t ∧ (t.rank r.val).gq = rest ∧
        (∀ key ep tag h, g = .cmd key ep tag →
          (s.ctx key).hs.find? (fun h => h.slot = 3 && h.ep = ep && !h.fin && !h.accepted && (!h.killed || s.killWaits key h)) = some h →
          { h with accepted := true } ∈ (t.ctx key).hs ∧ (h.spec = true → h.sq = false → (⟨key, ep⟩ : HRef) ∈ (t.rank r.val).gcmt))) ∧
      (∀ q rest, x.gkill = q :: rest → ∃ t, exec (.guestKillNotice r) s = .next t ∧ (t.rank r.val).gkill = rest ∧
        ((∀ tag, GXfer.cmd q.ctx q.ep tag ∉ x.gq) → (t.rank r.val).gq = x.gq) ∧
        (∀ tag, GXfer.cmd q.ctx q.ep tag ∉ (t.rank r.val).gq)) ∧
      (∀ q rest, x.gcmt = q :: rest → ∃ t, exec (.guestCommitNotice r) s = .next t ∧ (t.rank r.val).gcmt = rest) ∧
      (∀ (seat : Seat) (k : CtxNo) (ep : Fin 16) (d : Word) (last err : Bool) (code : Byte) (c : Nat) (h : HCmd),
        s.pins.gstPg = true → s.seatCore r.val seat.val = some c →
        (s.ctx (pk r.val c k.val)).hs.find? (fun h => h.slot = 3 && !h.killed && h.ep = ep.val && !h.fin && !h.last && h.accepted) = some h →
        h.cnt < 16 → ∃ t h', exec (.guestResult r seat k ep d last err code) s = .next t ∧ h' ∈ (t.ctx (pk r.val c k.val)).hs ∧
          h'.res = h.res ++ [d] ∧ h'.last = last ∧ (h'.err.isSome = (last && err))) ∧
      (∀ (seat : Seat) (w : Fin 16) (d : Word), s.pins.gstPg = true → ∃ t, exec (.guestMirrorSave r seat w d) s = .next t ∧
        (tget [] (t.rank r.val).mirror seat.val).getD w.val 0 = d ∧ { t with ranks := s.ranks } = s) ∧
      (∀ (tag : Half) (code : Byte), s.pins.gstPg = true → (s.log (rkA r.val 0x2090)).ents.length < 8 →
        ∃ t e, exec (.guestLateError r tag code) s = .next t ∧
          (t.log (rkA r.val 0x2090)).ents = (s.log (rkA r.val 0x2090)).ents ++ [e] ∧ e.toNat % 65536 = tag.toNat ∧
          e.toNat / 65536 % 256 = code.toNat ∧ t.ctr (rkA r.val 0x160) = s.ctr (rkA r.val 0x160) + 1 ∧
          (∀ en, tfind x.entries (tag.toNat % 128) = some en → en.phase ≠ .mark →
            (tget 0 x.gens (tag.toNat % 128)).toNat = tag.toNat / 128 →
            ∃ en', tfind (t.rank r.val).entries (tag.toNat % 128) = some en' ∧ en'.md.taint = true))) ∧
    (s.pins.gstPg = false → ∀ (seat : Seat) (k : CtxNo) (ep w : Fin 16) (d : Word) (last err : Bool) (code : Byte) (tag : Half),
      exec (.guestResult r seat k ep d last err code) s = .next s ∧ exec (.guestMirrorSave r seat w d) s = .next s ∧
      exec (.guestLateError r tag code) s = .next s) ∧
    (s.leaving r.val = true → exec (.guestIssue r) s = .next s ∧ exec (.guestKillNotice r) s = .next s ∧ exec (.guestCommitNotice r) s = .next s) ∧
    (∀ pg, ∃ t, exec (.gstPgChange pg) s = .next t ∧ t.pins = { s.pins with gstPg := pg } ∧
      (pg = false → s.isOn r.val = true → (t.rank r.val).gq = [] ∧ (t.rank r.val).gkill = [] ∧ (t.rank r.val).gcmt = [] ∧
        ∀ j, j < 117 → ∀ h ∈ (t.ctx (r.val * 117 + j)).hs, h.slot = 3 → h.killed = false → h.fin = false →
          h.last = true ∧ h.err = some 0xFE))

/-! ### Contexts and dispatch -/

/-- DISPATCH_SELECT, CONTEXT_START, HEAD_SLOT_WRITTEN, WAIT_EXPIRY and LAZY_SAVE (03 R74–R81, 05 R167, 08 R253, 11 R336). SEQ begins at 0
where the ledger holds no entry of the attempt's key; that it goes on behind such entries is the model's choice (log entry 123). -/
def Obligations.ContextLifeCycle : Prop :=
  ∀ (s : State) (r : Rank) (cn : CoreNo) (k : CtxNo),
    let key := pk r.val cn.val k.val
    let ck := coreOf key
    let c := s.ctx key
    (∀ (i t k' : Nat) (e : REntry) (ks : List Nat), s.wouldSelect r.val = some (.entry i, t, cn.val) → (s.rank r.val).staged cn.val < 2 →
      s.eligOf r.val t = k' :: ks → tfind (s.rank r.val).entries i = some e →
      ∃ u sl, exec (.dispatchSelect r) s = .next u ∧ sl < 2 ∧ (s.rank r.val).slotBound cn.val k' sl = false ∧
        (u.ctx (pk r.val cn.val k')).st = .loading ∧ (u.ctx (pk r.val cn.val k')).entry = some i ∧ (u.ctx (pk r.val cn.val k')).slot = sl ∧
        tfind (u.rank r.val).entries i = some { e with phase := .inCtx cn.val k' sl } ∧ (u.rank r.val).lastSeat = t ∧
        (u.rank r.val).staging = (s.rank r.val).staging ++ [(cn.val, k', sl)] ∧
        u.ctr (rkA r.val 0x100) = s.ctr (rkA r.val 0x100) + 1) ∧
    (s.runs r.val = true →
      (c.st = .loading → s.heldEv key = false → s.microClean ck = true → (∀ b, b < 8 → s.bankOwner ck (slotA k.val c.slot + 8 * b) = 0) →
        exec (.contextStart r cn k) s = .next (s.setCtx key
          { Ctx.init key with
            st := .run, pc := s.vectorOf key 0, a := BitVec.ofNat 32 (0x38000 + 0x400 * k.val + 0x200 * c.slot), entry := c.entry,
            slot := c.slot, lastSlot := c.lastSlot, lastEp := c.lastEp, hs := c.hs, seq := s.keySeq r.val (s.mdOf key) })) ∧
      ((∀ e ∈ s.led.ent, e.2.keyed (s.mdOf key).lane (s.mdOf key).pip r.val (s.mdOf key).attempt = false) → (s.rank r.val).out = [] →
        s.keySeq r.val (s.mdOf key) = 0) ∧
      (∀ sl : Fin 2, ∃ u, exec (.headSlotWritten r cn k sl) s = .next u ∧
        u.rank r.val = { s.rank r.val with staging := (s.rank r.val).staging.erase (cn.val, k.val, sl.val) } ∧
        (∀ j, j ≠ r.val → u.rank j = s.rank j) ∧ { u with ranks := s.ranks } = s) ∧
      (∀ f, c.st = .sleep → s.heldEv key = false → c.wait = .timer 0 f → f = false → c.v11pend = false → c.trig = false →
        exec (.waitExpiry (.pkt r cn k)) s = .next (Sys2Proof.Claim.wakes s key (c.os.drop 1))) ∧
      (∀ sl, c.st = .run → c.wait = .lazy sl → (∀ h ∈ c.cmds sl, h.fin = true) → c.v11pend = false → c.trig = false →
        s.microClean ck = true → s.portBad key (c.msp.toNat + 0x18) 0x68 = none →
        ∃ u, exec (.lazySave r cn k) s = .next u ∧ u.ctx key = { c with lazy := false, useq := none, wait := .none }))

/-! ### Links, order gate, exception queues -/

/-- HOP_TRANSFER, SKIP_TOKEN and VERDICT_TOKEN (03 R72, R73, R83, R91, R92; 04 R109). -/
def Obligations.LinkTransfers : Prop :=
  ∀ (s : State) (l : Link) (rest : List LinkItem),
    let k := linkKey l
    let r := linkTo k
    s.linkRuns k = true →
    (∀ (p : Pkt) (reps : List Replica) (whole : Bool), s.link k = .pkt p reps whole :: rest → s.bypassWaits k = false → s.ing.vmsgs = [] →
      (r < 12 → 2 ≤ s.freeReplay r → ∃ t i e, exec (.hopTransfer l) s = .next t ∧ t.link k = rest ∧ i < 128 ∧
        tfind (s.rank r).entries i = none ∧ tfind (t.rank r).entries i = some e ∧ e.pkt.head = p.head ∧
        e.md = { p.md with attempt := 0 } ∧ e.reps = reps ∧ e.phase = (if r = 0 ∧ whole = false then .filling else .queued) ∧
        (∀ j, j ≠ i → tfind (t.rank r).entries j = tfind (s.rank r).entries j) ∧ (∀ j, j ≠ r → t.rank j = s.rank j)) ∧
      (r = 12 → reps = [] → s.chan p.md.egCh.toNat = 2 → ∃ t f, exec (.hopTransfer l) s = .next t ∧ t.link k = rest ∧
        t.eg.frames = s.eg.frames ++ [f] ∧ f.md = p.md ∧ f.head = p.head ∧ f.ch = p.md.egCh.toNat ∧ f.lane = p.md.lane ∧ f.sent = 0)) ∧
    (∀ lane pip, s.link k = .skip lane pip :: rest → r < 12 → pipBefore pip ((s.rank r).nextOf lane) = false → (s.rank r).storeFill < 256 →
      ∃ t m, exec (.skipToken l) s = .next t ∧ t.link k = rest ∧ (t.rank r).marks = (s.rank r).marks ++ [m] ∧ m.lane = lane ∧
        m.pip = pip ∧ m.own = false ∧ m.held = none) ∧
    (∀ lane pip v len i e, s.link k = .verdict lane pip v len :: rest → r < 12 → v ≠ 2 → (s.rank r).find lane pip = some (i, e) →
      e.phase = .queued → e.md.verdict = 0 →
      ∃ t e', exec (.verdictToken l) s = .next t ∧ t.link k = rest ∧
        tfind (t.rank r).entries i = (tfind (s.rank r).entries i).map (fun _ => e') ∧
        (tfind (s.rank r).entries i = some e → e'.md = { e.md with verdict := v, len := len }))

/-- GATE_RELEASE and GATE_PASS_MARK (03 R86–R91). -/
def Obligations.OrderGateResult : Prop :=
  ∀ (s : State) (r : Rank) (gi : GItem), s.gateNext r.val = some gi →
    let x := s.rank r.val
    (gi.mark = false → ∃ e, (gi.idx, e) ∈ x.entries ∧ (e.md.reinj = true ∨ pipBefore (x.nextOf e.md.lane) e.md.pip = false)) ∧
    (gi.mark = true → ∃ m ∈ x.marks, m.seq = gi.idx ∧ m.pip = x.nextOf m.lane) ∧
    (∀ e, gi.mark = false → tfind x.entries gi.idx = some e → gatePunt r.val (s.entryPkt r.val e) = none →
      ∃ t, exec (.gateRelease r) s = .next t ∧ tfind (t.rank r.val).entries gi.idx = none ∧
        t.link (outLink r.val e.md.lane) = s.link (outLink r.val e.md.lane) ++ [.pkt (s.entryPkt r.val e) e.reps true] ∧
        (t.rank r.val).out = x.out ++ [.release e.md.lane e.md.pip e.md.attempt e.md.verdict] ∧
        (t.rank r.val).nextOf e.md.lane =
          (if e.md.reinj = false ∧ e.md.pip = x.nextOf e.md.lane then x.nextOf e.md.lane + 1 else x.nextOf e.md.lane) ∧
        t.ctr (rkA r.val 0x108) = s.ctr (rkA r.val 0x108) + 1 ∧ (∀ j, j ≠ r.val → t.rank j = s.rank j)) ∧
    (∀ m, gi.mark = true → x.marks.find? (fun m => m.seq = gi.idx) = some m →
      ∃ t, exec (.gatePassMark r) s = .next t ∧ (∀ y ∈ (t.rank r.val).marks, y.seq ≠ gi.idx) ∧
        (t.rank r.val).nextOf m.lane = x.nextOf m.lane + 1 ∧
        (r.val ≠ 11 → t.link (outLink r.val m.lane) = s.link (outLink r.val m.lane) ++ [.skip m.lane m.pip]) ∧
        (r.val = 11 → t.links = s.links))

/-- RANK_REINJ with OP 1 and 2 (03 R101–R103). -/
def Obligations.ReinjectCommands : Prop :=
  ∀ (s : State) (q : Req) (r : Rank) (idx : Fin 64) (target : Fin 16), Sys2Proof.Claim.MayWrite s q (rkA r.val 0x18) →
    let st := fun (op tg n : Nat) => BitVec.ofNat 32 (n * 2 ^ 25 + (if n = 0 then 0 else 2 ^ 24) + op * 2 ^ 16 + tg * 2 ^ 8 + idx.val)
    (s.reinjReason r.val idx.val target.val true = 0 →
      ∃ t, exec (.rankReinjReinject q r idx target) s = .next t ∧ t.reg (rkA r.val 0x1C) = st 1 target.val 0 ∧
        (t.rank target.val).reinjQ = (s.rank target.val).reinjQ ++ [(r.val, idx.val)] ∧
        { t with regs := s.regs, ranks := s.ranks } = Sys2Proof.Claim.acked q (rkA r.val 0x18) s) ∧
    (∀ n, s.reinjReason r.val idx.val target.val true = n → n ≠ 0 →
      exec (.rankReinjReinject q r idx target) s =
        .next (Sys2Proof.Claim.acked q (rkA r.val 0x18) (s.setReg (rkA r.val 0x1C) (st 1 target.val n)))) ∧
    (∀ e, s.isHeld r.val idx.val = true → tfind (s.rank r.val).exc idx.val = some e →
      ∃ t, exec (.rankReinjDrop q r idx) s = .next t ∧ t.reg (rkA r.val 0x1C) = st 2 0 0 ∧
        tfind (t.rank r.val).exc idx.val = none ∧
        (e.md.chain = none → t.buf = s.buf) ∧ (∀ h, e.md.chain = some h → ∃ it ∈ t.buf.freeq, it.h = h)) ∧
    (s.isHeld r.val idx.val = false →
      exec (.rankReinjDrop q r idx) s =
        .next (Sys2Proof.Claim.acked q (rkA r.val 0x18) (s.setReg (rkA r.val 0x1C) (st 2 0 1))) ∧
      s.reinjReason r.val idx.val target.val true = 1)

/-! ### Verdicts and the ledger -/

/-- VERDICT_MESSAGE and VERDICT_ARRIVE (04 R107–R113, R130). -/
def Obligations.VerdictMessages : Prop :=
  ∀ (s : State) (lane : Lane) (pip : Pip),
    (∀ w, s.ing.vq.find? (fun w => decide (w.lane = lane) && decide (w.pip = pip)) = some w → s.runs dIn = true → s.leaving dIn = false →
      s.tailOpen lane pip = false →
      ∃ t, exec (.verdictMessage lane pip) s = .next t ∧
        t.ing.vmsgs = s.ing.vmsgs ++ [⟨lane, pip, w.v, w.len, List.range 12, true, List.range 12, true⟩] ∧
        (∀ y, y ∈ t.ing.vq ↔ y ∈ s.ing.vq ∧ ¬ (y.lane = lane ∧ y.pip = pip))) ∧
    (∀ m, s.ing.vmsgs.find? (fun m => decide (m.lane = lane) && decide (m.pip = pip)) = some m →
      (∀ r : Rank, r.val ∈ m.ranks → s.runs r.val = true → s.leaving r.val = false →
        ∃ t more, exec (.verdictArrive (.rank r) lane pip) s = .next t ∧
          (∀ m' ∈ t.ing.vmsgs, m'.lane = lane → m'.pip = pip → r.val ∉ m'.ranks) ∧
          (t.rank r.val).out = (s.rank r.val).out ++ .vmark lane pip :: more ∧
          (∀ i e, (s.rank r.val).find lane pip = some (i, e) → tfind (s.rank r.val).entries i = some e → e.phase = .queued →
            e.md.verdict = 0 →
            (m.v ≠ 2 → more = [] ∧ ∃ e', tfind (t.rank r.val).entries i = some e' ∧ e'.md = { e.md with verdict := m.v, len := m.len }) ∧
            (m.v = 2 → ∀ e', tfind (t.rank r.val).entries i = some e' → e'.phase = .mark))) ∧
      (∀ r : Rank, r.val ∉ m.ranks → exec (.verdictArrive (.rank r) lane pip) s = .next s) ∧
      (m.eg = true → s.runs dOut = true →
        ∃ t, exec (.verdictArrive .egress lane pip) s = .next t ∧
          (∀ m' ∈ t.ing.vmsgs, m'.lane = lane → m'.pip = pip → m'.eg = false) ∧
          ∀ f ∈ t.eg.frames, f.md.lane = lane → f.md.pip = pip → f.md.verdict ≠ 0 ∨ m.v = 0) ∧
      (m.eg = false → exec (.verdictArrive .egress lane pip) s = .next s) ∧
      (∀ r : Rank, r.val ∈ m.excq → ∃ t, exec (.verdictArrive (.excq r) lane pip) s = .next t ∧
        (∀ m' ∈ t.ing.vmsgs, m'.lane = lane → m'.pip = pip → r.val ∉ m'.excq) ∧
        (∀ k q, (s.rank r.val).exc.find? (fun e => decide (e.2.md.lane = lane) && decide (e.2.md.pip = pip) &&
            decide (e.2.md.verdict = 0)) = some (k, q) →
          tfind (t.rank r.val).exc k = some { q with md := { q.md with verdict := m.v, len := m.len } })) ∧
      (∀ r : Rank, r.val ∉ m.excq → exec (.verdictArrive (.excq r) lane pip) s = .next s)) ∧
    (s.ing.vmsgs = [] → ∀ u, exec (.verdictArrive u lane pip) s = .next s)

/-- The bytes of `n` rows from row `row` of a tile. -/
def Sys2Proof.Claim.rows (s : State) (tile row n : Nat) : List Byte :=
  ((List.range n).map (fun i => mread 0 s.tile (tlA tile (row + i) 0) 32)).flatten

/-- One of these rows has an uncorrectable error. -/
def Sys2Proof.Claim.badRows (s : State) (tile row n : Nat) : Bool :=
  (List.range n).any (fun i => (List.range 4).any (fun l => decide (tfind s.tileErr (laneKey tile (row + i) l) = some true)))

/-- What a read of these rows gives: their bytes, those of the other tile where `alt` says that a second copy in use is there and
these rows have an uncorrectable error, or nothing (10 R318). -/
def Sys2Proof.Claim.readOf (s : State) (alt : Bool) (tile row n : Nat) : Option (List Byte) :=
  if Sys2Proof.Claim.badRows s tile row n = false then some (Sys2Proof.Claim.rows s tile row n)
  else if alt = true ∧ Sys2Proof.Claim.badRows s (otherTile tile) row n = false then
    some (Sys2Proof.Claim.rows s (otherTile tile) row n)
  else none

/-- Entry `e` of a bank as the engines read it in the copy that writes act on. -/
def Sys2Proof.Claim.cell (s : State) (t : Nat) (bank : Bool) (e : Nat) : Option (List Byte) :=
  let p := s.entryAt t bank e
  let w := s.wrTile t p.1
  (Sys2Proof.Claim.readOf s (s.altOk t w) w p.2.1 (s.tRows t)).map (fun b => (b.drop p.2.2).take (s.tW t))

/-- Tile memory holds the bytes `bs` from byte `off` of row `row` of a tile, and elsewhere what it held before. -/
def Sys2Proof.Claim.wrote (s u : State) (tile row off : Nat) (bs : List Byte) : Prop :=
  ∀ x, mget 0 u.tile x = if tlA tile row off ≤ x ∧ x < tlA tile row off + bs.length then bs.getD (x - tlA tile row off) 0
                         else mget 0 s.tile x

/-- Entry `e` of a bank begins with the bytes `bs`, in the copy that writes act on, and no other byte of a tile has changed. -/
def Sys2Proof.Claim.cellWrote (s u : State) (t : Nat) (bank : Bool) (e : Nat) (bs : List Byte) : Prop :=
  let p := s.entryAt t bank e
  Sys2Proof.Claim.wrote s u (s.wrTile t p.1) p.2.1 p.2.2 bs

/-- What the commit of entry `e` leaves in its table (04 R124, 10 R302, R306, R307). -/
def Sys2Proof.Claim.commits (s u : State) (e : LEntry) : Prop :=
  let t := e.table.toNat
  let bank := s.bankOf t e.round
  let p := fun (i n : Nat) => leNat ((e.payload.drop i).take n)
  let lost := u.tile = s.tile ∧ u.ctr (tbA 0x810) = s.ctr (tbA 0x810) + 1
  let rmw := fun (f : List Byte → List Byte) => match Sys2Proof.Claim.cell s t bank (p 0 4) with
    | some c => Sys2Proof.Claim.cellWrote s u t bank (p 0 4) (f c)
    | none => lost
  (e.op = 0 → rmw (fun c => leBytes 8 (leNat (c.take 8) + p 4 4) ++ leBytes 8 (leNat ((c.drop 8).take 8) + p 8 4) ++ c.drop 16)) ∧
  (e.op = 1 → rmw (fun c => (((Meter.ofBytes c).refill (BitVec.ofNat 32 (p 8 4))).charge (p 4 2)).put c)) ∧
  (e.op = 2 →
    let key := e.payload.take (s.tParam t)
    let xs := (s.cands t key).map (fun w => (w, Sys2Proof.Claim.cell s t bank w))
    let valid := fun (c : List Byte) => (c.getD (s.tW t - 1) 0).getLsbD 7
    let hit := fun (c : List Byte) => valid c && decide ((c.drop (s.dataLen t)).take (s.tParam t) = key)
    ((∃ x ∈ xs, x.2 = none) → lost) ∧
    ((∀ x ∈ xs, x.2 ≠ none) →
      ((∃ x ∈ xs, x.2.any hit = true) → u.tile = s.tile ∧ u.ctr (ldA 0x130) = s.ctr (ldA 0x130) + 1) ∧
      ((∀ x ∈ xs, x.2.any hit = false) →
        (∀ w c, xs.find? (fun x => x.2.any (fun c => !valid c)) = some (w, c) →
          Sys2Proof.Claim.cellWrote s u t bank w
            (fit (s.tW t - s.tParam t - 4) ((e.payload.drop 16).take 4) ++ fit (s.tParam t) key ++ [0, 0, 0, 0x80])) ∧
        ((∀ x ∈ xs, x.2.any valid = true) → u.tile = s.tile ∧ u.ctr (ldA 0x138) = s.ctr (ldA 0x138) + 1 ∧
          u.ctr (tbA 0x818) = s.ctr (tbA 0x818) + 1)))) ∧
  (e.op = 3 →
    let n := tget 0 s.tb.rnext t
    Sys2Proof.Claim.cellWrote s u t bank n (fit 20 (e.payload.take 20) ++ [e.lane] ++ leBytes 2 e.pip.toNat ++
      [BitVec.ofNat 8 (e.rank + 16 * e.attempt.toNat)] ++ fit 4 (e.payload.drop 20) ++ [0, 0, 0, 0]) ∧
    tget 0 u.tb.rnext t = if n + 1 < s.tLen t then n + 1 else 0)

/-- The LEDGER rows (04 R110–R132), with what a commit leaves in the table. That an entry of a mirrored table is written in the copy
in use first and in the other copy by a request of its own, and stays held till then, is the model's reading (log entries 50 and
106); such an entry is committed already and is discarded no more. A room that a sleeper takes is log entry 81's. -/
def Obligations.LedgerResult : Prop :=
  ∀ (s : State) (r : Rank), s.ledOn = true →
    let front := fun (m : LMsg) => s.front r.val = some m
    let held := fun (e : LEntry) => e.used = true ∧ e.com = false
    let keyed := fun (e : LEntry) (lane : Lane) (pip : Pip) (a : BitVec 4) => e.lane = lane ∧ e.pip = pip ∧ e.rank = r.val ∧ e.attempt = a
    (∀ (idx : Fin 16384) e, tfind s.led.ent idx.val = none → front (.entry e) →
      ∃ t, exec (.ledgerEntry r idx) s = .next t ∧ tfind t.led.ent idx.val = some e ∧ t.ctr (ldA 0x100) = s.ctr (ldA 0x100) + 1 ∧
        (t.rank r.val).out = eraseFirst (fun m => !m.isMark) (s.rank r.val).out ∧
        (∀ j, j ≠ idx.val → tfind t.led.ent j = tfind s.led.ent j)) ∧
    (∀ (idx : Fin 16384) key e, tfind s.led.ent idx.val = none → s.front r.val = none → s.runs r.val = true →
      s.leaving r.val = false → s.ledgerFull r.val = false → s.ledSleeper r.val = some (key, e) →
      ∃ t, exec (.ledgerEntry r idx) s = .next t ∧
        tfind t.led.ent idx.val = some { e with vgood := decide ((s.mdOf key).verdict = 1) } ∧
        (t.ctx key).wait = .none ∧ (t.ctx key).seq = (s.ctx key).seq + 1) ∧
    (∀ lane pip a v, front (.release lane pip a v) →
      ∃ t, exec (.ledgerRelease r) s = .next t ∧
        (v ≠ 2 → t.led.ent = s.led.ent.map (fun p => (p.1,
          if p.2.lane = lane ∧ p.2.pip = pip ∧ p.2.rank = r.val ∧ p.2.attempt = a then
            { p.2 with rel := true, vgood := (p.2.vgood || decide (v = 1)) } else p.2))) ∧
        (v = 2 → ∀ p, p ∈ t.led.ent ↔ p ∈ s.led.ent ∧ ¬ (held p.2 ∧ keyed p.2 lane pip a))) ∧
    (∀ lane pip a, front (.discard lane pip a) →
      ∃ t, exec (.ledgerDiscard r) s = .next t ∧ ∀ p, p ∈ t.led.ent ↔ p ∈ s.led.ent ∧ ¬ (held p.2 ∧ keyed p.2 lane pip a)) ∧
    (∀ lane pip, front (.forfeit lane pip) →
      ∃ t, exec (.ledgerForfeit r) s = .next t ∧
        ∀ p, p ∈ t.led.ent ↔ p ∈ s.led.ent ∧ ¬ (held p.2 ∧ p.2.lane = lane ∧ p.2.pip = pip ∧ p.2.rank = r.val)) ∧
    (∀ pre m post, s.ing.flush = pre ++ m :: post → (∀ y ∈ pre, y.ledger = false) → m.ledger = true →
      (m.ranks = [] → s.ing.vmsgs.any (fun m => m.ledger) = false → (∀ j, j < 12 → flushLeads (s.rank j).out = true) →
        ∃ t, exec .ledgerFlush s = .next t ∧ (∀ p, p ∈ t.led.ent ↔ p ∈ s.led.ent ∧ ¬ (held p.2 ∧ p.2.vgood = false)) ∧
          t.ing.flush = (pre ++ { m with ledger := false } :: post).filter (fun m => !m.done) ∧
          (∀ j, (t.rank j).out = eraseFirst (· == LMsg.fmark) (s.rank j).out)) ∧
      (m.ranks ≠ [] ∨ s.ing.vmsgs.any (fun m => m.ledger) = true → exec .ledgerFlush s = .next s)) ∧
    (∀ m, s.ledMsg = some m →
      ∃ t, exec .ledgerVerdict s = .next t ∧
        (m.v = 2 → ∀ p, p ∈ t.led.ent ↔ p ∈ s.led.ent ∧ ¬ (held p.2 ∧ p.2.lane = m.lane ∧ p.2.pip = m.pip)) ∧
        (m.v ≠ 2 → t.led.ent = s.led.ent.map (fun p => (p.1,
          if p.2.lane = m.lane ∧ p.2.pip = m.pip then { p.2 with vgood := true } else p.2)))) ∧
    (∀ (idx : Fin 16384) e, tfind s.led.ent idx.val = some e →
      ((e.due = false ∨ s.notFirst e = true) → exec (.ledgerCommit idx) s = .next s) ∧
      (e.due = true → s.notFirst e = false → tfind s.ledErr idx.val = some true →
        ∃ t, exec (.ledgerCommit idx) s = .next t ∧ tfind t.led.ent idx.val = none ∧ t.ctr (ldA 0x128) = s.ctr (ldA 0x128) + 1) ∧
      (e.due = true → s.notFirst e = false → tfind s.ledErr idx.val = none →
        s.tDead e.table.toNat (s.bankOf e.table.toNat e.round) = true →
        ∃ t, exec (.ledgerCommit idx) s = .next t ∧ tfind t.led.ent idx.val = none ∧ t.ctr (tbA 0x810) = s.ctr (tbA 0x810) + 1) ∧
      (e.due = true → s.notFirst e = false → tfind s.ledErr idx.val = none →
        s.tDead e.table.toNat (s.bankOf e.table.toNat e.round) = false → s.winsAll 14 (s.commitTiles e) = true →
        (e.op = 2 → s.seqBusy e.table.toNat (s.bankOf e.table.toNat e.round) = false) → s.tile.wf 0 = true →
        (∀ x ∈ s.commitTiles e, x < 32) →
        ∃ t, exec (.ledgerCommit idx) s = .next t ∧ Sys2Proof.Claim.commits s t e ∧
          (∀ e', tfind t.led.ent idx.val = some e' → e' = { e with com := true } ∧ s.tMirror e.table.toNat = true)))

/-! ### Ingress, egress, channels, the buffer port -/

/-- INGRESS_SEGMENT on either lane, PAUSE_EVENT and IN_PAUSE_NL_CHANGE (02 R34–R52). That IN_BYTES takes a frame's bytes at its end
or truncation is the model's choice (log entry 47); what a SOP meets before the channel's first pause event is log entry 84's. -/
def Obligations.IngressFrames : Prop :=
  (∀ (s : State) l0 l1, s.inReady = false → exec (.ingressSegment l0 l1) s = .next s) ∧
  (∀ (s : State) (g : Seg), s.inReady = true →
    let ch := g.ch.toNat
    let lane := s.laneOf ch
    let n := if g.eop = true ∧ g.bytes ≠ 0 then g.bytes.toNat else 64
    let bs := (leBytes 64 g.data.toNat).take n
    let held := fun p => s.unkeep.handles p
    (g.sop = false → s.opn ch = none →
      ∃ t, exec (.ingressSegment (some g) none) s = .next t ∧ t.ctr (inA 0x428) = s.ctr (inA 0x428) + 1 ∧ t.links = s.links ∧
        t.ing.opn = s.ing.opn) ∧
    (∀ a, g.sop = true → s.opn ch = none → s.sopRefused ch g none = some a →
      ∃ t, exec (.ingressSegment (some g) none) s = .next t ∧ t.ctr a = s.ctr a + 1 ∧ t.links = s.links ∧
        t.ctr (inA 0x428) = s.ctr (inA 0x428) + (if g.eop = false ∧ g.bytes ≠ 0 then 1 else 0) ∧
        t.ing.lanePip = s.ing.lanePip ∧ t.opn ch = (if g.eop then none else some .skip)) ∧
    (s.blk = 2 → g.sop = true → s.opn ch = none → s.sopRefused ch g none = none →
      (g.eop = true →
        ∃ t p, exec (.ingressSegment (some g) none) s = .next t ∧ t.link 0 = s.link 0 ++ [.pkt p [] true] ∧
          p.head = fit 256 bs ∧ p.md.inCh.toNat = ch ∧ p.md.lane = lane ∧ p.md.pip = tget 0 s.ing.lanePip lane.toNat ∧
          p.md.verdict = 1 ∧ p.md.len.toNat = n ∧ p.md.tail = noBuf ∧ p.md.attempt = 0 ∧ p.md.round = s.tb.cur ∧
          p.md.tsNs.toNat = s.copyNs % 1000000000 ∧ p.md.tsSec = BitVec.ofNat 48 (s.copyNs / 1000000000) ∧
          tget 0 t.ing.lanePip lane.toNat = tget 0 s.ing.lanePip lane.toNat + 1 ∧ t.ing.opn = tdel s.ing.opn ch ∧
          t.ctr (inA 0x400) = s.ctr (inA 0x400) + 1 ∧ t.ctr (inA 0x408) = s.ctr (inA 0x408) + BitVec.ofNat 64 n) ∧
      (∀ h hs, g.eop = false → s.fallBack ch = false → held (s.poolOf ch) = h :: hs →
        ∃ t p f, exec (.ingressSegment (some g) none) s = .next t ∧ t.link 0 = s.link 0 ++ [.pkt p [] false] ∧
          p.head = fit 256 bs ∧ p.md.inCh.toNat = ch ∧ p.md.lane = lane ∧ p.md.pip = tget 0 s.ing.lanePip lane.toNat ∧
          p.md.verdict = 0 ∧ p.md.tail = h ∧ t.handles (s.poolOf ch) = hs ∧ t.ctr (ldA 0x148) = s.ctr (ldA 0x148) + 1 ∧
          t.opn ch = some f ∧ f.dispatched = true ∧ f.bytes = 64 ∧ f.handles = [h] ∧
          tget 0 t.ing.lanePip lane.toNat = tget 0 s.ing.lanePip lane.toNat + 1) ∧
      (g.eop = false → s.fallBack ch = false → held (s.poolOf ch) = [] → s.poolEmpty (s.poolOf ch) = false →
        ∃ t, exec (.ingressSegment (some g) none) s = .next t ∧ t.ing.waitCh = some ch ∧ t.ing.opn = s.ing.opn ∧
          t.ing.lanePip = s.ing.lanePip ∧ { t with ing := s.ing, buf := s.buf } = s)) ∧
    (∀ f, s.blk = 2 → g.sop = false → s.opn ch = some f → f.discard = false → f.dispatched = true →
      (g.eop = false → g.bytes = 0 → f.bytes < 256 →
        ∃ t, exec (.ingressSegment (some g) none) s = .next t ∧
          t.link 0 = s.link 0 ++ [.headSeg f.md.lane f.md.pip bs (decide (256 ≤ f.bytes + 64))] ∧
          t.opn ch = some { f with head := f.head ++ bs, bytes := f.bytes + 64, errSeen := f.errSeen || g.err }) ∧
      (g.eop = true → g.err = false → g.fcsOk = true → f.errSeen = false → f.bytes < 256 → 14 ≤ f.bytes + n → f.bytes + n ≤ 256 →
        f.tbuf = [] → ∃ t, exec (.ingressSegment (some g) none) s = .next t ∧ t.opn ch = none ∧
          t.ing.vq = s.ing.vq ++ [⟨f.md.lane, f.md.pip, 1, BitVec.ofNat 14 (f.bytes + n)⟩] ∧
          t.handles f.md.pool.toNat = held f.md.pool.toNat ++ f.handles.take 1)) ∧
    (∀ f, g.sop = false → s.opn ch = some f → f.discard = true →
      ∃ t, exec (.ingressSegment (some g) none) s = .next t ∧ t.links = s.links ∧ t.counters = s.counters ∧
        t.opn ch = (if g.eop then none else some f)) ∧
    -- lane 1
    (∃ t, exec (.ingressSegment none (some g)) s = .next t ∧ t.ctr (inA 0x428) = s.ctr (inA 0x428) + 1 ∧ t.links = s.links ∧
      t.ing.opn = s.ing.opn) ∧
    (∀ h : Seg, s.blk = 2 → h.ch = g.ch → h.sop = false → g.eop = false →
      let m := if h.bytes = 0 then 64 else h.bytes.toNat
      let bs1 := (leBytes 64 h.data.toNat).take m
      (g.sop = true → h.eop = true → s.opn ch = none → s.sopRefused ch g (some h) = none →
        ∃ t p, exec (.ingressSegment (some g) (some h)) s = .next t ∧ t.link 0 = s.link 0 ++ [.pkt p [] true] ∧
          p.head = fit 256 (bs ++ bs1) ∧ p.md.inCh.toNat = ch ∧ p.md.lane = lane ∧ p.md.pip = tget 0 s.ing.lanePip lane.toNat ∧
          p.md.verdict = 1 ∧ p.md.len.toNat = 64 + m ∧ p.md.tail = noBuf ∧ t.opn ch = none ∧
          tget 0 t.ing.lanePip lane.toNat = tget 0 s.ing.lanePip lane.toNat + 1 ∧
          t.ctr (inA 0x400) = s.ctr (inA 0x400) + 1 ∧ t.ctr (inA 0x408) = s.ctr (inA 0x408) + BitVec.ofNat 64 (64 + m)) ∧
      (∀ f, g.sop = false → g.bytes = 0 → h.eop = false → h.bytes = 0 → s.opn ch = some f → f.discard = false →
        f.dispatched = true → f.bytes + 128 ≤ 256 →
        ∃ t, exec (.ingressSegment (some g) (some h)) s = .next t ∧
          t.link 0 = s.link 0 ++ [.headSeg f.md.lane f.md.pip bs false,
                                  .headSeg f.md.lane f.md.pip bs1 (decide (256 ≤ f.bytes + 128))] ∧
          t.opn ch = some { f with head := f.head ++ bs ++ bs1, bytes := f.bytes + 128, errSeen := f.errSeen || g.err || h.err })) ∧
    -- frames that end badly: the verdict of a dispatched frame, a skip token in place of another
    (∀ f, s.blk = 2 → s.opn ch = some f → f.discard = false →
      let p := f.md.pool.toNat
      let ended := fun (t : State) (len : Nat) =>
        (f.dispatched = true → t.ing.vq = s.ing.vq ++ [⟨f.md.lane, f.md.pip, 2, BitVec.ofNat 14 len⟩]) ∧
        (f.dispatched = false → t.ing.vq = s.ing.vq ∧ t.link 0 = s.link 0 ++ [.skip f.md.lane f.md.pip]) ∧
        t.ctr (inA 0x408) = s.ctr (inA 0x408) + BitVec.ofNat 64 len
      let room := f.bytes < 256 ∨ (f.bytes - 256) % s.bufSize p ≠ 0 ∨ held p ≠ []
      (g.sop = false → g.eop = true ∨ g.bytes = 0 → 16384 ≤ f.bytes + n → f.bytes < 16384 → room →
        ∃ t, exec (.ingressSegment (some g) none) s = .next t ∧ ended t 16383 ∧
          t.ctr (inA 0x420) = s.ctr (inA 0x420) + 1 ∧ t.opn ch = (if g.eop then none else some .skip)) ∧
      (g.sop = false → g.eop = true → f.bytes + n < 16384 → room →
        f.bytes + n < 14 ∨ g.fcsOk = false ∨ g.err = true ∨ f.errSeen = true →
        ∃ t, exec (.ingressSegment (some g) none) s = .next t ∧ ended t (f.bytes + n) ∧ t.opn ch = none ∧
          t.ctr (inA 0x410) = s.ctr (inA 0x410) + (if f.bytes + n < 14 then 1 else 0) ∧
          t.ctr (inA 0x418) = s.ctr (inA 0x418) + (if f.bytes + n < 14 then 0 else 1)) ∧
      (g.sop = false → g.eop = false → g.bytes ≠ 0 →
        ∃ t, exec (.ingressSegment (some g) none) s = .next t ∧ ended t f.bytes ∧ t.opn ch = some .skip ∧
          t.ctr (inA 0x420) = s.ctr (inA 0x420) + 1 ∧ t.ctr (inA 0x428) = s.ctr (inA 0x428) + 1) ∧
      (g.sop = true → g.eop = true → f.dispatched = true →
        ∃ t, exec (.ingressSegment (some g) none) s = .next t ∧ t.opn ch = none ∧
          t.ing.vq = s.ing.vq ++ [⟨f.md.lane, f.md.pip, 2, BitVec.ofNat 14 f.bytes⟩] ∧
          t.ctr (inA 0x420) = s.ctr (inA 0x420) + 1 ∧ t.ctr (inA 0x428) = s.ctr (inA 0x428) + 1)) ∧
    (∀ f, g.sop = true → g.eop = true → s.opn ch = some f → f.discard = true →
      ∃ t, exec (.ingressSegment (some g) none) s = .next t ∧ t.opn ch = none ∧ t.ctr (inA 0x420) = s.ctr (inA 0x420) ∧
        t.ctr (inA 0x428) = s.ctr (inA 0x428) + 1)) ∧
  (∀ (s : State) ch, s.runs dIn = true → s.refreshPause.pauseDue = some ch →
    let on := tget true s.refreshPause.ing.pauseSt ch
    ∃ t, exec .pauseEvent s = .next t ∧ tget true t.ing.pauseLast ch = on ∧
      (∀ j, j ≠ ch → tget true t.ing.pauseLast j = tget true s.ing.pauseLast j) ∧
      (on = true → tfind t.ing.pauseAt ch = some s.now) ∧ { t with ing := s.ing } = s) ∧
  (∀ (s : State) due lvl rest, s.runs dIn = true → s.ing.nlq = (due, lvl) :: rest →
    (due ≤ s.now → ∃ t, exec .inPauseNlChange s = .next t ∧ t.ing.nl = lvl ∧ t.ing.nlq = rest ∧
      (lvl = true → t.ing.nlAt = s.now) ∧ { t with ing := s.ing } = s) ∧
    (s.now < due → exec .inPauseNlChange s = .next s))

/-- EGRESS_FRAME_START, EGRESS_SEGMENT and EG_CREDIT_RETURN (02 R53–R58, 14 R416). -/
def Obligations.EgressFrames : Prop :=
  ∀ (s : State) (ch : Chan) (lane : Lane), s.runs dOut = true →
    (∀ f, s.egFront ch.val lane = some f →
      let tb := bits (s.egMap ch.val) 5 0
      let tc := f.md.tc.toNat
      (s.mayStart f = true →
        s.chan ch.val = 2 ∧ f.st = 0 ∧ (∀ g ∈ s.eg.frames, g.ch = ch.val → g.st ≠ 1 ∧ g.st ≠ 2) ∧
        (f.md.verdict = 0 → 4 ≤ s.creditOf ch.val) ∧
        ((s.scheduled ch.val = false ∨ (s.gateOpen tb tc = true ∧ s.guardOk tb tc f.lenOf = true)) →
          exec (.egressFrameStart ch lane) s = .next (s.putEg { f with st := 1 })) ∧
        (s.scheduled ch.val = true → s.gateOpen tb tc = false → exec (.egressFrameStart ch lane) s = .next s) ∧
        (s.scheduled ch.val = true → s.gateOpen tb tc = true → s.guardOk tb tc f.lenOf = false →
          exec (.egressFrameStart ch lane) s = .next (if f.gw then s else (s.putEg { f with gw := true }).count (tmA 0x910)))) ∧
      (s.mayStart f = false → exec (.egressFrameStart ch lane) s = .next s)) ∧
    (∀ (port : Fin 2) f g, s.egOpen ch.val lane = some f → s.nextSeg f = some g →
      (s.creditOf ch.val = 0 → exec (.egressSegment port ch lane) s = .next s) ∧
      (s.creditOf ch.val ≠ 0 → s.portFree port.val = true →
        ∃ t seg, exec (.egressSegment port ch lane) s = .next t ∧ t.creditOf ch.val + 1 = s.creditOf ch.val ∧
          tfind t.eg.lastSeg port.val = some seg ∧ seg.ch.toNat = ch.val ∧ seg.sop = decide (f.sent = 0) ∧ seg.eop = g.eop ∧
          seg.err = g.err ∧ seg.data = BitVec.ofNat 512 (leNat g.bytes) ∧
          t.ctr (egA 0x408) = s.ctr (egA 0x408) + BitVec.ofNat 64 g.bytes.length ∧
          t.ctr (tmA 0x918) = s.ctr (tmA 0x918) + (if s.gateShut f then 1 else 0) ∧
          (g.eop = true → t.ctr (egA 0x400) = s.ctr (egA 0x400) + 1) ∧
          (g.eop = false → ∃ f1 ∈ t.eg.frames, f1.order = f.order ∧ f1.sent = f.sent + g.bytes.length))) ∧
    (∀ cnt : Byte, s.leaving dOut = false → s.chan ch.val ≠ 0 → cnt ≠ 0 →
      ∃ t, exec (.egCreditReturn ch cnt) s = .next t ∧ t.creditOf ch.val = min 4095 (s.creditOf ch.val + cnt.toNat) ∧
        t.ctr (egA 0x420) = s.ctr (egA 0x420) + (if 4095 < s.creditOf ch.val + cnt.toNat then 1 else 0) ∧
        (∀ j, j ≠ ch.val → t.creditOf j = s.creditOf j) ∧ { t with eg := s.eg, counters := s.counters } = s)

/-- CH_ATTACH, CH_DETACH, CHANNEL_ATTACHED, CHANNEL_DETACHED, BLK_DETACH_REQ, BLOCK_DETACHED (02 R59–R70). Of BLK_STATE, 2 is
RUNNING, 4 DETACHED and 5 BOXED. How long BLK_DETACH_ACK stands where REQ has fallen before it is the model's choice (log entry
88). -/
def Obligations.ChannelLifeCycle : Prop :=
  (∀ (s : State) (q : Req) (ch : Chan), Sys2Proof.Claim.MayWrite s q (inA 0) →
    let src := match q with | .stw i => 4 + i.val | _ => 0
    let status := fun (op n : Nat) => BitVec.ofNat 32 (src * 2 ^ 28 + n * 2 ^ 25 + (if n = 0 then 0 else 2 ^ 24) + op * 2 ^ 16 + ch.val)
    let reason := fun (op : Nat) =>
      if s.detaching = true then 4 else if s.blk ≠ 2 then 3 else if op = 2 ∧ ch.val = 0 then 2
      else if (op = 1 ∧ s.chan ch.val ≠ 0) ∨ (op = 2 ∧ s.chan ch.val ≠ 2) then 1 else 0
    (reason 1 ≠ 0 → exec (.chAttach q ch) s = .next (Sys2Proof.Claim.acked q (inA 0) (s.setReg (inA 4) (status 1 (reason 1))))) ∧
    (reason 2 ≠ 0 → exec (.chDetach q ch) s = .next (Sys2Proof.Claim.acked q (inA 0) (s.setReg (inA 4) (status 2 (reason 2))))) ∧
    (reason 1 = 0 →
      ∃ t, exec (.chAttach q ch) s = .next t ∧ t.reg (inA 4) = status 1 0 ∧ t.chan ch.val = 1 ∧ t.creditOf ch.val = 0 ∧
        (∀ j, j ≠ ch.val → t.chan j = s.chan j ∧ t.creditOf j = s.creditOf j)) ∧
    (reason 2 = 0 →
      ∃ t, exec (.chDetach q ch) s = .next t ∧ t.reg (inA 4) = status 2 0 ∧ t.chan ch.val = 3 ∧
        (∀ f ∈ t.eg.frames, f.ch = ch.val → f.st ≠ 0) ∧ (∀ j, j ≠ ch.val → t.chan j = s.chan j))) ∧
  (∀ (s : State) (ch : Chan), s.runs dIn = true →
    let done := s.reg (inA (0x200 + 4 * (ch.val / 32))) ||| BitVec.ofNat 32 (2 ^ (ch.val % 32))
    (s.chan ch.val = 1 → s.held ch.val = 0 →
      ∃ t, exec (.channelAttached ch) s = .next t ∧ t.chan ch.val = 2 ∧ t.reg (inA (0x200 + 4 * (ch.val / 32))) = done ∧
        (∀ j, j ≠ ch.val → t.chan j = s.chan j) ∧ { t with chSt := s.chSt, regs := s.regs, ing := s.ing } = s) ∧
    (s.chan ch.val = 3 → s.drained ch.val = true →
      ∃ t, exec (.channelDetached ch) s = .next t ∧ t.chan ch.val = 0 ∧ t.reg (inA (0x200 + 4 * (ch.val / 32))) = done ∧
        (∀ j, j ≠ ch.val → t.chan j = s.chan j) ∧ { t with chSt := s.chSt, regs := s.regs, ing := s.ing } = s) ∧
    (s.chan ch.val = 3 → s.drained ch.val = false → exec (.channelDetached ch) s = .next s)) ∧
  (∀ (s : State),
    (s.pins.detReq = false →
      (s.blk = 2 → ∃ t, exec .blkDetachReq s = .next t ∧ t.detaching = true ∧ t.pins = { s.pins with detReq := true } ∧
        (∀ ch, s.chan ch = 1 ∨ s.chan ch = 2 → t.chan ch = 3)) ∧
      (s.blk = 4 ∨ s.blk = 5 → exec .blkDetachReq s = .next { s with pins := { s.pins with detReq := true, detAck := true } })) ∧
    (s.detaching = true → s.blk = 2 → (∀ e ∈ s.chSt, e.2 = 0) → (∀ r k, s.isHeld r k = false) → s.buf.store = [] →
      s.ing.resv = none → s.buf.freeq = [] → s.buf.outc = [] → (s.pdom dPmc).paused = false → (∀ e ∈ s.led.ent, e.2.due = false ∧ e.2.com = false) →
      ∃ t, exec .blockDetached s = .next t ∧ t.blk = 4 ∧ t.detaching = false ∧ t.pins = { s.pins with detAck := true } ∧
        t.led.ent = [] ∧ t.pm.boxing = true ∧ (∀ d, d < 20 → (t.pdom d).st = .off)) ∧
    exec .blkDetachReqFall s = .next { s with pins := { s.pins with detReq := false, detAck := false } })

/-- The BUF rows and ALLOC_BACKOFF_EXPIRY (13). That the FREE commands of several chains may be outstanding together, and which command
and which read the port presents first, are the model's choices (log entries 59 and 89). -/
def Obligations.BufferPort : Prop :=
  ∀ (s : State), s.ready dIn = true →
    let b := s.buf
    let err := fun (t : State) (code h : Nat) =>
      t.reg (bufA 0x28) = s.reg (bufA 0x28) ||| BitVec.ofNat 32 (2 ^ (code - 1)) ∧
      ((s.log (bufA 0x2C)).ents.length < 8 →
        (t.log (bufA 0x2C)).ents = (s.log (bufA 0x2C)).ents ++ [BitVec.ofNat 32 (2 ^ 31 + code * 2 ^ 24 + h)]) ∧
      (8 ≤ (s.log (bufA 0x2C)).ents.length → (t.log (bufA 0x2C)).ovf = true ∧ (t.log (bufA 0x2C)).ents = (s.log (bufA 0x2C)).ents)
    (∀ p : Pool,
      (b.cmd = some (.alloc p.val) ∨
          (b.cmd = none ∧ (s.handles p.val).length + s.allocsOut p.val < s.prefetch p.val ∧ s.poolEmpty p.val = false ∧
            tfind b.backoff p.val = none ∧ b.outc.length < 32 ∧ (s.detaching = false ∨ ∃ e ∈ s.ing.opn, e.2.discard = false)) →
        exec (.bufAlloc p) s = .next { s with buf := { b with outc := b.outc ++ [(.alloc p.val, s.now)], cmd := none } }) ∧
      (b.cmd = none → s.prefetch p.val ≤ (s.handles p.val).length + s.allocsOut p.val → exec (.bufAlloc p) s = .next s) ∧
      (∀ c, b.cmd = some c → c ≠ .alloc p.val → exec (.bufAlloc p) s = .next s) ∧
      (∀ t0, tfind b.backoff p.val = some t0 → t0 ≤ s.now →
        exec (.allocBackoffExpiry p) s = .next { s with buf := { b with backoff := tdel b.backoff p.val } })) ∧
    (∀ lane pip h h2 rest, s.ing.wq = .link lane pip h h2 :: rest → b.cmd = none ∨ b.cmd = some .link →
      exec .bufLink s = .next { s with ing := { s.ing with wq := rest }, buf := { b with cmd := none } }) ∧
    (∀ lane pip h i n d rest, s.ing.wq = .beat lane pip h i n d :: rest →
      exec .bufWriteBeat s = .next ({ s with ing := { s.ing with wq := rest } }.count (bufA 0x420))) ∧
    (∀ i, (∃ id, b.cmd = some (.free id) ∧ b.freeq.find? (fun j => j.id = id) = some i) ∨
        (b.cmd = none ∧ b.outc.length < 32 ∧
          b.freeq.find? (fun j => !j.held && !j.walking && !s.tailOpen j.lane j.pip) = some i) →
      ∃ t, exec .bufFree s = .next t ∧ t.buf.outc = b.outc ++ [(.free i.h i.owner i.id, s.now)] ∧ t.buf.cmd = none ∧
        (∀ j ∈ t.buf.freeq, j.id = i.id → j.walking = true) ∧ { t with buf := b } = s) ∧
    (∀ (h : Handle),
      (b.outc = [] → ∀ st, ∃ t, exec (.bufResponse st h) s = .next t ∧ err t 5 0) ∧
      (∀ p t0 rest, b.outc = (.alloc p, t0) :: rest →
        (h ≠ noBuf → ∃ t, exec (.bufResponse 0 h) s = .next t ∧ t.buf.outc = rest ∧ t.handles p = s.handles p ++ [h] ∧
          t.ctr (bufA 0x400) = s.ctr (bufA 0x400) + 1) ∧
        (∃ t, exec (.bufResponse 2 h) s = .next t ∧ t.buf.outc = rest ∧ tfind t.buf.backoff p = some (s.now + 64) ∧
          t.ctr (bufA 0x408) = s.ctr (bufA 0x408) + 1)) ∧
      (∀ g ow id t0 rest, b.outc = (.free g ow id, t0) :: rest →
        (∃ t, exec (.bufResponse 0 h) s = .next t ∧ t.buf.outc = rest ∧ t.ctr (bufA 0x410) = s.ctr (bufA 0x410) + 1 ∧
          (h = noBuf → ∀ j ∈ t.buf.freeq, j.id ≠ id) ∧ (h ≠ noBuf → ∀ j ∈ t.buf.freeq, j.id = id → j.h = h ∧ j.walking = false)) ∧
        (∃ t, exec (.bufResponse 1 h) s = .next t ∧ t.buf.outc = rest ∧ t.ctr (bufA 0x418) = s.ctr (bufA 0x418) + 1 ∧
          (∀ j ∈ t.buf.freeq, j.id ≠ id) ∧ err t 1 g.toNat))) ∧
    (∀ c t0, b.outc[b.lateN]? = some (c, t0) →
      (t0 + 4096 ≤ s.now → ∃ t, exec .bufLateTimeout s = .next t ∧ t.buf = { b with lateN := b.lateN + 1 } ∧ err t 6 0) ∧
      (s.now < t0 + 4096 → exec .bufLateTimeout s = .next s)) ∧
    (∀ (ch : Chan) (lane : Lane) p, s.ready dOut = true →
      (b.rd = some p ∧ p.ch = ch.val ∧ p.lane = lane) ∨
        (b.rd = none ∧ b.rdq.length < 64 ∧ ∃ f q,
          s.eg.frames.find? (fun f => decide (f.ch = ch.val) && decide (f.lane = lane) && (s.nextRead f).isSome) = some f ∧
          s.nextRead f = some q ∧ p = rdOf f q) →
      ∃ t, exec (.bufReadRequest ch lane) s = .next t ∧ t.buf.rdq = b.rdq ++ [(p.order, p.k, p.h)] ∧ t.buf.rd = none ∧
        (∀ f, s.eg.frames.find? (fun f => f.order = p.order) = some f → p.again = false →
          ∃ f1 ∈ t.eg.frames, f1.order = f.order ∧ f1.treq = f.treq + 1) ∧ { t with buf := b, eg := s.eg } = s) ∧
    (∀ (d : BitVec 1024) (nxt : Handle),
      (∀ o k h rest, b.rdq = (o, k, h) :: rest →
        (∀ f, s.eg.frames.find? (fun f => f.order = o) = some f → k = f.tgot →
          ∃ t f1, exec (.bufReadData d nxt false) s = .next t ∧ t.buf.rdq = rest ∧ f1 ∈ t.eg.frames ∧ f1.order = o ∧
            f1.tdata = f.tdata ++ leBytes 128 d.toNat ∧ f1.tgot = f.tgot + 1 ∧ (h = f.rdH → f1.rdNext = some nxt) ∧
            t.ctr (bufA 0x428) = s.ctr (bufA 0x428) + 1) ∧
        (∃ t, exec (.bufReadData d nxt true) s = .next t ∧ t.buf.rdq = rest ∧
          t.reg (bufA 0x28) = s.reg (bufA 0x28) ||| BitVec.ofNat 32 4)) ∧
      (b.rdq = [] → ∃ t, exec (.bufReadData d nxt false) s = .next t ∧ err t 5 0)) ∧
    (∀ h : Handle, ∃ t, exec (.bufWriteError h) s = .next t ∧ err t 2 h.toNat) ∧
    (∀ warn low empty : Byte,
      let rises := fun (n o : Byte) => (n &&& ~~~ o).toNat
      ∃ t, exec (.bufPoolInput warn low empty) s = .next t ∧ t.buf.warn = warn ∧ t.buf.low = low ∧ t.buf.empty = empty ∧
        t.reg (bufA 0x24) = (s.reg (bufA 0x24) |||
          BitVec.ofNat 32 (rises empty b.empty * 2 ^ 16 + rises low b.low * 2 ^ 8 + rises warn b.warn)) ∧
        (∀ p, p < 8 → b.empty.getLsbD p = true → empty.getLsbD p = false → tfind t.buf.backoff p = none) ∧
        (¬ (b.low = 0 ↔ low = 0) → t.ing.nlq = s.ing.nlq ++ [(s.now + 8, decide (low ≠ 0))]) ∧
        ((b.low = 0 ↔ low = 0) → t.ing = s.ing))

/-! ### Table memory beside the contexts, scratchpads, seats -/

/-- The operation ends with a result cell and data. -/
def Sys2Proof.Claim.opEnds (u : State) (o : TOp) (res : Nat) (out : List Byte) : Prop :=
  ∃ p ∈ u.tb.ops, p.id = o.id ∧ p.fin = true ∧ p.res = BitVec.ofNat 32 res ∧ p.out = out

/-- The operation goes on with one access, to the `n` rows from `row` of tile `tile`, that reads. -/
def Sys2Proof.Claim.opReads (u : State) (o : TOp) (node phase tile row n : Nat) : Prop :=
  ∃ p ∈ u.tb.ops, p.id = o.id ∧ p.fin = false ∧ p.phase = phase ∧ p.node = node ∧ p.acc = [⟨tile, row, n, 0, 0, []⟩]

/-- The operation ends with `res`, but on a mirrored table whose other copy is in use it has that result and waits for the write of
the rows that hold bytes `off` to `off + n` from row `row`, as they now are, to the other copy (10 R317). -/
def Sys2Proof.Claim.opWrote (s u : State) (o : TOp) (tile row off n res : Nat) : Prop :=
  (s.altOk o.table tile = false → Sys2Proof.Claim.opEnds u o res []) ∧
  (s.altOk o.table tile = true → ∃ p ∈ u.tb.ops, p.id = o.id ∧ p.fin = false ∧ p.res = BitVec.ofNat 32 res ∧
    ∃ b ∈ p.acc, b.tile = otherTile tile ∧ b.kind = 1 ∧ b.tag = 0 ∧ b.row = row + off / 32 ∧ 32 * b.n + 32 * (off / 32) ≥ off + n ∧
      b.data = mread 0 u.tile (tlA tile b.row 0) (32 * b.n))

/-- The lookup of `o`, a LOOK, in the states of its walk, where the access it waited for has given the rows `bs` (10 R300–R304). -/
def Sys2Proof.Claim.looks (s u : State) (o : TOp) (a : Acc) (bs : List Byte) : Prop :=
  let bank := decide (o.bank = 1)
  let got := fun (w : Nat) => if w = a.tag then bs else tget [] o.got w
  let slice := fun (e : Nat) (rows : List Byte) => (rows.drop (s.entryAt o.table bank e).2.2).take (s.tW o.table)
  let valid := fun (e : List Byte) => (e.getD (s.tW o.table - 1) 0).getLsbD 7
  let cand := fun (w : Nat) => (s.cands o.table o.key).getD w 0
  let hit := fun (w : Nat) => valid (slice (cand w) (got w)) &&
    decide (((slice (cand w) (got w)).drop (s.tW o.table - s.tParam o.table - 4)).take (s.tParam o.table) = o.key)
  let hits := fun (e : List Byte) => Sys2Proof.Claim.opEnds u o 1 e
  let misses := Sys2Proof.Claim.opEnds u o 0 []
  let result := fun (i : Nat) => let p := s.entryAt o.table bank i
    Sys2Proof.Claim.opReads u o o.node 100 (s.rdTile o.table o.req p.1) p.2.1 (s.tRows o.table)
  let k := s.tKind o.table
  (k = 1 → hits (slice o.idx (got 0))) ∧
  (k = 2 → o.phase = 0 →
    (∀ w, (List.range 4).find? hit = some w → hits (slice (cand w) (got w))) ∧
    ((∀ w, w < 4 → hit w = false) → misses)) ∧
  (k = 3 → o.phase < 100 →
    let v := (o.key.getD o.phase 0).toNat
    let slot := BitVec.ofNat 32 (leNat (((got 0).drop (4 * (v % 8))).take 4))
    let ty := bits slot 31 30
    let i := bits slot 23 0
    let child := ty = 2 ∧ i < bits (s.td o.table 6) 23 0
    let p := s.slotAt o.table bank i (o.key.getD (o.phase + 1) 0).toNat
    (child → o.phase + 1 < s.tParam o.table →
      Sys2Proof.Claim.opReads u o i (o.phase + 1) (s.rdTile o.table o.req p.1) p.2 1) ∧
    (child → s.tParam o.table ≤ o.phase + 1 → misses) ∧
    (ty = 1 → i < s.tLen o.table → result i) ∧
    (¬ child → ¬ (ty = 1 ∧ i < s.tLen o.table) → misses)) ∧
  (k = 4 → o.phase < 100 →
    let b := fun (j : Nat) => leNat (((got 0).drop (4 * j)).take 4)
    ((∀ j, j < 8 → leNat o.key < b j) → misses) ∧
    (∀ j, j < 8 → b j ≤ leNat o.key → (∀ m, j < m → m < 8 → leNat o.key < b m) →
      let p := s.nodeAt o.table bank (o.phase + 1) (8 * o.node + j)
      (o.phase + 1 < s.tParam o.table →
        Sys2Proof.Claim.opReads u o (8 * o.node + j) (o.phase + 1) (s.rdTile o.table o.req p.1) p.2 1) ∧
      (s.tParam o.table ≤ o.phase + 1 → result (8 * o.node + j)))) ∧
  (k = 3 ∨ k = 4 → o.phase = 100 →
    let e := slice o.idx (got 0)
    if k = 4 ∧ valid e = false then misses else hits e)

/-- The result of CAS on the window entry `e` and the entry after it, for tick `t`, sequence number `sq` and a packet of attempt
`att` (14 R418, R419). -/
def Sys2Proof.Claim.window (hlen tmo : Nat) (t : Word) (sq att : Nat) (e : List Byte) : Nat × List Byte :=
  let rseq := leNat (e.take 2)
  let hist := leNat (e.drop 8) % 2 ^ hlen
  let old := tmo ≠ 0 ∧ tmo * 1000000 ≤ (t - BitVec.ofNat 32 (leNat ((e.drop 4).take 4))).toNat
  let ahead := (sq + 65536 - rseq) % 65536
  let back := (rseq + 65536 - sq) % 65536
  let entry := fun (n h : Nat) => leBytes 2 n ++ [(e.getD 2 0) ||| 1, e.getD 3 0] ++ leBytes 4 t.toNat ++ leBytes (e.length - 8) (h % 2 ^ hlen)
  if (e.getD 2 0).getLsbD 0 = false ∨ old then (0, entry sq 1)
  else if 1 ≤ ahead ∧ ahead < hlen then (0, entry sq (hist * 2 ^ ahead + 1))
  else if hlen ≤ back then (2, e)
  else if hist / 2 ^ back % 2 = 1 then (if att = 0 then 1 else 3, entry rseq hist)
  else (0, entry rseq (hist + 2 ^ back))

/-- TILE_TRANSACTION, OVERHOLD, INSERT_SEQUENCER, TILE_FAIL, SCRUB_VISIT, TBL_ROUND_OPEN, PLIVE_CLEAR (10). What another requester sees
between the two writes of a mirrored table, the beats of a transaction and the order in which requests reach a tile are the model's
choices (log entries 50, 103, 106 and 108). -/
def Obligations.TableUnits : Prop :=
  (∀ (s : State) (t : Fin 32), s.runs (tileDom t.val) = true → s.failedTile t.val = false →
    (s.present t.val [] = [] →
      exec (.tileTransaction t) s = .next (s.setArb t.val { s.arb t.val with freeCy := min 2 ((s.arb t.val).freeCy + 1) })) ∧
    (∀ q o a, s.winner t.val (s.present t.val []) = some q → s.presented t.val q = some (o, a) → a.kind = 0 → o.orphan = false →
      (a.n ≤ 16 → o.acc = [a] → o.kind = .look → o.src ≠ tblCmd → o.phase ≠ 200 → s.copyGone o a = false →
        ∃ u, exec (.tileTransaction t) s = .next u ∧ (u.arb t.val).park = some q ∧ (u.arb t.val).freeCy = 0 ∧ u.tile = s.tile ∧
          (match Sys2Proof.Claim.readOf s (s.altOk o.table t.val) t.val a.row a.n with
           | some bs => Sys2Proof.Claim.looks s u o a bs
           | none => ∃ p ∈ u.tb.ops, p.id = o.id ∧ p.fin = true ∧ p.ue = true) ∧
          ((∀ i l, i < a.n → l < 4 → tfind s.tileErr (laneKey t.val (a.row + i) l) = none) → { u with tb := s.tb } = s)) ∧
      (a.n ≤ 16 → exec (.overhold t) s = .next s) ∧
      (16 < a.n → o.kind ≠ .copy →
        ∃ u p, exec (.overhold t) s = .next u ∧ p ∈ u.tb.ops ∧ p.id = o.id ∧ p.fin = true ∧ p.res = 4 ∧
          p.out = Sys2Proof.Claim.rows s t.val a.row 16 ∧ u.reg (tbA 0x90) = (s.reg (tbA 0x90) ||| BitVec.ofNat 32 (2 ^ q)))) ∧
    -- UPD and TBL_CMD write their entry; CAS compares and writes
    (∀ q o a, s.winner t.val (s.present t.val []) = some q → s.presented t.val q = some (o, a) → o.orphan = false → a.n ≤ 16 →
      s.copyGone o a = false → s.tile.wf 0 = true →
      (a.kind = 1 → o.kind = .upd ∨ o.kind = .cmdWrite → o.phase ≠ 200 →
        ∃ u, exec (.tileTransaction t) s = .next u ∧ Sys2Proof.Claim.wrote s u t.val a.row a.tag a.data ∧
          Sys2Proof.Claim.opWrote s u o t.val a.row a.tag a.data.length (if o.kind = .upd then 1 else 0)) ∧
      (a.kind = 1 → o.phase = 200 → o.kind ≠ .copy →
        ∃ u, exec (.tileTransaction t) s = .next u ∧ Sys2Proof.Claim.wrote s u t.val a.row a.tag a.data ∧
          Sys2Proof.Claim.opEnds u o o.res.toNat []) ∧
      (a.kind = 2 → o.kind = .cas → o.phase ≠ 200 →
        let home := (s.entryAt o.table (o.bank = 1) o.idx).1
        match (Sys2Proof.Claim.readOf s (s.altOk o.table t.val) t.val a.row a.n).map (fun b => (b.drop a.tag).take (s.tW o.table)) with
        | none => ∃ u, exec (.tileTransaction t) s = .next u ∧ u.tile = s.tile ∧
            Sys2Proof.Claim.opEnds u o (if s.tKind o.table = 5 then 2 else 0) []
        | some e =>
          (s.tKind o.table = 5 →
            let aux := s.td o.table 6
            let w := Sys2Proof.Claim.window (bits aux 9 0) (bits aux 23 16) s.tick32 (bits o.w0 15 0) (s.opMd o).attempt.toNat e
            ∃ u, exec (.tileTransaction t) s = .next u ∧ Sys2Proof.Claim.wrote s u t.val a.row a.tag w.2 ∧
              Sys2Proof.Claim.opWrote s u o t.val a.row a.tag w.2.length w.1) ∧
          (s.tKind o.table ≠ 5 → leNat (e.take 4) ≠ o.w0.toNat →
            ∃ u, exec (.tileTransaction t) s = .next u ∧ u.tile = s.tile ∧ u.tb.locks = s.tb.locks ∧ Sys2Proof.Claim.opEnds u o 0 []) ∧
          (s.tKind o.table ≠ 5 → leNat (e.take 4) = o.w0.toNat → s.lockFill home < 64 → o.src ≠ nobody →
            ∃ u, exec (.tileTransaction t) s = .next u ∧
              Sys2Proof.Claim.wrote s u t.val a.row a.tag (leBytes 4 o.w1.toNat) ∧
              u.tb.locks = s.tb.locks ++ [⟨home, o.table, o.idx, o.src⟩] ∧ Sys2Proof.Claim.opWrote s u o t.val a.row a.tag 4 1) ∧
          (s.tKind o.table ≠ 5 → leNat (e.take 4) = o.w0.toNat → 64 ≤ s.lockFill home →
            ∃ u, exec (.tileTransaction t) s = .next u ∧ u.tile = s.tile ∧ u.tb.locks = s.tb.locks ∧
              ∀ p ∈ u.tb.ops, p.id = o.id → p.fin = false → p.locked = true))) ∧
    (∃ u, exec (.tileFail t true) s = .next u ∧ u.failedTile t.val = true ∧ (u.arb t.val).failCause = 1 ∧
      u.reg (tbA (0x100 + 4 * t.val)) = (s.reg (tbA (0x100 + 4 * t.val)) ||| 2)) ∧
    (4 ≤ (s.arb t.val).ueRows.length → ∃ u, exec (.tileFail t false) s = .next u ∧ u.failedTile t.val = true ∧
      (u.arb t.val).failCause = 2) ∧
    ((s.arb t.val).ueRows.length < 4 → exec (.tileFail t false) s = .next s) ∧
    (∀ row : Half, s.runs dTblS = true → s.leaving dTblS = false → s.leaving (tileDom t.val) = false →
      let x := (t.val, row.toNat)
      let s1 := { s with tb := { s.tb with scrubReq := if x ∈ s.tb.scrubReq then s.tb.scrubReq else s.tb.scrubReq ++ [x] } }
      let seen := addVisit (t.val * 65536 + row.toNat) s.tb.visited
      (s1.winsAll 13 [t.val] = false → exec (.scrubVisit t row) s = .next s1) ∧
      (s1.winsAll 13 [t.val] = true → (∀ y ∈ s.tb.scrubReq, y.1 = t.val → y = x) → s.rowOwner t.val row.toNat = none →
        (∀ l, l < 4 → tfind s.tileErr (laneKey t.val row.toNat l) ≠ some true) → s.tile.wf 0 = true →
        ∃ u, exec (.scrubVisit t row) s = .next u ∧ u.tb.scrubReq = s1.tb.scrubReq.erase x ∧
          (∀ l, l < 4 → tfind u.tileErr (laneKey t.val row.toNat l) = none) ∧
          Sys2Proof.Claim.rows u t.val row.toNat 1 = Sys2Proof.Claim.rows s t.val row.toNat 1 ∧
          (if { s with tb := { s.tb with visited := seen } }.passDone then
              u.tb.visited = [] ∧ u.ctr (tbA 0x828) = s.ctr (tbA 0x828) + 1
            else u.tb.visited = seen ∧ u.ctr (tbA 0x828) = s.ctr (tbA 0x828))))) ∧
  (∀ (s : State) (half : Fin 2) o, s.tb.ops.find? (fun o => !o.fin && o.seqHalf = some half.val) = some o →
    s.tDead o.table (o.bank = 1) = false →
    let ts := ((s.cands o.table o.key).map (fun e => s.wrTile o.table (s.entryAt o.table (o.bank = 1) e).1)).eraseDups
    let s1 := forEach ts s (fun t s => s.grant t o.req)
    (s.winsAll o.req ts = false → exec (.insertSequencer half) s = .next s) ∧
    (s.winsAll o.req ts = true → o.orphan = false → o.kind = .upd ∨ o.kind = .lrn → o.phase ≠ 200 → ∀ u,
      (∀ a, s1.insert o.table (o.bank = 1) o.key o.data = (.written a, u) →
        ∃ v p, exec (.insertSequencer half) s = .next v ∧ p ∈ v.tb.ops ∧ p.id = o.id ∧ v.tile = u.tile ∧ p.res = 1 ∧
          Sys2Proof.Claim.opWrote u v o a.tile a.row a.tag a.data.length 1) ∧
      (s1.insert o.table (o.bank = 1) o.key o.data = (.full, u) →
        ∃ v p, exec (.insertSequencer half) s = .next v ∧ p ∈ v.tb.ops ∧ p.id = o.id ∧ p.fin = true ∧ p.res = 0 ∧
          v.tile = s.tile ∧ v.ctr (tbA 0x818) = u.ctr (tbA 0x818) + 1) ∧
      (∀ e, s1.insert o.table (o.bank = 1) o.key o.data = (.present e, u) →
        (o.kind = .lrn → ∃ v p, exec (.insertSequencer half) s = .next v ∧ p ∈ v.tb.ops ∧ p.id = o.id ∧ p.fin = true ∧ p.res = 0 ∧
          v.tile = u.tile) ∧
        (o.kind = .upd → (∀ l, u.lockOf o.table e = some l → l.owner = o.src) → u.tile.wf 0 = true →
          let w := u.entryAt o.table (o.bank = 1) e
          ∃ v, exec (.insertSequencer half) s = .next v ∧ Sys2Proof.Claim.wrote u v (u.wrTile o.table w.1) w.2.1 w.2.2 o.data ∧
            Sys2Proof.Claim.opWrote u v o (u.wrTile o.table w.1) w.2.1 w.2.2 o.data.length 1)))) ∧
  (∀ (s : State) (q : Req), Sys2Proof.Claim.MayWrite s q (tbA 0x18) →
    (s.tb.plive = true → exec (.tblRoundOpen q) s =
      .next (Sys2Proof.Claim.acked q (tbA 0x18) { s with tb := { s.tb with refused := true } })) ∧
    (s.tb.plive = false → ∃ u, exec (.tblRoundOpen q) s = .next u ∧ u.tb.cur = s.tb.cur + 1 ∧ u.tb.prev = s.tb.cur ∧
      u.tb.plive = true ∧ u.tb.refused = false ∧ u.tb.roundAt = s.now ∧
      (∀ t, t < 256 → s.tDual t = true → u.pbank t = s.abank t ∧
        u.abank t = (if bit (s.reg (tbA (0x20 + 4 * (t / 32)))) (t % 32) then !s.abank t else s.abank t)) ∧
      (∀ k, k < 8 → u.reg (tbA (0x20 + 4 * k)) = 0))) ∧
  (∀ (s : State), s.runs dTblN = true → s.tb.plive = true →
    exec .pliveClear s = .next (if s.roundCount s.tb.prev = 0 ∧ s.tb.roundAt + 20 ≤ s.now then { s with tb := { s.tb with plive := false } } else s))

/-- The TBL_CMD rows, TBL_CMD_COMPLETE and TBL_RELOC (10). That a range beyond row 65535 is refused with REASON 2, and that
more than 16 rows are an over-hold, is the model's choice (log entry 52). -/
def Obligations.TableCommands : Prop :=
  (∀ (s : State) (q : Req), Sys2Proof.Claim.MayWrite s q (tbA 0) →
    let ended := fun (n : Nat) =>
      Sys2Proof.Claim.acked q (tbA 0) { s with tb := { s.tb with busy := false, cmdDone := true, cmdReason := n } }
    let same := Sys2Proof.Claim.acked q (tbA 0) s
    let started := fun (i : Instr) (p : TOp → Prop) =>
      ∃ u o, exec i s = .next u ∧ u.tb.busy = true ∧ u.tb.cmdDone = false ∧ o ∈ u.tb.ops ∧ o.src = tblCmd ∧ o.id = s.tb.opNo ∧ p o
    (s.tb.busy = true → ∀ bank tid len, exec (.tblCmdReadEntry q bank tid) s = .next same ∧ exec (.tblCmdWriteEntry q bank tid) s = .next same ∧
      exec (.tblCmdReadRows q len) s = .next same ∧ exec (.tblCmdWriteRows q len) s = .next same ∧
      exec (.tblCmdFailTile q) s = .next same) ∧
    (s.tb.busy = false →
      (∀ bank (tid : Byte),
        let t := tid.toNat
        let e := s.fld (tbA 4) 23 0
        let there := s.tKind t ≠ 0 ∧ e < s.tLen t ∧ (bank = true → s.tDual t = true)
        (¬ there → exec (.tblCmdReadEntry q bank tid) s = .next (ended 2) ∧ exec (.tblCmdWriteEntry q bank tid) s = .next (ended 2)) ∧
        (there →
          started (.tblCmdReadEntry q bank tid) (fun o => o.kind = .cmdRead ∧ o.table = t ∧ o.idx = e) ∧
          (s.tDual t = true → s.idleBank t bank = false → exec (.tblCmdWriteEntry q bank tid) s = .next (ended 1)) ∧
          (s.tDual t = false ∨ s.idleBank t bank = true →
            started (.tblCmdWriteEntry q bank tid) (fun o => o.kind = .cmdWrite ∧ o.table = t ∧ o.idx = e ∧ o.data = s.tblData (s.tW t))))) ∧
      (∀ len : Fin 32,
        let tile := s.fld (tbA 4) 20 16
        let row := s.fld (tbA 4) 15 0
        let live := (List.range len.val).any (fun i => s.liveRow tile (row + i))
        (len.val = 0 ∨ 65536 < row + len.val →
          exec (.tblCmdReadRows q len) s = .next (ended 2) ∧ exec (.tblCmdWriteRows q len) s = .next (ended 2)) ∧
        (len.val ≠ 0 → row + len.val ≤ 65536 →
          (live = true → exec (.tblCmdWriteRows q len) s = .next (ended 1)) ∧
          (s.failedTile tile = true → exec (.tblCmdReadRows q len) s = .next (ended 3)) ∧
          (s.failedTile tile = false → started (.tblCmdReadRows q len) (fun o => o.kind = .rowsRead ∧ o.table = tile ∧ o.idx = row ∧ o.node = len.val)) ∧
          (live = false → s.failedTile tile = false →
            started (.tblCmdWriteRows q len) (fun o => o.kind = .rowsWrite ∧ o.table = tile ∧ o.idx = row ∧ o.node = len.val ∧
              o.data = s.tblData (32 * min len.val 16))))) ∧
      (∃ u, exec (.tblCmdFailTile q) s = .next u ∧ u.failedTile (s.fld (tbA 4) 20 16) = true ∧ u.tb.cmdDone = true ∧ u.tb.cmdReason = 0 ∧
        (s.failedTile (s.fld (tbA 4) 20 16) = false → (u.arb (s.fld (tbA 4) 20 16)).failCause = 3)))) ∧
  (∀ (s : State) o, s.tb.ops.find? (fun o => o.fin && o.src = tblCmd) = some o → o.out.length ≤ 512 →
    ∃ u, exec .tblCmdComplete s = .next u ∧ u.tb = { s.tb with ops := s.tb.ops.filter (fun p => p.id ≠ o.id), busy := false,
                                                               cmdDone := true, cmdReason := o.res.toNat } ∧
      (∀ i, i < o.out.length / 4 → u.reg (tbA (0x400 + 4 * i)) = BitVec.ofNat 32 (leNat ((o.out.drop (4 * i)).take 4))) ∧
      { u with tb := s.tb, regs := s.regs } = s) ∧
  (∀ (s : State) (q : Req) (k : Fin 8) (w : Word), Sys2Proof.Claim.MayWrite s q (tbA (0x300 + 4 * k.val)) →
    let t := bits w 23 16
    exec (.tblRelocWrite q k w) s = .next (Sys2Proof.Claim.acked q (tbA (0x300 + 4 * k.val)) (s.setReg (tbA (0x300 + 4 * k.val))
      (if s.tDual t || s.tMirror t then w &&& 0x5FFFFFFF else w &&& 0xDFFFFFFF))))

/-- The SP, BGT and ECC rows (11 R331–R342). -/
def Obligations.ScratchpadResult : Prop :=
  ∀ (s : State) (r : Rank) (cn : CoreNo), s.runs r.val = true →
    let ck := r.val * 13 + cn.val
    let co := s.core ck
    (s.dueNow r.val (32 + cn.val) = true →
      ∃ t, exec (.spClearEnd r cn) s = .next t ∧ (∀ x, x < 0x40000 → t.spR ck x 1 = [0]) ∧
        (∀ w, spWord ck 0 ≤ w → w < spWord (ck + 1) 0 → tfind t.spErr w = none) ∧
        (∀ x, x < spA ck 0 ∨ spA (ck + 1) 0 ≤ x → mget 0 t.sp x = mget 0 s.sp x) ∧
        t.reg (spOwn r.val (s.seatNo r.val cn.val)) = 0 ∧ bit (t.reg (spSt r.val (s.seatNo r.val cn.val))) 31 = false ∧
        (∀ k, k < 8 → (t.ctx (pk r.val cn.val k)).lastSlot = none)) ∧
    (∀ (b : Fin 8) w, tfind co.wb b.val = some w →
      ∃ t, exec (.eccWriteback r cn b) s = .next t ∧ tfind (t.core ck).wb b.val = none ∧ t.sp = s.sp ∧
        (tfind s.spErr (spWord ck (8 * w)) = some false → tfind t.spErr (spWord ck (8 * w)) = none)) ∧
    (∀ (seat : Nat), s.seatOf r.val cn.val = some seat → s.fld (rkA r.val 0x3014) 15 0 ≠ 0 → co.retired = false → co.bgt = none →
      s.reg (spOwn r.val seat) = 0 → (∀ d, tfind (s.rank r.val).due (64 + cn.val) = some d → d ≤ s.now) →
      let rg := s.bgtNext r.val seat
      (∀ i, i < 8 → tfind s.spErr (spWord ck (64 * rg + 8 * i)) ≠ some true) →
      ∃ t, exec (.bgtRegionStart r cn) s = .next t ∧ (t.core ck).bgt = some (rg, s.spR ck (64 * rg) 64) ∧ t.sp = s.sp ∧
        (∀ i, i < 8 → tfind t.spErr (spWord ck (64 * rg + 8 * i)) = none)) ∧
    (∀ rg sv, co.bgt = some (rg, sv) →
      ∃ t, exec (.bgtRegionComplete r cn) s = .next t ∧ (t.core ck).bgt = none ∧ t.sp = s.sp ∧
        ∀ i, i < 8 → tfind t.spErr (spWord ck (64 * rg + 8 * i)) = none) ∧
    (∀ (seat : Seat),
      let st := spSt r.val seat.val
      let own := s.reg (spOwn r.val seat.val)
      let sk := s.seatKey r.val seat.val
      let tested := fun b => b < 8 ∧ bit (s.reg (spHid r.val seat.val 6)) b = true
      (∀ q (w : Word), Sys2Proof.Claim.MayWrite s q (spOwn r.val seat.val) →
        (s.mayHand r.val seat.val = false → exec (.rankSpOwnerWrite q r seat w) s =
          .next (Sys2Proof.Claim.acked q (spOwn r.val seat.val) (s.setReg st (s.reg st ||| 0x2000000)))) ∧
        (s.mayHand r.val seat.val = true →
          ∃ t, exec (.rankSpOwnerWrite q r seat w) s = .next t ∧ bit (t.reg st) 25 = false ∧ t.reg (spOwn r.val seat.val) = own ∧
            (∀ b, b < 8 → (bit (t.reg st) (16 + b) = true ↔ ownerOf w b ≠ ownerOf own b)))) ∧
      (∀ b : Fin 8, bit (s.reg st) (16 + b.val) = true → s.bankQuiet r.val seat.val b.val = true →
        ∃ t, exec (.spHandoverEffect r seat b) s = .next t ∧ bit (t.reg st) (16 + b.val) = false ∧
          ownerOf (t.reg (spOwn r.val seat.val)) b.val = ownerOf (s.reg (spHid r.val seat.val 0)) b.val ∧
          (∀ d : Fin 8, d ≠ b → ownerOf (t.reg (spOwn r.val seat.val)) d.val = ownerOf own d.val)) ∧
      (∀ q, Sys2Proof.Claim.MayWrite s q (rkA r.val (0x3118 + 0x40 * seat.val)) → bit (s.reg st) 30 = false →
        ∃ t, exec (.spTestStart q r seat) s = .next t ∧ t.reg st = (s.reg st ||| 0x40000000) ∧
          tfind (t.rank r.val).due (16 + seat.val) = some (s.rankAfter r.val 40960) ∧
          (∀ b, b < 8 → bit (t.reg (spHid r.val seat.val 6)) b = decide (ownerOf own b = 2))) ∧
      (s.dueNow r.val (16 + seat.val) = true →
        ∃ t, exec (.spTestComplete r seat) s = .next t ∧ bit (t.reg st) 30 = false ∧
          (bit (t.reg st) 26 = true ↔ ∃ e ∈ s.spFaulty, e.1 = sk ∧ tested e.2.1 ∧ e ∉ (s.rank (sk / 13)).spares) ∧
          (∀ x, x < 0x40000 → tested (x / 8 % 8) → t.spR sk x 1 = [0]) ∧
          (∀ x, x < 0x40000 → ¬ tested (x / 8 % 8) → t.spR sk x 1 = s.spR sk x 1)) ∧
      (∀ q, Sys2Proof.Claim.MayWrite s q (rkA r.val (0x310C + 0x40 * seat.val)) → bit (s.reg st) 29 = false →
        let x := (s.reg (rkA r.val (0x3108 + 0x40 * seat.val))).toNat / 8 % 0x8000 * 8
        let bad := Sys2Proof.Claim.acked q (rkA r.val (0x310C + 0x40 * seat.val)) (s.setReg st (s.reg st ||| 0x10000000))
        (ownerOf own (x / 8 % 8) ≠ 3 →
          exec (.spAccRead q r seat) s = .next bad ∧ exec (.spAccWrite q r seat) s = .next bad) ∧
        (ownerOf own (x / 8 % 8) = 3 →
          (∃ t, exec (.spAccRead q r seat) s = .next t ∧ bit (t.reg st) 29 = true ∧ bit (t.reg st) 28 = false ∧
            (t.reg (spHid r.val seat.val 2)).toNat = 1 ∧ (t.reg (spHid r.val seat.val 3)).toNat = x) ∧
          (∃ t, exec (.spAccWrite q r seat) s = .next t ∧ bit (t.reg st) 29 = true ∧ bit (t.reg st) 28 = false ∧
            (t.reg (spHid r.val seat.val 2)).toNat = 2 ∧ (t.reg (spHid r.val seat.val 3)).toNat = x ∧
            t.reg (spHid r.val seat.val 4) = s.reg (rkA r.val (0x3110 + 0x40 * seat.val)) ∧
            t.reg (spHid r.val seat.val 5) = s.reg (rkA r.val (0x3114 + 0x40 * seat.val))))) ∧
      (bit (s.reg st) 29 = true →
        let x := (s.reg (spHid r.val seat.val 3)).toNat
        ((s.reg (spHid r.val seat.val 2)).toNat = 1 → tfind s.spErr (spWord sk x) = none →
          ∃ t, exec (.spAccComplete r seat) s = .next t ∧ bit (t.reg st) 29 = false ∧ bit (t.reg st) 27 = false ∧ t.sp = s.sp ∧
            t.reg (rkA r.val (0x3110 + 0x40 * seat.val)) = BitVec.ofNat 32 (leNat (s.spR sk x 4)) ∧
            t.reg (rkA r.val (0x3114 + 0x40 * seat.val)) = BitVec.ofNat 32 (leNat (s.spR sk (x + 4) 4))) ∧
        ((s.reg (spHid r.val seat.val 2)).toNat = 2 → s.sp.wf 0 = true →
          ∃ t, exec (.spAccComplete r seat) s = .next t ∧ bit (t.reg st) 29 = false ∧
            t.spR sk x 8 = leBytes 4 (s.reg (spHid r.val seat.val 4)).toNat ++ leBytes 4 (s.reg (spHid r.val seat.val 5)).toNat)))

/-- The sequencer of a core finds this cause at this micro-address: the check that its last sequence ended with, or the bad
parity of a word or map entry (11 R353; that parity is found at any time is the model's choice, log entry 13). -/
def Sys2Proof.Claim.checkDue (co : Core) (cause ua : Nat) : Prop :=
  co.mcheck = some (cause, ua) ∨
    (co.mcheck = none ∧ ((cause = 1 ∧ ua < 768) ∨ (cause = 2 ∧ 768 ≤ ua) ∨ cause = 3))

/-- MACHINE_CHECK, the SEAT and MC_PATCH rows, RESERVE_TAKES_SEAT, RETIRED_CORE_GATED (11 R350–R356, 17 R468–R470). That a drain of a
seat without a core is refused as retired, and what a rotation reads of the program library, are the model's choices (log entries 37
and 102). -/
def Obligations.SeatsResult : Prop :=
  ∀ (s : State) (r : Rank),
    let x := s.rank r.val
    let status := fun (t n : Nat) => BitVec.ofNat 32 ((if n = 0 then 0 else 2 ^ 29) + n * 2 ^ 26 + t)
    (s.runs r.val = true →
      (∀ (cn : CoreNo) (cause : Fin 16) (ua : BitVec 10) t, s.seatOf r.val cn.val = some t →
        (s.core (r.val * 13 + cn.val)).retired = false →
        let due := (cause.val = 7 ∧ s.seatCore r.val 12 = some cn.val ∧ (x.rot = 3 ∨ x.repl ≠ [])) ∨
          (cause.val ≠ 7 ∧ Sys2Proof.Claim.checkDue (s.core (r.val * 13 + cn.val)) cause.val ua.toNat)
        (¬ due → exec (.machineCheck (.core r cn) cause ua) s = .next s) ∧
        (due →
          ∃ u, exec (.machineCheck (.core r cn) cause ua) s = .next u ∧ (u.core (r.val * 13 + cn.val)).retired = true ∧
            u.seatCore r.val t = none ∧ u.ctr (rkA r.val 0x198) = s.ctr (rkA r.val 0x198) + 1 ∧
            u.ctr (rkA r.val 0x1A0) = s.ctr (rkA r.val 0x1A0) + 1 ∧
            ((s.log (rkA r.val 0x3008)).ents.length < 4 → (u.log (rkA r.val 0x3008)).ents = (s.log (rkA r.val 0x3008)).ents ++
              [BitVec.ofNat 32 (2 ^ 31 + t * 2 ^ 24 + cause.val * 2 ^ 20 + (if cause.val = 7 then 0 else ua.toNat))]) ∧
            (4 ≤ (s.log (rkA r.val 0x3008)).ents.length → (u.log (rkA r.val 0x3008)).ovf = true))) ∧
      (∀ cn : CoreNo, (s.core (r.val * 13 + cn.val)).retired = true → (s.core (r.val * 13 + cn.val)).gated = false →
        exec (.retiredCoreGated r cn) s = .next (if x.boundOn cn.val then s else
          s.setCore (r.val * 13 + cn.val) { s.core (r.val * 13 + cn.val) with gated := true })) ∧
      (∀ c, x.rot = 1 → s.seatCore r.val x.rotSeat = some c →
        ((s.core (r.val * 13 + c)).halted = true → exec (.seatDrained r) s = .next s) ∧
        ((s.core (r.val * 13 + c)).halted = false → (∀ k, k < 8 → (s.ctx (pk r.val c k)).st = .free) → x.boundOn c = false →
          exec (.seatDrained r) s = .next (s.setRank r.val { x with rot := 2 })) ∧
        (x.boundOn c = true → exec (.seatDrained r) s = .next s)) ∧
      (∀ n c, x.rot = 3 → x.rotSeat < 12 → s.seatCore r.val 12 = some n → s.seatCore r.val x.rotSeat = some c → s.dueNow r.val 0 = true →
        s.storeGood (r.val * 13 + n) = true →
        ∃ u, exec (.seatRotationComplete r) s = .next u ∧ u.seatCore r.val x.rotSeat = some n ∧ u.seatCore r.val 12 = some c ∧
          (u.rank r.val).rot = 0 ∧ tfind (u.rank r.val).due (32 + c) = some (s.rankAfter r.val 4096)) ∧
      (∀ t rest c, x.repl = t :: rest → t < 12 → s.seatCore r.val 12 = some c → s.dueNow r.val 0 = true →
        s.storeGood (r.val * 13 + c) = true →
        ∃ u, exec (.reserveTakesSeat r) s = .next u ∧ u.seatCore r.val t = some c ∧ u.seatCore r.val 12 = none ∧ (u.rank r.val).repl = [])) ∧
    (∀ (i : StwNo) (cause : Fin 16) (ua : BitVec 10), s.runs dStw = true → (s.stwd i.val).started = true →
      (s.stwd i.val).faulted = false →
      (Sys2Proof.Claim.checkDue (s.core (156 + i.val)) cause.val ua.toNat →
        ∃ u, exec (.machineCheck (.stw i) cause ua) s = .next u ∧ (u.stwd i.val).faulted = true) ∧
      (¬ Sys2Proof.Claim.checkDue (s.core (156 + i.val)) cause.val ua.toNat →
        exec (.machineCheck (.stw i) cause ua) s = .next s)) ∧
    (∀ (q : Req) (t : Fin 16), Sys2Proof.Claim.MayWrite s q (rkA r.val 0x3000) →
      let dr := if x.rot ≠ 0 then 1 else if s.hasReserve r.val = false then 2 else if 11 < t.val then 3
        else if s.seatCore r.val t.val = none then 6 else 0
      let ro := if x.rot = 3 then 1 else if x.rot ≠ 2 ∨ x.rotSeat ≠ t.val then 4 else if s.seatCore r.val 12 = none then 2 else 0
      let done := fun (u : State) => Sys2Proof.Claim.acked q (rkA r.val 0x3000) u
      (dr ≠ 0 → exec (.seatDrain q r t) s = .next (done (s.setReg (rkA r.val 0x3004) (status t.val dr)))) ∧
      (dr = 0 → exec (.seatDrain q r t) s =
        .next (done ((s.setReg (rkA r.val 0x3004) (status t.val 0)).setRank r.val { x with rot := 1, rotSeat := t.val }))) ∧
      (ro ≠ 0 → exec (.seatRotate q r t) s = .next (done (s.setReg (rkA r.val 0x3004) (status t.val ro)))) ∧
      (ro = 0 → ∃ u, exec (.seatRotate q r t) s = .next u ∧ u.reg (rkA r.val 0x3004) = status t.val 0 ∧ (u.rank r.val).rot = 3 ∧
        tfind (u.rank r.val).due 0 = some (s.rankAfter r.val 1040)) ∧
      (∃ u, exec (.seatCancel q r t) s = .next u ∧ u.reg (rkA r.val 0x3004) = status t.val 0 ∧ (u.rank r.val).rot = 0)) ∧
    (∀ (q : Req) (t : Seat), Sys2Proof.Claim.MayWrite s q (rkA r.val (0x3130 + 0x40 * t.val)) →
      let st := rkA r.val (0x311C + 0x40 * t.val)
      let data := fun (i : Nat) => rkA r.val (0x3124 + 0x40 * t.val + 4 * i)
      let ck := s.seatKey r.val t.val
      (t.val ≠ 12 → ∀ i ∈ [Instr.mcPatchWrite q r t, .mcPatchRead q r t, .mcPatchSetLevel q r t, .mcPatchInvalidate q r t],
        exec i s = .next (Sys2Proof.Claim.acked q (rkA r.val (0x3130 + 0x40 * t.val)) (s.setReg st 0x48000000))) ∧
      (t.val = 12 → s.hasReserve r.val = true → x.rot = 0 →
        (∃ u, exec (.mcPatchSetLevel q r t) s = .next u ∧ u.reg st = 0 ∧ (u.core ck).plevel = (s.reg (data 0)).setWidth 16) ∧
        (∃ u, exec (.mcPatchInvalidate q r t) s = .next u ∧ u.reg st = 0 ∧ (u.core ck).plevel = 0 ∧
          (∀ e ∈ (u.core ck).pmap, bit e.2 31 = false) ∧ (∀ w ∈ u.csErr, w / 2048 = ck → w % 2048 < 1024)) ∧
        (s.mcMap r.val t.val = false →
          (∃ u, exec (.mcPatchWrite q r t) s = .next u ∧ u.reg st = 0 ∧
            tget 0 (u.core ck).patch (s.mcIdx r.val t.val) = s.reg (data 2) ++ s.reg (data 1) ++ s.reg (data 0)) ∧
          (∃ u, exec (.mcPatchRead q r t) s = .next u ∧ u.reg st = 0 ∧
            u.reg (data 2) ++ u.reg (data 1) ++ u.reg (data 0) = tget 0 (s.core ck).patch (s.mcIdx r.val t.val))) ∧
        (s.mcMap r.val t.val = true → s.mcIdx r.val t.val < 32 →
          (bits (s.reg (data 0)) 25 16 ≤ 767 → (∀ e ∈ (s.core ck).pmap, bit e.2 31 = true → bits e.2 25 16 ≠ bits (s.reg (data 0)) 25 16) →
            ∃ u, exec (.mcPatchWrite q r t) s = .next u ∧ tget 0 (u.core ck).pmap (s.mcIdx r.val t.val) = s.reg (data 0) &&& 0x83FF00FF) ∧
          (∃ u, exec (.mcPatchRead q r t) s = .next u ∧ u.reg (data 0) = tget 0 (s.core ck).pmap (s.mcIdx r.val t.val)))))

/-! ### Stewards, the register fabric, interrupts, time -/

/-- REGISTER_FABRIC_ACCESS, STW_SEM_READ, STW_SEM_REL, STEWARD_FAULT, STW_RESTART, STW_RELOAD_RESTART (12 R361–R366, 17
R477–R479, 19 R509–R513). How long CTL_ACK, CTL_ERR and CTL_RDATA stand, and that a request to an island that is paused or restarts
itself waits while others are served, are the model's choices (log entries 74 and 117). -/
def Obligations.FabricAndStewards : Prop :=
  (∀ (s : State), s.fab.dbg = none → s.fab.ctl = none →
    let s1 := { s with fab := { s.fab with ack := false, err := false, rdata := 0 } }
    ((∀ i, i < 4 → (s.stwd i).acc = none) →
      (exec (.registerFabricAccess none) s = .next s1) ∧
      (∀ m : CtlReq, s.isOn dCfg = true → s.runs dCfg = true →
        let a := 4 * m.addr.toNat
        (s.serves a = false → exec (.registerFabricAccess (some m)) s = .next { s1 with fab := { s1.fab with ctl := some m } }) ∧
        (s.serves a = true →
        let s2 := { s1 with fab := { s1.fab with ctl := some m, last := 1 } }
        let acked := fun (u : State) (w : Word) (e : Bool) => { u with fab := { u.fab with ctl := none, ack := true, err := e, rdata := w } }
        (∀ n, s.ctlErr a m.be = some n →
          ∃ t, exec (.registerFabricAccess (some m)) s = .next t ∧ t.fab.ack = true ∧ t.fab.err = true ∧ t.fab.ctl = none ∧
            (bit (s.reg 8) 31 = false → t.reg 8 = BitVec.ofNat 32 (2 ^ 31 + n * 2 ^ 28 + a))) ∧
        (s.ctlErr a m.be = none → m.we = false → m.be ≠ 0 →
          exec (.registerFabricAccess (some m)) s = .next (acked (s2.readReg .ctl a).2 (s2.readReg .ctl a).1 false)) ∧
        (s.ctlErr a m.be = none → m.we = true → hostMay a = true →
          exec (.registerFabricAccess (some m)) s = .next (acked (s2.writeReg .ctl a m.wdata m.be) 0 false)) ∧
        (s.ctlErr a m.be = none → m.we = true → hostMay a = false →
          exec (.registerFabricAccess (some m)) s = .next (acked (s2.count 0x100) 0 false))))) ∧
    (∀ (j : StwNo) (x : StwAcc), (s.stwd j.val).acc = some x → (∀ i, i < 4 → i ≠ j.val → (s.stwd i).acc = none) → s.runs dStw = true →
      s.serves x.addr.toNat = true →
      let key := 1404 + j.val
      let c := s.ctx key
      let a := x.addr.toNat
      let ea : Word := BitVec.ofNat 32 (0xF0000000 + a)
      (s.ctlErr a 0xF ≠ none →
        ∃ t, exec (.registerFabricAccess none) s = .next t ∧ (t.stwd j.val).acc = none ∧
          (c.elev ≠ 2 → (t.ctx key).st = .entry ∧ (t.ctx key).exc = some ⟨5, ea, c.pc, false, false⟩)) ∧
      (s.ctlErr a 0xF = none → c.st = .sleep → c.wait = .fabric → c.v11pend = false → c.trig = false → x.we = false →
        s.matches key ea false true = [] → a = tmA 0x24 →
        ∃ t, exec (.registerFabricAccess none) s = .next t ∧ (t.stwd j.val).acc = none ∧ (t.ctx key).st = .run ∧
          (t.ctx key).os = s.reg (tmA 0x24) :: x.os ∧ (t.ctx key).a = x.a ∧ (t.ctx key).b = x.b) ∧
      (s.ctlErr a 0xF = none → c.st = .sleep → c.wait = .fabric → c.v11pend = false → c.trig = false → x.we = true →
        s.matches key ea false false = [] → a = tmA 0x24 →
        ∃ t, exec (.registerFabricAccess none) s = .next t ∧ (t.stwd j.val).acc = none ∧ (t.ctx key).st = .run ∧
          (t.ctx key).os = x.os ∧ t.reg (tmA 0x24) = x.data))) ∧
  (∀ (s : State) (i : Fin 32) (j : StwNo), Sys2Proof.Claim.Reaches s (.stw j) (swA (0x100 + 4 * i.val)) →
    let own := tget 0 s.sems i.val
    (own = 0 → ∃ t, exec (.stwSemRead (.stw j) i) s = .next t ∧ (t.stwd j.val).rd = BitVec.ofNat 32 (2 ^ 31 + j.val + 1) ∧
      tget 0 t.sems i.val = BitVec.ofNat 3 (j.val + 1) ∧ (∀ k, k ≠ i.val → tget 0 t.sems k = tget 0 s.sems k)) ∧
    (own ≠ 0 → ∃ t, exec (.stwSemRead (.stw j) i) s = .next t ∧ (t.stwd j.val).rd = own.setWidth 32 ∧ t.sems = s.sems)) ∧
  (∀ (s : State) (i : Fin 32) (j : StwNo), Sys2Proof.Claim.MayWrite s (.stw j) (swA 0x180) →
    exec (.stwSemRel (.stw j) i) s = .next (if (tget 0 s.sems i.val).toNat = j.val + 1 then { s with sems := tset s.sems i.val 0 } else s)) ∧
  (∀ (s : State) (i : StwNo) (cause : Fin 16), s.stwLive i.val = true → cause.val ≠ 0 → cause.val ≤ 5 →
    ∃ t, exec (.stewardFault i cause) s = .next t ∧ (t.stwd i.val).faulted = true ∧ (t.ctx (1404 + i.val)).st = .stopped ∧
      t.reg (swA (0x310 + 4 * i.val)) = (s.reg (swA (0x310 + 4 * i.val)) &&& 0x80000000) |||
        BitVec.ofNat 32 (cause.val * 2 ^ 24 + (s.ctx (1404 + i.val)).pc.toNat % 0x40000) ∧
      (∀ d, (t.pdom d).vote.getLsbD i.val = false) ∧ (∀ k, (tget 0 t.sems k).toNat ≠ i.val + 1) ∧
      (∀ n, tfind t.ic.bind n ≠ some i.val) ∧ t.ctr (swA 0x248) = s.ctr (swA 0x248) + 1 ∧
      t.cfg.phase = (if i.val = 0 ∧ s.cfg.phase = 2 then 5 else s.cfg.phase)) ∧
  (∀ (s : State) (q : Req) (i : StwNo), Sys2Proof.Claim.MayWrite s q (swA 0x308) →
    let cs := swA (0x310 + 4 * i.val)
    let key := 1404 + i.val
    let refused := Sys2Proof.Claim.acked q (swA 0x308) (s.setReg cs (s.reg cs ||| 0x80000000))
    ((s.stwd i.val).faulted = false → ∀ src, exec (.stwRestart q i) s = .next refused ∧ exec (.stwReloadRestart q i src) s = .next refused) ∧
    ((s.stwd i.val).faulted = true → s.fld cs 27 24 = 3 → exec (.stwRestart q i) s = .next refused) ∧
    ((s.stwd i.val).faulted = true → s.fld cs 27 24 ≠ 3 → s.microClean (156 + i.val) = true →
      ∃ t, exec (.stwRestart q i) s = .next t ∧ (t.stwd i.val).started = true ∧ (t.stwd i.val).faulted = false ∧
        (t.stwd i.val).prio = [] ∧ bit (t.reg cs) 31 = false ∧ t.ctx key = { Ctx.init key with st := .run, pc := s.vectorOf key 0 }) ∧
    (∀ src : Fin 512, (s.stwd i.val).faulted = true → src.val * 4096 + 0x40000 ≤ 0x200000 → s.stwCode.wf 0xFF = true →
      s.microClean (156 + i.val) = true →
      ∃ t, exec (.stwReloadRestart q i src) s = .next t ∧ (t.stwd i.val).started = true ∧ (t.stwd i.val).faulted = false ∧
        t.scR i.val 0 0x40000 = s.srR (src.val * 4096) 0x40000 ∧ t.ctx key = { Ctx.init key with st := .run, pc := t.vectorOf key 0 }))

/-- The interrupt controller's rows and LIB_STATUS_CLEAR (12 R369–R383, 16 R455). When the controller looks at its sources, and that an
entry is not taken over 15 frames, are the model's choices (log entries 60 and 38). -/
def Obligations.InterruptController : Prop :=
  (∀ (s : State), s.runs dStw = true →
    let s1 := s.icSample
    (((List.range 256).find? (fun n => (s1.route n).isSome) = none → exec .interruptBind s = .next s1) ∧
     (∀ n i, (List.range 256).find? (fun n => (s1.route n).isSome) = some n → s1.route n = some i →
      (∃ t, exec .interruptBind s = .next t ∧ t.boundTo n = some i ∧ tfind t.ic.timers n = none ∧ t.ic.lastStw = i ∧
        { t with ic := s.ic } = s) ∧
      s1.boundTo n = none ∧ s1.srcReady n = true ∧ i < 4 ∧ s1.stwEligible i = true ∧ s1.srcTarget n i = true ∧
      (s1.srcHeld n = false → ∀ j, j < 4 → s1.stwEligible j = true → s1.srcTarget n j = true → s1.running i ≤ s1.running j) ∧
      (s1.srcHeld n = true → s1.inWait i = true)))) ∧
  (∀ (s : State) (n : Byte) t0, s.runs dStw = true → tfind s.ic.timers n.toNat = some t0 →
    exec (.moderationExpiry n) s = .next (if t0 = 0 then { s with ic := { s.ic with timers := tdel s.ic.timers n.toNat } } else s)) ∧
  (∀ (s : State) (i : StwNo),
    let key := 1404 + i.val
    let c := s.ctx key
    s.canIssue key = true → c.ie = true → s.icSample.irqDue i.val = true → c.floors.length < 15 → (c.grp.left = 0 ∨ c.pc ≠ c.grp.next) →
    (c.elev = 2 → ∃ t, exec (.stewardInterruptEntry i) s = .next t ∧ (t.stwd i.val).faulted = true ∧ (t.ctx key).st = .stopped ∧
      t.fld (swA (0x310 + 4 * i.val)) 27 24 = 1) ∧
    (c.elev ≠ 2 → pushOk key c.msp = true → s.microClean (156 + i.val) = true →
    ∃ t, exec (.stewardInterruptEntry i) s = .next t ∧ (t.ctx key).st = .run ∧ (t.ctx key).pc = s.vectorOf key 19 ∧
      (t.ctx key).cause = 19 ∧ (t.ctx key).ie = false ∧ (t.ctx key).floors = (c.os.length, c.rs.length) :: c.floors ∧
      (t.ctx key).msp = BitVec.ofNat 32 (c.msp.toNat - 0x80) ∧ (t.ctx key).elev = c.elev ∧ (t.ctx key).os = c.os ∧ (t.ctx key).rs = c.rs ∧
      (t.ctx key).ls = [])) ∧
  (∀ (s : State) (i : StwNo) (lvl : Fin 16),
    let x := s.stwd i.val
    let top := x.prio.headD 0
    let frozen := fun (cause : Nat) => ({ s.setStw i.val { x with frozen := true, fcause := cause, flevel := lvl.val } with
      counters := tset s.counters (swA 0x230) (s.ctr (swA 0x230) + 1) })
    (Sys2Proof.Claim.MayWrite s (.stw i) (icA (0x100 + 0x40 * i.val)) → x.frozen = false →
      (top < lvl.val → exec (.icEnter (.stw i) i lvl) s = .next (s.setStw i.val { x with prio := lvl.val :: x.prio })) ∧
      (lvl.val ≤ top → exec (.icEnter (.stw i) i lvl) s = .next (frozen 1))) ∧
    (Sys2Proof.Claim.MayWrite s (.stw i) (icA (0x104 + 0x40 * i.val)) → x.frozen = false →
      (∀ rest, x.prio = lvl.val :: rest → exec (.icEoi (.stw i) i lvl) s = .next (s.setStw i.val { x with prio := rest })) ∧
      ((x.prio = [] ∨ top ≠ lvl.val) → exec (.icEoi (.stw i) i lvl) s = .next (frozen 2))) ∧
    (∀ q, q ≠ .stw i → Sys2Proof.Claim.MayWrite s q (icA (0x100 + 0x40 * i.val)) →
      exec (.icEnter q i lvl) s = .next (Sys2Proof.Claim.acked q (icA (0x100 + 0x40 * i.val)) s)) ∧
    (∀ q, q ≠ .stw i → Sys2Proof.Claim.MayWrite s q (icA (0x104 + 0x40 * i.val)) →
      exec (.icEoi q i lvl) s = .next (Sys2Proof.Claim.acked q (icA (0x104 + 0x40 * i.val)) s)) ∧
    (x.frozen = true → Sys2Proof.Claim.MayWrite s (.stw i) (icA (0x100 + 0x40 * i.val)) → exec (.icEnter (.stw i) i lvl) s = .next s) ∧
    (∀ q, Sys2Proof.Claim.MayWrite s q (icA (0x10C + 0x40 * i.val)) →
      exec (.icStkInit q i) s = .next (Sys2Proof.Claim.acked q (icA (0x10C + 0x40 * i.val))
        (s.setStw i.val { x with prio := [], frozen := false, fcause := 0, flevel := 0 })))) ∧
  (∀ (s : State) (q : Req) (k : Fin 8) (w : Word), 
    (Sys2Proof.Claim.MayWrite s q (icA (0x20 + 4 * k.val)) →
      exec (.icMaskSet q k w) s = .next (Sys2Proof.Claim.acked q (icA (0x20 + 4 * k.val))
        (s.setReg (icA (4 * k.val)) (s.reg (icA (4 * k.val)) ||| w)))) ∧
    (Sys2Proof.Claim.MayWrite s q (icA (0x40 + 4 * k.val)) →
      exec (.icMaskClr q k w) s = .next (Sys2Proof.Claim.acked q (icA (0x40 + 4 * k.val))
        (s.setReg (icA (4 * k.val)) (s.reg (icA (4 * k.val)) &&& ~~~ w))))) ∧
  (∀ (s : State) (q : Req) (w : Half),
    let isStw := match q with | .stw _ => true | _ => false
    (Sys2Proof.Claim.MayWrite s q (icA 0x80) → exec (.icPendSet q w) s =
      .next (Sys2Proof.Claim.acked q (icA 0x80)
        { s with ic := { s.ic with latches := s.ic.latches ||| (w &&& (if isStw then 0xFF00 else 0x00FF)) } })) ∧
    (Sys2Proof.Claim.MayWrite s q (icA 0x84) → exec (.icPendClr q w) s =
      .next (Sys2Proof.Claim.acked q (icA 0x84) { s with ic := { s.ic with latches := s.ic.latches &&& ~~~ w } }))) ∧
  (∀ (s : State) (q : Req) (n : Byte) (w : Word), Sys2Proof.Claim.MayWrite s q (icA (0x1000 + 4 * n.toNat)) →
    ∃ t, exec (.icSrcCfgWrite q n w) s = .next t ∧ t.reg (icA (0x1000 + 4 * n.toNat)) = w &&& 0x03FF0F0F ∧
      (∀ i, t.boundTo n.toNat = some i → t.srcTarget n.toNat i = true ∧ t.srcLevel n.toNat = s.srcLevel n.toNat)) ∧
  (∀ (s : State) (q : Req) (b : Byte), Sys2Proof.Claim.MayWrite s q (icA 0x88) →
    exec (.icHostDbSet q b) s = .next (Sys2Proof.Claim.acked q (icA 0x88)
      (s.setReg (icA 0x8C) (s.reg (icA 0x8C) ||| b.setWidth 32)))) ∧
  (∀ (s : State) (q : Req) (w : Word), Sys2Proof.Claim.MayWrite s q (swA 0x14) →
    ∃ t, exec (.libStatusClear q w) s = .next t ∧ t.reg (swA 0x14) = s.reg (swA 0x14) &&& ~~~ BitVec.ofNat 32 (w.toNat % 4096) ∧
      (∀ r, r < 12 → bit w r = true → bit (s.reg (swA 0x14)) r = true → (t.pdom r).bad = false) ∧
      (∀ r, bit w r = false → t.pdom r = s.pdom r))

/-- The TIME, PPS and SCHED rows (14). -/
def Obligations.TimeAndSchedules : Prop :=
  ∀ (s : State) (q : Req),
    let ns := (s.reg (tmA 0x24)).toInt
    let refused := Sys2Proof.Claim.acked q (tmA 0x30) { s with time := { s.time with refused := true } }
    let ev := fun (t : State) (n : Word) => t.reg (tmA 0x38) = (s.reg (tmA 0x38) ||| n)
    (∀ w, Sys2Proof.Claim.MayWrite s q (tmA 0x20) →
      exec (.timeFreqWrite q w) s = .next (Sys2Proof.Claim.acked q (tmA 0x20) (s.setReg (tmA 0x20)
        (if w.toInt > 4294967 then 4294967 else if w.toInt < -4294967 then -4294967 else w)))) ∧
    (Sys2Proof.Claim.MayWrite s q (tmA 0x30) →
      ((s.time.slew.isSome = true ∨ 1000000000 ≤ ns.natAbs) → exec (.timeStep q) s = .next refused) ∧
      (s.time.slew = none → ns.natAbs < 1000000000 →
        0 ≤ (s.timeNs : Int) + s.adjSec.toInt * 1000000000 + ns →
        ((s.timeNs : Int) + s.adjSec.toInt * 1000000000 + ns) < 2 ^ 48 * 1000000000 →
        ∃ t, exec (.timeStep q) s = .next t ∧ (t.timeNs : Int) = (s.timeNs : Int) + s.adjSec.toInt * 1000000000 + ns ∧ t.time.ns < 1000000000 ∧
          t.time.set = true ∧ t.time.refused = false ∧ ev t 2) ∧
      ((s.time.slew.isSome = true ∨ s.adjSec ≠ 0 ∨ 1000000 < ns.natAbs) → exec (.timeSlew q) s = .next refused) ∧
      (s.time.slew = none → s.adjSec = 0 → ns.natAbs ≤ 1000000 → ns ≠ 0 →
        exec (.timeSlew q) s = .next (Sys2Proof.Claim.acked q (tmA 0x30)
          { s with time := { s.time with refused := false, slew := some (ns.natAbs, decide (0 < ns), s.now + 16000) } })) ∧
      ((s.time.slew.isSome = true ∨ 1000000000 ≤ (s.reg (tmA 0x24)).toNat) → exec (.timeSet q) s = .next refused) ∧
      (s.time.slew = none → (s.reg (tmA 0x24)).toNat < 1000000000 →
        ∃ t, exec (.timeSet q) s = .next t ∧ t.time.sec = s.adjSec ∧ t.time.ns = (s.reg (tmA 0x24)).toNat ∧ t.time.frac = 0 ∧
          t.time.set = true ∧ t.time.refused = false ∧ ev t 2)) ∧
    (∀ n fwd t0, s.time.slew = some (n, fwd, t0) → t0 ≤ s.now → s.runs dTime = true → s.timeNs + 1 < 2 ^ 48 * 1000000000 →
      1 ≤ s.timeNs →
      ∃ t, exec .slewStep s = .next t ∧ t.timeNs = (if fwd then s.timeNs + 1 else s.timeNs - 1) ∧
        (1 < n → t.time.slew = some (n - 1, fwd, t0 + 16000) ∧ t.regs = s.regs) ∧ (n ≤ 1 → t.time.slew = none ∧ ev t 2)) ∧
    (Sys2Proof.Claim.Reaches s q (tmA 0) → q ≠ .dbg →
      ∃ t, exec (.timeNowNsRead q) s = .next t ∧ tget 0 t.time.capSec 0 = s.time.sec ∧ tget 0 t.time.capFrac 0 = s.time.frac ∧
        tget 0 t.time.capTick 0 = s.time.tick.setWidth 32 ∧ (q = .ctl → t.fab.rdata = BitVec.ofNat 32 s.time.ns) ∧
        (∀ i, q = .stw i → (t.stwd i.val).rd = BitVec.ofNat 32 s.time.ns)) ∧
    (s.isOn dTime = true → s.time.refLost = false →
      ∃ t, exec .timeRefLost s = .next t ∧ t.time = { s.time with refLost := true, locked := false } ∧ ev t 4) ∧
    (s.isOn dTime = true → s.time.refLost = true →
      exec .timeRefReturn s = .next { s with time := { s.time with refLost := false, locked := true } }) ∧
    (s.runs dTime = true → s.time.ppsDue = true → bit (s.reg (tmA 0x3C)) 31 = true →
      ∃ t, exec .ppsRise s = .next t ∧ t.time.ppsOut = true ∧ t.time.ppsDue = false ∧ ev t 1 ∧
        t.time.ppsFall = s.now + 1000 * max 1 (min 999999 (s.fld (tmA 0x3C) 19 0))) ∧
    (s.time.ppsOut = true → s.time.ppsFall ≤ s.now → exec .ppsFall s = .next { s with time := { s.time with ppsOut := false } }) ∧
    (∀ tb : Fin 64,
      let x := s.sch tb.val
      (Sys2Proof.Claim.MayWrite s q (tmA 0x800) →
        (∀ n, s.commitReason tb.val = n → n ≠ 0 →
          exec (.schedCommit q tb) s =
            .next (Sys2Proof.Claim.acked q (tmA 0x800) (s.setReg (tmA 0x804) (BitVec.ofNat 32 (2 ^ 28 + n * 2 ^ 25 + tb.val))))) ∧
        (s.commitReason tb.val = 0 → s.switchAt tb.val < 2 ^ 48 * 1000000000 →
          (s.timeNs + 1000 ≤ s.switchAt tb.val) ∧
          ∃ t, exec (.schedCommit q tb) s = .next t ∧ t.reg (tmA 0x804) = BitVec.ofNat 32 tb.val ∧ (t.sch tb.val).pend = true ∧
            (t.sch tb.val).swSec.toNat * 1000000000 + (t.sch tb.val).swNs = s.switchAt tb.val ∧ (t.sch tb.val).oper = x.oper) ∧
        exec (.schedCancel q tb) s = .next (Sys2Proof.Claim.acked q (tmA 0x800)
          ((s.setReg (tmA 0x804) (BitVec.ofNat 32 tb.val)).setSch tb.val { x with pend := false }))) ∧
      (s.runs dOut = true → x.pend = true →
        (x.swSec.toNat * 1000000000 + x.swNs ≤ s.copyNs →
          ∃ t, exec (.schedSwitch tb) s = .next t ∧ t.sch tb.val = { x with oper := !x.oper, pend := false } ∧ ev t 8 ∧
            t.ctr (tmA 0x900) = s.ctr (tmA 0x900) + 1 ∧ (∀ j, j ≠ tb.val → t.sch j = s.sch j)) ∧
        (s.copyNs < x.swSec.toNat * 1000000000 + x.swNs → exec (.schedSwitch tb) s = .next s)) ∧
      (∀ (e : Nat) (a : RegAddr) (w : Word), e < 1024 →
        (a.toNat = tmA (0x40000 + 0x1000 * tb.val + 4 * e) → Sys2Proof.Claim.MayWrite s q a.toNat →
          exec (.schedEntryWrite q a w) s = .next (Sys2Proof.Claim.acked q a.toNat
            (if x.pend then s.setSch tb.val { x with wrRefused := true } else s.setReg (schE tb.val (!x.oper) e) w))) ∧
        (a.toNat = tmA (0x80000 + 0x1000 * tb.val + 4 * e) → Sys2Proof.Claim.MayWrite s q a.toNat →
          exec (.schedEntryWrite q a w) s = .next (Sys2Proof.Claim.acked q a.toNat (s.setSch tb.val { x with wrRefused := true })))))

/-! ### Start, image, flash, minimal mode -/

/-- BOOT_REASON's CAUSE, FAIL and ATTEMPT. -/
def Sys2Proof.Claim.boot (s : State) : Nat × Nat × Nat := (s.fld (cfA 4) 23 16, s.fld (cfA 4) 7 0, s.fld (cfA 4) 27 26)

/-- POWER_ON_START, START_ATTEMPT_BEGIN, START_ATTEMPT_FAIL, IMAGE_LOADED, START_TIMEOUT, CFG_START_OK (15). That the
checks of an image run before anything is written, what remains after a failed attempt, that what follows a fault of steward 0 comes
with START_ATTEMPT_FAIL or the next 2 ns (log entry 63), and that CH 0 enters ATTACHING in minimal mode (log entry 83) are the
model's choices. -/
def Obligations.StartAndImage : Prop :=
  ∀ (s : State),
    let begun := fun (t : State) => t.blk = 1 ∧ t.cfg.phase = 1 ∧ t.cfg.cold = false ∧
      (∀ d, d < 20 → (t.pdom d).st = .on) ∧ (∀ r, r < 12 → (t.pdom r).plevel = 1)
    let failed := fun (t : State) (n : Nat) =>
      (Sys2Proof.Claim.boot t).2.1 = n ∧ t.reg (cfA 0xC) = s.reg (cfA 8) ∧
      (s.cfg.slot ≤ 1 → t.fld (cfA 8) 24 16 = n ∧ bit (t.reg (cfA 8)) 31 = true) ∧
      (s.cfg.attempts < 3 → t.blk = 0 ∧ t.cfg.phase = 4 ∧ t.cfg.attempts = s.cfg.attempts + 1 ∧ t.cfg.startAt = s.now + 1000000) ∧
      (3 ≤ s.cfg.attempts → t.blk = 3 ∧ t.chan 0 = 1 ∧ bit (t.reg (cfA 4)) 24 = true ∧
        (∀ d, (t.pdom d).st = (if d = dIn ∨ d = dOut ∨ d = dStw ∨ d = dCfg then .on else .off)))
    (s.cfg.cold = true → ∃ t, exec .powerOnStart s = .next t ∧ begun t ∧ t.cfg.attempts = 1 ∧
      Sys2Proof.Claim.boot t = (1, 0, 1) ∧ t.pins.porst = true ∧ t.pins.vinCore = true ∧ t.cfg.slot = b2n t.cfg.prefB) ∧
    (s.cfg.cold = false → exec .powerOnStart s = .next s) ∧
    (s.cfg.phase = 4 → s.pm.coolWait = false → s.cfg.startAt ≤ s.now → s.eg.frames = [] →
      ∃ t, exec .startAttemptBegin s = .next t ∧ begun t ∧ t.cfg.attempts = s.cfg.attempts) ∧
    (∀ code : Byte, s.cfg.phase = 1 → 1 ≤ code.toNat → code.toNat ≤ 3 →
      ∃ t, exec (.startAttemptFail code) s = .next t ∧ failed t code.toNat) ∧
    (s.cfg.phase = 5 →
      (∃ t, exec (.startAttemptFail 0xD) s = .next t ∧ failed t 13) ∧
      (Sys2Proof.Claim.MayWrite s (.stw 0) (cfA 0) → exec (.cfgStartOk (.stw 0) true) s = .next s) ∧
      (s.pending = [] → ∃ t, step s = .next t ∧ (Sys2Proof.Claim.boot t).2.1 = 13 ∧ t.blk = (if 3 ≤ s.cfg.attempts then 3 else 0))) ∧
    (∀ e, s.cfg.phase = 1 → s.imageBad s.cfg.slot = some e → e.fail < 256 → e.ty < 256 → e.ix < 256 →
      ∃ t, exec .imageLoaded s = .next t ∧ failed t e.fail) ∧
    (s.cfg.phase = 1 → s.imageBad s.cfg.slot = none → (s.loadImage s.cfg.slot).microClean 156 = true →
      ∃ t, exec .imageLoaded s = .next t ∧ t.cfg.phase = 2 ∧ t.cfg.startAt = s.now ∧ t.blk = s.blk ∧
        t.reg (cfA 0x18) = BitVec.ofNat 32 (s.flN (slotBase s.cfg.slot + 16) 4) ∧ (t.stwd 0).started = true ∧
        (t.stwd 0).faulted = false ∧ (t.ctx 1404).st = .run ∧ t.flash = s.flash) ∧
    (s.cfg.phase = 2 → (s.cfg.startAt + 2000000000) / 1000 < s.now / 1000 → ∃ t, exec .startTimeout s = .next t ∧ failed t 12) ∧
    (Sys2Proof.Claim.MayWrite s (.stw 0) (cfA 0) → s.blk = 1 → s.cfg.phase = 2 →
      s.now / 1000 ≤ (s.cfg.startAt + 2000000000) / 1000 →
      ∃ t, exec (.cfgStartOk (.stw 0) true) s = .next t ∧ t.blk = 2 ∧ t.cfg.phase = 3 ∧ bit (t.reg (cfA 4)) 31 = true ∧ t.chan 0 = 1 ∧
        (∀ ch, ch < 1024 → bit (s.inMap ch) 12 = true → t.chan ch = 1) ∧ (∀ d, d < 20 → (t.pdom d).vote.getLsbD 0 = true)) ∧
    (∀ (i : StwNo) ok, (i ≠ 0 ∨ ok = false) → Sys2Proof.Claim.MayWrite s (.stw i) (cfA 0) → exec (.cfgStartOk (.stw i) ok) s = .next s)

/-- The FLASH rows, HOLDUP_CHANGE, FLASH_CMD_COMPLETE and the MINIMAL rows (15 R440–R443). What the same cycle of CK_CFG is
(log entry 107), the frame that carries a reply (log entry 46), and that the lowest REASON that applies is reported, a cancelled
command has REASON 5 with REFUSED 0, and OP 5 with nothing deferred changes nothing (log entry 62), are the model's choices. -/
def Obligations.FlashAndMinimal : Prop :=
  (∀ (s : State) (q : Req) (i : Instr) (kind : Nat),
    (i, kind) ∈ [(Instr.flashRead q, 1), (.flashProgram q, 2), (.flashErase4k q, 3), (.flashErase64k q, 4)] →
    Sys2Proof.Claim.MayWrite s q (cfA 0x20) →
    let n := s.flReason kind
    let cmd : Bool → FlCmd := fun d => ⟨kind, s.fld (cfA 0x24) 25 0, s.fld (cfA 0x28) 20 0, s.fld (cfA 0x2C) 16 0, d, none⟩
    let energyOk := kind = 1 ∨ (bit (s.reg (cfA 0x34)) 31 = true ∧ s.energy kind ≤ s.fld (cfA 0x34) 7 0)
    (n ≠ 0 → ∃ t, exec i s = .next t ∧ t.cfg = s.cfg ∧ t.fld (cfA 0x30) 29 28 = 2 ∧ t.fld (cfA 0x30) 27 25 = n ∧
      t.reg (cfA 0x38) = (s.reg (cfA 0x38) ||| 2)) ∧
    (n = 0 → energyOk → ∃ t, exec i s = .next t ∧ t.cfg.flash = some (cmd false) ∧ t.reg (cfA 0x30) = 0x80000000 ∧ t.flash = s.flash) ∧
    (n = 0 → ¬ energyOk → ∃ t, exec i s = .next t ∧ t.cfg.flash = some (cmd true) ∧
      t.reg (cfA 0x30) = BitVec.ofNat 32 (2 ^ 30 + s.energy kind) ∧ t.reg (cfA 0x38) = (s.reg (cfA 0x38) ||| 4) ∧ t.flash = s.flash)) ∧
  (∀ (s : State) (q : Req), Sys2Proof.Claim.MayWrite s q (cfA 0x20) →
    ((∀ f, s.cfg.flash = some f → f.deferred = false ∧ f.tried.map (· / 5) ≠ some (s.now / 5)) →
      exec (.flashCancel q) s = .next (Sys2Proof.Claim.acked q (cfA 0x20) s)) ∧
    (∀ f, s.cfg.flash = some f → f.deferred = true ∨ f.tried.map (· / 5) = some (s.now / 5) →
      exec (.flashCancel q) s =
        .next (Sys2Proof.Claim.acked q (cfA 0x20) (({ s with cfg := { s.cfg with flash := none } }).setReg (cfA 0x30) 0x0A000000)))) ∧
  (∀ (s : State) (valid : Bool) (v : Byte), s.ready dCfg = true →
    let w : Word := BitVec.ofNat 32 ((if valid then 2 ^ 31 else 0) + v.toNat)
    (s.cfg.flash = none → exec (.holdupChange valid v) s = .next (s.setReg (cfA 0x34) w)) ∧
    (∀ f, s.cfg.flash = some f → f.deferred = true →
      (valid = true → s.energy f.kind ≤ v.toNat →
        exec (.holdupChange valid v) s = .next (({ s.setReg (cfA 0x34) w with
          cfg := { s.cfg with flash := some { f with deferred := false, tried := some s.now } } }).setReg (cfA 0x30) 0x80000000)) ∧
      ((valid = false ∨ v.toNat < s.energy f.kind) → exec (.holdupChange valid v) s = .next (s.setReg (cfA 0x34) w)))) ∧
  (∀ (s : State) f, s.cfg.flash = some f → f.deferred = false → s.runs dCfg = true → s.flash.wf 0xFF = true → s.sram.wf 0 = true →
    (∃ t, exec (.flashCmdComplete true) s = .next t ∧ t.cfg.flash = none ∧ t.reg (cfA 0x30) = 0x10000000 ∧
      t.reg (cfA 0x38) = (s.reg (cfA 0x38) ||| 2) ∧ t.flash = s.flash ∧ t.sram = s.sram) ∧
    (∃ t, exec (.flashCmdComplete false) s = .next t ∧ t.cfg.flash = none ∧ t.reg (cfA 0x30) = 0 ∧
      t.reg (cfA 0x38) = (s.reg (cfA 0x38) ||| 1) ∧
      (f.kind = 1 → t.flash = s.flash ∧ (f.sram + f.len ≤ 0x200000 → t.srR f.sram f.len = s.flR f.addr f.len)) ∧
      (f.kind = 2 → t.sram = s.sram ∧ (f.sram + f.len ≤ 0x200000 →
        (∀ i, i < f.len → mget 0xFF s.flash (f.addr + i) &&& mget 0 s.sram (f.sram + i) = mget 0 s.sram (f.sram + i) →
          mget 0xFF t.flash (f.addr + i) = mget 0 s.sram (f.sram + i)) ∧
        (∀ a, a < f.addr ∨ f.addr + f.len ≤ a → mget 0xFF t.flash a = mget 0xFF s.flash a))) ∧
      ((f.kind = 3 ∨ f.kind = 4) → t.sram = s.sram ∧
        let n := if f.kind = 3 then 4096 else 65536
        (∀ a, f.addr ≤ a → a < f.addr + n → mget 0xFF t.flash a = 0xFF) ∧
        (∀ a, a < f.addr ∨ f.addr + n ≤ a → mget 0xFF t.flash a = mget 0xFF s.flash a)))) ∧
  (∀ (s : State) (via : MinVia) (m : MinCmd), s.blk = 3 → s.isOn dStw = true → s.isOn dCfg = true → s.minTake via = some m →
    let op := numAt m.blk 0 1
    let a := numAt m.blk 4 4
    let n := numAt m.blk 8 4
    let bs := (m.blk.drop 16).take n
    let u := m.rest
    let defer := fun (kind : Nat) =>
      (s.setReg (cfA 0x30) (BitVec.ofNat 32 (2 ^ 30 + s.energy kind))).setReg (cfA 0x38) (s.reg (cfA 0x38) ||| 4)
    let v := if u.cfg.flash = none ∧ bit (u.reg (cfA 0x30)) 30 = true then u.setReg (cfA 0x30) 0 else u
    (op = 1 → exec (.minimalStatus via) s = .next (u.minReply m 0 u.minWords)) ∧
    (∀ err : Bool,
      let ends := fun (t : State) => if err then v.minReply m 2 [] else t.minReply m 0 []
      (op = 2 → (a % 65536 ≠ 0 ∨ n % 65536 ≠ 0 ∨ minRefused a n = true → exec (.minimalErase ⟨via, err⟩) s = .next (u.minReply m 1 [])) ∧
        (a % 65536 = 0 → n % 65536 = 0 → minRefused a n = false →
          exec (.minimalErase ⟨via, err⟩) s = .next (if u.heldUp 4 then ends (v.flashErase a n) else defer 4))) ∧
      (op = 3 → (m.tooLong n = true ∨ minRefused a n = true ∨ bs.length ≠ n → exec (.minimalWrite ⟨via, err⟩) s = .next (u.minReply m 1 [])) ∧
        (m.tooLong n = false → minRefused a n = false → bs.length = n →
          exec (.minimalWrite ⟨via, err⟩) s = .next (if u.heldUp 2 then ends (v.flashProg a bs) else defer 2))) ∧
      (op = 4 → exec (.minimalRead ⟨via, err⟩) s = .next (if m.tooLong n = true ∨ minRefused a n = true then u.minReply m 1 []
        else if err then u.minReply m 2 [] else u.minReply m 0 (u.flR a n))) ∧
      (op = 5 → (u.heldUp 3 = false → exec (.minimalSetpref ⟨via, err⟩) s = .next (defer 3)) ∧
        (u.heldUp 3 = true → u.heldUp 2 = false → exec (.minimalSetpref ⟨via, err⟩) s = .next (defer 2)) ∧
        (u.heldUp 2 = true → u.heldUp 3 = true → err = true → exec (.minimalSetpref ⟨via, err⟩) s = .next (v.minReply m 2 [])))) ∧
    (op = 5 → u.heldUp 2 = true → u.heldUp 3 = true → u.flash.wf 0xFF = true →
      ∃ t, exec (.minimalSetpref ⟨via, false⟩) s = .next t ∧ t.cfg.prefB = decide (a % 2 = 1) ∧
        ∃ k, (u.bcbPick ≠ some k ∧ k < 2) ∧ t.flR (bcbA k) 16384 = u.newBcb a) ∧
    (op = 6 → ∃ t, exec (.minimalRestart via) s = .next t ∧ t.blk = 0 ∧ t.cfg.phase = 4 ∧ t.cfg.attempts = 1 ∧
      Sys2Proof.Claim.boot t = (3, 0, 1)) ∧
    ((op = 0 ∨ 6 < op) → exec (.minimalStatus via) s = .next u)) ∧
  (∀ (s : State), (s.ic.latches.getLsbD 0 = true →
      ∃ m, s.minTake .mailbox = some m ∧ m.blk = s.srR 0x1FC000 4112 ∧ m.frame = none ∧
        m.rest.ic = { s.ic with latches := s.ic.latches &&& 0xFFFE } ∧
        { m.rest with ic := s.ic, sramErr := s.sramErr, counters := s.counters } = s) ∧
    (s.ic.latches.getLsbD 0 = false → s.minTake .mailbox = none)) ∧
  (∀ (s : State) (m : MinCmd) (st : Nat) (d : List Byte), s.sram.wf 0 = true →
    let r := m.blk.take 4 ++ leBytes 4 st ++ leBytes 4 d.length ++ leBytes 4 0 ++ d
    (m.frame = none → (s.minReply m st d).srR 0x1FE000 r.length = r ∧ bit ((s.minReply m st d).reg (icA 0x8C)) 0 = true) ∧
    (∀ f, m.frame = some f → s.chan 0 = 2 → ∃ e, (s.minReply m st d).eg.frames = s.eg.frames ++ [e] ∧ e.ch = 0 ∧
      e.head = (f.drop 6).take 6 ++ f.take 6 ++ [0x88, 0xB5] ++ r ++ [0, 0, 0, 0]))

/-! ### Power -/

/-- The PMC, DOMAIN, LIBRARY_RELOAD, BROWNOUT, PLEVEL, P0, THERMAL, BOXED, WAKE_N and clock rows (16), PORST and VIN_CORE_LOSS
(19 R523). The model's choices: the library's layout (log entry 41), that WAKE_N is latched during the entry in every BLK_STATE (log
entry 65), that a sensor's reading changes with the thermal rows only (log entry 71), the moment of each effect of an entry's steps
(log entry 105), what the same cycle is (log entry 107), how the commands of a guest that is gone end (log entry 121), and that a flash
operation under way ends as its domain goes (log entry 122). -/
def Obligations.PowerResult : Prop :=
  ∀ (s : State),
    (∀ (q : Req) (w : Word),
      let own := match q with | .ctl => 4 | .stw i => i.val | .dbg => 5
      (Sys2Proof.Claim.MayWrite s q (pmA 0) → ∃ t, exec (.pmcVoteSet q w) s = .next t ∧
        { t with dom := s.dom } = Sys2Proof.Claim.acked q (pmA 0) s ∧
        ∀ d b, b < 8 → (t.pdom d).vote.getLsbD b = ((s.pdom d).vote.getLsbD b || (decide (b = own) && decide (d < 20) && bit w d))) ∧
      (Sys2Proof.Claim.MayWrite s q (pmA 4) → ∃ t, exec (.pmcVoteClr q w) s = .next t ∧
        { t with dom := s.dom } = Sys2Proof.Claim.acked q (pmA 4) s ∧
        ∀ d b, b < 8 → (t.pdom d).vote.getLsbD b = ((s.pdom d).vote.getLsbD b &&
          !(decide (b = own) && decide (d < 20) && bit w d && decide (tfind (s.pdom d).setAt own ≠ some (s.now / 10)))))) ∧
    (∀ (q : Req) (d : Dom) (w : Word), Sys2Proof.Claim.MayWrite s q (pmA (0x100 + 4 * d.val)) →
      ∃ t, exec (.pmcDomCfgWrite q d w) s = .next t ∧ t.reg (pmA (0x100 + 4 * d.val)) = w &&& 0x303 ∧
        { t with regs := s.regs, dom := s.dom } = Sys2Proof.Claim.acked q (pmA (0x100 + 4 * d.val)) s) ∧
    (s.pmcRuns = true → ∀ d : Dom,
      let x := s.pdom d.val
      (x.st = .on → s.voteByte d.val ≠ 0 → exec (.domainEntry d) s = .next s) ∧
      (x.st = .on → s.voteByte d.val = 0 → ∃ t, exec (.domainEntry d) s = .next t ∧ (t.pdom d.val).st = s.domTarget d.val ∧
        (t.pdom d.val).entering = some (s.domTarget d.val) ∧
        (t.pdom d.val).tdue = s.now + (if s.domTarget d.val = .hold then 100 else 4000) ∧
        (∀ j, j ≠ d.val → { t.pdom j with latch := (s.pdom j).latch } = s.pdom j) ∧ { t with dom := s.dom, time := s.time, fab := s.fab } = s ∧
        t.fab = (if d.val = dCfg then { s.fab with ctl := none } else s.fab) ∧
        t.time = (if d.val = dTime then { s.time with copyNs := s.timeNs, copyTick := s.time.tick } else s.time)) ∧
      (∀ dst, x.entering = some dst →
        (s.passes (x.tdue - (if dst = .hold then 50 else 3000)) = true → (s.passes (x.tdue - 2000) = false ∨ dst = .hold) →
          (d.val < 12 → let y := (s.entryStep d.val).rank d.val; y.out = [] ∧ y.gq = [] ∧ y.gkill = [] ∧ y.gcmt = []) ∧ (∀ k, sentBy d.val k = true → (s.entryStep d.val).link k = [])) ∧
        (s.passes (x.tdue - (if dst = .hold then 50 else 3000)) = false →
          s.entryStep d.val = if dst ≠ .hold ∧ s.passes (x.tdue - 2000) = true then s.save d.val else s)) ∧
      (∀ dst, x.entering = some dst → x.tdue ≤ s.now →
        ∃ t, exec (.domainEntryComplete d) s = .next t ∧ (t.pdom d.val).entering = none ∧
          (dst = .hold → { t with dom := s.dom, regs := s.regs, counters := s.counters, ranks := s.ranks } = s ∧
            (∀ r, { t.rank r with due := (s.rank r).due } = s.rank r)) ∧
          (dst ≠ .hold → d.val < 12 → (∀ c y, c < 13 → y < 0x40000 → t.spR (d.val * 13 + c) y 1 = [0]) ∧
            (dst = .rest → t.code = s.code) ∧ (dst = .off → ∀ c y, c < 13 → y < 0x10000 → t.codeR (d.val * 13 + c) y 1 = [0xFF])) ∧
          (dst ≠ .hold → d.val = dCfg ∨ d.val = dStw → ∀ f, s.cfg.flash = some f →
            (f.kind = 1 ∨ f.deferred = true → t.flash = s.flash) ∧
            (f.kind = 3 ∨ f.kind = 4 → f.deferred = false → s.flash.wf 0xFF = true →
              let n := if f.kind = 3 then 4096 else 65536
              t.cfg.flash = none ∧ (∀ a, f.addr ≤ a → a < f.addr + n → mget 0xFF t.flash a = 0xFF) ∧
              ∀ a, a < f.addr ∨ f.addr + n ≤ a → mget 0xFF t.flash a = mget 0xFF s.flash a)) ∧
          (dst ≠ .hold → d.val < 12 → (t.rank d.val).reinjQ = [])) ∧
      (s.blk ≠ 0 → x.st ≠ .on → x.entering = none → x.waking = false → x.bad = false → (x.latch = true ∨ s.voteByte d.val ≠ 0) →
        s.depsOn d.val = true →
        let n := match x.st with | .hold => 100 | .rest => 24000 | _ => 40000
        ∃ t, exec (.domainWake d) s = .next t ∧ t.pdom d.val = { x with waking := true, latch := false, tdue := s.now + n } ∧
          (∀ j, j ≠ d.val → { t.pdom j with latch := (s.pdom j).latch } = s.pdom j) ∧
          { t with dom := s.dom, ranks := s.ranks } = s ∧ (x.st ≠ .hold → t.ranks = s.ranks) ∧
          (∀ r, { t.rank r with due := (s.rank r).due } = s.rank r)) ∧
      (x.waking = true → x.tdue ≤ s.now →
        ∃ t, exec (.domainWakeComplete d) s = .next t ∧ (t.pdom d.val).st = .on ∧ (t.pdom d.val).waking = false ∧
          (d.val < 12 → (t.pdom d.val).plevel = 1) ∧
          (x.st = .hold →
            { t with dom := s.dom, ranks := s.ranks, dbg := s.dbg, ctxs := s.ctxs, counters := s.counters, tb := s.tb } = s ∧
            t.dbg = (if d.val = dDbg then { s.dbg with tap := .reset, ir := 1 } else s.dbg) ∧
            { t.tb with arb := s.tb.arb } = s.tb ∧ (d.val ≠ dTblN → d.val ≠ dTblS → t.tb = s.tb) ∧
            (∀ tl a, tileDom tl = d.val → tfind t.tb.arb tl = some a → a.park = none) ∧
            (∀ r, let y := s.rank r; { t.rank r with due := y.due, gq := y.gq, gkill := y.gkill, gcmt := y.gcmt } = y) ∧
            (∀ r, r ≠ d.val → d.val ≠ dStw → t.rank r = s.rank r) ∧
            (12 ≤ d.val ∨ bit (t.gstCapWord d.val) 31 = true → t.ctxs = s.ctxs ∧ t.counters = s.counters ∧
              ∀ r, { t.rank r with due := (s.rank r).due } = s.rank r) ∧
            (d.val < 12 → bit (t.gstCapWord d.val) 31 = false →
              (t.rank d.val).gq = [] ∧ (t.rank d.val).gkill = [] ∧ (t.rank d.val).gcmt = [] ∧
              (∀ i, i < 117 → ∀ h ∈ (t.ctx (d.val * 117 + i)).hs, h.slot = 3 → h.killed = false → h.fin = false →
                h.last = true ∧ h.err = some 0xFE) ∧
              (∀ k, k < 117 * d.val ∨ 117 * d.val + 117 ≤ k → t.ctx k = s.ctx k))) ∧
          (x.st = .off → d.val < 12 → (t.pdom d.val).loading = true ∧ (t.rank d.val).next = s.ing.lanePip ∧ (t.rank d.val).marks = [])) ∧
      (∀ (r : Rank) l, (s.pdom r.val).pchg = some l → ∃ t, exec (.plevelChangeComplete r) s = .next t ∧ (t.pdom r.val).plevel = l ∧
        { t with dom := s.dom, ranks := s.ranks } = s ∧ (∀ j, j ≠ r.val → t.rank j = s.rank j) ∧
        { t.rank r.val with due := (s.rank r.val).due } = s.rank r.val ∧
        (∀ k n, tfind (s.rank r.val).due k = some n → tfind (t.rank r.val).due k =
          some (if k = 1 then n else s.now + ((n - s.now) * plHalf (s.pdom r.val).plevel + plHalf l - 1) / plHalf l)))) ∧
    (∀ (r : Rank), s.runs r.val = true → s.runs dStw = true → (s.pdom r.val).loading = true → s.code.wf 0xFF = true →
      (s.libGood r.val = true → ∃ t, exec (.libraryReloadComplete r) s = .next t ∧ (t.pdom r.val).loading = false ∧
        (t.rank r.val).nx = BitVec.ofNat 16 (s.srN (libRec r.val) 2) ∧
        (∀ c, c < 13 → t.codeR (r.val * 13 + c) 0 0x10000 = s.srR (libCode r.val) 0x10000 ∧
          (t.core (r.val * 13 + c)).vbase = BitVec.ofNat 32 (s.srN (libRec r.val + 6) 2) ∧ (t.core (r.val * 13 + c)).dseed ≠ 0)) ∧
      (s.libGood r.val = false → ∃ t, exec (.libraryReloadComplete r) s = .next t ∧ (t.pdom r.val).bad = true ∧ (t.pdom r.val).st = .off ∧
        bit (t.reg (swA 0x14)) r.val = true ∧ (t.rank r.val).out = [] ∧ (∀ k, sentBy r.val k = true → t.link k = []))) ∧
    (∀ (r : Rank), s.awake = true → (s.pdom r.val).st = .rest → (s.pdom r.val).entering = none → (s.pdom r.val).waking = false →
      ∃ t, exec (.brownout r) s = .next t ∧ (t.pdom r.val).st = .off ∧ (t.pdom r.val).lost = true ∧
        t.ctr (pmA 0x810) = s.ctr (pmA 0x810) + 1 ∧ bit (t.reg (pmA 0x500)) 0 = true ∧
        (∀ c y, c < 13 → y < 0x10000 → t.codeR (r.val * 13 + c) y 1 = [0xFF])) ∧
    (∀ (r : Rank), s.awake = true → (s.pdom r.val).st = .rest → (s.pdom r.val).entering = none → (s.pdom r.val).waking = true →
      ((s.pdom r.val).tdue - 24000) / 10 = s.now / 10 →
      ∃ t, exec (.brownout r) s = .next t ∧ (t.pdom r.val).st = .off ∧ (t.pdom r.val).waking = true ∧
        (t.pdom r.val).tdue = (s.pdom r.val).tdue - 24000 + 40000 ∧ t.ctr (pmA 0x810) = s.ctr (pmA 0x810) + 1) ∧
    (∀ (r : Rank), ((s.pdom r.val).exh = false → s.credit0 r.val = 0 → ∃ t, exec (.p0CreditExhausted r) s = .next t ∧
        (t.pdom r.val).exh = true ∧ bit (t.reg (pmA 0x500)) 2 = true ∧ t.ctr (pmA 0x818) = s.ctr (pmA 0x818) + 1) ∧
      ((s.pdom r.val).exh = true → 2000 ≤ s.credit0 r.val → ∃ t, exec (.p0CreditRestored r) s = .next t ∧ (t.pdom r.val).exh = false ∧
        { t with dom := s.dom } = s)) ∧
    (s.awake = true → s.blk ≠ 5 → ∀ (i : Fin 16) (temp : BitVec 11),
      (460 < temp.toInt → s.pm.force = false → ∃ t, exec (.thermalForce i temp) s = .next t ∧ t.pm.force = true ∧
        t.reg (pmA (0x400 + 4 * i.val)) = temp.setWidth 32 ∧ t.ctr (pmA 0x820) = s.ctr (pmA 0x820) + 1 ∧ bit (t.reg (pmA 0x500)) 1 = true) ∧
      ((s.sense i.val temp).hotter 440 = false → s.pm.coolWait = false → ∃ t, exec (.thermalForceEnd i temp) s = .next t ∧
        t.pm.force = false ∧ t.reg (pmA (0x400 + 4 * i.val)) = temp.setWidth 32) ∧
      ((s.pdom dPmc).paused = true → exec (.thermalLimit i temp) s = .next (s.sense i.val temp)) ∧
      (500 ≤ temp.toInt → s.pm.boxing = false → (s.pdom dPmc).paused = false → ∃ t, exec (.thermalLimit i temp) s = .next t ∧ t.pm.boxing = true ∧
        (∀ d, d < 20 → (t.pdom d).st = .off ∧ (t.pdom d).vote = 0) ∧ t.fld (pmA 0x504) 25 24 = 2 ∧ t.fld (pmA 0x504) 23 20 = i.val ∧
        t.fld (pmA 0x504) 10 0 = temp.toNat)) ∧
    (s.pm.boxing = true → (s.pdom dPmc).paused = false → s.pm.boxAt ≤ s.now → s.pm.boxWake = false → ∃ t, exec .boxedEntry s = .next t ∧ t.blk = 5 ∧
      t.pm.boxing = false ∧ t.sp = [] ∧ t.ctxs = [] ∧ (s.cfg.flash = none → t.flash = s.flash) ∧ t.ao = s.ao) ∧
    (s.awake = true →
      (s.pm.boxing = true → exec .wakeN s = .next { s with pm := { s.pm with boxWake := true } }) ∧
      (s.pm.boxing = false → s.blk = 5 → s.fld (pmA 0x504) 25 24 ≠ 2 → ∃ t, exec .wakeN s = .next t ∧ t.blk = 1 ∧
        Sys2Proof.Claim.boot t = (2, 0, 1) ∧ (∀ d, d < 20 → (t.pdom d).st = .on)) ∧
      (s.pm.boxing = false → s.blk = 2 → ∃ t, exec .wakeN s = .next t ∧ (t.pdom dCfg).vote.getLsbD 4 = true ∧ bit (t.reg (pmA 0x500)) 6 = true) ∧
      (s.blk ≠ 5 → bit (s.reg clkmon) 0 = false → ∃ t, exec .refclkLost s = .next t ∧ bit (t.reg clkmon) 0 = true ∧
        bit (t.reg (pmA 0x500)) 3 = true ∧ { t with regs := s.regs } = s) ∧
      (bit (s.reg clkmon) 0 = true → exec .refclkReturn s = .next (s.setReg clkmon (s.reg clkmon &&& 0xFFFFFFFE))) ∧
      (∀ k : Fin 4, s.clocked k.val = true → ∃ t, exec (.clockStop k) s = .next t ∧ bit (t.reg clkmon) (k.val + 1) = true ∧
        bit (t.reg (pmA 0x500)) 3 = true ∧ { t with regs := s.regs } = s)) ∧
    (∃ t, exec .porst s = .next t ∧ t.pins.porst = false ∧ t.cfg.cold = true ∧ t.blk = 0 ∧ t.regs = [] ∧ t.sp = [] ∧ t.ctxs = [] ∧ t.ao = [] ∧
      t.dom = [] ∧ t.now = s.now ∧ (s.cfg.flash = none → t.flash = s.flash)) ∧
    (∃ t, exec .vinCoreLoss s = .next t ∧ t.pins.vinCore = false ∧ t.cfg.cold = true ∧ t.blk = 0 ∧ t.regs = [] ∧ t.sp = [] ∧ t.ctxs = [] ∧
      t.ao = [] ∧ t.dom = [] ∧ t.now = s.now ∧ (s.cfg.flash = none → t.flash = s.flash))

/-! ### Faults -/

/-- The WATCHDOG, WDOG_KICK, ISLAND, INGRESS_FLUSH, DCO_FAIL, VOTED_FAULT_MASKED and RANK_CODE rows (17, 16 R463). The library's layout, the
skip tokens that take the place of the packets that an ingress restart discards, and what the timebase does while it restarts, are the
model's choices (log entries 41, 47 and 48). -/
def Obligations.FaultsResult : Prop :=
  (∀ (s : State) (r : Rank) (cn : CoreNo) t,
    let co := s.core (r.val * 13 + cn.val)
    s.runs r.val = true → s.seatOf r.val cn.val = some t → co.retired = false → co.halted = false → co.svc = none →
    (co.wdog < 4096 → exec (.coreWatchdogExpiry r cn) s = .next s) ∧
    (co.stopq ≠ [] → exec (.coreWatchdogExpiry r cn) s = .next s) ∧
    (4096 ≤ co.wdog → co.stopq = [] → ∃ u, exec (.coreWatchdogExpiry r cn) s = .next u ∧ (u.core (r.val * 13 + cn.val)).retired = true ∧
      u.seatCore r.val t = none ∧ u.ctr (rkA r.val 0x1A0) = s.ctr (rkA r.val 0x1A0) + 1 ∧ u.logs = s.logs)) ∧
  (∀ (s : State) (i : StwNo), s.stwLive i.val = true → (s.core (stwCore i.val)).halted = false → s.fld (swA 0x300) 15 0 ≠ 0 →
    ((s.core (stwCore i.val)).wdog < 1000 * s.fld (swA 0x300) 15 0 → exec (.stewardWatchdogExpiry i) s = .next s) ∧
    (1000 * s.fld (swA 0x300) 15 0 ≤ (s.core (stwCore i.val)).wdog →
      ∃ t, exec (.stewardWatchdogExpiry i) s = .next t ∧ (t.stwd i.val).faulted = true ∧ t.fld (swA (0x310 + 4 * i.val)) 27 24 = 2)) ∧
  (∀ (s : State) (q : Req), Sys2Proof.Claim.MayWrite s q (swA 0x304) →
    (∀ i, q = .stw i → exec (.wdogKickOwn q) s = .next (s.setCore (stwCore i.val) { s.core (stwCore i.val) with wdog := 0 })) ∧
    exec (.wdogKickBlk q) s = .next (Sys2Proof.Claim.acked q (swA 0x304) { s with blkWdog := 0, blkWarn := false })) ∧
  (∀ (s : State), s.runs dStw = true → (∀ i, i < 4 → (s.core (stwCore i)).halted = false) → s.fld (swA 0x300) 31 16 ≠ 0 →
    (s.blkWdog < 1000000 * s.fld (swA 0x300) 31 16 → exec .blockWatchdogExpiry s = .next s) ∧
    (1000000 * s.fld (swA 0x300) 31 16 ≤ s.blkWdog →
      (s.cfg.phase = 2 → ∃ t, exec .blockWatchdogExpiry s = .next t ∧ (Sys2Proof.Claim.boot t).2.1 = 14) ∧
      (s.cfg.phase = 3 → s.blkWarn = false → exec .blockWatchdogExpiry s =
        .next (({ s with blkWdog := 0, blkWarn := true } : State).setReg (swA 0x320) (s.reg (swA 0x320) ||| 1))) ∧
      (s.cfg.phase = 3 → s.blkWarn = true →
        (∀ i, i < 4 → (s.stwd i).started = true → s.microClean (156 + i) = true) →
        ∃ t, exec .blockWatchdogExpiry s = .next t ∧ t.blkWarn = false ∧ t.blkWdog = 0 ∧
        bit (t.reg (swA 0x320)) 1 = true ∧ ∀ i, i < 4 → (s.stwd i).started = true →
          (t.ctx (stwKey i)).st = .run ∧ (t.stwd i).faulted = false ∧ t.fld (swA (0x310 + 4 * i)) 27 24 = 6 ∧
          t.fld (swA (0x310 + 4 * i)) 17 0 = (s.ctx (stwKey i)).pc.toNat % 0x40000))) ∧
  (∀ (s : State) (i : Isl),
    let d := match i with | .ingress => dIn | .egress => dOut | .time => dTime
    let no := match i with | .ingress => 0 | .egress => 1 | .time => 2
    let x := s.pdom d
    let down := fun (t : State) (cause : Nat) => (t.pdom d).restarting = true ∧ (t.pdom d).fdue = s.now + 8000 ∧ (t.pdom d).rcause = cause ∧
      (i = .ingress → t.ing.vq = [] ∧ t.ing.vmsgs = s.ing.vmsgs ∧ (∀ w ∈ t.ing.wq, s.ing.wq.head? = some w) ∧ (∀ e ∈ t.ing.opn, e.2 = .skip) ∧
        (∀ y ∈ t.link 0, ∃ lane pip, y = .skip lane pip) ∧ t.buf.store = [] ∧ t.ing.flush ≠ []) ∧
      (i = .egress → t.link 13 = [] ∧ ∀ f ∈ t.eg.frames, f.st = 2 ∨ f.st = 3) ∧
      (i = .time → t.time.slew = none ∧ t.time.ppsOut = false ∧ t.timeNs = s.timeNs ∧ t.time.tick = s.time.tick)
    (s.isOn d = true → s.leaving d = false → x.restarting = false →
      (∀ cause : Fin 4, cause.val ≠ 0 → ∃ t, exec (.islandSelfRestart i cause) s = .next t ∧ down t cause.val) ∧
      (∃ t, exec (.islandWatchdogExpiry i) s = .next t ∧ down t 3)) ∧
    (s.dcoOn d = true → x.restarting = true →
      (s.now < x.fdue → exec (.islandRestartComplete i) s = .next s) ∧
      (x.fdue ≤ s.now → ∃ t, exec (.islandRestartComplete i) s = .next t ∧ (t.pdom d).restarting = false ∧ bit (t.reg (swA 0x320)) 2 = true ∧
        (i = .time → t.time.restored = true) ∧
        t.ctr (swA 0x238) = s.ctr (swA 0x238) + 1 ∧ t.ctr (swA 0x240) = s.ctr (swA 0x240) + BitVec.ofNat 64 x.rlost ∧
        ((s.log (swA 0x324)).ents.length < 4 → (t.log (swA 0x324)).ents =
          (s.log (swA 0x324)).ents ++ [BitVec.ofNat 32 (2 ^ 31 + no * 2 ^ 28 + x.rcause * 2 ^ 26 + x.rlost % 4096)])))) ∧
  (∀ (s : State) m, s.ing.flush = [m] → s.ing.vmsgs = [] → m.ledger = true →
    (∀ r : Rank, r.val ∈ m.ranks → (s.isOn r.val = false ∨ s.runs r.val = true) →
      ∃ t m', exec (.ingressFlush (.rank r)) s = .next t ∧ t.ing.flush = [m'] ∧ r.val ∉ m'.ranks ∧ m'.eg = m.eg ∧ m'.excq = m.excq) ∧
    (m.eg = true → s.runs dOut = true →
      ∃ t m', exec (.ingressFlush .egress) s = .next t ∧ t.ing.flush = [m'] ∧ m'.eg = false ∧ ∀ f ∈ t.eg.frames, f.md.verdict ≠ 0) ∧
    (∀ r : Rank, r.val ∈ m.excq →
      ∃ t m', exec (.ingressFlush (.excq r)) s = .next t ∧ t.ing.flush = [m'] ∧ r.val ∉ m'.excq)) ∧
  (∀ (s : State) (d : Fin 20),
    let k := if d.val = 19 then 20 else d.val
    let x := s.pdom k
    (s.dcoOn d.val = true → ∃ t, exec (.dcoFail d) s = .next t ∧ bit (t.reg clkmon) (5 + d.val) = true ∧ bit (t.reg (pmA 0x500)) 3 = true ∧
      (pauses d.val = true → (t.pdom k).paused = true) ∧
      ((d.val = dIn ∨ d.val = dOut ∨ d.val = dTime) → (t.pdom k).restarting = true)) ∧
    (s.dcoOn d.val = true → pauses d.val = true → bit (s.reg clkmon) (5 + d.val) = true → x.paused = false →
      exec (.islandPause d) s = .next (s.setDom k { x with paused := true, fdue := s.now + 4100 })) ∧
    (let late := s.stood k (x.fdue - 4100)
     (x.entering = none → (k = 20 ∨ x.st = .on) → x.tdue ≤ x.fdue - 4100 → late = s.now - (x.fdue - 4100)) ∧
     (pauses d.val = true → x.paused = true → x.fdue ≤ s.now →
      (k ≠ 20 ∨ s.tooHot = none ∨ s.pm.boxing = true ∨ s.blk = 5 → ∃ t, exec (.islandResume d) s = .next t ∧ (t.pdom k).paused = false ∧
        { t with dom := s.dom, ranks := s.ranks, pm := s.pm } = s ∧ (k ≠ 20 → t.pm = s.pm) ∧ (k = 20 → t.ranks = s.ranks) ∧
        (∀ r j, k ≠ 20 → tfind s.ranks r ≠ none → tfind (t.rank r).due j =
          (tfind (s.rank r).due j).map (fun m => if (if j = 1 then k = dStw else k = r) then m + late else m)) ∧
        (∀ r, { t.rank r with due := (s.rank r).due } = s.rank r) ∧
        (k = 20 → (∀ e, ((s.pdom e).entering ≠ none ∨ (s.pdom e).waking = true) → e ≠ 20 → (t.pdom e).tdue = (s.pdom e).tdue + late) ∧
          (s.pm.boxing = true → t.pm.boxAt = s.pm.boxAt + late))) ∧
      (∀ n, k = 20 → s.tooHot = some n → s.pm.boxing = false → s.blk ≠ 5 →
        ∃ t, exec (.islandResume d) s = .next t ∧ (t.pdom 20).paused = false ∧ t.pm.boxing = true ∧
          t.fld (pmA 0x504) 25 24 = 2 ∧ t.fld (pmA 0x504) 23 20 = n)))) ∧
  (∀ (s : State), s.isOn dIn = true → ∃ t, exec .votedFaultMasked s = .next t ∧ bit (t.reg (swA 0x320)) 3 = true ∧
    ((s.log (swA 0x324)).ents.length < 4 →
      ∃ e, (t.log (swA 0x324)).ents = (s.log (swA 0x324)).ents ++ [e] ∧ e.toNat / 2 ^ 28 = 11 ∧ e.toNat % 2 ^ 26 = 0)) ∧
  (∀ (s : State) (q : Req) (r : Rank),
    let x := s.rank r.val
    (Sys2Proof.Claim.MayWrite s q (rkA r.val 0x3028) →
      (∀ n, s.codeReason r.val 1 = n → n ≠ 0 → n ≠ 3 →
        exec (.rankCodeLoad q r) s =
          .next (Sys2Proof.Claim.acked q (rkA r.val 0x3028) (s.setReg (rkA r.val 0x302C) (BitVec.ofNat 32 (2 ^ 30 + n * 2 ^ 27))))) ∧
      (s.codeReason r.val 1 = 3 → ∃ t, exec (.rankCodeLoad q r) s = .next t ∧ t.reg (rkA r.val 0x302C) = 0x58000000 ∧ t.code = s.code ∧
        t.ranks = s.ranks) ∧
      (s.codeReason r.val 1 = 0 → ∃ t, exec (.rankCodeLoad q r) s = .next t ∧ (t.rank r.val).codeLoad = true ∧ t.reg (rkA r.val 0x302C) = 0 ∧
        t.code = s.code) ∧
      (∀ n, s.codeReason r.val 2 = n → n ≠ 0 →
        exec (.rankCodeCommit q r) s =
          .next (Sys2Proof.Claim.acked q (rkA r.val 0x3028) (s.setReg (rkA r.val 0x302C) (BitVec.ofNat 32 (2 ^ 30 + n * 2 ^ 27))))) ∧
      (s.codeReason r.val 2 = 0 → ∃ t, exec (.rankCodeCommit q r) s = .next t ∧ (t.rank r.val).nx = BitVec.ofNat 16 (s.srN (libRec r.val) 2) ∧
        (∀ c, c < 13 → (t.core (r.val * 13 + c)).vbase = BitVec.ofNat 32 (s.srN (libRec r.val + 6) 2)))) ∧
    (s.runs r.val = true → s.runs dStw = true → x.codeLoad = true → s.dueNow r.val 1 = true → s.code.wf 0xFF = true →
      ∃ t, exec (.rankCodeLoadComplete r) s = .next t ∧ (t.rank r.val).codeLoad = false ∧
        (∀ c, s.seatCore r.val 12 = some c → t.codeR (r.val * 13 + c) 0 0x10000 = s.srR (libCode r.val) 0x10000)))

/-! ### Debug -/

/-- The limits of a fold group (07 R212–R214): at most 4 operations in 16 bytes, 2 of classes A and X, 1 of X, of L and of T,
an ending instruction last, a class Z or illegal one alone. -/
def Sys2Proof.Claim.legalGroup (g : List GIns) : Prop :=
  1 ≤ g.length ∧ g.length ≤ 4 ∧ (g.map (fun i => i.len)).sum ≤ 16 ∧
  g.countP (fun i => decide (i.cls = .a) || decide (i.cls = .x)) ≤ 2 ∧ g.countP (fun i => decide (i.cls = .x)) ≤ 1 ∧
  g.countP (fun i => decide (i.cls = .l)) ≤ 1 ∧ g.countP (fun i => decide (i.cls = .t)) ≤ 1 ∧
  (∀ i ∈ g.dropLast, i.cls ≠ .e) ∧ (∀ i ∈ g, i.cls = .z ∨ i.cls = .bad → g.length = 1)

/-- The TAP, DACC, DBG and XTRIG rows (18), the fabric's end of a debug access, and the group that a step runs (18 R501, 07 R212–R215).
The model's choices: a TAP row is one scan that ends in Run-Test/Idle (log entry 118), HALT_REQ stands until HALTED and WAIT counts on
(log entry 67), offsets that no row lists and the low address bits (log entry 69), what counts for a group's limits (log entry 90), and how requests to
cores of a paused island wait (log entry 129). -/
def Obligations.DebugResult : Prop :=
  ∀ (s : State), s.isOn dDbg = true →
    (∀ key a, Sys2Proof.Claim.legalGroup (s.groupAt key a)) ∧
    (∀ key n, let c := s.ctx key
      ((s.enterGroup key n).ctx key).grp =
        if c.grp.left ≠ 0 ∧ c.pc = c.grp.next then ⟨c.grp.idx + 1, c.grp.left - 1, c.pc + BitVec.ofNat 32 n, c.grp.flow⟩
        else ⟨0, (s.groupAt key c.pc.toNat).length - 1, c.pc + BitVec.ofNat 32 n, min 2 (c.grp.flow + 1)⟩) ∧
    (∀ key k, (s.core (coreOf key)).stepCtx = some k → (s.ctx key).st = .run →
      let c := s.ctx key
      let u := (s.issued key).core (coreOf key)
      (c.grp.left ≠ 0 ∧ c.pc = c.grp.next → u.stepCtx = some k ∧ u.haltReq = (s.core (coreOf key)).haltReq) ∧
      (c.grp.left = 0 ∨ c.pc ≠ c.grp.next → u.stepCtx = none ∧ u.haltReq = true)) ∧
    (exec .tapReset s = .next { s with dbg := { s.dbg with tap := .reset, ir := 1 } }) ∧
    (s.dbg.tap = .reset ∨ s.dbg.tap = .idle →
      let scanned := fun (ir : BitVec 6) (dr : List Bool) => { s with dbg := { s.dbg with tap := .idle, irCap := 1, ir := ir, dr := dr } }
      (exec .idcode s = .next (scanned 1 (bitsOf 32 (0x20144001 + 2 * Config.jtagMfr.toNat)))) ∧
      (exec .dstatus s = .next (scanned 2 (bitsOf 32 (s.dbg.level.toNat + (if s.anyHalted then 4 else 0) + 16 * s.blk.toNat)))) ∧
      (exec .bypass s = .next (scanned 0x3F [false])) ∧
      (∀ a w : Word, ∀ i ∈ [Instr.daccRead a, .daccWrite a w],
        ∃ t, exec i s = .next t ∧ t.dbg.tap = .idle ∧ t.dbg.irCap = 1 ∧ t.dbg.ir = 8 ∧ t.dbg.dr.length = 66 ∧
          t.dbg.dr.drop 32 = bitsOf 32 s.dbg.accAddr.toNat ++ bitsOf 2 s.dbg.accStatus ∧
          (s.dbg.accRead = true → s.dbg.accStatus = 0 ∨ s.dbg.accStatus = 3 → t.dbg.dr.take 32 = bitsOf 32 s.dbg.accData.toNat))) ∧
    (∀ a w : Word,
      let only := fun (t : State) => { t with dbg := s.dbg, fab := s.fab, freeCount := s.freeCount } = s
      (s.dbg.accStatus = 1 → ∀ i ∈ [Instr.daccRead a, .daccWrite a w],
        ∃ t, exec i s = .next t ∧ t.dbg.accStatus = 1 ∧ t.dbg.regs = s.dbg.regs ∧ t.fab = s.fab ∧ only t) ∧
      (s.dbg.accStatus ≠ 1 →
        let refused := fun (i : Instr) => ∃ t, exec i s = .next t ∧ t.dbg.accStatus = 2 ∧ t.dbg.accAddr = a ∧ t.dbg.regs = s.dbg.regs ∧
          t.fab = s.fab ∧ only t
        (s.dbg.level ≠ 0 → refused (.daccWrite a w)) ∧
        (s.dbg.level = 2 → refused (.daccRead a)) ∧
        (s.dbg.level = 1 → 0x4000000 ≤ a.toNat → refused (.daccRead a)) ∧
        (a.toNat < 0x4000000 → s.ctlErr (a.toNat / 4 * 4) 0xF ≠ none → refused (.daccRead a) ∧ refused (.daccWrite a w)) ∧
        (a.toNat < 0x4000000 → s.ctlErr (a.toNat / 4 * 4) 0xF = none →
          ((s.dbg.level = 0 ∨ s.dbg.level = 1) → ∃ t, exec (.daccRead a) s = .next t ∧ t.dbg.accStatus = 1 ∧ t.dbg.accAddr = a ∧
            t.fab.dbg = some (false, BitVec.ofNat 26 a.toNat, 0) ∧ only t) ∧
          (s.dbg.level = 0 → ∃ t, exec (.daccWrite a w) s = .next t ∧ t.dbg.accStatus = 1 ∧ t.dbg.accAddr = a ∧
            t.fab.dbg = some (true, BitVec.ofNat 26 a.toNat, w) ∧ only t)) ∧
        (s.dbg.level = 0 → a = 0x30000004 →
          (∃ t, exec (.daccRead a) s = .next t ∧ t.dbg.accStatus = 0 ∧ t.dbg.accRead = true ∧
            t.dbg.accData = s.dreg 0x30000004 &&& 0xFF00) ∧
          (w &&& 0xFF = 0 → ∃ t, exec (.daccWrite a w) s = .next t ∧ t.dbg.accStatus = 0 ∧
            t.dreg 0x30000004 = ((w &&& 0xF000) ||| (s.dreg 0x30000004 &&& 0xF00 &&& ~~~ w)))))) ∧
    -- the fabric ends a debug access of a block register
    (∀ (we : Bool) (addr : RegAddr) (w : Word), s.fab.dbg = some (we, addr, w) → s.runs dDbg = true → s.fab.ctl = none →
      (∀ i, i < 4 → (s.stwd i).acc = none) →
      let a := addr.toNat / 4 * 4
      let ends := fun (t : State) (n : Nat) => exec (.registerFabricAccess none) s = .next t ∧ t.fab.dbg = none ∧ t.dbg.accStatus = n ∧
        t.dbg.accRead = !we ∧ t.dbg.ir = s.dbg.ir ∧ t.dbg.dr = s.dbg.dr
      (s.serves a = false → ∃ t, exec (.registerFabricAccess none) s = .next t ∧ t.fab.dbg = s.fab.dbg ∧ t.dbg = s.dbg) ∧
      (s.serves a = true →
        (s.ctlErr a 0xF ≠ none → ∃ t, ends t 2 ∧ t.regs = s.regs) ∧
        (s.ctlErr a 0xF = none → we = false →
          (a = tmA 0x24 → ∃ t, ends t 0 ∧ t.dbg.accData = s.reg a) ∧
          (inWindow a = true → ∃ t, ends t (if tfind s.sramErr ((a - 0x3000000) / 8) = some true then 3 else 0) ∧
            t.dbg.accData = BitVec.ofNat 32 (leNat (s.srR (a - 0x3000000) 4)) ∧ t.sramErr = s.sramErr)) ∧
        (s.ctlErr a 0xF = none → we = true → s.dbg.level = 0 → a = inA 8 →
          ∃ t, ends t 0 ∧ t.reg (inA 8) = w &&& 0x3FF))) ∧
    -- an access of a paused island waits in its crossing
    (∀ a w : Word, s.dbg.level = 0 → s.dbg.accStatus ≠ 1 → 0x4000000 ≤ a.toNat → s.daccHeld a = true →
      (∃ t, exec (.daccRead a) s = .next t ∧ t.dbg.accStatus = 1 ∧ t.dbg.accAddr = a ∧ t.dbg.pend = some (false, a, 0) ∧
        { t with dbg := s.dbg, freeCount := s.freeCount } = s) ∧
      (∃ t, exec (.daccWrite a w) s = .next t ∧ t.dbg.accStatus = 1 ∧ t.dbg.accAddr = a ∧ t.dbg.pend = some (true, a, w) ∧
        { t with dbg := s.dbg, freeCount := s.freeCount } = s)) ∧
    (∀ (tg : DbgTarget) ck, s.dbgCore tg = some ck →
      let co := s.core ck
      let ends := fun (t : State) (st : Nat) => t.dbg.accStatus = st ∧ t.dbg.regs = s.dbg.regs ∧
        { t with cores := s.cores, dbg := s.dbg, freeCount := s.freeCount, blkWdog := s.blkWdog } = s
      let only := fun (t : State) (x : Core) => ends t 0 ∧ t.dbg.held = s.dbg.held ∧ t.core ck = x ∧ ∀ j, j ≠ ck → t.core j = s.core j
      (s.dbg.level = 0 → s.dbg.accStatus ≠ 1 → s.isOn (coreDom ck) = true → s.dbgWaits ck = false →
        (co.retired = false → co.halted = false → ∃ t, exec (.dbgHalt tg) s = .next t ∧ only t { co with haltReq := true } ∧ t.blkWdog = s.blkWdog) ∧
        (co.halted = true → co.haltReq = false → (∀ k ∈ keysOf ck, (s.ctx k).wait = .none) →
          (∃ t, exec (.dbgResume tg) s = .next t ∧ only t { co with halted := false, stepCtx := none, wdog := 0 }) ∧
          (co.stepCtx = none → ∀ k : Fin 16, k.val < (keysOf ck).length →
            ∃ t, exec (.dbgStep tg k) s = .next t ∧ only t { co with stepCtx := some k.val } ∧ t.blkWdog = s.blkWdog))) ∧
      (s.dbg.level = 0 → s.dbg.accStatus ≠ 1 → s.isOn (coreDom ck) = true → (s.pdom (coreDom ck)).paused = true →
        (∃ t, exec (.dbgHalt tg) s = .next t ∧ ends t 0 ∧ t.cores = s.cores ∧ t.dbg.held = s.dbg.held ++ [(ck, .halt)]) ∧
        (∃ t, exec (.dbgResume tg) s = .next t ∧ ends t 0 ∧ t.cores = s.cores ∧ t.dbg.held = s.dbg.held ++ [(ck, .resume)]) ∧
        (∀ k : Fin 16, ∃ t, exec (.dbgStep tg k) s = .next t ∧ ends t 0 ∧ t.cores = s.cores ∧ t.dbg.held = s.dbg.held ++ [(ck, .step k.val)])) ∧
      ((s.dbg.level ≠ 0 ∨ s.dbg.accStatus = 1) → ∀ k : Fin 16, ∀ i ∈ [Instr.dbgHalt tg, .dbgResume tg, .dbgStep tg k],
        ∃ t, exec i s = .next t ∧ ends t (if s.dbg.accStatus = 1 then 1 else 2) ∧ t.cores = s.cores ∧ t.dbg.held = s.dbg.held) ∧
      (s.runs (coreDom ck) = true → co.haltReq = true →
        (s.coreQuiet ck = true → (keysOf ck).any s.holdsLock = false → ∃ t, exec (.coreHalted tg) s = .next t ∧
          (t.core ck).halted = true ∧ (t.core ck).haltReq = false ∧
          (∀ k ∈ keysOf ck, t.ctx k = { s.ctx k with grp := { (s.ctx k).grp with flow := 0 } }) ∧
          (∀ k, k ∉ keysOf ck → t.ctx k = s.ctx k)) ∧
        ((s.coreQuiet ck = false ∨ (keysOf ck).any s.holdsLock = true) → exec (.coreHalted tg) s = .next s) ∧
        (co.haltCy < 256 → exec (.lockHaltTimeout tg) s = .next s) ∧
        (256 ≤ co.haltCy → (keysOf ck).any s.holdsLock = true → ∃ t, exec (.lockHaltTimeout tg) s = .next t ∧
          (s.coreQuiet ck = true → (t.core ck).halted = true) ∧ (s.coreQuiet ck = false → t.core ck = co) ∧
          bit (t.dreg (s.dbgBase (ctxKey ck 0))) 29 = true ∧
          (∀ l ∈ t.tb.locks, l.owner ∉ keysOf ck) ∧ (∀ l ∈ s.tb.locks, l.owner ∉ keysOf ck → l ∈ t.tb.locks)))) ∧
    (∀ (m : BitVec 4),
      let fired := fun (t : State) (n : BitVec 4) => t.dbg.xout = s.dbg.xout ||| n ∧
        (∀ ck ∈ s.subscribers n.toNat, s.dbgWaits ck = false → (s.core ck).retired = false → (s.core ck).halted = false →
          (t.core ck).haltReq = true) ∧
        { t with cores := s.cores, dbg := s.dbg, freeCount := s.freeCount } = s
      let en := BitVec.ofNat 4 (bits (s.dreg 0x30000004) 15 12)
      (s.dbg.level = 0 → s.dbg.accStatus ≠ 1 →
        (∃ t, exec (.xtrigFire m) s = .next t ∧ fired t m ∧ t.dbg.accStatus = 0 ∧
          t.dreg 0x30000004 = ((s.dreg 0x30000004 &&& 0xFF00) ||| BitVec.ofNat 32 (m.toNat * 256))) ∧
        (∃ t, exec (.xtrigResume m) s = .next t ∧ t.dbg.accStatus = 0 ∧ t.dreg 0x30000004 = s.dreg 0x30000004 &&& 0xFF00 ∧
          (∀ ck ∈ s.subscribers m.toNat, s.dbgWaits ck = false → (s.core ck).isHalted = true → (t.core ck).halted = false) ∧
          ((∀ key, (s.ctx key).wait = .none) →
            { t with cores := s.cores, dbg := s.dbg, freeCount := s.freeCount, blkWdog := s.blkWdog } = s))) ∧
      ((s.dbg.level ≠ 0 ∨ s.dbg.accStatus = 1) → ∀ i ∈ [Instr.xtrigFire m, .xtrigResume m],
        ∃ t, exec i s = .next t ∧ t.dbg.accStatus = (if s.dbg.accStatus = 1 then 1 else 2) ∧ t.dbg.regs = s.dbg.regs ∧ t.dbg.xout = s.dbg.xout ∧
          { t with dbg := s.dbg, freeCount := s.freeCount } = s) ∧
      (m &&& en = 0 → exec (.dbgXtrigIn m) s = .next s) ∧
      (m &&& en ≠ 0 → ∃ t, exec (.dbgXtrigIn m) s = .next t ∧ fired t (m &&& en) ∧
        t.dreg 0x30000004 = (s.dreg 0x30000004 ||| BitVec.ofNat 32 ((m &&& en).toNat * 256)))) ∧
    (s.dbg.level = 0 → s.dbg.accStatus ≠ 1 → ∀ e rest i is, (s.log 0x30000050).ents = e :: rest → s.dbg.lockIdx = i :: is →
      ∃ t, exec .dbgLockLogRead s = .next t ∧ t.log 0x30000050 = ⟨rest, false⟩ ∧ t.dbg.lockIdx = is ∧ t.dreg 0x30000054 = BitVec.ofNat 32 i ∧
        t.dbg.accStatus = 0 ∧ t.dbg.accAddr = 0x30000050 ∧
        t.dbg.accData = (e ||| (if (s.log 0x30000050).ovf then 0x40000000 else 0))) ∧
    ((s.dbg.level ≠ 0 ∨ s.dbg.accStatus = 1) → ∃ t, exec .dbgLockLogRead s = .next t ∧
      t.dbg.accStatus = (if s.dbg.accStatus = 1 then 1 else 2) ∧ t.dbg.lockIdx = s.dbg.lockIdx ∧
      { t with dbg := s.dbg, freeCount := s.freeCount } = s)

/-! ### Registers -/

/-- The log-register rows: requester and address. -/
def Sys2Proof.Claim.logRow : Instr → Option (Req × Nat)
  | .ledgerUeLogRead q => some (q, ldA 0xC)
  | .tblUeLogRead q => some (q, tbA 0x80)
  | .rankMcLogRead q r => some (q, rkA r.val 0x3008)
  | .rankSpUeLogRead q r => some (q, rkA r.val 0x300C)
  | .rankRepairLogRead q r => some (q, rkA r.val 0x3010)
  | .bufErrLogRead q => some (q, bufA 0x2C)
  | .fltIslLogRead q => some (q, swA 0x324)
  | .rankGstLateRead q r => some (q, rkA r.val 0x2090)
  | _ => none

/-- Requester `q` has been given the data `w`. -/
def Sys2Proof.Claim.answered (t : State) (q : Req) (w : Word) : Prop :=
  match q with
  | .ctl => t.fab.rdata = w ∧ t.fab.ack = true ∧ t.fab.err = false
  | .stw i => (t.stwd i.val).rd = w
  | .dbg => t.dbg.accData = w ∧ t.dbg.accStatus = 0 ∧ t.dbg.accRead = true

/-- The read rows and REGISTER_WRITE (00 R6–R8, R528; 02 R71; 19 R509, R512, R513, R515). That an access to an island which is paused or
restarts itself stands for its completion is the model's choice (log entry 117). -/
def Obligations.RegisterAccess : Prop :=
  (∀ (s : State) (i : Instr) (q : Req) (a : Nat), Sys2Proof.Claim.logRow i = some (q, a) → Sys2Proof.Claim.Reaches s q a →
    let l := s.log a
    let w := (l.ents.headD 0) ||| (if l.ovf then 0x40000000 else 0)
    (q ≠ .dbg → ∃ t, exec i s = .next t ∧ Sys2Proof.Claim.answered t q w ∧ t.log a = ⟨l.ents.drop 1, false⟩ ∧ t.lwLast a = w ∧
      (∀ b, b ≠ a → t.log b = s.log b)) ∧
    (q = .dbg → exec i s = .next { s with dbg :=
      { s.dbg with accStatus := 0, accAddr := BitVec.ofNat 32 a, accData := s.lwLast a, accRead := true } })) ∧
  (∀ (s : State) (i : Instr) (a : Nat),
    ((i, a) ∈ [(Instr.ctlErrInfoRead .dbg, 8), (.ledgerPeakRead .dbg, ldA 4), (.timeNowNsRead .dbg, tmA 0)] ∨
      (∃ (r : Rank) (seat : Seat), i = .faultrecCountRead .dbg r seat ∧ a = rkA r.val (0x1000 + 0x20 * seat.val + 0x18)) ∨
      (∃ r : Rank, i = .rankPuntPop .dbg r ∧ a = rkA r.val 0x14)) →
    Sys2Proof.Claim.Reaches s .dbg a → ∃ t, exec i s = .next t ∧ { t with dbg := s.dbg } = s ∧ t.dbg.accStatus = 0 ∧
      t.dbg.accRead = true ∧ (a = 8 ∨ a % 0x100000 ∈ (List.range 13).map (fun j => 0x1018 + 0x20 * j) → t.dbg.accData = s.reg a)) ∧
  (∀ (s : State) (q : Req),
    (Sys2Proof.Claim.Reaches s q 8 → q ≠ .dbg →
      ∃ t, exec (.ctlErrInfoRead q) s = .next t ∧ Sys2Proof.Claim.answered t q (s.reg 8) ∧ t.reg 8 = 0) ∧
    (∀ (r : Rank) (seat : Seat), let a := rkA r.val (0x1000 + 0x20 * seat.val + 0x18)
      Sys2Proof.Claim.Reaches s q a → q ≠ .dbg →
      ∃ t, exec (.faultrecCountRead q r seat) s = .next t ∧ Sys2Proof.Claim.answered t q (s.reg a) ∧ t.reg a = 0) ∧
    (Sys2Proof.Claim.Reaches s q (ldA 4) → q ≠ .dbg →
      ∃ t, exec (.ledgerPeakRead q) s = .next t ∧ Sys2Proof.Claim.answered t q (BitVec.ofNat 32 s.led.peak) ∧ t.led = { s.led with peak := s.fill }) ∧
    (∀ (r : Rank), Sys2Proof.Claim.Reaches s q (rkA r.val 0x14) → q ≠ .dbg →
      let due := fun (p : Nat × ExcE) => p ∈ (s.rank r.val).exc ∧ p.2.popped = false ∧ s.isHeld r.val p.1 = true
      ((¬ ∃ p, due p) → ∃ t, exec (.rankPuntPop q r) s = .next t ∧ Sys2Proof.Claim.answered t q 0 ∧ t.ranks = s.ranks) ∧
      ((∃ p, due p) → ∃ t p, exec (.rankPuntPop q r) s = .next t ∧ due p ∧ (∀ p', due p' → p.2.order ≤ p'.2.order) ∧
        Sys2Proof.Claim.answered t q (BitVec.ofNat 32 (2 ^ 31 + p.1)) ∧
        (∀ e ∈ (t.rank r.val).exc, e.1 = p.1 → e.2.popped = true))) ∧
    (∀ (addr : RegAddr) b, let a := addr.toNat / 4 * 4
      ctrBase a = some b → Sys2Proof.Claim.Reaches s q a → q ≠ .dbg →
      (a = b → ∃ t, exec (.counterLoRead q addr) s = .next t ∧ Sys2Proof.Claim.answered t q ((s.ctr b).setWidth 32) ∧
        t.hiLatch q = (s.ctr b >>> 32).setWidth 32 ∧ t.counters = s.counters) ∧
      (a ≠ b → ∃ t, exec (.counterHiRead q addr) s = .next t ∧ Sys2Proof.Claim.answered t q (s.hiLatch q) ∧ t.counters = s.counters)) ∧
    (∀ (r : Rank) (seat : Seat) (w : Word), let a := rkA r.val (0x1000 + 0x20 * seat.val)
      Sys2Proof.Claim.MayWrite s q a →
      exec (.faultrecInfoClear q r seat w) s =
        .next (Sys2Proof.Claim.acked q a (if bit w 31 then s.setReg a (s.reg a &&& 0x3FFFFFFF) else s)))) ∧
  (∀ (s : State) (addr : RegAddr) (w : Word) (be : BitVec 4), let a := addr.toNat / 4 * 4
    (∀ i : StwNo, Sys2Proof.Claim.Reaches s (.stw i) a → exec (.registerWrite (.stw i) addr w be) s = .next (s.writeReg (.stw i) a w 0xF)) ∧
    (∀ i : StwNo, let c := s.ctx (1404 + i.val)
      s.reqOk (.stw i) = true → s.ctlErr a 0xF ≠ none → c.st = .run → c.elev ≠ 2 →
      exec (.registerWrite (.stw i) addr w be) s = .next (s.setCtx (1404 + i.val)
        { c with st := .entry, wait := .none, skip := false, brkSkip := false,
                 exc := some ⟨5, BitVec.ofNat 32 (0xF0000000 + a), c.pc, false, false⟩ })) ∧
    (s.isOn dCfg = true → s.fab.ctl = none →
      (∀ n, s.ctlErr a be = some n → bit (s.reg 8) 31 = false →
        exec (.registerWrite .ctl addr w be) s = .next { s.setReg 8 (BitVec.ofNat 32 (2 ^ 31 + n * 2 ^ 28 + a)) with
          fab := { s.fab with ack := true, err := true, rdata := 0 } }) ∧
      (s.ctlErr a be = none → s.serves a = true →
        (hostMay a = true → exec (.registerWrite .ctl addr w be) s = .next (Sys2Proof.Claim.acked .ctl a (s.writeReg .ctl a w be))) ∧
        (hostMay a = false → exec (.registerWrite .ctl addr w be) s = .next (Sys2Proof.Claim.acked .ctl a (s.count 0x100)))) ∧
      (s.ctlErr a be = none → s.serves a = false → exec (.registerWrite .ctl addr w be) s = .next s)) ∧
    (s.isOn dDbg = true → s.dbg.accStatus ≠ 1 → s.serves a = true → (s.dbg.level ≠ 0 ∨ s.ctlErr a 0xF ≠ none) →
      exec (.registerWrite .dbg addr w be) s =
        .next { s with dbg := { s.dbg with accStatus := 2, accAddr := BitVec.ofNat 32 a, accRead := false } })) ∧
  (∀ (s : State) (q : Req) (w : Word),
    s.writeReg q (tmA 0x24) w 0xF = s.setReg (tmA 0x24) w ∧ s.writeReg q (inA 8) w 0xF = s.setReg (inA 8) (w &&& 0x3FF) ∧
    s.writeReg q (tbA 4) w 0xF = s.setReg (tbA 4) w ∧ s.writeReg q (pmA 0x500) w 0xF = s.setReg (pmA 0x500) (s.reg (pmA 0x500) &&& ~~~ w) ∧
    s.writeReg q 0 w 0xF = s)

/-! ### Reset and the whole machine -/

/-- The state after reset. Zero where the manual gives no value is the model's (log entries 3 and 4). -/
def Obligations.ResetState : Prop :=
  let s := State.reset
  s.memsWf ∧ s.pending = [] ∧ s.blk = 0 ∧ s.cfg.cold = true ∧ (∀ ch, s.chan ch = 0 ∧ s.creditOf ch = 0) ∧ (∀ d, (s.pdom d).st = .off) ∧
  (∀ k, s.link k = []) ∧ (∀ r, (s.rank r).entries = [] ∧ (s.rank r).exc = []) ∧ s.eg.frames = [] ∧ s.led.ent = [] ∧ s.tb.ops = [] ∧
  (∀ a, s.ctr a = 0) ∧ (∀ key, (s.ctx key).st = .free ∧ (s.ctx key).elev = 0 ∧ (s.ctx key).os = [] ∧ (s.ctx key).pred = 1) ∧
  (∀ k, k < 8 → s.reg (icA (4 * k)) = 0xFFFFFFFF) ∧ (∀ d, d < 20 → s.reg (pmA (0x100 + 4 * d)) = 0x101) ∧
  (∀ r, r < 12 → s.reg (rkA r 0x3024) = 0xF0000) ∧ s.timeNs = 0 ∧ s.time.set = false

/-- The invariant of the memories, over every command. That every step answers a next state, and that a step with an empty queue takes
2 ns and any other no time, are the model's choices (log entries 1 and 2). -/
def Obligations.EveryStepKeepsMemoriesCanonical : Prop :=
  ∀ s : State, s.memsWf → ∃ t, step s = .next t ∧ t.memsWf ∧ t.pending = s.pending.drop 1 ∧
    t.now = (if s.pending = [] then s.now + 2 else s.now)
end

