-- ==== Sys2Proof/Laws/Mem.lean ====
section
/-! SUPPORT. The laws of the two containers: a read after a write, and the canonical form that every memory operation
keeps. -/

namespace Sys2Proof.Machine

/-! ### Tables -/

@[simp] theorem tfind_tset_same {α : Type} (t : Tab α) (k : Nat) (v : α) : tfind (tset t k v) k = some v := by
  induction t with
  | nil => simp [tset, tfind]
  | cons e t ih =>
    obtain ⟨i, w⟩ := e
    by_cases h : k < i
    · simp [tset, tfind, h]
    · by_cases h2 : i = k <;> simp [tset, tfind, h, h2, ih]

theorem tfind_tset_ne {α : Type} (t : Tab α) (k j : Nat) (v : α) (h : j ≠ k) : tfind (tset t k v) j = tfind t j := by
  induction t with
  | nil => simp [tset, tfind, Ne.symm h]
  | cons e t ih =>
    obtain ⟨i, w⟩ := e
    by_cases h1 : k < i
    · simp [tset, tfind, h1, Ne.symm h]
    · by_cases h2 : i = k
      · subst h2; simp [tset, tfind, Ne.symm h]
      · simp [tset, h1, h2, tfind, ih]

@[simp] theorem tget_tset_same {α : Type} (d : α) (t : Tab α) (k : Nat) (v : α) : tget d (tset t k v) k = v := by
  simp [tget]

theorem tget_tset_ne {α : Type} (d : α) (t : Tab α) (k j : Nat) (v : α) (h : j ≠ k) :
    tget d (tset t k v) j = tget d t j := by simp [tget, tfind_tset_ne t k j v h]

theorem tget_tset {α : Type} (d : α) (t : Tab α) (k j : Nat) (v : α) :
    tget d (tset t k v) j = if j = k then v else tget d t j := by
  by_cases h : j = k
  · subst h; simp
  · simp [h, tget_tset_ne d t k j v h]

theorem tfind_tdel_same {α : Type} (t : Tab α) (k : Nat) : tfind (tdel t k) k = none := by
  induction t with
  | nil => rfl
  | cons e t ih => obtain ⟨i, w⟩ := e; by_cases h : i = k <;> simp [tdel, tfind, h, ih]

theorem tfind_tdel_ne {α : Type} (t : Tab α) (k j : Nat) (h : j ≠ k) : tfind (tdel t k) j = tfind t j := by
  induction t with
  | nil => rfl
  | cons e t ih =>
    obtain ⟨i, w⟩ := e
    by_cases h1 : i = k
    · subst h1; simp [tdel, tfind, ih, Ne.symm h]
    · simp [tdel, tfind, h1, ih]

/-! ### Memories -/

theorem memAbove_mono (d : Byte) (m : Mem) (a b : Nat) (h : memAbove d (some a) m = true) (hb : b ≤ a) :
    memAbove d (some b) m = true := by
  cases m with
  | nil => rfl
  | cons e t =>
    obtain ⟨i, v⟩ := e
    simp only [memAbove, Bool.and_eq_true, decide_eq_true_eq] at h ⊢
    exact ⟨⟨by omega, h.1.2⟩, h.2⟩

theorem memAbove_wf (d : Byte) (m : Mem) (a : Nat) (h : memAbove d (some a) m = true) : m.wf d = true := by
  cases m with
  | nil => rfl
  | cons e t => simp_all [Mem.wf, memAbove]

/-- An address at or below the bound is not listed. -/
theorem tfind_memAbove (d : Byte) (m : Mem) (a k : Nat) (h : memAbove d (some a) m = true) (hk : k ≤ a) :
    tfind m k = none := by
  induction m generalizing a with
  | nil => rfl
  | cons e t ih =>
    obtain ⟨i, v⟩ := e
    simp only [memAbove, Bool.and_eq_true, decide_eq_true_eq] at h
    have : i ≠ k := by omega
    simp [tfind, this, ih i h.2 (by omega)]

theorem mset_above (d : Byte) (m : Mem) (a k : Nat) (v : Byte) (h : memAbove d (some a) m = true) (hk : a < k) :
    memAbove d (some a) (mset d m k v) = true := by
  induction m generalizing a with
  | nil => by_cases hv : v = d <;> simp [mset, memAbove, hv, hk]
  | cons e t ih =>
    obtain ⟨i, w⟩ := e
    have h0 := h
    simp only [memAbove, Bool.and_eq_true, decide_eq_true_eq] at h
    obtain ⟨⟨h1, h2⟩, h3⟩ := h
    by_cases h4 : k < i
    · by_cases hv : v = d
      · simpa [mset, h4, hv] using h0
      · simp [mset, h4, hv, memAbove, hk, h2, h3]
    · by_cases h5 : i = k
      · by_cases hv : v = d
        · have : ¬ k < k := by omega
          subst h5; simp [mset, hv]; exact memAbove_mono d t i a h3 (by omega)
        · subst h5; simp [mset, hv, memAbove, h1, h3]
      · simp [mset, h4, h5, memAbove, h1, h2, ih i h3 (by omega)]

/-- One write keeps the canonical form. -/
theorem mset_wf (d : Byte) (m : Mem) (k : Nat) (v : Byte) (h : m.wf d = true) : (mset d m k v).wf d = true := by
  cases m with
  | nil => by_cases hv : v = d <;> simp [mset, Mem.wf, memAbove, hv]
  | cons e t =>
    obtain ⟨i, w⟩ := e
    have h0 := h
    simp only [Mem.wf, memAbove, Bool.true_and, Bool.and_eq_true, decide_eq_true_eq] at h
    obtain ⟨h2, h3⟩ := h
    by_cases h4 : k < i
    · by_cases hv : v = d
      · simpa [mset, h4, hv] using h0
      · simp [Mem.wf, mset, h4, hv, memAbove, h2, h3]
    · by_cases h5 : i = k
      · by_cases hv : v = d
        · subst h5; simp [mset, hv]; exact memAbove_wf d t i h3
        · subst h5; simp [Mem.wf, mset, hv, memAbove, h3]
      · simp [Mem.wf, mset, h4, h5, memAbove, h2, mset_above d t i k v h3 (by omega)]

/-- A write of several bytes keeps the canonical form. -/
theorem mwrite_wf (d : Byte) (bs : List Byte) (m : Mem) (a : Nat) (h : m.wf d = true) : (mwrite d m a bs).wf d = true := by
  induction bs generalizing m a with
  | nil => exact h
  | cons b bs ih => exact ih _ _ (mset_wf d m a b h)

theorem filter_above (d : Byte) (p : Host.Cell → Bool) (m : Mem) (a : Nat) (h : memAbove d (some a) m = true) :
    memAbove d (some a) (m.filter p) = true := by
  induction m generalizing a with
  | nil => rfl
  | cons e t ih =>
    obtain ⟨i, w⟩ := e
    simp only [memAbove, Bool.and_eq_true, decide_eq_true_eq] at h
    obtain ⟨⟨h1, h2⟩, h3⟩ := h
    by_cases hp : p (i, w) = true
    · simp [List.filter, hp, memAbove, h1, h2, ih i h3]
    · simp only [Bool.not_eq_true] at hp
      simp only [List.filter, hp]
      exact memAbove_mono d _ i a (ih i h3) (by omega)

/-- Dropping entries keeps the canonical form. -/
theorem filter_wf (d : Byte) (p : Host.Cell → Bool) (m : Mem) (h : m.wf d = true) : Mem.wf d (m.filter p) = true := by
  cases m with
  | nil => rfl
  | cons e t =>
    obtain ⟨i, w⟩ := e
    simp only [Mem.wf, memAbove, Bool.true_and, Bool.and_eq_true, decide_eq_true_eq] at h
    by_cases hp : p (i, w) = true
    · simp [List.filter, hp, Mem.wf, memAbove, h.1, filter_above d p t i h.2]
    · simp only [Bool.not_eq_true] at hp
      simp only [List.filter, hp]
      exact memAbove_wf d _ i (filter_above d p t i h.2)

/-- Clearing a range keeps the canonical form. -/
theorem memClear_wf (d : Byte) (m : Mem) (lo hi : Nat) (h : m.wf d = true) : Mem.wf d (memClear m lo hi) = true :=
  filter_wf d _ m h

/-- Cells below a bound followed by cells at or above it are in order. -/
theorem append_above (d : Byte) (x y : Mem) (lo : Option Nat) (b : Nat) (hx : memAbove d lo x = true)
    (hb : ∀ e ∈ x, e.1 < b) (hl : ∀ a, lo = some a → a < b) (hy : memAbove d lo y = true) (hyb : ∀ e ∈ y, b ≤ e.1) :
    memAbove d lo (x ++ y) = true := by
  induction x generalizing lo with
  | nil => simpa using hy
  | cons e t ih =>
    obtain ⟨i, w⟩ := e
    simp only [memAbove, Bool.and_eq_true, decide_eq_true_eq, List.cons_append] at hx ⊢
    refine ⟨hx.1, ih (some i) hx.2 (fun e he => hb e (List.mem_cons_of_mem _ he)) ?_ ?_⟩
    · intro a ha; cases ha; exact hb (i, w) List.mem_cons_self
    · cases y with
      | nil => rfl
      | cons f u =>
        obtain ⟨j, v⟩ := f
        simp only [memAbove, Bool.and_eq_true, decide_eq_true_eq] at hy ⊢
        have h1 := hb (i, w) List.mem_cons_self
        have h2 := hyb (j, v) List.mem_cons_self
        exact ⟨⟨by simp at h1 h2; omega, hy.1.2⟩, hy.2⟩

theorem mcells_range (d : Byte) (bs : List Byte) (a : Nat) : ∀ e ∈ mcells d a bs, a ≤ e.1 ∧ e.1 < a + bs.length := by
  induction bs generalizing a with
  | nil => simp [mcells]
  | cons b bs ih =>
    intro e he
    by_cases hb : b = d
    · simp only [mcells, hb, if_true] at he
      have := ih (a + 1) e he
      simp only [List.length_cons]; omega
    · simp only [mcells, hb, if_false, List.mem_cons] at he
      rcases he with rfl | he
      · simp
      · have := ih (a + 1) e he
        simp only [List.length_cons]; omega

theorem mcells_above (d : Byte) (bs : List Byte) (a : Nat) (lo : Option Nat) (hl : ∀ x, lo = some x → x < a) :
    memAbove d lo (mcells d a bs) = true := by
  induction bs generalizing a lo with
  | nil => rfl
  | cons b bs ih =>
    by_cases hb : b = d
    · simp only [mcells, hb, if_true]
      exact ih (a + 1) lo (fun x hx => by have := hl x hx; omega)
    · simp only [mcells, hb, if_false, memAbove, Bool.and_eq_true, decide_eq_true_eq]
      refine ⟨⟨?_, hb⟩, ih (a + 1) (some a) (fun x hx => by cases hx; omega)⟩
      cases lo with
      | none => rfl
      | some x => simpa using hl x rfl

/-- A long block of bytes keeps the canonical form. -/
theorem mload_wf (d : Byte) (m : Mem) (a : Nat) (bs : List Byte) (h : m.wf d = true) : Mem.wf d (mload d m a bs) = true := by
  have e1 : Mem.wf d (m.filter (fun e => decide (e.1 < a))) = true := filter_wf d _ m h
  have e2 : Mem.wf d (m.filter (fun e => decide (a + bs.length ≤ e.1))) = true := filter_wf d _ m h
  have c1 : memAbove d none (m.filter (fun e => decide (e.1 < a)) ++ mcells d a bs) = true :=
    append_above d _ _ none a e1 (fun e he => by simpa using (List.mem_filter.mp he).2) (fun x hx => by cases hx)
      (mcells_above d bs a none (fun x hx => by cases hx)) (fun e he => (mcells_range d bs a e he).1)
  exact append_above d _ _ none (a + bs.length) c1
    (fun e he => by
      rcases List.mem_append.mp he with h1 | h1
      · have : e.1 < a := by simpa using (List.mem_filter.mp h1).2
        omega
      · exact (mcells_range d bs a e h1).2)
    (fun x hx => by cases hx) e2 (fun e he => by simpa using (List.mem_filter.mp he).2)

/-- A read of the byte written. -/
theorem mget_mset_same (d : Byte) (m : Mem) (k : Nat) (v : Byte) (h : m.wf d = true) : mget d (mset d m k v) k = v := by
  have key : ∀ (m : Mem) (lo : Option Nat), memAbove d lo m = true → (tfind (mset d m k v) k).getD d = v := by
    intro m
    induction m with
    | nil => intro lo _; by_cases hv : v = d <;> simp [mset, tfind, hv]
    | cons e t ih =>
      intro lo h
      obtain ⟨i, w⟩ := e
      simp only [memAbove, Bool.and_eq_true, decide_eq_true_eq] at h
      by_cases h4 : k < i
      · by_cases hv : v = d
        · have h5 : i ≠ k := by omega
          simp [mset, h4, hv, tfind, h5, tfind_memAbove d t i k h.2 (by omega)]
        · simp [mset, h4, hv, tfind]
      · by_cases h5 : i = k
        · by_cases hv : v = d
          · subst h5; simp [mset, hv, tfind_memAbove d t i i h.2 (le_refl i)]
          · subst h5; simp [mset, hv, tfind]
        · simp [mset, h4, h5, tfind, ih (some i) h.2]
  exact key m none h

/-- A write leaves every other byte as it was. -/
theorem mget_mset_ne (d : Byte) (m : Mem) (k j : Nat) (v : Byte) (h : j ≠ k) : mget d (mset d m k v) j = mget d m j := by
  unfold mget tget
  congr 1
  induction m with
  | nil => by_cases hv : v = d <;> simp [mset, tfind, hv, Ne.symm h]
  | cons e t ih =>
    obtain ⟨i, w⟩ := e
    by_cases h4 : k < i
    · by_cases hv : v = d <;> simp [mset, h4, hv, tfind, Ne.symm h]
    · by_cases h5 : i = k
      · subst h5; by_cases hv : v = d <;> simp [mset, hv, tfind, Ne.symm h]
      · simp [mset, h4, h5, tfind, ih]

/-- A write of several bytes leaves every byte outside its range as it was. -/
theorem mget_mwrite_out (d : Byte) (bs : List Byte) (m : Mem) (a j : Nat) (h : j < a ∨ a + bs.length ≤ j) :
    mget d (mwrite d m a bs) j = mget d m j := by
  induction bs generalizing m a with
  | nil => rfl
  | cons b bs ih =>
    simp only [List.length_cons] at h
    rw [mwrite, ih _ _ (by omega), mget_mset_ne d m a j b (by omega)]

/-! ### Reads of ranges, blocks and numbers -/

theorem mget_mwrite_in (d : Byte) (bs : List Byte) (m : Mem) (a i : Nat) (h : m.wf d = true) (hi : i < bs.length) :
    mget d (mwrite d m a bs) (a + i) = bs.getD i d := by
  induction bs generalizing m a i with
  | nil => simp at hi
  | cons b bs ih =>
    simp only [List.length_cons] at hi
    rw [mwrite]
    cases i with
    | zero => rw [mget_mwrite_out d bs _ _ _ (by omega)]; simpa using mget_mset_same d m a b h
    | succ i =>
      rw [show a + (i + 1) = a + 1 + i by omega, ih _ _ _ (mset_wf d m a b h) (by omega)]
      simp

theorem mread_length (d : Byte) (m : Mem) (a n : Nat) : (mread d m a n).length = n := by
  induction n generalizing a with
  | zero => rfl
  | succ n ih => simp [mread, ih]

theorem mread_getD (d e : Byte) (m : Mem) (a n i : Nat) (h : i < n) : (mread d m a n).getD i e = mget d m (a + i) := by
  induction n generalizing a i with
  | zero => omega
  | succ n ih =>
    cases i with
    | zero => simp [mread]
    | succ i =>
      simp only [mread, List.getD_cons_succ]
      rw [ih (a + 1) i (by omega)]; congr 1; omega

/-- A range reads as the list whose bytes it holds. -/
theorem mread_eq (d : Byte) (m : Mem) (a : Nat) (bs : List Byte) (h : ∀ i, i < bs.length → mget d m (a + i) = bs.getD i d) :
    mread d m a bs.length = bs := by
  induction bs generalizing a with
  | nil => rfl
  | cons b bs ih =>
    simp only [List.length_cons, mread]
    congr 1
    · simpa using h 0 (by simp)
    · refine ih (a + 1) (fun i hi => ?_)
      have := h (i + 1) (by simp; omega)
      rw [show a + 1 + i = a + (i + 1) by omega, this]; simp

/-- A range of unlisted bytes. -/
theorem mread_nil (d : Byte) (a n : Nat) : mread d [] a n = List.replicate n d := by
  induction n generalizing a with
  | zero => rfl
  | succ n ih => simp [mread, ih, List.replicate_succ, mget, tget, tfind]

/-- Two memories that agree on a range read alike there. -/
theorem mread_congr (d : Byte) (m u : Mem) (a n : Nat) (h : ∀ x, a ≤ x → x < a + n → mget d m x = mget d u x) :
    mread d m a n = mread d u a n := by
  induction n generalizing a with
  | zero => rfl
  | succ n ih =>
    simp only [mread]
    rw [h a (le_refl a) (by omega), ih (a + 1) (fun x h1 h2 => h x (by omega) (by omega))]

theorem mread_add (d : Byte) (m : Mem) (a n k : Nat) : mread d m a (n + k) = mread d m a n ++ mread d m (a + n) k := by
  induction n generalizing a with
  | zero => simp [mread]
  | succ n ih =>
    rw [show n + 1 + k = (n + k) + 1 by omega, mread, mread, ih (a + 1), List.cons_append]
    congr 3; omega

/-- What is written is read back. -/
theorem mread_mwrite (d : Byte) (bs : List Byte) (m : Mem) (a : Nat) (h : m.wf d = true) : mread d (mwrite d m a bs) a bs.length = bs :=
  mread_eq d _ a bs (fun i hi => mget_mwrite_in d bs m a i h hi)

theorem mread_mwrite_out (d : Byte) (bs : List Byte) (m : Mem) (a x n : Nat) (h : x + n ≤ a ∨ a + bs.length ≤ x) :
    mread d (mwrite d m a bs) x n = mread d m x n :=
  mread_congr d _ _ x n (fun y h1 h2 => mget_mwrite_out d bs m a y (by omega))

theorem tfind_append {α : Type} (x y : Tab α) (k : Nat) : tfind (x ++ y) k = (tfind x k).or (tfind y k) := by
  induction x with
  | nil => rfl
  | cons e t ih =>
    obtain ⟨i, v⟩ := e
    by_cases h : i = k <;> simp [tfind, h, ih]

/-- Entries kept by their key. -/
theorem tfind_filter_key {α : Type} (p : Nat → Bool) (t : Tab α) (k : Nat) :
    tfind (t.filter (fun e => p e.1)) k = if p k then tfind t k else none := by
  induction t with
  | nil => simp [tfind]
  | cons e t ih =>
    obtain ⟨i, v⟩ := e
    by_cases h : i = k
    · subst h; by_cases hp : p i <;> simp [hp, tfind, ih]
    · by_cases hp : p i <;> simp [hp, tfind, h, ih]

theorem tfind_mcells (d : Byte) (bs : List Byte) (a k : Nat) :
    (tfind (mcells d a bs) k).getD d = (if a ≤ k then bs.getD (k - a) d else d) ∧
    ((k < a ∨ a + bs.length ≤ k) → tfind (mcells d a bs) k = none) := by
  induction bs generalizing a with
  | nil => simp [mcells, tfind]
  | cons b bs ih =>
    obtain ⟨h1, h2⟩ := ih (a + 1)
    by_cases hb : b = d
    · subst hb
      simp only [mcells, if_true, List.length_cons]
      refine ⟨?_, fun h => h2 (by omega)⟩
      rw [h1]
      by_cases h3 : a = k
      · subst h3; simp
      · by_cases h4 : a ≤ k
        · rw [if_pos (by omega), if_pos h4, show k - a = (k - (a + 1)) + 1 by omega]; simp
        · rw [if_neg (by omega), if_neg h4]
    · simp only [mcells, hb, if_false, List.length_cons, tfind]
      by_cases h3 : a = k
      · subst h3; simp
      · simp only [h3, if_false]
        refine ⟨?_, fun h => h2 (by omega)⟩
        rw [h1]
        by_cases h4 : a ≤ k
        · rw [if_pos (by omega), if_pos h4, show k - a = (k - (a + 1)) + 1 by omega]; simp
        · rw [if_neg (by omega), if_neg h4]

/-- A block load: its bytes in its range, everything else as before. -/
theorem mget_mload (d : Byte) (m : Mem) (a k : Nat) (bs : List Byte) :
    mget d (mload d m a bs) k = if a ≤ k ∧ k < a + bs.length then bs.getD (k - a) d else mget d m k := by
  unfold mget tget mload
  rw [tfind_append, tfind_append, tfind_filter_key (fun x => decide (x < a)), tfind_filter_key (fun x => decide (a + bs.length ≤ x))]
  obtain ⟨h1, h2⟩ := tfind_mcells d bs a k
  by_cases hk : k < a
  · have hn : ¬ (a ≤ k ∧ k < a + bs.length) := by omega
    have h3 : ¬ a + bs.length ≤ k := by omega
    rw [h2 (Or.inl hk)]
    simp only [hn, hk, h3, decide_true, decide_false, if_true, Option.or_none]
    simp
  · by_cases h3 : a + bs.length ≤ k
    · have hn : ¬ (a ≤ k ∧ k < a + bs.length) := by omega
      rw [h2 (Or.inr h3)]
      simp only [hn, hk, h3, decide_true, decide_false, if_true]
      simp
    · have hn : a ≤ k ∧ k < a + bs.length := by omega
      rw [if_pos hn.1] at h1
      rw [if_pos hn, ← h1]
      simp only [hk, h3, decide_false]
      simp

/-- A block that was loaded is read back. -/
theorem mread_mload (d : Byte) (m : Mem) (a : Nat) (bs : List Byte) : mread d (mload d m a bs) a bs.length = bs :=
  mread_eq d _ a bs (fun i hi => by rw [mget_mload, if_pos (by omega)]; congr 1; omega)

theorem mread_mload_out (d : Byte) (m : Mem) (a x n : Nat) (bs : List Byte) (h : x + n ≤ a ∨ a + bs.length ≤ x) :
    mread d (mload d m a bs) x n = mread d m x n :=
  mread_congr d _ _ x n (fun y h1 h2 => by rw [mget_mload, if_neg (by omega)])

theorem leBytes_length (k n : Nat) : (leBytes k n).length = k := by
  induction k generalizing n with
  | zero => rfl
  | succ k ih => simp [leBytes, ih]

/-- The bytes of a number give it back, modulo what they hold. -/
theorem leNat_leBytes (k n : Nat) : leNat (leBytes k n) = n % 256 ^ k := by
  induction k generalizing n with
  | zero => simp [leBytes, leNat, Nat.mod_one]
  | succ k ih =>
    simp only [leBytes, leNat, ih, BitVec.toNat_ofNat]
    rw [show (256 : Nat) ^ (k + 1) = 256 * 256 ^ k by rw [Nat.pow_succ, Nat.mul_comm], Nat.mod_mul]

end Sys2Proof.Machine
end

