-- ==== Sys2Proof/Laws/State.lean ====
section
/-! SUPPORT. What each update of the state leaves as it was, one lemma per field, and what each accessor reads after it. -/

namespace Sys2Proof.Machine

/-! ### setCtx -/

@[simp] theorem State.setCtx_pending (s : State) (k : Nat) (c : Ctx) : (s.setCtx k c).pending = s.pending := rfl
@[simp] theorem State.setCtx_now (s : State) (k : Nat) (c : Ctx) : (s.setCtx k c).now = s.now := rfl
@[simp] theorem State.setCtx_freeCount (s : State) (k : Nat) (c : Ctx) : (s.setCtx k c).freeCount = s.freeCount := rfl
@[simp] theorem State.setCtx_blk (s : State) (k : Nat) (c : Ctx) : (s.setCtx k c).blk = s.blk := rfl
@[simp] theorem State.setCtx_regs (s : State) (k : Nat) (c : Ctx) : (s.setCtx k c).regs = s.regs := rfl
@[simp] theorem State.setCtx_counters (s : State) (k : Nat) (c : Ctx) : (s.setCtx k c).counters = s.counters := rfl
@[simp] theorem State.setCtx_latches (s : State) (k : Nat) (c : Ctx) : (s.setCtx k c).latches = s.latches := rfl
@[simp] theorem State.setCtx_lw (s : State) (k : Nat) (c : Ctx) : (s.setCtx k c).lw = s.lw := rfl
@[simp] theorem State.setCtx_logs (s : State) (k : Nat) (c : Ctx) : (s.setCtx k c).logs = s.logs := rfl
@[simp] theorem State.setCtx_pins (s : State) (k : Nat) (c : Ctx) : (s.setCtx k c).pins = s.pins := rfl
@[simp] theorem State.setCtx_chSt (s : State) (k : Nat) (c : Ctx) : (s.setCtx k c).chSt = s.chSt := rfl
@[simp] theorem State.setCtx_detaching (s : State) (k : Nat) (c : Ctx) : (s.setCtx k c).detaching = s.detaching := rfl
@[simp] theorem State.setCtx_sp (s : State) (k : Nat) (c : Ctx) : (s.setCtx k c).sp = s.sp := rfl
@[simp] theorem State.setCtx_code (s : State) (k : Nat) (c : Ctx) : (s.setCtx k c).code = s.code := rfl
@[simp] theorem State.setCtx_stwCode (s : State) (k : Nat) (c : Ctx) : (s.setCtx k c).stwCode = s.stwCode := rfl
@[simp] theorem State.setCtx_sram (s : State) (k : Nat) (c : Ctx) : (s.setCtx k c).sram = s.sram := rfl
@[simp] theorem State.setCtx_tile (s : State) (k : Nat) (c : Ctx) : (s.setCtx k c).tile = s.tile := rfl
@[simp] theorem State.setCtx_flash (s : State) (k : Nat) (c : Ctx) : (s.setCtx k c).flash = s.flash := rfl
@[simp] theorem State.setCtx_ao (s : State) (k : Nat) (c : Ctx) : (s.setCtx k c).ao = s.ao := rfl
@[simp] theorem State.setCtx_spErr (s : State) (k : Nat) (c : Ctx) : (s.setCtx k c).spErr = s.spErr := rfl
@[simp] theorem State.setCtx_tileErr (s : State) (k : Nat) (c : Ctx) : (s.setCtx k c).tileErr = s.tileErr := rfl
@[simp] theorem State.setCtx_sramErr (s : State) (k : Nat) (c : Ctx) : (s.setCtx k c).sramErr = s.sramErr := rfl
@[simp] theorem State.setCtx_ledErr (s : State) (k : Nat) (c : Ctx) : (s.setCtx k c).ledErr = s.ledErr := rfl
@[simp] theorem State.setCtx_spFaulty (s : State) (k : Nat) (c : Ctx) : (s.setCtx k c).spFaulty = s.spFaulty := rfl
@[simp] theorem State.setCtx_spFull (s : State) (k : Nat) (c : Ctx) : (s.setCtx k c).spFull = s.spFull := rfl
@[simp] theorem State.setCtx_csErr (s : State) (k : Nat) (c : Ctx) : (s.setCtx k c).csErr = s.csErr := rfl
@[simp] theorem State.setCtx_stkErr (s : State) (k : Nat) (c : Ctx) : (s.setCtx k c).stkErr = s.stkErr := rfl
@[simp] theorem State.setCtx_cores (s : State) (k : Nat) (c : Ctx) : (s.setCtx k c).cores = s.cores := rfl
@[simp] theorem State.setCtx_ranks (s : State) (k : Nat) (c : Ctx) : (s.setCtx k c).ranks = s.ranks := rfl
@[simp] theorem State.setCtx_stw (s : State) (k : Nat) (c : Ctx) : (s.setCtx k c).stw = s.stw := rfl
@[simp] theorem State.setCtx_links (s : State) (k : Nat) (c : Ctx) : (s.setCtx k c).links = s.links := rfl
@[simp] theorem State.setCtx_ing (s : State) (k : Nat) (c : Ctx) : (s.setCtx k c).ing = s.ing := rfl
@[simp] theorem State.setCtx_eg (s : State) (k : Nat) (c : Ctx) : (s.setCtx k c).eg = s.eg := rfl
@[simp] theorem State.setCtx_led (s : State) (k : Nat) (c : Ctx) : (s.setCtx k c).led = s.led := rfl
@[simp] theorem State.setCtx_tb (s : State) (k : Nat) (c : Ctx) : (s.setCtx k c).tb = s.tb := rfl
@[simp] theorem State.setCtx_buf (s : State) (k : Nat) (c : Ctx) : (s.setCtx k c).buf = s.buf := rfl
@[simp] theorem State.setCtx_ic (s : State) (k : Nat) (c : Ctx) : (s.setCtx k c).ic = s.ic := rfl
@[simp] theorem State.setCtx_time (s : State) (k : Nat) (c : Ctx) : (s.setCtx k c).time = s.time := rfl
@[simp] theorem State.setCtx_sched (s : State) (k : Nat) (c : Ctx) : (s.setCtx k c).sched = s.sched := rfl
@[simp] theorem State.setCtx_dom (s : State) (k : Nat) (c : Ctx) : (s.setCtx k c).dom = s.dom := rfl
@[simp] theorem State.setCtx_pm (s : State) (k : Nat) (c : Ctx) : (s.setCtx k c).pm = s.pm := rfl
@[simp] theorem State.setCtx_cfg (s : State) (k : Nat) (c : Ctx) : (s.setCtx k c).cfg = s.cfg := rfl
@[simp] theorem State.setCtx_dbg (s : State) (k : Nat) (c : Ctx) : (s.setCtx k c).dbg = s.dbg := rfl
@[simp] theorem State.setCtx_fab (s : State) (k : Nat) (c : Ctx) : (s.setCtx k c).fab = s.fab := rfl
@[simp] theorem State.setCtx_sems (s : State) (k : Nat) (c : Ctx) : (s.setCtx k c).sems = s.sems := rfl
@[simp] theorem State.setCtx_blkWdog (s : State) (k : Nat) (c : Ctx) : (s.setCtx k c).blkWdog = s.blkWdog := rfl
@[simp] theorem State.setCtx_blkWarn (s : State) (k : Nat) (c : Ctx) : (s.setCtx k c).blkWarn = s.blkWarn := rfl

/-! ### setCore -/

@[simp] theorem State.setCore_pending (s : State) (k : Nat) (c : Core) : (s.setCore k c).pending = s.pending := rfl
@[simp] theorem State.setCore_now (s : State) (k : Nat) (c : Core) : (s.setCore k c).now = s.now := rfl
@[simp] theorem State.setCore_freeCount (s : State) (k : Nat) (c : Core) : (s.setCore k c).freeCount = s.freeCount := rfl
@[simp] theorem State.setCore_blk (s : State) (k : Nat) (c : Core) : (s.setCore k c).blk = s.blk := rfl
@[simp] theorem State.setCore_regs (s : State) (k : Nat) (c : Core) : (s.setCore k c).regs = s.regs := rfl
@[simp] theorem State.setCore_counters (s : State) (k : Nat) (c : Core) : (s.setCore k c).counters = s.counters := rfl
@[simp] theorem State.setCore_latches (s : State) (k : Nat) (c : Core) : (s.setCore k c).latches = s.latches := rfl
@[simp] theorem State.setCore_lw (s : State) (k : Nat) (c : Core) : (s.setCore k c).lw = s.lw := rfl
@[simp] theorem State.setCore_logs (s : State) (k : Nat) (c : Core) : (s.setCore k c).logs = s.logs := rfl
@[simp] theorem State.setCore_pins (s : State) (k : Nat) (c : Core) : (s.setCore k c).pins = s.pins := rfl
@[simp] theorem State.setCore_chSt (s : State) (k : Nat) (c : Core) : (s.setCore k c).chSt = s.chSt := rfl
@[simp] theorem State.setCore_detaching (s : State) (k : Nat) (c : Core) : (s.setCore k c).detaching = s.detaching := rfl
@[simp] theorem State.setCore_sp (s : State) (k : Nat) (c : Core) : (s.setCore k c).sp = s.sp := rfl
@[simp] theorem State.setCore_code (s : State) (k : Nat) (c : Core) : (s.setCore k c).code = s.code := rfl
@[simp] theorem State.setCore_stwCode (s : State) (k : Nat) (c : Core) : (s.setCore k c).stwCode = s.stwCode := rfl
@[simp] theorem State.setCore_sram (s : State) (k : Nat) (c : Core) : (s.setCore k c).sram = s.sram := rfl
@[simp] theorem State.setCore_tile (s : State) (k : Nat) (c : Core) : (s.setCore k c).tile = s.tile := rfl
@[simp] theorem State.setCore_flash (s : State) (k : Nat) (c : Core) : (s.setCore k c).flash = s.flash := rfl
@[simp] theorem State.setCore_ao (s : State) (k : Nat) (c : Core) : (s.setCore k c).ao = s.ao := rfl
@[simp] theorem State.setCore_spErr (s : State) (k : Nat) (c : Core) : (s.setCore k c).spErr = s.spErr := rfl
@[simp] theorem State.setCore_tileErr (s : State) (k : Nat) (c : Core) : (s.setCore k c).tileErr = s.tileErr := rfl
@[simp] theorem State.setCore_sramErr (s : State) (k : Nat) (c : Core) : (s.setCore k c).sramErr = s.sramErr := rfl
@[simp] theorem State.setCore_ledErr (s : State) (k : Nat) (c : Core) : (s.setCore k c).ledErr = s.ledErr := rfl
@[simp] theorem State.setCore_spFaulty (s : State) (k : Nat) (c : Core) : (s.setCore k c).spFaulty = s.spFaulty := rfl
@[simp] theorem State.setCore_spFull (s : State) (k : Nat) (c : Core) : (s.setCore k c).spFull = s.spFull := rfl
@[simp] theorem State.setCore_csErr (s : State) (k : Nat) (c : Core) : (s.setCore k c).csErr = s.csErr := rfl
@[simp] theorem State.setCore_stkErr (s : State) (k : Nat) (c : Core) : (s.setCore k c).stkErr = s.stkErr := rfl
@[simp] theorem State.setCore_ctxs (s : State) (k : Nat) (c : Core) : (s.setCore k c).ctxs = s.ctxs := rfl
@[simp] theorem State.setCore_ranks (s : State) (k : Nat) (c : Core) : (s.setCore k c).ranks = s.ranks := rfl
@[simp] theorem State.setCore_stw (s : State) (k : Nat) (c : Core) : (s.setCore k c).stw = s.stw := rfl
@[simp] theorem State.setCore_links (s : State) (k : Nat) (c : Core) : (s.setCore k c).links = s.links := rfl
@[simp] theorem State.setCore_ing (s : State) (k : Nat) (c : Core) : (s.setCore k c).ing = s.ing := rfl
@[simp] theorem State.setCore_eg (s : State) (k : Nat) (c : Core) : (s.setCore k c).eg = s.eg := rfl
@[simp] theorem State.setCore_led (s : State) (k : Nat) (c : Core) : (s.setCore k c).led = s.led := rfl
@[simp] theorem State.setCore_tb (s : State) (k : Nat) (c : Core) : (s.setCore k c).tb = s.tb := rfl
@[simp] theorem State.setCore_buf (s : State) (k : Nat) (c : Core) : (s.setCore k c).buf = s.buf := rfl
@[simp] theorem State.setCore_ic (s : State) (k : Nat) (c : Core) : (s.setCore k c).ic = s.ic := rfl
@[simp] theorem State.setCore_time (s : State) (k : Nat) (c : Core) : (s.setCore k c).time = s.time := rfl
@[simp] theorem State.setCore_sched (s : State) (k : Nat) (c : Core) : (s.setCore k c).sched = s.sched := rfl
@[simp] theorem State.setCore_dom (s : State) (k : Nat) (c : Core) : (s.setCore k c).dom = s.dom := rfl
@[simp] theorem State.setCore_pm (s : State) (k : Nat) (c : Core) : (s.setCore k c).pm = s.pm := rfl
@[simp] theorem State.setCore_cfg (s : State) (k : Nat) (c : Core) : (s.setCore k c).cfg = s.cfg := rfl
@[simp] theorem State.setCore_dbg (s : State) (k : Nat) (c : Core) : (s.setCore k c).dbg = s.dbg := rfl
@[simp] theorem State.setCore_fab (s : State) (k : Nat) (c : Core) : (s.setCore k c).fab = s.fab := rfl
@[simp] theorem State.setCore_sems (s : State) (k : Nat) (c : Core) : (s.setCore k c).sems = s.sems := rfl
@[simp] theorem State.setCore_blkWdog (s : State) (k : Nat) (c : Core) : (s.setCore k c).blkWdog = s.blkWdog := rfl
@[simp] theorem State.setCore_blkWarn (s : State) (k : Nat) (c : Core) : (s.setCore k c).blkWarn = s.blkWarn := rfl

/-! ### setRank -/

@[simp] theorem State.setRank_pending (s : State) (r : Nat) (x : RankSt) : (s.setRank r x).pending = s.pending := rfl
@[simp] theorem State.setRank_now (s : State) (r : Nat) (x : RankSt) : (s.setRank r x).now = s.now := rfl
@[simp] theorem State.setRank_freeCount (s : State) (r : Nat) (x : RankSt) : (s.setRank r x).freeCount = s.freeCount := rfl
@[simp] theorem State.setRank_blk (s : State) (r : Nat) (x : RankSt) : (s.setRank r x).blk = s.blk := rfl
@[simp] theorem State.setRank_regs (s : State) (r : Nat) (x : RankSt) : (s.setRank r x).regs = s.regs := rfl
@[simp] theorem State.setRank_counters (s : State) (r : Nat) (x : RankSt) : (s.setRank r x).counters = s.counters := rfl
@[simp] theorem State.setRank_latches (s : State) (r : Nat) (x : RankSt) : (s.setRank r x).latches = s.latches := rfl
@[simp] theorem State.setRank_lw (s : State) (r : Nat) (x : RankSt) : (s.setRank r x).lw = s.lw := rfl
@[simp] theorem State.setRank_logs (s : State) (r : Nat) (x : RankSt) : (s.setRank r x).logs = s.logs := rfl
@[simp] theorem State.setRank_pins (s : State) (r : Nat) (x : RankSt) : (s.setRank r x).pins = s.pins := rfl
@[simp] theorem State.setRank_chSt (s : State) (r : Nat) (x : RankSt) : (s.setRank r x).chSt = s.chSt := rfl
@[simp] theorem State.setRank_detaching (s : State) (r : Nat) (x : RankSt) : (s.setRank r x).detaching = s.detaching := rfl
@[simp] theorem State.setRank_sp (s : State) (r : Nat) (x : RankSt) : (s.setRank r x).sp = s.sp := rfl
@[simp] theorem State.setRank_code (s : State) (r : Nat) (x : RankSt) : (s.setRank r x).code = s.code := rfl
@[simp] theorem State.setRank_stwCode (s : State) (r : Nat) (x : RankSt) : (s.setRank r x).stwCode = s.stwCode := rfl
@[simp] theorem State.setRank_sram (s : State) (r : Nat) (x : RankSt) : (s.setRank r x).sram = s.sram := rfl
@[simp] theorem State.setRank_tile (s : State) (r : Nat) (x : RankSt) : (s.setRank r x).tile = s.tile := rfl
@[simp] theorem State.setRank_flash (s : State) (r : Nat) (x : RankSt) : (s.setRank r x).flash = s.flash := rfl
@[simp] theorem State.setRank_ao (s : State) (r : Nat) (x : RankSt) : (s.setRank r x).ao = s.ao := rfl
@[simp] theorem State.setRank_spErr (s : State) (r : Nat) (x : RankSt) : (s.setRank r x).spErr = s.spErr := rfl
@[simp] theorem State.setRank_tileErr (s : State) (r : Nat) (x : RankSt) : (s.setRank r x).tileErr = s.tileErr := rfl
@[simp] theorem State.setRank_sramErr (s : State) (r : Nat) (x : RankSt) : (s.setRank r x).sramErr = s.sramErr := rfl
@[simp] theorem State.setRank_ledErr (s : State) (r : Nat) (x : RankSt) : (s.setRank r x).ledErr = s.ledErr := rfl
@[simp] theorem State.setRank_spFaulty (s : State) (r : Nat) (x : RankSt) : (s.setRank r x).spFaulty = s.spFaulty := rfl
@[simp] theorem State.setRank_spFull (s : State) (r : Nat) (x : RankSt) : (s.setRank r x).spFull = s.spFull := rfl
@[simp] theorem State.setRank_csErr (s : State) (r : Nat) (x : RankSt) : (s.setRank r x).csErr = s.csErr := rfl
@[simp] theorem State.setRank_stkErr (s : State) (r : Nat) (x : RankSt) : (s.setRank r x).stkErr = s.stkErr := rfl
@[simp] theorem State.setRank_ctxs (s : State) (r : Nat) (x : RankSt) : (s.setRank r x).ctxs = s.ctxs := rfl
@[simp] theorem State.setRank_cores (s : State) (r : Nat) (x : RankSt) : (s.setRank r x).cores = s.cores := rfl
@[simp] theorem State.setRank_stw (s : State) (r : Nat) (x : RankSt) : (s.setRank r x).stw = s.stw := rfl
@[simp] theorem State.setRank_links (s : State) (r : Nat) (x : RankSt) : (s.setRank r x).links = s.links := rfl
@[simp] theorem State.setRank_ing (s : State) (r : Nat) (x : RankSt) : (s.setRank r x).ing = s.ing := rfl
@[simp] theorem State.setRank_eg (s : State) (r : Nat) (x : RankSt) : (s.setRank r x).eg = s.eg := rfl
@[simp] theorem State.setRank_led (s : State) (r : Nat) (x : RankSt) : (s.setRank r x).led = s.led := rfl
@[simp] theorem State.setRank_tb (s : State) (r : Nat) (x : RankSt) : (s.setRank r x).tb = s.tb := rfl
@[simp] theorem State.setRank_buf (s : State) (r : Nat) (x : RankSt) : (s.setRank r x).buf = s.buf := rfl
@[simp] theorem State.setRank_ic (s : State) (r : Nat) (x : RankSt) : (s.setRank r x).ic = s.ic := rfl
@[simp] theorem State.setRank_time (s : State) (r : Nat) (x : RankSt) : (s.setRank r x).time = s.time := rfl
@[simp] theorem State.setRank_sched (s : State) (r : Nat) (x : RankSt) : (s.setRank r x).sched = s.sched := rfl
@[simp] theorem State.setRank_dom (s : State) (r : Nat) (x : RankSt) : (s.setRank r x).dom = s.dom := rfl
@[simp] theorem State.setRank_pm (s : State) (r : Nat) (x : RankSt) : (s.setRank r x).pm = s.pm := rfl
@[simp] theorem State.setRank_cfg (s : State) (r : Nat) (x : RankSt) : (s.setRank r x).cfg = s.cfg := rfl
@[simp] theorem State.setRank_dbg (s : State) (r : Nat) (x : RankSt) : (s.setRank r x).dbg = s.dbg := rfl
@[simp] theorem State.setRank_fab (s : State) (r : Nat) (x : RankSt) : (s.setRank r x).fab = s.fab := rfl
@[simp] theorem State.setRank_sems (s : State) (r : Nat) (x : RankSt) : (s.setRank r x).sems = s.sems := rfl
@[simp] theorem State.setRank_blkWdog (s : State) (r : Nat) (x : RankSt) : (s.setRank r x).blkWdog = s.blkWdog := rfl
@[simp] theorem State.setRank_blkWarn (s : State) (r : Nat) (x : RankSt) : (s.setRank r x).blkWarn = s.blkWarn := rfl

/-! ### setStw -/

@[simp] theorem State.setStw_pending (s : State) (i : Nat) (x : Stw) : (s.setStw i x).pending = s.pending := rfl
@[simp] theorem State.setStw_now (s : State) (i : Nat) (x : Stw) : (s.setStw i x).now = s.now := rfl
@[simp] theorem State.setStw_freeCount (s : State) (i : Nat) (x : Stw) : (s.setStw i x).freeCount = s.freeCount := rfl
@[simp] theorem State.setStw_blk (s : State) (i : Nat) (x : Stw) : (s.setStw i x).blk = s.blk := rfl
@[simp] theorem State.setStw_regs (s : State) (i : Nat) (x : Stw) : (s.setStw i x).regs = s.regs := rfl
@[simp] theorem State.setStw_counters (s : State) (i : Nat) (x : Stw) : (s.setStw i x).counters = s.counters := rfl
@[simp] theorem State.setStw_latches (s : State) (i : Nat) (x : Stw) : (s.setStw i x).latches = s.latches := rfl
@[simp] theorem State.setStw_lw (s : State) (i : Nat) (x : Stw) : (s.setStw i x).lw = s.lw := rfl
@[simp] theorem State.setStw_logs (s : State) (i : Nat) (x : Stw) : (s.setStw i x).logs = s.logs := rfl
@[simp] theorem State.setStw_pins (s : State) (i : Nat) (x : Stw) : (s.setStw i x).pins = s.pins := rfl
@[simp] theorem State.setStw_chSt (s : State) (i : Nat) (x : Stw) : (s.setStw i x).chSt = s.chSt := rfl
@[simp] theorem State.setStw_detaching (s : State) (i : Nat) (x : Stw) : (s.setStw i x).detaching = s.detaching := rfl
@[simp] theorem State.setStw_sp (s : State) (i : Nat) (x : Stw) : (s.setStw i x).sp = s.sp := rfl
@[simp] theorem State.setStw_code (s : State) (i : Nat) (x : Stw) : (s.setStw i x).code = s.code := rfl
@[simp] theorem State.setStw_stwCode (s : State) (i : Nat) (x : Stw) : (s.setStw i x).stwCode = s.stwCode := rfl
@[simp] theorem State.setStw_sram (s : State) (i : Nat) (x : Stw) : (s.setStw i x).sram = s.sram := rfl
@[simp] theorem State.setStw_tile (s : State) (i : Nat) (x : Stw) : (s.setStw i x).tile = s.tile := rfl
@[simp] theorem State.setStw_flash (s : State) (i : Nat) (x : Stw) : (s.setStw i x).flash = s.flash := rfl
@[simp] theorem State.setStw_ao (s : State) (i : Nat) (x : Stw) : (s.setStw i x).ao = s.ao := rfl
@[simp] theorem State.setStw_spErr (s : State) (i : Nat) (x : Stw) : (s.setStw i x).spErr = s.spErr := rfl
@[simp] theorem State.setStw_tileErr (s : State) (i : Nat) (x : Stw) : (s.setStw i x).tileErr = s.tileErr := rfl
@[simp] theorem State.setStw_sramErr (s : State) (i : Nat) (x : Stw) : (s.setStw i x).sramErr = s.sramErr := rfl
@[simp] theorem State.setStw_ledErr (s : State) (i : Nat) (x : Stw) : (s.setStw i x).ledErr = s.ledErr := rfl
@[simp] theorem State.setStw_spFaulty (s : State) (i : Nat) (x : Stw) : (s.setStw i x).spFaulty = s.spFaulty := rfl
@[simp] theorem State.setStw_spFull (s : State) (i : Nat) (x : Stw) : (s.setStw i x).spFull = s.spFull := rfl
@[simp] theorem State.setStw_csErr (s : State) (i : Nat) (x : Stw) : (s.setStw i x).csErr = s.csErr := rfl
@[simp] theorem State.setStw_stkErr (s : State) (i : Nat) (x : Stw) : (s.setStw i x).stkErr = s.stkErr := rfl
@[simp] theorem State.setStw_ctxs (s : State) (i : Nat) (x : Stw) : (s.setStw i x).ctxs = s.ctxs := rfl
@[simp] theorem State.setStw_cores (s : State) (i : Nat) (x : Stw) : (s.setStw i x).cores = s.cores := rfl
@[simp] theorem State.setStw_ranks (s : State) (i : Nat) (x : Stw) : (s.setStw i x).ranks = s.ranks := rfl
@[simp] theorem State.setStw_links (s : State) (i : Nat) (x : Stw) : (s.setStw i x).links = s.links := rfl
@[simp] theorem State.setStw_ing (s : State) (i : Nat) (x : Stw) : (s.setStw i x).ing = s.ing := rfl
@[simp] theorem State.setStw_eg (s : State) (i : Nat) (x : Stw) : (s.setStw i x).eg = s.eg := rfl
@[simp] theorem State.setStw_led (s : State) (i : Nat) (x : Stw) : (s.setStw i x).led = s.led := rfl
@[simp] theorem State.setStw_tb (s : State) (i : Nat) (x : Stw) : (s.setStw i x).tb = s.tb := rfl
@[simp] theorem State.setStw_buf (s : State) (i : Nat) (x : Stw) : (s.setStw i x).buf = s.buf := rfl
@[simp] theorem State.setStw_ic (s : State) (i : Nat) (x : Stw) : (s.setStw i x).ic = s.ic := rfl
@[simp] theorem State.setStw_time (s : State) (i : Nat) (x : Stw) : (s.setStw i x).time = s.time := rfl
@[simp] theorem State.setStw_sched (s : State) (i : Nat) (x : Stw) : (s.setStw i x).sched = s.sched := rfl
@[simp] theorem State.setStw_dom (s : State) (i : Nat) (x : Stw) : (s.setStw i x).dom = s.dom := rfl
@[simp] theorem State.setStw_pm (s : State) (i : Nat) (x : Stw) : (s.setStw i x).pm = s.pm := rfl
@[simp] theorem State.setStw_cfg (s : State) (i : Nat) (x : Stw) : (s.setStw i x).cfg = s.cfg := rfl
@[simp] theorem State.setStw_dbg (s : State) (i : Nat) (x : Stw) : (s.setStw i x).dbg = s.dbg := rfl
@[simp] theorem State.setStw_fab (s : State) (i : Nat) (x : Stw) : (s.setStw i x).fab = s.fab := rfl
@[simp] theorem State.setStw_sems (s : State) (i : Nat) (x : Stw) : (s.setStw i x).sems = s.sems := rfl
@[simp] theorem State.setStw_blkWdog (s : State) (i : Nat) (x : Stw) : (s.setStw i x).blkWdog = s.blkWdog := rfl
@[simp] theorem State.setStw_blkWarn (s : State) (i : Nat) (x : Stw) : (s.setStw i x).blkWarn = s.blkWarn := rfl

/-! ### setDom -/

@[simp] theorem State.setDom_pending (s : State) (d : Nat) (x : PDom) : (s.setDom d x).pending = s.pending := rfl
@[simp] theorem State.setDom_now (s : State) (d : Nat) (x : PDom) : (s.setDom d x).now = s.now := rfl
@[simp] theorem State.setDom_freeCount (s : State) (d : Nat) (x : PDom) : (s.setDom d x).freeCount = s.freeCount := rfl
@[simp] theorem State.setDom_blk (s : State) (d : Nat) (x : PDom) : (s.setDom d x).blk = s.blk := rfl
@[simp] theorem State.setDom_regs (s : State) (d : Nat) (x : PDom) : (s.setDom d x).regs = s.regs := rfl
@[simp] theorem State.setDom_counters (s : State) (d : Nat) (x : PDom) : (s.setDom d x).counters = s.counters := rfl
@[simp] theorem State.setDom_latches (s : State) (d : Nat) (x : PDom) : (s.setDom d x).latches = s.latches := rfl
@[simp] theorem State.setDom_lw (s : State) (d : Nat) (x : PDom) : (s.setDom d x).lw = s.lw := rfl
@[simp] theorem State.setDom_logs (s : State) (d : Nat) (x : PDom) : (s.setDom d x).logs = s.logs := rfl
@[simp] theorem State.setDom_pins (s : State) (d : Nat) (x : PDom) : (s.setDom d x).pins = s.pins := rfl
@[simp] theorem State.setDom_chSt (s : State) (d : Nat) (x : PDom) : (s.setDom d x).chSt = s.chSt := rfl
@[simp] theorem State.setDom_detaching (s : State) (d : Nat) (x : PDom) : (s.setDom d x).detaching = s.detaching := rfl
@[simp] theorem State.setDom_sp (s : State) (d : Nat) (x : PDom) : (s.setDom d x).sp = s.sp := rfl
@[simp] theorem State.setDom_code (s : State) (d : Nat) (x : PDom) : (s.setDom d x).code = s.code := rfl
@[simp] theorem State.setDom_stwCode (s : State) (d : Nat) (x : PDom) : (s.setDom d x).stwCode = s.stwCode := rfl
@[simp] theorem State.setDom_sram (s : State) (d : Nat) (x : PDom) : (s.setDom d x).sram = s.sram := rfl
@[simp] theorem State.setDom_tile (s : State) (d : Nat) (x : PDom) : (s.setDom d x).tile = s.tile := rfl
@[simp] theorem State.setDom_flash (s : State) (d : Nat) (x : PDom) : (s.setDom d x).flash = s.flash := rfl
@[simp] theorem State.setDom_ao (s : State) (d : Nat) (x : PDom) : (s.setDom d x).ao = s.ao := rfl
@[simp] theorem State.setDom_spErr (s : State) (d : Nat) (x : PDom) : (s.setDom d x).spErr = s.spErr := rfl
@[simp] theorem State.setDom_tileErr (s : State) (d : Nat) (x : PDom) : (s.setDom d x).tileErr = s.tileErr := rfl
@[simp] theorem State.setDom_sramErr (s : State) (d : Nat) (x : PDom) : (s.setDom d x).sramErr = s.sramErr := rfl
@[simp] theorem State.setDom_ledErr (s : State) (d : Nat) (x : PDom) : (s.setDom d x).ledErr = s.ledErr := rfl
@[simp] theorem State.setDom_spFaulty (s : State) (d : Nat) (x : PDom) : (s.setDom d x).spFaulty = s.spFaulty := rfl
@[simp] theorem State.setDom_spFull (s : State) (d : Nat) (x : PDom) : (s.setDom d x).spFull = s.spFull := rfl
@[simp] theorem State.setDom_csErr (s : State) (d : Nat) (x : PDom) : (s.setDom d x).csErr = s.csErr := rfl
@[simp] theorem State.setDom_stkErr (s : State) (d : Nat) (x : PDom) : (s.setDom d x).stkErr = s.stkErr := rfl
@[simp] theorem State.setDom_ctxs (s : State) (d : Nat) (x : PDom) : (s.setDom d x).ctxs = s.ctxs := rfl
@[simp] theorem State.setDom_cores (s : State) (d : Nat) (x : PDom) : (s.setDom d x).cores = s.cores := rfl
@[simp] theorem State.setDom_ranks (s : State) (d : Nat) (x : PDom) : (s.setDom d x).ranks = s.ranks := rfl
@[simp] theorem State.setDom_stw (s : State) (d : Nat) (x : PDom) : (s.setDom d x).stw = s.stw := rfl
@[simp] theorem State.setDom_links (s : State) (d : Nat) (x : PDom) : (s.setDom d x).links = s.links := rfl
@[simp] theorem State.setDom_ing (s : State) (d : Nat) (x : PDom) : (s.setDom d x).ing = s.ing := rfl
@[simp] theorem State.setDom_eg (s : State) (d : Nat) (x : PDom) : (s.setDom d x).eg = s.eg := rfl
@[simp] theorem State.setDom_led (s : State) (d : Nat) (x : PDom) : (s.setDom d x).led = s.led := rfl
@[simp] theorem State.setDom_tb (s : State) (d : Nat) (x : PDom) : (s.setDom d x).tb = s.tb := rfl
@[simp] theorem State.setDom_buf (s : State) (d : Nat) (x : PDom) : (s.setDom d x).buf = s.buf := rfl
@[simp] theorem State.setDom_ic (s : State) (d : Nat) (x : PDom) : (s.setDom d x).ic = s.ic := rfl
@[simp] theorem State.setDom_time (s : State) (d : Nat) (x : PDom) : (s.setDom d x).time = s.time := rfl
@[simp] theorem State.setDom_sched (s : State) (d : Nat) (x : PDom) : (s.setDom d x).sched = s.sched := rfl
@[simp] theorem State.setDom_pm (s : State) (d : Nat) (x : PDom) : (s.setDom d x).pm = s.pm := rfl
@[simp] theorem State.setDom_cfg (s : State) (d : Nat) (x : PDom) : (s.setDom d x).cfg = s.cfg := rfl
@[simp] theorem State.setDom_dbg (s : State) (d : Nat) (x : PDom) : (s.setDom d x).dbg = s.dbg := rfl
@[simp] theorem State.setDom_fab (s : State) (d : Nat) (x : PDom) : (s.setDom d x).fab = s.fab := rfl
@[simp] theorem State.setDom_sems (s : State) (d : Nat) (x : PDom) : (s.setDom d x).sems = s.sems := rfl
@[simp] theorem State.setDom_blkWdog (s : State) (d : Nat) (x : PDom) : (s.setDom d x).blkWdog = s.blkWdog := rfl
@[simp] theorem State.setDom_blkWarn (s : State) (d : Nat) (x : PDom) : (s.setDom d x).blkWarn = s.blkWarn := rfl

/-! ### setReg -/

@[simp] theorem State.setReg_pending (s : State) (a : Nat) (w : Word) : (s.setReg a w).pending = s.pending := rfl
@[simp] theorem State.setReg_now (s : State) (a : Nat) (w : Word) : (s.setReg a w).now = s.now := rfl
@[simp] theorem State.setReg_freeCount (s : State) (a : Nat) (w : Word) : (s.setReg a w).freeCount = s.freeCount := rfl
@[simp] theorem State.setReg_blk (s : State) (a : Nat) (w : Word) : (s.setReg a w).blk = s.blk := rfl
@[simp] theorem State.setReg_counters (s : State) (a : Nat) (w : Word) : (s.setReg a w).counters = s.counters := rfl
@[simp] theorem State.setReg_latches (s : State) (a : Nat) (w : Word) : (s.setReg a w).latches = s.latches := rfl
@[simp] theorem State.setReg_lw (s : State) (a : Nat) (w : Word) : (s.setReg a w).lw = s.lw := rfl
@[simp] theorem State.setReg_logs (s : State) (a : Nat) (w : Word) : (s.setReg a w).logs = s.logs := rfl
@[simp] theorem State.setReg_pins (s : State) (a : Nat) (w : Word) : (s.setReg a w).pins = s.pins := rfl
@[simp] theorem State.setReg_chSt (s : State) (a : Nat) (w : Word) : (s.setReg a w).chSt = s.chSt := rfl
@[simp] theorem State.setReg_detaching (s : State) (a : Nat) (w : Word) : (s.setReg a w).detaching = s.detaching := rfl
@[simp] theorem State.setReg_sp (s : State) (a : Nat) (w : Word) : (s.setReg a w).sp = s.sp := rfl
@[simp] theorem State.setReg_code (s : State) (a : Nat) (w : Word) : (s.setReg a w).code = s.code := rfl
@[simp] theorem State.setReg_stwCode (s : State) (a : Nat) (w : Word) : (s.setReg a w).stwCode = s.stwCode := rfl
@[simp] theorem State.setReg_sram (s : State) (a : Nat) (w : Word) : (s.setReg a w).sram = s.sram := rfl
@[simp] theorem State.setReg_tile (s : State) (a : Nat) (w : Word) : (s.setReg a w).tile = s.tile := rfl
@[simp] theorem State.setReg_flash (s : State) (a : Nat) (w : Word) : (s.setReg a w).flash = s.flash := rfl
@[simp] theorem State.setReg_ao (s : State) (a : Nat) (w : Word) : (s.setReg a w).ao = s.ao := rfl
@[simp] theorem State.setReg_spErr (s : State) (a : Nat) (w : Word) : (s.setReg a w).spErr = s.spErr := rfl
@[simp] theorem State.setReg_tileErr (s : State) (a : Nat) (w : Word) : (s.setReg a w).tileErr = s.tileErr := rfl
@[simp] theorem State.setReg_sramErr (s : State) (a : Nat) (w : Word) : (s.setReg a w).sramErr = s.sramErr := rfl
@[simp] theorem State.setReg_ledErr (s : State) (a : Nat) (w : Word) : (s.setReg a w).ledErr = s.ledErr := rfl
@[simp] theorem State.setReg_spFaulty (s : State) (a : Nat) (w : Word) : (s.setReg a w).spFaulty = s.spFaulty := rfl
@[simp] theorem State.setReg_spFull (s : State) (a : Nat) (w : Word) : (s.setReg a w).spFull = s.spFull := rfl
@[simp] theorem State.setReg_csErr (s : State) (a : Nat) (w : Word) : (s.setReg a w).csErr = s.csErr := rfl
@[simp] theorem State.setReg_stkErr (s : State) (a : Nat) (w : Word) : (s.setReg a w).stkErr = s.stkErr := rfl
@[simp] theorem State.setReg_ctxs (s : State) (a : Nat) (w : Word) : (s.setReg a w).ctxs = s.ctxs := rfl
@[simp] theorem State.setReg_cores (s : State) (a : Nat) (w : Word) : (s.setReg a w).cores = s.cores := rfl
@[simp] theorem State.setReg_ranks (s : State) (a : Nat) (w : Word) : (s.setReg a w).ranks = s.ranks := rfl
@[simp] theorem State.setReg_stw (s : State) (a : Nat) (w : Word) : (s.setReg a w).stw = s.stw := rfl
@[simp] theorem State.setReg_links (s : State) (a : Nat) (w : Word) : (s.setReg a w).links = s.links := rfl
@[simp] theorem State.setReg_ing (s : State) (a : Nat) (w : Word) : (s.setReg a w).ing = s.ing := rfl
@[simp] theorem State.setReg_eg (s : State) (a : Nat) (w : Word) : (s.setReg a w).eg = s.eg := rfl
@[simp] theorem State.setReg_led (s : State) (a : Nat) (w : Word) : (s.setReg a w).led = s.led := rfl
@[simp] theorem State.setReg_tb (s : State) (a : Nat) (w : Word) : (s.setReg a w).tb = s.tb := rfl
@[simp] theorem State.setReg_buf (s : State) (a : Nat) (w : Word) : (s.setReg a w).buf = s.buf := rfl
@[simp] theorem State.setReg_ic (s : State) (a : Nat) (w : Word) : (s.setReg a w).ic = s.ic := rfl
@[simp] theorem State.setReg_time (s : State) (a : Nat) (w : Word) : (s.setReg a w).time = s.time := rfl
@[simp] theorem State.setReg_sched (s : State) (a : Nat) (w : Word) : (s.setReg a w).sched = s.sched := rfl
@[simp] theorem State.setReg_dom (s : State) (a : Nat) (w : Word) : (s.setReg a w).dom = s.dom := rfl
@[simp] theorem State.setReg_pm (s : State) (a : Nat) (w : Word) : (s.setReg a w).pm = s.pm := rfl
@[simp] theorem State.setReg_cfg (s : State) (a : Nat) (w : Word) : (s.setReg a w).cfg = s.cfg := rfl
@[simp] theorem State.setReg_dbg (s : State) (a : Nat) (w : Word) : (s.setReg a w).dbg = s.dbg := rfl
@[simp] theorem State.setReg_fab (s : State) (a : Nat) (w : Word) : (s.setReg a w).fab = s.fab := rfl
@[simp] theorem State.setReg_sems (s : State) (a : Nat) (w : Word) : (s.setReg a w).sems = s.sems := rfl
@[simp] theorem State.setReg_blkWdog (s : State) (a : Nat) (w : Word) : (s.setReg a w).blkWdog = s.blkWdog := rfl
@[simp] theorem State.setReg_blkWarn (s : State) (a : Nat) (w : Word) : (s.setReg a w).blkWarn = s.blkWarn := rfl

/-! ### setChan -/

@[simp] theorem State.setChan_pending (s : State) (ch : Nat) (v : BitVec 2) : (s.setChan ch v).pending = s.pending := rfl
@[simp] theorem State.setChan_now (s : State) (ch : Nat) (v : BitVec 2) : (s.setChan ch v).now = s.now := rfl
@[simp] theorem State.setChan_freeCount (s : State) (ch : Nat) (v : BitVec 2) : (s.setChan ch v).freeCount = s.freeCount := rfl
@[simp] theorem State.setChan_blk (s : State) (ch : Nat) (v : BitVec 2) : (s.setChan ch v).blk = s.blk := rfl
@[simp] theorem State.setChan_regs (s : State) (ch : Nat) (v : BitVec 2) : (s.setChan ch v).regs = s.regs := rfl
@[simp] theorem State.setChan_counters (s : State) (ch : Nat) (v : BitVec 2) : (s.setChan ch v).counters = s.counters := rfl
@[simp] theorem State.setChan_latches (s : State) (ch : Nat) (v : BitVec 2) : (s.setChan ch v).latches = s.latches := rfl
@[simp] theorem State.setChan_lw (s : State) (ch : Nat) (v : BitVec 2) : (s.setChan ch v).lw = s.lw := rfl
@[simp] theorem State.setChan_logs (s : State) (ch : Nat) (v : BitVec 2) : (s.setChan ch v).logs = s.logs := rfl
@[simp] theorem State.setChan_pins (s : State) (ch : Nat) (v : BitVec 2) : (s.setChan ch v).pins = s.pins := rfl
@[simp] theorem State.setChan_detaching (s : State) (ch : Nat) (v : BitVec 2) : (s.setChan ch v).detaching = s.detaching := rfl
@[simp] theorem State.setChan_sp (s : State) (ch : Nat) (v : BitVec 2) : (s.setChan ch v).sp = s.sp := rfl
@[simp] theorem State.setChan_code (s : State) (ch : Nat) (v : BitVec 2) : (s.setChan ch v).code = s.code := rfl
@[simp] theorem State.setChan_stwCode (s : State) (ch : Nat) (v : BitVec 2) : (s.setChan ch v).stwCode = s.stwCode := rfl
@[simp] theorem State.setChan_sram (s : State) (ch : Nat) (v : BitVec 2) : (s.setChan ch v).sram = s.sram := rfl
@[simp] theorem State.setChan_tile (s : State) (ch : Nat) (v : BitVec 2) : (s.setChan ch v).tile = s.tile := rfl
@[simp] theorem State.setChan_flash (s : State) (ch : Nat) (v : BitVec 2) : (s.setChan ch v).flash = s.flash := rfl
@[simp] theorem State.setChan_ao (s : State) (ch : Nat) (v : BitVec 2) : (s.setChan ch v).ao = s.ao := rfl
@[simp] theorem State.setChan_spErr (s : State) (ch : Nat) (v : BitVec 2) : (s.setChan ch v).spErr = s.spErr := rfl
@[simp] theorem State.setChan_tileErr (s : State) (ch : Nat) (v : BitVec 2) : (s.setChan ch v).tileErr = s.tileErr := rfl
@[simp] theorem State.setChan_sramErr (s : State) (ch : Nat) (v : BitVec 2) : (s.setChan ch v).sramErr = s.sramErr := rfl
@[simp] theorem State.setChan_ledErr (s : State) (ch : Nat) (v : BitVec 2) : (s.setChan ch v).ledErr = s.ledErr := rfl
@[simp] theorem State.setChan_spFaulty (s : State) (ch : Nat) (v : BitVec 2) : (s.setChan ch v).spFaulty = s.spFaulty := rfl
@[simp] theorem State.setChan_spFull (s : State) (ch : Nat) (v : BitVec 2) : (s.setChan ch v).spFull = s.spFull := rfl
@[simp] theorem State.setChan_csErr (s : State) (ch : Nat) (v : BitVec 2) : (s.setChan ch v).csErr = s.csErr := rfl
@[simp] theorem State.setChan_stkErr (s : State) (ch : Nat) (v : BitVec 2) : (s.setChan ch v).stkErr = s.stkErr := rfl
@[simp] theorem State.setChan_ctxs (s : State) (ch : Nat) (v : BitVec 2) : (s.setChan ch v).ctxs = s.ctxs := rfl
@[simp] theorem State.setChan_cores (s : State) (ch : Nat) (v : BitVec 2) : (s.setChan ch v).cores = s.cores := rfl
@[simp] theorem State.setChan_ranks (s : State) (ch : Nat) (v : BitVec 2) : (s.setChan ch v).ranks = s.ranks := rfl
@[simp] theorem State.setChan_stw (s : State) (ch : Nat) (v : BitVec 2) : (s.setChan ch v).stw = s.stw := rfl
@[simp] theorem State.setChan_links (s : State) (ch : Nat) (v : BitVec 2) : (s.setChan ch v).links = s.links := rfl
@[simp] theorem State.setChan_ing (s : State) (ch : Nat) (v : BitVec 2) : (s.setChan ch v).ing = s.ing := rfl
@[simp] theorem State.setChan_eg (s : State) (ch : Nat) (v : BitVec 2) : (s.setChan ch v).eg = s.eg := rfl
@[simp] theorem State.setChan_led (s : State) (ch : Nat) (v : BitVec 2) : (s.setChan ch v).led = s.led := rfl
@[simp] theorem State.setChan_tb (s : State) (ch : Nat) (v : BitVec 2) : (s.setChan ch v).tb = s.tb := rfl
@[simp] theorem State.setChan_buf (s : State) (ch : Nat) (v : BitVec 2) : (s.setChan ch v).buf = s.buf := rfl
@[simp] theorem State.setChan_ic (s : State) (ch : Nat) (v : BitVec 2) : (s.setChan ch v).ic = s.ic := rfl
@[simp] theorem State.setChan_time (s : State) (ch : Nat) (v : BitVec 2) : (s.setChan ch v).time = s.time := rfl
@[simp] theorem State.setChan_sched (s : State) (ch : Nat) (v : BitVec 2) : (s.setChan ch v).sched = s.sched := rfl
@[simp] theorem State.setChan_dom (s : State) (ch : Nat) (v : BitVec 2) : (s.setChan ch v).dom = s.dom := rfl
@[simp] theorem State.setChan_pm (s : State) (ch : Nat) (v : BitVec 2) : (s.setChan ch v).pm = s.pm := rfl
@[simp] theorem State.setChan_cfg (s : State) (ch : Nat) (v : BitVec 2) : (s.setChan ch v).cfg = s.cfg := rfl
@[simp] theorem State.setChan_dbg (s : State) (ch : Nat) (v : BitVec 2) : (s.setChan ch v).dbg = s.dbg := rfl
@[simp] theorem State.setChan_fab (s : State) (ch : Nat) (v : BitVec 2) : (s.setChan ch v).fab = s.fab := rfl
@[simp] theorem State.setChan_sems (s : State) (ch : Nat) (v : BitVec 2) : (s.setChan ch v).sems = s.sems := rfl
@[simp] theorem State.setChan_blkWdog (s : State) (ch : Nat) (v : BitVec 2) : (s.setChan ch v).blkWdog = s.blkWdog := rfl
@[simp] theorem State.setChan_blkWarn (s : State) (ch : Nat) (v : BitVec 2) : (s.setChan ch v).blkWarn = s.blkWarn := rfl

/-! ### lwKeep -/

@[simp] theorem State.lwKeep_pending (s : State) (a : Nat) (w : Word) : (s.lwKeep a w).pending = s.pending := rfl
@[simp] theorem State.lwKeep_now (s : State) (a : Nat) (w : Word) : (s.lwKeep a w).now = s.now := rfl
@[simp] theorem State.lwKeep_freeCount (s : State) (a : Nat) (w : Word) : (s.lwKeep a w).freeCount = s.freeCount := rfl
@[simp] theorem State.lwKeep_blk (s : State) (a : Nat) (w : Word) : (s.lwKeep a w).blk = s.blk := rfl
@[simp] theorem State.lwKeep_regs (s : State) (a : Nat) (w : Word) : (s.lwKeep a w).regs = s.regs := rfl
@[simp] theorem State.lwKeep_counters (s : State) (a : Nat) (w : Word) : (s.lwKeep a w).counters = s.counters := rfl
@[simp] theorem State.lwKeep_latches (s : State) (a : Nat) (w : Word) : (s.lwKeep a w).latches = s.latches := rfl
@[simp] theorem State.lwKeep_logs (s : State) (a : Nat) (w : Word) : (s.lwKeep a w).logs = s.logs := rfl
@[simp] theorem State.lwKeep_pins (s : State) (a : Nat) (w : Word) : (s.lwKeep a w).pins = s.pins := rfl
@[simp] theorem State.lwKeep_chSt (s : State) (a : Nat) (w : Word) : (s.lwKeep a w).chSt = s.chSt := rfl
@[simp] theorem State.lwKeep_detaching (s : State) (a : Nat) (w : Word) : (s.lwKeep a w).detaching = s.detaching := rfl
@[simp] theorem State.lwKeep_sp (s : State) (a : Nat) (w : Word) : (s.lwKeep a w).sp = s.sp := rfl
@[simp] theorem State.lwKeep_code (s : State) (a : Nat) (w : Word) : (s.lwKeep a w).code = s.code := rfl
@[simp] theorem State.lwKeep_stwCode (s : State) (a : Nat) (w : Word) : (s.lwKeep a w).stwCode = s.stwCode := rfl
@[simp] theorem State.lwKeep_sram (s : State) (a : Nat) (w : Word) : (s.lwKeep a w).sram = s.sram := rfl
@[simp] theorem State.lwKeep_tile (s : State) (a : Nat) (w : Word) : (s.lwKeep a w).tile = s.tile := rfl
@[simp] theorem State.lwKeep_flash (s : State) (a : Nat) (w : Word) : (s.lwKeep a w).flash = s.flash := rfl
@[simp] theorem State.lwKeep_ao (s : State) (a : Nat) (w : Word) : (s.lwKeep a w).ao = s.ao := rfl
@[simp] theorem State.lwKeep_spErr (s : State) (a : Nat) (w : Word) : (s.lwKeep a w).spErr = s.spErr := rfl
@[simp] theorem State.lwKeep_tileErr (s : State) (a : Nat) (w : Word) : (s.lwKeep a w).tileErr = s.tileErr := rfl
@[simp] theorem State.lwKeep_sramErr (s : State) (a : Nat) (w : Word) : (s.lwKeep a w).sramErr = s.sramErr := rfl
@[simp] theorem State.lwKeep_ledErr (s : State) (a : Nat) (w : Word) : (s.lwKeep a w).ledErr = s.ledErr := rfl
@[simp] theorem State.lwKeep_spFaulty (s : State) (a : Nat) (w : Word) : (s.lwKeep a w).spFaulty = s.spFaulty := rfl
@[simp] theorem State.lwKeep_spFull (s : State) (a : Nat) (w : Word) : (s.lwKeep a w).spFull = s.spFull := rfl
@[simp] theorem State.lwKeep_csErr (s : State) (a : Nat) (w : Word) : (s.lwKeep a w).csErr = s.csErr := rfl
@[simp] theorem State.lwKeep_stkErr (s : State) (a : Nat) (w : Word) : (s.lwKeep a w).stkErr = s.stkErr := rfl
@[simp] theorem State.lwKeep_ctxs (s : State) (a : Nat) (w : Word) : (s.lwKeep a w).ctxs = s.ctxs := rfl
@[simp] theorem State.lwKeep_cores (s : State) (a : Nat) (w : Word) : (s.lwKeep a w).cores = s.cores := rfl
@[simp] theorem State.lwKeep_ranks (s : State) (a : Nat) (w : Word) : (s.lwKeep a w).ranks = s.ranks := rfl
@[simp] theorem State.lwKeep_stw (s : State) (a : Nat) (w : Word) : (s.lwKeep a w).stw = s.stw := rfl
@[simp] theorem State.lwKeep_links (s : State) (a : Nat) (w : Word) : (s.lwKeep a w).links = s.links := rfl
@[simp] theorem State.lwKeep_ing (s : State) (a : Nat) (w : Word) : (s.lwKeep a w).ing = s.ing := rfl
@[simp] theorem State.lwKeep_eg (s : State) (a : Nat) (w : Word) : (s.lwKeep a w).eg = s.eg := rfl
@[simp] theorem State.lwKeep_led (s : State) (a : Nat) (w : Word) : (s.lwKeep a w).led = s.led := rfl
@[simp] theorem State.lwKeep_tb (s : State) (a : Nat) (w : Word) : (s.lwKeep a w).tb = s.tb := rfl
@[simp] theorem State.lwKeep_buf (s : State) (a : Nat) (w : Word) : (s.lwKeep a w).buf = s.buf := rfl
@[simp] theorem State.lwKeep_ic (s : State) (a : Nat) (w : Word) : (s.lwKeep a w).ic = s.ic := rfl
@[simp] theorem State.lwKeep_time (s : State) (a : Nat) (w : Word) : (s.lwKeep a w).time = s.time := rfl
@[simp] theorem State.lwKeep_sched (s : State) (a : Nat) (w : Word) : (s.lwKeep a w).sched = s.sched := rfl
@[simp] theorem State.lwKeep_dom (s : State) (a : Nat) (w : Word) : (s.lwKeep a w).dom = s.dom := rfl
@[simp] theorem State.lwKeep_pm (s : State) (a : Nat) (w : Word) : (s.lwKeep a w).pm = s.pm := rfl
@[simp] theorem State.lwKeep_cfg (s : State) (a : Nat) (w : Word) : (s.lwKeep a w).cfg = s.cfg := rfl
@[simp] theorem State.lwKeep_dbg (s : State) (a : Nat) (w : Word) : (s.lwKeep a w).dbg = s.dbg := rfl
@[simp] theorem State.lwKeep_fab (s : State) (a : Nat) (w : Word) : (s.lwKeep a w).fab = s.fab := rfl
@[simp] theorem State.lwKeep_sems (s : State) (a : Nat) (w : Word) : (s.lwKeep a w).sems = s.sems := rfl
@[simp] theorem State.lwKeep_blkWdog (s : State) (a : Nat) (w : Word) : (s.lwKeep a w).blkWdog = s.blkWdog := rfl
@[simp] theorem State.lwKeep_blkWarn (s : State) (a : Nat) (w : Word) : (s.lwKeep a w).blkWarn = s.blkWarn := rfl

/-! ### spW -/

@[simp] theorem State.spW_pending (s : State) (k x : Nat) (b : List Byte) : (s.spW k x b).pending = s.pending := rfl
@[simp] theorem State.spW_now (s : State) (k x : Nat) (b : List Byte) : (s.spW k x b).now = s.now := rfl
@[simp] theorem State.spW_freeCount (s : State) (k x : Nat) (b : List Byte) : (s.spW k x b).freeCount = s.freeCount := rfl
@[simp] theorem State.spW_blk (s : State) (k x : Nat) (b : List Byte) : (s.spW k x b).blk = s.blk := rfl
@[simp] theorem State.spW_regs (s : State) (k x : Nat) (b : List Byte) : (s.spW k x b).regs = s.regs := rfl
@[simp] theorem State.spW_counters (s : State) (k x : Nat) (b : List Byte) : (s.spW k x b).counters = s.counters := rfl
@[simp] theorem State.spW_latches (s : State) (k x : Nat) (b : List Byte) : (s.spW k x b).latches = s.latches := rfl
@[simp] theorem State.spW_lw (s : State) (k x : Nat) (b : List Byte) : (s.spW k x b).lw = s.lw := rfl
@[simp] theorem State.spW_logs (s : State) (k x : Nat) (b : List Byte) : (s.spW k x b).logs = s.logs := rfl
@[simp] theorem State.spW_pins (s : State) (k x : Nat) (b : List Byte) : (s.spW k x b).pins = s.pins := rfl
@[simp] theorem State.spW_chSt (s : State) (k x : Nat) (b : List Byte) : (s.spW k x b).chSt = s.chSt := rfl
@[simp] theorem State.spW_detaching (s : State) (k x : Nat) (b : List Byte) : (s.spW k x b).detaching = s.detaching := rfl
@[simp] theorem State.spW_code (s : State) (k x : Nat) (b : List Byte) : (s.spW k x b).code = s.code := rfl
@[simp] theorem State.spW_stwCode (s : State) (k x : Nat) (b : List Byte) : (s.spW k x b).stwCode = s.stwCode := rfl
@[simp] theorem State.spW_sram (s : State) (k x : Nat) (b : List Byte) : (s.spW k x b).sram = s.sram := rfl
@[simp] theorem State.spW_tile (s : State) (k x : Nat) (b : List Byte) : (s.spW k x b).tile = s.tile := rfl
@[simp] theorem State.spW_flash (s : State) (k x : Nat) (b : List Byte) : (s.spW k x b).flash = s.flash := rfl
@[simp] theorem State.spW_ao (s : State) (k x : Nat) (b : List Byte) : (s.spW k x b).ao = s.ao := rfl
@[simp] theorem State.spW_spErr (s : State) (k x : Nat) (b : List Byte) : (s.spW k x b).spErr = s.spErr := rfl
@[simp] theorem State.spW_tileErr (s : State) (k x : Nat) (b : List Byte) : (s.spW k x b).tileErr = s.tileErr := rfl
@[simp] theorem State.spW_sramErr (s : State) (k x : Nat) (b : List Byte) : (s.spW k x b).sramErr = s.sramErr := rfl
@[simp] theorem State.spW_ledErr (s : State) (k x : Nat) (b : List Byte) : (s.spW k x b).ledErr = s.ledErr := rfl
@[simp] theorem State.spW_spFaulty (s : State) (k x : Nat) (b : List Byte) : (s.spW k x b).spFaulty = s.spFaulty := rfl
@[simp] theorem State.spW_spFull (s : State) (k x : Nat) (b : List Byte) : (s.spW k x b).spFull = s.spFull := rfl
@[simp] theorem State.spW_csErr (s : State) (k x : Nat) (b : List Byte) : (s.spW k x b).csErr = s.csErr := rfl
@[simp] theorem State.spW_stkErr (s : State) (k x : Nat) (b : List Byte) : (s.spW k x b).stkErr = s.stkErr := rfl
@[simp] theorem State.spW_ctxs (s : State) (k x : Nat) (b : List Byte) : (s.spW k x b).ctxs = s.ctxs := rfl
@[simp] theorem State.spW_cores (s : State) (k x : Nat) (b : List Byte) : (s.spW k x b).cores = s.cores := rfl
@[simp] theorem State.spW_ranks (s : State) (k x : Nat) (b : List Byte) : (s.spW k x b).ranks = s.ranks := rfl
@[simp] theorem State.spW_stw (s : State) (k x : Nat) (b : List Byte) : (s.spW k x b).stw = s.stw := rfl
@[simp] theorem State.spW_links (s : State) (k x : Nat) (b : List Byte) : (s.spW k x b).links = s.links := rfl
@[simp] theorem State.spW_ing (s : State) (k x : Nat) (b : List Byte) : (s.spW k x b).ing = s.ing := rfl
@[simp] theorem State.spW_eg (s : State) (k x : Nat) (b : List Byte) : (s.spW k x b).eg = s.eg := rfl
@[simp] theorem State.spW_led (s : State) (k x : Nat) (b : List Byte) : (s.spW k x b).led = s.led := rfl
@[simp] theorem State.spW_tb (s : State) (k x : Nat) (b : List Byte) : (s.spW k x b).tb = s.tb := rfl
@[simp] theorem State.spW_buf (s : State) (k x : Nat) (b : List Byte) : (s.spW k x b).buf = s.buf := rfl
@[simp] theorem State.spW_ic (s : State) (k x : Nat) (b : List Byte) : (s.spW k x b).ic = s.ic := rfl
@[simp] theorem State.spW_time (s : State) (k x : Nat) (b : List Byte) : (s.spW k x b).time = s.time := rfl
@[simp] theorem State.spW_sched (s : State) (k x : Nat) (b : List Byte) : (s.spW k x b).sched = s.sched := rfl
@[simp] theorem State.spW_dom (s : State) (k x : Nat) (b : List Byte) : (s.spW k x b).dom = s.dom := rfl
@[simp] theorem State.spW_pm (s : State) (k x : Nat) (b : List Byte) : (s.spW k x b).pm = s.pm := rfl
@[simp] theorem State.spW_cfg (s : State) (k x : Nat) (b : List Byte) : (s.spW k x b).cfg = s.cfg := rfl
@[simp] theorem State.spW_dbg (s : State) (k x : Nat) (b : List Byte) : (s.spW k x b).dbg = s.dbg := rfl
@[simp] theorem State.spW_fab (s : State) (k x : Nat) (b : List Byte) : (s.spW k x b).fab = s.fab := rfl
@[simp] theorem State.spW_sems (s : State) (k x : Nat) (b : List Byte) : (s.spW k x b).sems = s.sems := rfl
@[simp] theorem State.spW_blkWdog (s : State) (k x : Nat) (b : List Byte) : (s.spW k x b).blkWdog = s.blkWdog := rfl
@[simp] theorem State.spW_blkWarn (s : State) (k x : Nat) (b : List Byte) : (s.spW k x b).blkWarn = s.blkWarn := rfl

/-! ### codeW -/

@[simp] theorem State.codeW_pending (s : State) (k x : Nat) (b : List Byte) : (s.codeW k x b).pending = s.pending := rfl
@[simp] theorem State.codeW_now (s : State) (k x : Nat) (b : List Byte) : (s.codeW k x b).now = s.now := rfl
@[simp] theorem State.codeW_freeCount (s : State) (k x : Nat) (b : List Byte) : (s.codeW k x b).freeCount = s.freeCount := rfl
@[simp] theorem State.codeW_blk (s : State) (k x : Nat) (b : List Byte) : (s.codeW k x b).blk = s.blk := rfl
@[simp] theorem State.codeW_regs (s : State) (k x : Nat) (b : List Byte) : (s.codeW k x b).regs = s.regs := rfl
@[simp] theorem State.codeW_counters (s : State) (k x : Nat) (b : List Byte) : (s.codeW k x b).counters = s.counters := rfl
@[simp] theorem State.codeW_latches (s : State) (k x : Nat) (b : List Byte) : (s.codeW k x b).latches = s.latches := rfl
@[simp] theorem State.codeW_lw (s : State) (k x : Nat) (b : List Byte) : (s.codeW k x b).lw = s.lw := rfl
@[simp] theorem State.codeW_logs (s : State) (k x : Nat) (b : List Byte) : (s.codeW k x b).logs = s.logs := rfl
@[simp] theorem State.codeW_pins (s : State) (k x : Nat) (b : List Byte) : (s.codeW k x b).pins = s.pins := rfl
@[simp] theorem State.codeW_chSt (s : State) (k x : Nat) (b : List Byte) : (s.codeW k x b).chSt = s.chSt := rfl
@[simp] theorem State.codeW_detaching (s : State) (k x : Nat) (b : List Byte) : (s.codeW k x b).detaching = s.detaching := rfl
@[simp] theorem State.codeW_sp (s : State) (k x : Nat) (b : List Byte) : (s.codeW k x b).sp = s.sp := rfl
@[simp] theorem State.codeW_stwCode (s : State) (k x : Nat) (b : List Byte) : (s.codeW k x b).stwCode = s.stwCode := rfl
@[simp] theorem State.codeW_sram (s : State) (k x : Nat) (b : List Byte) : (s.codeW k x b).sram = s.sram := rfl
@[simp] theorem State.codeW_tile (s : State) (k x : Nat) (b : List Byte) : (s.codeW k x b).tile = s.tile := rfl
@[simp] theorem State.codeW_flash (s : State) (k x : Nat) (b : List Byte) : (s.codeW k x b).flash = s.flash := rfl
@[simp] theorem State.codeW_ao (s : State) (k x : Nat) (b : List Byte) : (s.codeW k x b).ao = s.ao := rfl
@[simp] theorem State.codeW_spErr (s : State) (k x : Nat) (b : List Byte) : (s.codeW k x b).spErr = s.spErr := rfl
@[simp] theorem State.codeW_tileErr (s : State) (k x : Nat) (b : List Byte) : (s.codeW k x b).tileErr = s.tileErr := rfl
@[simp] theorem State.codeW_sramErr (s : State) (k x : Nat) (b : List Byte) : (s.codeW k x b).sramErr = s.sramErr := rfl
@[simp] theorem State.codeW_ledErr (s : State) (k x : Nat) (b : List Byte) : (s.codeW k x b).ledErr = s.ledErr := rfl
@[simp] theorem State.codeW_spFaulty (s : State) (k x : Nat) (b : List Byte) : (s.codeW k x b).spFaulty = s.spFaulty := rfl
@[simp] theorem State.codeW_spFull (s : State) (k x : Nat) (b : List Byte) : (s.codeW k x b).spFull = s.spFull := rfl
@[simp] theorem State.codeW_csErr (s : State) (k x : Nat) (b : List Byte) : (s.codeW k x b).csErr = s.csErr := rfl
@[simp] theorem State.codeW_stkErr (s : State) (k x : Nat) (b : List Byte) : (s.codeW k x b).stkErr = s.stkErr := rfl
@[simp] theorem State.codeW_ctxs (s : State) (k x : Nat) (b : List Byte) : (s.codeW k x b).ctxs = s.ctxs := rfl
@[simp] theorem State.codeW_cores (s : State) (k x : Nat) (b : List Byte) : (s.codeW k x b).cores = s.cores := rfl
@[simp] theorem State.codeW_ranks (s : State) (k x : Nat) (b : List Byte) : (s.codeW k x b).ranks = s.ranks := rfl
@[simp] theorem State.codeW_stw (s : State) (k x : Nat) (b : List Byte) : (s.codeW k x b).stw = s.stw := rfl
@[simp] theorem State.codeW_links (s : State) (k x : Nat) (b : List Byte) : (s.codeW k x b).links = s.links := rfl
@[simp] theorem State.codeW_ing (s : State) (k x : Nat) (b : List Byte) : (s.codeW k x b).ing = s.ing := rfl
@[simp] theorem State.codeW_eg (s : State) (k x : Nat) (b : List Byte) : (s.codeW k x b).eg = s.eg := rfl
@[simp] theorem State.codeW_led (s : State) (k x : Nat) (b : List Byte) : (s.codeW k x b).led = s.led := rfl
@[simp] theorem State.codeW_tb (s : State) (k x : Nat) (b : List Byte) : (s.codeW k x b).tb = s.tb := rfl
@[simp] theorem State.codeW_buf (s : State) (k x : Nat) (b : List Byte) : (s.codeW k x b).buf = s.buf := rfl
@[simp] theorem State.codeW_ic (s : State) (k x : Nat) (b : List Byte) : (s.codeW k x b).ic = s.ic := rfl
@[simp] theorem State.codeW_time (s : State) (k x : Nat) (b : List Byte) : (s.codeW k x b).time = s.time := rfl
@[simp] theorem State.codeW_sched (s : State) (k x : Nat) (b : List Byte) : (s.codeW k x b).sched = s.sched := rfl
@[simp] theorem State.codeW_dom (s : State) (k x : Nat) (b : List Byte) : (s.codeW k x b).dom = s.dom := rfl
@[simp] theorem State.codeW_pm (s : State) (k x : Nat) (b : List Byte) : (s.codeW k x b).pm = s.pm := rfl
@[simp] theorem State.codeW_cfg (s : State) (k x : Nat) (b : List Byte) : (s.codeW k x b).cfg = s.cfg := rfl
@[simp] theorem State.codeW_dbg (s : State) (k x : Nat) (b : List Byte) : (s.codeW k x b).dbg = s.dbg := rfl
@[simp] theorem State.codeW_fab (s : State) (k x : Nat) (b : List Byte) : (s.codeW k x b).fab = s.fab := rfl
@[simp] theorem State.codeW_sems (s : State) (k x : Nat) (b : List Byte) : (s.codeW k x b).sems = s.sems := rfl
@[simp] theorem State.codeW_blkWdog (s : State) (k x : Nat) (b : List Byte) : (s.codeW k x b).blkWdog = s.blkWdog := rfl
@[simp] theorem State.codeW_blkWarn (s : State) (k x : Nat) (b : List Byte) : (s.codeW k x b).blkWarn = s.blkWarn := rfl

/-! ### scW -/

@[simp] theorem State.scW_pending (s : State) (i x : Nat) (b : List Byte) : (s.scW i x b).pending = s.pending := rfl
@[simp] theorem State.scW_now (s : State) (i x : Nat) (b : List Byte) : (s.scW i x b).now = s.now := rfl
@[simp] theorem State.scW_freeCount (s : State) (i x : Nat) (b : List Byte) : (s.scW i x b).freeCount = s.freeCount := rfl
@[simp] theorem State.scW_blk (s : State) (i x : Nat) (b : List Byte) : (s.scW i x b).blk = s.blk := rfl
@[simp] theorem State.scW_regs (s : State) (i x : Nat) (b : List Byte) : (s.scW i x b).regs = s.regs := rfl
@[simp] theorem State.scW_counters (s : State) (i x : Nat) (b : List Byte) : (s.scW i x b).counters = s.counters := rfl
@[simp] theorem State.scW_latches (s : State) (i x : Nat) (b : List Byte) : (s.scW i x b).latches = s.latches := rfl
@[simp] theorem State.scW_lw (s : State) (i x : Nat) (b : List Byte) : (s.scW i x b).lw = s.lw := rfl
@[simp] theorem State.scW_logs (s : State) (i x : Nat) (b : List Byte) : (s.scW i x b).logs = s.logs := rfl
@[simp] theorem State.scW_pins (s : State) (i x : Nat) (b : List Byte) : (s.scW i x b).pins = s.pins := rfl
@[simp] theorem State.scW_chSt (s : State) (i x : Nat) (b : List Byte) : (s.scW i x b).chSt = s.chSt := rfl
@[simp] theorem State.scW_detaching (s : State) (i x : Nat) (b : List Byte) : (s.scW i x b).detaching = s.detaching := rfl
@[simp] theorem State.scW_sp (s : State) (i x : Nat) (b : List Byte) : (s.scW i x b).sp = s.sp := rfl
@[simp] theorem State.scW_code (s : State) (i x : Nat) (b : List Byte) : (s.scW i x b).code = s.code := rfl
@[simp] theorem State.scW_sram (s : State) (i x : Nat) (b : List Byte) : (s.scW i x b).sram = s.sram := rfl
@[simp] theorem State.scW_tile (s : State) (i x : Nat) (b : List Byte) : (s.scW i x b).tile = s.tile := rfl
@[simp] theorem State.scW_flash (s : State) (i x : Nat) (b : List Byte) : (s.scW i x b).flash = s.flash := rfl
@[simp] theorem State.scW_ao (s : State) (i x : Nat) (b : List Byte) : (s.scW i x b).ao = s.ao := rfl
@[simp] theorem State.scW_spErr (s : State) (i x : Nat) (b : List Byte) : (s.scW i x b).spErr = s.spErr := rfl
@[simp] theorem State.scW_tileErr (s : State) (i x : Nat) (b : List Byte) : (s.scW i x b).tileErr = s.tileErr := rfl
@[simp] theorem State.scW_sramErr (s : State) (i x : Nat) (b : List Byte) : (s.scW i x b).sramErr = s.sramErr := rfl
@[simp] theorem State.scW_ledErr (s : State) (i x : Nat) (b : List Byte) : (s.scW i x b).ledErr = s.ledErr := rfl
@[simp] theorem State.scW_spFaulty (s : State) (i x : Nat) (b : List Byte) : (s.scW i x b).spFaulty = s.spFaulty := rfl
@[simp] theorem State.scW_spFull (s : State) (i x : Nat) (b : List Byte) : (s.scW i x b).spFull = s.spFull := rfl
@[simp] theorem State.scW_csErr (s : State) (i x : Nat) (b : List Byte) : (s.scW i x b).csErr = s.csErr := rfl
@[simp] theorem State.scW_stkErr (s : State) (i x : Nat) (b : List Byte) : (s.scW i x b).stkErr = s.stkErr := rfl
@[simp] theorem State.scW_ctxs (s : State) (i x : Nat) (b : List Byte) : (s.scW i x b).ctxs = s.ctxs := rfl
@[simp] theorem State.scW_cores (s : State) (i x : Nat) (b : List Byte) : (s.scW i x b).cores = s.cores := rfl
@[simp] theorem State.scW_ranks (s : State) (i x : Nat) (b : List Byte) : (s.scW i x b).ranks = s.ranks := rfl
@[simp] theorem State.scW_stw (s : State) (i x : Nat) (b : List Byte) : (s.scW i x b).stw = s.stw := rfl
@[simp] theorem State.scW_links (s : State) (i x : Nat) (b : List Byte) : (s.scW i x b).links = s.links := rfl
@[simp] theorem State.scW_ing (s : State) (i x : Nat) (b : List Byte) : (s.scW i x b).ing = s.ing := rfl
@[simp] theorem State.scW_eg (s : State) (i x : Nat) (b : List Byte) : (s.scW i x b).eg = s.eg := rfl
@[simp] theorem State.scW_led (s : State) (i x : Nat) (b : List Byte) : (s.scW i x b).led = s.led := rfl
@[simp] theorem State.scW_tb (s : State) (i x : Nat) (b : List Byte) : (s.scW i x b).tb = s.tb := rfl
@[simp] theorem State.scW_buf (s : State) (i x : Nat) (b : List Byte) : (s.scW i x b).buf = s.buf := rfl
@[simp] theorem State.scW_ic (s : State) (i x : Nat) (b : List Byte) : (s.scW i x b).ic = s.ic := rfl
@[simp] theorem State.scW_time (s : State) (i x : Nat) (b : List Byte) : (s.scW i x b).time = s.time := rfl
@[simp] theorem State.scW_sched (s : State) (i x : Nat) (b : List Byte) : (s.scW i x b).sched = s.sched := rfl
@[simp] theorem State.scW_dom (s : State) (i x : Nat) (b : List Byte) : (s.scW i x b).dom = s.dom := rfl
@[simp] theorem State.scW_pm (s : State) (i x : Nat) (b : List Byte) : (s.scW i x b).pm = s.pm := rfl
@[simp] theorem State.scW_cfg (s : State) (i x : Nat) (b : List Byte) : (s.scW i x b).cfg = s.cfg := rfl
@[simp] theorem State.scW_dbg (s : State) (i x : Nat) (b : List Byte) : (s.scW i x b).dbg = s.dbg := rfl
@[simp] theorem State.scW_fab (s : State) (i x : Nat) (b : List Byte) : (s.scW i x b).fab = s.fab := rfl
@[simp] theorem State.scW_sems (s : State) (i x : Nat) (b : List Byte) : (s.scW i x b).sems = s.sems := rfl
@[simp] theorem State.scW_blkWdog (s : State) (i x : Nat) (b : List Byte) : (s.scW i x b).blkWdog = s.blkWdog := rfl
@[simp] theorem State.scW_blkWarn (s : State) (i x : Nat) (b : List Byte) : (s.scW i x b).blkWarn = s.blkWarn := rfl

/-! ### srW -/

@[simp] theorem State.srW_pending (s : State) (x : Nat) (b : List Byte) : (s.srW x b).pending = s.pending := rfl
@[simp] theorem State.srW_now (s : State) (x : Nat) (b : List Byte) : (s.srW x b).now = s.now := rfl
@[simp] theorem State.srW_freeCount (s : State) (x : Nat) (b : List Byte) : (s.srW x b).freeCount = s.freeCount := rfl
@[simp] theorem State.srW_blk (s : State) (x : Nat) (b : List Byte) : (s.srW x b).blk = s.blk := rfl
@[simp] theorem State.srW_regs (s : State) (x : Nat) (b : List Byte) : (s.srW x b).regs = s.regs := rfl
@[simp] theorem State.srW_counters (s : State) (x : Nat) (b : List Byte) : (s.srW x b).counters = s.counters := rfl
@[simp] theorem State.srW_latches (s : State) (x : Nat) (b : List Byte) : (s.srW x b).latches = s.latches := rfl
@[simp] theorem State.srW_lw (s : State) (x : Nat) (b : List Byte) : (s.srW x b).lw = s.lw := rfl
@[simp] theorem State.srW_logs (s : State) (x : Nat) (b : List Byte) : (s.srW x b).logs = s.logs := rfl
@[simp] theorem State.srW_pins (s : State) (x : Nat) (b : List Byte) : (s.srW x b).pins = s.pins := rfl
@[simp] theorem State.srW_chSt (s : State) (x : Nat) (b : List Byte) : (s.srW x b).chSt = s.chSt := rfl
@[simp] theorem State.srW_detaching (s : State) (x : Nat) (b : List Byte) : (s.srW x b).detaching = s.detaching := rfl
@[simp] theorem State.srW_sp (s : State) (x : Nat) (b : List Byte) : (s.srW x b).sp = s.sp := rfl
@[simp] theorem State.srW_code (s : State) (x : Nat) (b : List Byte) : (s.srW x b).code = s.code := rfl
@[simp] theorem State.srW_stwCode (s : State) (x : Nat) (b : List Byte) : (s.srW x b).stwCode = s.stwCode := rfl
@[simp] theorem State.srW_tile (s : State) (x : Nat) (b : List Byte) : (s.srW x b).tile = s.tile := rfl
@[simp] theorem State.srW_flash (s : State) (x : Nat) (b : List Byte) : (s.srW x b).flash = s.flash := rfl
@[simp] theorem State.srW_ao (s : State) (x : Nat) (b : List Byte) : (s.srW x b).ao = s.ao := rfl
@[simp] theorem State.srW_spErr (s : State) (x : Nat) (b : List Byte) : (s.srW x b).spErr = s.spErr := rfl
@[simp] theorem State.srW_tileErr (s : State) (x : Nat) (b : List Byte) : (s.srW x b).tileErr = s.tileErr := rfl
@[simp] theorem State.srW_sramErr (s : State) (x : Nat) (b : List Byte) : (s.srW x b).sramErr = s.sramErr := rfl
@[simp] theorem State.srW_ledErr (s : State) (x : Nat) (b : List Byte) : (s.srW x b).ledErr = s.ledErr := rfl
@[simp] theorem State.srW_spFaulty (s : State) (x : Nat) (b : List Byte) : (s.srW x b).spFaulty = s.spFaulty := rfl
@[simp] theorem State.srW_spFull (s : State) (x : Nat) (b : List Byte) : (s.srW x b).spFull = s.spFull := rfl
@[simp] theorem State.srW_csErr (s : State) (x : Nat) (b : List Byte) : (s.srW x b).csErr = s.csErr := rfl
@[simp] theorem State.srW_stkErr (s : State) (x : Nat) (b : List Byte) : (s.srW x b).stkErr = s.stkErr := rfl
@[simp] theorem State.srW_ctxs (s : State) (x : Nat) (b : List Byte) : (s.srW x b).ctxs = s.ctxs := rfl
@[simp] theorem State.srW_cores (s : State) (x : Nat) (b : List Byte) : (s.srW x b).cores = s.cores := rfl
@[simp] theorem State.srW_ranks (s : State) (x : Nat) (b : List Byte) : (s.srW x b).ranks = s.ranks := rfl
@[simp] theorem State.srW_stw (s : State) (x : Nat) (b : List Byte) : (s.srW x b).stw = s.stw := rfl
@[simp] theorem State.srW_links (s : State) (x : Nat) (b : List Byte) : (s.srW x b).links = s.links := rfl
@[simp] theorem State.srW_ing (s : State) (x : Nat) (b : List Byte) : (s.srW x b).ing = s.ing := rfl
@[simp] theorem State.srW_eg (s : State) (x : Nat) (b : List Byte) : (s.srW x b).eg = s.eg := rfl
@[simp] theorem State.srW_led (s : State) (x : Nat) (b : List Byte) : (s.srW x b).led = s.led := rfl
@[simp] theorem State.srW_tb (s : State) (x : Nat) (b : List Byte) : (s.srW x b).tb = s.tb := rfl
@[simp] theorem State.srW_buf (s : State) (x : Nat) (b : List Byte) : (s.srW x b).buf = s.buf := rfl
@[simp] theorem State.srW_ic (s : State) (x : Nat) (b : List Byte) : (s.srW x b).ic = s.ic := rfl
@[simp] theorem State.srW_time (s : State) (x : Nat) (b : List Byte) : (s.srW x b).time = s.time := rfl
@[simp] theorem State.srW_sched (s : State) (x : Nat) (b : List Byte) : (s.srW x b).sched = s.sched := rfl
@[simp] theorem State.srW_dom (s : State) (x : Nat) (b : List Byte) : (s.srW x b).dom = s.dom := rfl
@[simp] theorem State.srW_pm (s : State) (x : Nat) (b : List Byte) : (s.srW x b).pm = s.pm := rfl
@[simp] theorem State.srW_cfg (s : State) (x : Nat) (b : List Byte) : (s.srW x b).cfg = s.cfg := rfl
@[simp] theorem State.srW_dbg (s : State) (x : Nat) (b : List Byte) : (s.srW x b).dbg = s.dbg := rfl
@[simp] theorem State.srW_fab (s : State) (x : Nat) (b : List Byte) : (s.srW x b).fab = s.fab := rfl
@[simp] theorem State.srW_sems (s : State) (x : Nat) (b : List Byte) : (s.srW x b).sems = s.sems := rfl
@[simp] theorem State.srW_blkWdog (s : State) (x : Nat) (b : List Byte) : (s.srW x b).blkWdog = s.blkWdog := rfl
@[simp] theorem State.srW_blkWarn (s : State) (x : Nat) (b : List Byte) : (s.srW x b).blkWarn = s.blkWarn := rfl

/-! ### flW -/

@[simp] theorem State.flW_pending (s : State) (x : Nat) (b : List Byte) : (s.flW x b).pending = s.pending := rfl
@[simp] theorem State.flW_now (s : State) (x : Nat) (b : List Byte) : (s.flW x b).now = s.now := rfl
@[simp] theorem State.flW_freeCount (s : State) (x : Nat) (b : List Byte) : (s.flW x b).freeCount = s.freeCount := rfl
@[simp] theorem State.flW_blk (s : State) (x : Nat) (b : List Byte) : (s.flW x b).blk = s.blk := rfl
@[simp] theorem State.flW_regs (s : State) (x : Nat) (b : List Byte) : (s.flW x b).regs = s.regs := rfl
@[simp] theorem State.flW_counters (s : State) (x : Nat) (b : List Byte) : (s.flW x b).counters = s.counters := rfl
@[simp] theorem State.flW_latches (s : State) (x : Nat) (b : List Byte) : (s.flW x b).latches = s.latches := rfl
@[simp] theorem State.flW_lw (s : State) (x : Nat) (b : List Byte) : (s.flW x b).lw = s.lw := rfl
@[simp] theorem State.flW_logs (s : State) (x : Nat) (b : List Byte) : (s.flW x b).logs = s.logs := rfl
@[simp] theorem State.flW_pins (s : State) (x : Nat) (b : List Byte) : (s.flW x b).pins = s.pins := rfl
@[simp] theorem State.flW_chSt (s : State) (x : Nat) (b : List Byte) : (s.flW x b).chSt = s.chSt := rfl
@[simp] theorem State.flW_detaching (s : State) (x : Nat) (b : List Byte) : (s.flW x b).detaching = s.detaching := rfl
@[simp] theorem State.flW_sp (s : State) (x : Nat) (b : List Byte) : (s.flW x b).sp = s.sp := rfl
@[simp] theorem State.flW_code (s : State) (x : Nat) (b : List Byte) : (s.flW x b).code = s.code := rfl
@[simp] theorem State.flW_stwCode (s : State) (x : Nat) (b : List Byte) : (s.flW x b).stwCode = s.stwCode := rfl
@[simp] theorem State.flW_sram (s : State) (x : Nat) (b : List Byte) : (s.flW x b).sram = s.sram := rfl
@[simp] theorem State.flW_tile (s : State) (x : Nat) (b : List Byte) : (s.flW x b).tile = s.tile := rfl
@[simp] theorem State.flW_ao (s : State) (x : Nat) (b : List Byte) : (s.flW x b).ao = s.ao := rfl
@[simp] theorem State.flW_spErr (s : State) (x : Nat) (b : List Byte) : (s.flW x b).spErr = s.spErr := rfl
@[simp] theorem State.flW_tileErr (s : State) (x : Nat) (b : List Byte) : (s.flW x b).tileErr = s.tileErr := rfl
@[simp] theorem State.flW_sramErr (s : State) (x : Nat) (b : List Byte) : (s.flW x b).sramErr = s.sramErr := rfl
@[simp] theorem State.flW_ledErr (s : State) (x : Nat) (b : List Byte) : (s.flW x b).ledErr = s.ledErr := rfl
@[simp] theorem State.flW_spFaulty (s : State) (x : Nat) (b : List Byte) : (s.flW x b).spFaulty = s.spFaulty := rfl
@[simp] theorem State.flW_spFull (s : State) (x : Nat) (b : List Byte) : (s.flW x b).spFull = s.spFull := rfl
@[simp] theorem State.flW_csErr (s : State) (x : Nat) (b : List Byte) : (s.flW x b).csErr = s.csErr := rfl
@[simp] theorem State.flW_stkErr (s : State) (x : Nat) (b : List Byte) : (s.flW x b).stkErr = s.stkErr := rfl
@[simp] theorem State.flW_ctxs (s : State) (x : Nat) (b : List Byte) : (s.flW x b).ctxs = s.ctxs := rfl
@[simp] theorem State.flW_cores (s : State) (x : Nat) (b : List Byte) : (s.flW x b).cores = s.cores := rfl
@[simp] theorem State.flW_ranks (s : State) (x : Nat) (b : List Byte) : (s.flW x b).ranks = s.ranks := rfl
@[simp] theorem State.flW_stw (s : State) (x : Nat) (b : List Byte) : (s.flW x b).stw = s.stw := rfl
@[simp] theorem State.flW_links (s : State) (x : Nat) (b : List Byte) : (s.flW x b).links = s.links := rfl
@[simp] theorem State.flW_ing (s : State) (x : Nat) (b : List Byte) : (s.flW x b).ing = s.ing := rfl
@[simp] theorem State.flW_eg (s : State) (x : Nat) (b : List Byte) : (s.flW x b).eg = s.eg := rfl
@[simp] theorem State.flW_led (s : State) (x : Nat) (b : List Byte) : (s.flW x b).led = s.led := rfl
@[simp] theorem State.flW_tb (s : State) (x : Nat) (b : List Byte) : (s.flW x b).tb = s.tb := rfl
@[simp] theorem State.flW_buf (s : State) (x : Nat) (b : List Byte) : (s.flW x b).buf = s.buf := rfl
@[simp] theorem State.flW_ic (s : State) (x : Nat) (b : List Byte) : (s.flW x b).ic = s.ic := rfl
@[simp] theorem State.flW_time (s : State) (x : Nat) (b : List Byte) : (s.flW x b).time = s.time := rfl
@[simp] theorem State.flW_sched (s : State) (x : Nat) (b : List Byte) : (s.flW x b).sched = s.sched := rfl
@[simp] theorem State.flW_dom (s : State) (x : Nat) (b : List Byte) : (s.flW x b).dom = s.dom := rfl
@[simp] theorem State.flW_pm (s : State) (x : Nat) (b : List Byte) : (s.flW x b).pm = s.pm := rfl
@[simp] theorem State.flW_cfg (s : State) (x : Nat) (b : List Byte) : (s.flW x b).cfg = s.cfg := rfl
@[simp] theorem State.flW_dbg (s : State) (x : Nat) (b : List Byte) : (s.flW x b).dbg = s.dbg := rfl
@[simp] theorem State.flW_fab (s : State) (x : Nat) (b : List Byte) : (s.flW x b).fab = s.fab := rfl
@[simp] theorem State.flW_sems (s : State) (x : Nat) (b : List Byte) : (s.flW x b).sems = s.sems := rfl
@[simp] theorem State.flW_blkWdog (s : State) (x : Nat) (b : List Byte) : (s.flW x b).blkWdog = s.blkWdog := rfl
@[simp] theorem State.flW_blkWarn (s : State) (x : Nat) (b : List Byte) : (s.flW x b).blkWarn = s.blkWarn := rfl

/-! ### aoW -/

@[simp] theorem State.aoW_pending (s : State) (x : Nat) (b : List Byte) : (s.aoW x b).pending = s.pending := rfl
@[simp] theorem State.aoW_now (s : State) (x : Nat) (b : List Byte) : (s.aoW x b).now = s.now := rfl
@[simp] theorem State.aoW_freeCount (s : State) (x : Nat) (b : List Byte) : (s.aoW x b).freeCount = s.freeCount := rfl
@[simp] theorem State.aoW_blk (s : State) (x : Nat) (b : List Byte) : (s.aoW x b).blk = s.blk := rfl
@[simp] theorem State.aoW_regs (s : State) (x : Nat) (b : List Byte) : (s.aoW x b).regs = s.regs := rfl
@[simp] theorem State.aoW_counters (s : State) (x : Nat) (b : List Byte) : (s.aoW x b).counters = s.counters := rfl
@[simp] theorem State.aoW_latches (s : State) (x : Nat) (b : List Byte) : (s.aoW x b).latches = s.latches := rfl
@[simp] theorem State.aoW_lw (s : State) (x : Nat) (b : List Byte) : (s.aoW x b).lw = s.lw := rfl
@[simp] theorem State.aoW_logs (s : State) (x : Nat) (b : List Byte) : (s.aoW x b).logs = s.logs := rfl
@[simp] theorem State.aoW_pins (s : State) (x : Nat) (b : List Byte) : (s.aoW x b).pins = s.pins := rfl
@[simp] theorem State.aoW_chSt (s : State) (x : Nat) (b : List Byte) : (s.aoW x b).chSt = s.chSt := rfl
@[simp] theorem State.aoW_detaching (s : State) (x : Nat) (b : List Byte) : (s.aoW x b).detaching = s.detaching := rfl
@[simp] theorem State.aoW_sp (s : State) (x : Nat) (b : List Byte) : (s.aoW x b).sp = s.sp := rfl
@[simp] theorem State.aoW_code (s : State) (x : Nat) (b : List Byte) : (s.aoW x b).code = s.code := rfl
@[simp] theorem State.aoW_stwCode (s : State) (x : Nat) (b : List Byte) : (s.aoW x b).stwCode = s.stwCode := rfl
@[simp] theorem State.aoW_sram (s : State) (x : Nat) (b : List Byte) : (s.aoW x b).sram = s.sram := rfl
@[simp] theorem State.aoW_tile (s : State) (x : Nat) (b : List Byte) : (s.aoW x b).tile = s.tile := rfl
@[simp] theorem State.aoW_flash (s : State) (x : Nat) (b : List Byte) : (s.aoW x b).flash = s.flash := rfl
@[simp] theorem State.aoW_spErr (s : State) (x : Nat) (b : List Byte) : (s.aoW x b).spErr = s.spErr := rfl
@[simp] theorem State.aoW_tileErr (s : State) (x : Nat) (b : List Byte) : (s.aoW x b).tileErr = s.tileErr := rfl
@[simp] theorem State.aoW_sramErr (s : State) (x : Nat) (b : List Byte) : (s.aoW x b).sramErr = s.sramErr := rfl
@[simp] theorem State.aoW_ledErr (s : State) (x : Nat) (b : List Byte) : (s.aoW x b).ledErr = s.ledErr := rfl
@[simp] theorem State.aoW_spFaulty (s : State) (x : Nat) (b : List Byte) : (s.aoW x b).spFaulty = s.spFaulty := rfl
@[simp] theorem State.aoW_spFull (s : State) (x : Nat) (b : List Byte) : (s.aoW x b).spFull = s.spFull := rfl
@[simp] theorem State.aoW_csErr (s : State) (x : Nat) (b : List Byte) : (s.aoW x b).csErr = s.csErr := rfl
@[simp] theorem State.aoW_stkErr (s : State) (x : Nat) (b : List Byte) : (s.aoW x b).stkErr = s.stkErr := rfl
@[simp] theorem State.aoW_ctxs (s : State) (x : Nat) (b : List Byte) : (s.aoW x b).ctxs = s.ctxs := rfl
@[simp] theorem State.aoW_cores (s : State) (x : Nat) (b : List Byte) : (s.aoW x b).cores = s.cores := rfl
@[simp] theorem State.aoW_ranks (s : State) (x : Nat) (b : List Byte) : (s.aoW x b).ranks = s.ranks := rfl
@[simp] theorem State.aoW_stw (s : State) (x : Nat) (b : List Byte) : (s.aoW x b).stw = s.stw := rfl
@[simp] theorem State.aoW_links (s : State) (x : Nat) (b : List Byte) : (s.aoW x b).links = s.links := rfl
@[simp] theorem State.aoW_ing (s : State) (x : Nat) (b : List Byte) : (s.aoW x b).ing = s.ing := rfl
@[simp] theorem State.aoW_eg (s : State) (x : Nat) (b : List Byte) : (s.aoW x b).eg = s.eg := rfl
@[simp] theorem State.aoW_led (s : State) (x : Nat) (b : List Byte) : (s.aoW x b).led = s.led := rfl
@[simp] theorem State.aoW_tb (s : State) (x : Nat) (b : List Byte) : (s.aoW x b).tb = s.tb := rfl
@[simp] theorem State.aoW_buf (s : State) (x : Nat) (b : List Byte) : (s.aoW x b).buf = s.buf := rfl
@[simp] theorem State.aoW_ic (s : State) (x : Nat) (b : List Byte) : (s.aoW x b).ic = s.ic := rfl
@[simp] theorem State.aoW_time (s : State) (x : Nat) (b : List Byte) : (s.aoW x b).time = s.time := rfl
@[simp] theorem State.aoW_sched (s : State) (x : Nat) (b : List Byte) : (s.aoW x b).sched = s.sched := rfl
@[simp] theorem State.aoW_dom (s : State) (x : Nat) (b : List Byte) : (s.aoW x b).dom = s.dom := rfl
@[simp] theorem State.aoW_pm (s : State) (x : Nat) (b : List Byte) : (s.aoW x b).pm = s.pm := rfl
@[simp] theorem State.aoW_cfg (s : State) (x : Nat) (b : List Byte) : (s.aoW x b).cfg = s.cfg := rfl
@[simp] theorem State.aoW_dbg (s : State) (x : Nat) (b : List Byte) : (s.aoW x b).dbg = s.dbg := rfl
@[simp] theorem State.aoW_fab (s : State) (x : Nat) (b : List Byte) : (s.aoW x b).fab = s.fab := rfl
@[simp] theorem State.aoW_sems (s : State) (x : Nat) (b : List Byte) : (s.aoW x b).sems = s.sems := rfl
@[simp] theorem State.aoW_blkWdog (s : State) (x : Nat) (b : List Byte) : (s.aoW x b).blkWdog = s.blkWdog := rfl
@[simp] theorem State.aoW_blkWarn (s : State) (x : Nat) (b : List Byte) : (s.aoW x b).blkWarn = s.blkWarn := rfl

/-! ### count -/

@[simp] theorem State.count_pending (s : State) (a n : Nat) : (s.count a n).pending = s.pending := by simp only [State.count]; split <;> rfl
@[simp] theorem State.count_now (s : State) (a n : Nat) : (s.count a n).now = s.now := by simp only [State.count]; split <;> rfl
@[simp] theorem State.count_freeCount (s : State) (a n : Nat) : (s.count a n).freeCount = s.freeCount := by simp only [State.count]; split <;> rfl
@[simp] theorem State.count_blk (s : State) (a n : Nat) : (s.count a n).blk = s.blk := by simp only [State.count]; split <;> rfl
@[simp] theorem State.count_regs (s : State) (a n : Nat) : (s.count a n).regs = s.regs := by simp only [State.count]; split <;> rfl
@[simp] theorem State.count_latches (s : State) (a n : Nat) : (s.count a n).latches = s.latches := by simp only [State.count]; split <;> rfl
@[simp] theorem State.count_lw (s : State) (a n : Nat) : (s.count a n).lw = s.lw := by simp only [State.count]; split <;> rfl
@[simp] theorem State.count_logs (s : State) (a n : Nat) : (s.count a n).logs = s.logs := by simp only [State.count]; split <;> rfl
@[simp] theorem State.count_pins (s : State) (a n : Nat) : (s.count a n).pins = s.pins := by simp only [State.count]; split <;> rfl
@[simp] theorem State.count_chSt (s : State) (a n : Nat) : (s.count a n).chSt = s.chSt := by simp only [State.count]; split <;> rfl
@[simp] theorem State.count_detaching (s : State) (a n : Nat) : (s.count a n).detaching = s.detaching := by simp only [State.count]; split <;> rfl
@[simp] theorem State.count_sp (s : State) (a n : Nat) : (s.count a n).sp = s.sp := by simp only [State.count]; split <;> rfl
@[simp] theorem State.count_code (s : State) (a n : Nat) : (s.count a n).code = s.code := by simp only [State.count]; split <;> rfl
@[simp] theorem State.count_stwCode (s : State) (a n : Nat) : (s.count a n).stwCode = s.stwCode := by simp only [State.count]; split <;> rfl
@[simp] theorem State.count_sram (s : State) (a n : Nat) : (s.count a n).sram = s.sram := by simp only [State.count]; split <;> rfl
@[simp] theorem State.count_tile (s : State) (a n : Nat) : (s.count a n).tile = s.tile := by simp only [State.count]; split <;> rfl
@[simp] theorem State.count_flash (s : State) (a n : Nat) : (s.count a n).flash = s.flash := by simp only [State.count]; split <;> rfl
@[simp] theorem State.count_ao (s : State) (a n : Nat) : (s.count a n).ao = s.ao := by simp only [State.count]; split <;> rfl
@[simp] theorem State.count_spErr (s : State) (a n : Nat) : (s.count a n).spErr = s.spErr := by simp only [State.count]; split <;> rfl
@[simp] theorem State.count_tileErr (s : State) (a n : Nat) : (s.count a n).tileErr = s.tileErr := by simp only [State.count]; split <;> rfl
@[simp] theorem State.count_sramErr (s : State) (a n : Nat) : (s.count a n).sramErr = s.sramErr := by simp only [State.count]; split <;> rfl
@[simp] theorem State.count_ledErr (s : State) (a n : Nat) : (s.count a n).ledErr = s.ledErr := by simp only [State.count]; split <;> rfl
@[simp] theorem State.count_spFaulty (s : State) (a n : Nat) : (s.count a n).spFaulty = s.spFaulty := by simp only [State.count]; split <;> rfl
@[simp] theorem State.count_spFull (s : State) (a n : Nat) : (s.count a n).spFull = s.spFull := by simp only [State.count]; split <;> rfl
@[simp] theorem State.count_csErr (s : State) (a n : Nat) : (s.count a n).csErr = s.csErr := by simp only [State.count]; split <;> rfl
@[simp] theorem State.count_stkErr (s : State) (a n : Nat) : (s.count a n).stkErr = s.stkErr := by simp only [State.count]; split <;> rfl
@[simp] theorem State.count_ctxs (s : State) (a n : Nat) : (s.count a n).ctxs = s.ctxs := by simp only [State.count]; split <;> rfl
@[simp] theorem State.count_cores (s : State) (a n : Nat) : (s.count a n).cores = s.cores := by simp only [State.count]; split <;> rfl
@[simp] theorem State.count_ranks (s : State) (a n : Nat) : (s.count a n).ranks = s.ranks := by simp only [State.count]; split <;> rfl
@[simp] theorem State.count_stw (s : State) (a n : Nat) : (s.count a n).stw = s.stw := by simp only [State.count]; split <;> rfl
@[simp] theorem State.count_links (s : State) (a n : Nat) : (s.count a n).links = s.links := by simp only [State.count]; split <;> rfl
@[simp] theorem State.count_ing (s : State) (a n : Nat) : (s.count a n).ing = s.ing := by simp only [State.count]; split <;> rfl
@[simp] theorem State.count_eg (s : State) (a n : Nat) : (s.count a n).eg = s.eg := by simp only [State.count]; split <;> rfl
@[simp] theorem State.count_led (s : State) (a n : Nat) : (s.count a n).led = s.led := by simp only [State.count]; split <;> rfl
@[simp] theorem State.count_tb (s : State) (a n : Nat) : (s.count a n).tb = s.tb := by simp only [State.count]; split <;> rfl
@[simp] theorem State.count_buf (s : State) (a n : Nat) : (s.count a n).buf = s.buf := by simp only [State.count]; split <;> rfl
@[simp] theorem State.count_ic (s : State) (a n : Nat) : (s.count a n).ic = s.ic := by simp only [State.count]; split <;> rfl
@[simp] theorem State.count_time (s : State) (a n : Nat) : (s.count a n).time = s.time := by simp only [State.count]; split <;> rfl
@[simp] theorem State.count_sched (s : State) (a n : Nat) : (s.count a n).sched = s.sched := by simp only [State.count]; split <;> rfl
@[simp] theorem State.count_dom (s : State) (a n : Nat) : (s.count a n).dom = s.dom := by simp only [State.count]; split <;> rfl
@[simp] theorem State.count_pm (s : State) (a n : Nat) : (s.count a n).pm = s.pm := by simp only [State.count]; split <;> rfl
@[simp] theorem State.count_cfg (s : State) (a n : Nat) : (s.count a n).cfg = s.cfg := by simp only [State.count]; split <;> rfl
@[simp] theorem State.count_dbg (s : State) (a n : Nat) : (s.count a n).dbg = s.dbg := by simp only [State.count]; split <;> rfl
@[simp] theorem State.count_fab (s : State) (a n : Nat) : (s.count a n).fab = s.fab := by simp only [State.count]; split <;> rfl
@[simp] theorem State.count_sems (s : State) (a n : Nat) : (s.count a n).sems = s.sems := by simp only [State.count]; split <;> rfl
@[simp] theorem State.count_blkWdog (s : State) (a n : Nat) : (s.count a n).blkWdog = s.blkWdog := by simp only [State.count]; split <;> rfl
@[simp] theorem State.count_blkWarn (s : State) (a n : Nat) : (s.count a n).blkWarn = s.blkWarn := by simp only [State.count]; split <;> rfl

/-! ### logAdd -/

@[simp] theorem State.logAdd_pending (s : State) (a c e : Nat) : (s.logAdd a c e).pending = s.pending := by simp only [State.logAdd]; split <;> rfl
@[simp] theorem State.logAdd_now (s : State) (a c e : Nat) : (s.logAdd a c e).now = s.now := by simp only [State.logAdd]; split <;> rfl
@[simp] theorem State.logAdd_freeCount (s : State) (a c e : Nat) : (s.logAdd a c e).freeCount = s.freeCount := by simp only [State.logAdd]; split <;> rfl
@[simp] theorem State.logAdd_blk (s : State) (a c e : Nat) : (s.logAdd a c e).blk = s.blk := by simp only [State.logAdd]; split <;> rfl
@[simp] theorem State.logAdd_regs (s : State) (a c e : Nat) : (s.logAdd a c e).regs = s.regs := by simp only [State.logAdd]; split <;> rfl
@[simp] theorem State.logAdd_counters (s : State) (a c e : Nat) : (s.logAdd a c e).counters = s.counters := by simp only [State.logAdd]; split <;> rfl
@[simp] theorem State.logAdd_latches (s : State) (a c e : Nat) : (s.logAdd a c e).latches = s.latches := by simp only [State.logAdd]; split <;> rfl
@[simp] theorem State.logAdd_lw (s : State) (a c e : Nat) : (s.logAdd a c e).lw = s.lw := by simp only [State.logAdd]; split <;> rfl
@[simp] theorem State.logAdd_pins (s : State) (a c e : Nat) : (s.logAdd a c e).pins = s.pins := by simp only [State.logAdd]; split <;> rfl
@[simp] theorem State.logAdd_chSt (s : State) (a c e : Nat) : (s.logAdd a c e).chSt = s.chSt := by simp only [State.logAdd]; split <;> rfl
@[simp] theorem State.logAdd_detaching (s : State) (a c e : Nat) : (s.logAdd a c e).detaching = s.detaching := by simp only [State.logAdd]; split <;> rfl
@[simp] theorem State.logAdd_sp (s : State) (a c e : Nat) : (s.logAdd a c e).sp = s.sp := by simp only [State.logAdd]; split <;> rfl
@[simp] theorem State.logAdd_code (s : State) (a c e : Nat) : (s.logAdd a c e).code = s.code := by simp only [State.logAdd]; split <;> rfl
@[simp] theorem State.logAdd_stwCode (s : State) (a c e : Nat) : (s.logAdd a c e).stwCode = s.stwCode := by simp only [State.logAdd]; split <;> rfl
@[simp] theorem State.logAdd_sram (s : State) (a c e : Nat) : (s.logAdd a c e).sram = s.sram := by simp only [State.logAdd]; split <;> rfl
@[simp] theorem State.logAdd_tile (s : State) (a c e : Nat) : (s.logAdd a c e).tile = s.tile := by simp only [State.logAdd]; split <;> rfl
@[simp] theorem State.logAdd_flash (s : State) (a c e : Nat) : (s.logAdd a c e).flash = s.flash := by simp only [State.logAdd]; split <;> rfl
@[simp] theorem State.logAdd_ao (s : State) (a c e : Nat) : (s.logAdd a c e).ao = s.ao := by simp only [State.logAdd]; split <;> rfl
@[simp] theorem State.logAdd_spErr (s : State) (a c e : Nat) : (s.logAdd a c e).spErr = s.spErr := by simp only [State.logAdd]; split <;> rfl
@[simp] theorem State.logAdd_tileErr (s : State) (a c e : Nat) : (s.logAdd a c e).tileErr = s.tileErr := by simp only [State.logAdd]; split <;> rfl
@[simp] theorem State.logAdd_sramErr (s : State) (a c e : Nat) : (s.logAdd a c e).sramErr = s.sramErr := by simp only [State.logAdd]; split <;> rfl
@[simp] theorem State.logAdd_ledErr (s : State) (a c e : Nat) : (s.logAdd a c e).ledErr = s.ledErr := by simp only [State.logAdd]; split <;> rfl
@[simp] theorem State.logAdd_spFaulty (s : State) (a c e : Nat) : (s.logAdd a c e).spFaulty = s.spFaulty := by simp only [State.logAdd]; split <;> rfl
@[simp] theorem State.logAdd_spFull (s : State) (a c e : Nat) : (s.logAdd a c e).spFull = s.spFull := by simp only [State.logAdd]; split <;> rfl
@[simp] theorem State.logAdd_csErr (s : State) (a c e : Nat) : (s.logAdd a c e).csErr = s.csErr := by simp only [State.logAdd]; split <;> rfl
@[simp] theorem State.logAdd_stkErr (s : State) (a c e : Nat) : (s.logAdd a c e).stkErr = s.stkErr := by simp only [State.logAdd]; split <;> rfl
@[simp] theorem State.logAdd_ctxs (s : State) (a c e : Nat) : (s.logAdd a c e).ctxs = s.ctxs := by simp only [State.logAdd]; split <;> rfl
@[simp] theorem State.logAdd_cores (s : State) (a c e : Nat) : (s.logAdd a c e).cores = s.cores := by simp only [State.logAdd]; split <;> rfl
@[simp] theorem State.logAdd_ranks (s : State) (a c e : Nat) : (s.logAdd a c e).ranks = s.ranks := by simp only [State.logAdd]; split <;> rfl
@[simp] theorem State.logAdd_stw (s : State) (a c e : Nat) : (s.logAdd a c e).stw = s.stw := by simp only [State.logAdd]; split <;> rfl
@[simp] theorem State.logAdd_links (s : State) (a c e : Nat) : (s.logAdd a c e).links = s.links := by simp only [State.logAdd]; split <;> rfl
@[simp] theorem State.logAdd_ing (s : State) (a c e : Nat) : (s.logAdd a c e).ing = s.ing := by simp only [State.logAdd]; split <;> rfl
@[simp] theorem State.logAdd_eg (s : State) (a c e : Nat) : (s.logAdd a c e).eg = s.eg := by simp only [State.logAdd]; split <;> rfl
@[simp] theorem State.logAdd_led (s : State) (a c e : Nat) : (s.logAdd a c e).led = s.led := by simp only [State.logAdd]; split <;> rfl
@[simp] theorem State.logAdd_tb (s : State) (a c e : Nat) : (s.logAdd a c e).tb = s.tb := by simp only [State.logAdd]; split <;> rfl
@[simp] theorem State.logAdd_buf (s : State) (a c e : Nat) : (s.logAdd a c e).buf = s.buf := by simp only [State.logAdd]; split <;> rfl
@[simp] theorem State.logAdd_ic (s : State) (a c e : Nat) : (s.logAdd a c e).ic = s.ic := by simp only [State.logAdd]; split <;> rfl
@[simp] theorem State.logAdd_time (s : State) (a c e : Nat) : (s.logAdd a c e).time = s.time := by simp only [State.logAdd]; split <;> rfl
@[simp] theorem State.logAdd_sched (s : State) (a c e : Nat) : (s.logAdd a c e).sched = s.sched := by simp only [State.logAdd]; split <;> rfl
@[simp] theorem State.logAdd_dom (s : State) (a c e : Nat) : (s.logAdd a c e).dom = s.dom := by simp only [State.logAdd]; split <;> rfl
@[simp] theorem State.logAdd_pm (s : State) (a c e : Nat) : (s.logAdd a c e).pm = s.pm := by simp only [State.logAdd]; split <;> rfl
@[simp] theorem State.logAdd_cfg (s : State) (a c e : Nat) : (s.logAdd a c e).cfg = s.cfg := by simp only [State.logAdd]; split <;> rfl
@[simp] theorem State.logAdd_dbg (s : State) (a c e : Nat) : (s.logAdd a c e).dbg = s.dbg := by simp only [State.logAdd]; split <;> rfl
@[simp] theorem State.logAdd_fab (s : State) (a c e : Nat) : (s.logAdd a c e).fab = s.fab := by simp only [State.logAdd]; split <;> rfl
@[simp] theorem State.logAdd_sems (s : State) (a c e : Nat) : (s.logAdd a c e).sems = s.sems := by simp only [State.logAdd]; split <;> rfl
@[simp] theorem State.logAdd_blkWdog (s : State) (a c e : Nat) : (s.logAdd a c e).blkWdog = s.blkWdog := by simp only [State.logAdd]; split <;> rfl
@[simp] theorem State.logAdd_blkWarn (s : State) (a c e : Nat) : (s.logAdd a c e).blkWarn = s.blkWarn := by simp only [State.logAdd]; split <;> rfl

/-! ### Accessors after updates -/

@[simp] theorem State.ctx_setCtx_same (s : State) (k : Nat) (v : Ctx) : (s.setCtx k v).ctx k = v := by
  simp [State.ctx, State.setCtx]

theorem State.ctx_setCtx_ne (s : State) (k j : Nat) (v : Ctx) (h : j ≠ k) : (s.setCtx k v).ctx j = s.ctx j := by
  simp [State.ctx, State.setCtx, tget_tset_ne _ _ _ _ _ h]

@[simp] theorem State.core_setCore_same (s : State) (k : Nat) (v : Core) : (s.setCore k v).core k = v := by
  simp [State.core, State.setCore]

theorem State.core_setCore_ne (s : State) (k j : Nat) (v : Core) (h : j ≠ k) : (s.setCore k v).core j = s.core j := by
  simp [State.core, State.setCore, tget_tset_ne _ _ _ _ _ h]

@[simp] theorem State.rank_setRank_same (s : State) (k : Nat) (v : RankSt) : (s.setRank k v).rank k = v := by
  simp [State.rank, State.setRank]

theorem State.rank_setRank_ne (s : State) (k j : Nat) (v : RankSt) (h : j ≠ k) : (s.setRank k v).rank j = s.rank j := by
  simp [State.rank, State.setRank, tget_tset_ne _ _ _ _ _ h]

@[simp] theorem State.stwd_setStw_same (s : State) (k : Nat) (v : Stw) : (s.setStw k v).stwd k = v := by
  simp [State.stwd, State.setStw]

theorem State.stwd_setStw_ne (s : State) (k j : Nat) (v : Stw) (h : j ≠ k) : (s.setStw k v).stwd j = s.stwd j := by
  simp [State.stwd, State.setStw, tget_tset_ne _ _ _ _ _ h]

@[simp] theorem State.pdom_setDom_same (s : State) (k : Nat) (v : PDom) : (s.setDom k v).pdom k = v := by
  simp [State.pdom, State.setDom]

theorem State.pdom_setDom_ne (s : State) (k j : Nat) (v : PDom) (h : j ≠ k) : (s.setDom k v).pdom j = s.pdom j := by
  simp [State.pdom, State.setDom, tget_tset_ne _ _ _ _ _ h]

@[simp] theorem State.reg_setReg_same (s : State) (k : Nat) (v : Word) : (s.setReg k v).reg k = v := by
  simp [State.reg, State.setReg]

theorem State.reg_setReg_ne (s : State) (k j : Nat) (v : Word) (h : j ≠ k) : (s.setReg k v).reg j = s.reg j := by
  simp [State.reg, State.setReg, tget_tset_ne _ _ _ _ _ h]

@[simp] theorem State.ctx_setCore (s : State) (k : Nat) (c : Core) (j : Nat) : (s.setCore k c).ctx j = s.ctx j := rfl
@[simp] theorem State.ctx_setRank (s : State) (r : Nat) (x : RankSt) (j : Nat) : (s.setRank r x).ctx j = s.ctx j := rfl
@[simp] theorem State.ctx_setStw (s : State) (i : Nat) (x : Stw) (j : Nat) : (s.setStw i x).ctx j = s.ctx j := rfl
@[simp] theorem State.ctx_setDom (s : State) (d : Nat) (x : PDom) (j : Nat) : (s.setDom d x).ctx j = s.ctx j := rfl
@[simp] theorem State.ctx_setReg (s : State) (a : Nat) (w : Word) (j : Nat) : (s.setReg a w).ctx j = s.ctx j := rfl
@[simp] theorem State.ctx_setChan (s : State) (ch : Nat) (v : BitVec 2) (j : Nat) : (s.setChan ch v).ctx j = s.ctx j := rfl
@[simp] theorem State.ctx_lwKeep (s : State) (a : Nat) (w : Word) (j : Nat) : (s.lwKeep a w).ctx j = s.ctx j := rfl
@[simp] theorem State.ctx_spW (s : State) (k x : Nat) (b : List Byte) (j : Nat) : (s.spW k x b).ctx j = s.ctx j := rfl
@[simp] theorem State.ctx_codeW (s : State) (k x : Nat) (b : List Byte) (j : Nat) : (s.codeW k x b).ctx j = s.ctx j := rfl
@[simp] theorem State.ctx_scW (s : State) (i x : Nat) (b : List Byte) (j : Nat) : (s.scW i x b).ctx j = s.ctx j := rfl
@[simp] theorem State.ctx_srW (s : State) (x : Nat) (b : List Byte) (j : Nat) : (s.srW x b).ctx j = s.ctx j := rfl
@[simp] theorem State.ctx_flW (s : State) (x : Nat) (b : List Byte) (j : Nat) : (s.flW x b).ctx j = s.ctx j := rfl
@[simp] theorem State.ctx_aoW (s : State) (x : Nat) (b : List Byte) (j : Nat) : (s.aoW x b).ctx j = s.ctx j := rfl
@[simp] theorem State.ctx_count (s : State) (a n : Nat) (j : Nat) : (s.count a n).ctx j = s.ctx j := by simp only [State.count]; split <;> rfl
@[simp] theorem State.ctx_logAdd (s : State) (a c e : Nat) (j : Nat) : (s.logAdd a c e).ctx j = s.ctx j := by simp only [State.logAdd]; split <;> rfl
@[simp] theorem State.core_setCtx (s : State) (k : Nat) (c : Ctx) (j : Nat) : (s.setCtx k c).core j = s.core j := rfl
@[simp] theorem State.core_setRank (s : State) (r : Nat) (x : RankSt) (j : Nat) : (s.setRank r x).core j = s.core j := rfl
@[simp] theorem State.core_setStw (s : State) (i : Nat) (x : Stw) (j : Nat) : (s.setStw i x).core j = s.core j := rfl
@[simp] theorem State.core_setDom (s : State) (d : Nat) (x : PDom) (j : Nat) : (s.setDom d x).core j = s.core j := rfl
@[simp] theorem State.core_setReg (s : State) (a : Nat) (w : Word) (j : Nat) : (s.setReg a w).core j = s.core j := rfl
@[simp] theorem State.core_setChan (s : State) (ch : Nat) (v : BitVec 2) (j : Nat) : (s.setChan ch v).core j = s.core j := rfl
@[simp] theorem State.core_lwKeep (s : State) (a : Nat) (w : Word) (j : Nat) : (s.lwKeep a w).core j = s.core j := rfl
@[simp] theorem State.core_spW (s : State) (k x : Nat) (b : List Byte) (j : Nat) : (s.spW k x b).core j = s.core j := rfl
@[simp] theorem State.core_codeW (s : State) (k x : Nat) (b : List Byte) (j : Nat) : (s.codeW k x b).core j = s.core j := rfl
@[simp] theorem State.core_scW (s : State) (i x : Nat) (b : List Byte) (j : Nat) : (s.scW i x b).core j = s.core j := rfl
@[simp] theorem State.core_srW (s : State) (x : Nat) (b : List Byte) (j : Nat) : (s.srW x b).core j = s.core j := rfl
@[simp] theorem State.core_flW (s : State) (x : Nat) (b : List Byte) (j : Nat) : (s.flW x b).core j = s.core j := rfl
@[simp] theorem State.core_aoW (s : State) (x : Nat) (b : List Byte) (j : Nat) : (s.aoW x b).core j = s.core j := rfl
@[simp] theorem State.core_count (s : State) (a n : Nat) (j : Nat) : (s.count a n).core j = s.core j := by simp only [State.count]; split <;> rfl
@[simp] theorem State.core_logAdd (s : State) (a c e : Nat) (j : Nat) : (s.logAdd a c e).core j = s.core j := by simp only [State.logAdd]; split <;> rfl
@[simp] theorem State.rank_setCtx (s : State) (k : Nat) (c : Ctx) (j : Nat) : (s.setCtx k c).rank j = s.rank j := rfl
@[simp] theorem State.rank_setCore (s : State) (k : Nat) (c : Core) (j : Nat) : (s.setCore k c).rank j = s.rank j := rfl
@[simp] theorem State.rank_setStw (s : State) (i : Nat) (x : Stw) (j : Nat) : (s.setStw i x).rank j = s.rank j := rfl
@[simp] theorem State.rank_setDom (s : State) (d : Nat) (x : PDom) (j : Nat) : (s.setDom d x).rank j = s.rank j := rfl
@[simp] theorem State.rank_setReg (s : State) (a : Nat) (w : Word) (j : Nat) : (s.setReg a w).rank j = s.rank j := rfl
@[simp] theorem State.rank_setChan (s : State) (ch : Nat) (v : BitVec 2) (j : Nat) : (s.setChan ch v).rank j = s.rank j := rfl
@[simp] theorem State.rank_lwKeep (s : State) (a : Nat) (w : Word) (j : Nat) : (s.lwKeep a w).rank j = s.rank j := rfl
@[simp] theorem State.rank_spW (s : State) (k x : Nat) (b : List Byte) (j : Nat) : (s.spW k x b).rank j = s.rank j := rfl
@[simp] theorem State.rank_codeW (s : State) (k x : Nat) (b : List Byte) (j : Nat) : (s.codeW k x b).rank j = s.rank j := rfl
@[simp] theorem State.rank_scW (s : State) (i x : Nat) (b : List Byte) (j : Nat) : (s.scW i x b).rank j = s.rank j := rfl
@[simp] theorem State.rank_srW (s : State) (x : Nat) (b : List Byte) (j : Nat) : (s.srW x b).rank j = s.rank j := rfl
@[simp] theorem State.rank_flW (s : State) (x : Nat) (b : List Byte) (j : Nat) : (s.flW x b).rank j = s.rank j := rfl
@[simp] theorem State.rank_aoW (s : State) (x : Nat) (b : List Byte) (j : Nat) : (s.aoW x b).rank j = s.rank j := rfl
@[simp] theorem State.rank_count (s : State) (a n : Nat) (j : Nat) : (s.count a n).rank j = s.rank j := by simp only [State.count]; split <;> rfl
@[simp] theorem State.rank_logAdd (s : State) (a c e : Nat) (j : Nat) : (s.logAdd a c e).rank j = s.rank j := by simp only [State.logAdd]; split <;> rfl
@[simp] theorem State.stwd_setCtx (s : State) (k : Nat) (c : Ctx) (j : Nat) : (s.setCtx k c).stwd j = s.stwd j := rfl
@[simp] theorem State.stwd_setCore (s : State) (k : Nat) (c : Core) (j : Nat) : (s.setCore k c).stwd j = s.stwd j := rfl
@[simp] theorem State.stwd_setRank (s : State) (r : Nat) (x : RankSt) (j : Nat) : (s.setRank r x).stwd j = s.stwd j := rfl
@[simp] theorem State.stwd_setDom (s : State) (d : Nat) (x : PDom) (j : Nat) : (s.setDom d x).stwd j = s.stwd j := rfl
@[simp] theorem State.stwd_setReg (s : State) (a : Nat) (w : Word) (j : Nat) : (s.setReg a w).stwd j = s.stwd j := rfl
@[simp] theorem State.stwd_setChan (s : State) (ch : Nat) (v : BitVec 2) (j : Nat) : (s.setChan ch v).stwd j = s.stwd j := rfl
@[simp] theorem State.stwd_lwKeep (s : State) (a : Nat) (w : Word) (j : Nat) : (s.lwKeep a w).stwd j = s.stwd j := rfl
@[simp] theorem State.stwd_spW (s : State) (k x : Nat) (b : List Byte) (j : Nat) : (s.spW k x b).stwd j = s.stwd j := rfl
@[simp] theorem State.stwd_codeW (s : State) (k x : Nat) (b : List Byte) (j : Nat) : (s.codeW k x b).stwd j = s.stwd j := rfl
@[simp] theorem State.stwd_scW (s : State) (i x : Nat) (b : List Byte) (j : Nat) : (s.scW i x b).stwd j = s.stwd j := rfl
@[simp] theorem State.stwd_srW (s : State) (x : Nat) (b : List Byte) (j : Nat) : (s.srW x b).stwd j = s.stwd j := rfl
@[simp] theorem State.stwd_flW (s : State) (x : Nat) (b : List Byte) (j : Nat) : (s.flW x b).stwd j = s.stwd j := rfl
@[simp] theorem State.stwd_aoW (s : State) (x : Nat) (b : List Byte) (j : Nat) : (s.aoW x b).stwd j = s.stwd j := rfl
@[simp] theorem State.stwd_count (s : State) (a n : Nat) (j : Nat) : (s.count a n).stwd j = s.stwd j := by simp only [State.count]; split <;> rfl
@[simp] theorem State.stwd_logAdd (s : State) (a c e : Nat) (j : Nat) : (s.logAdd a c e).stwd j = s.stwd j := by simp only [State.logAdd]; split <;> rfl
@[simp] theorem State.pdom_setCtx (s : State) (k : Nat) (c : Ctx) (j : Nat) : (s.setCtx k c).pdom j = s.pdom j := rfl
@[simp] theorem State.pdom_setCore (s : State) (k : Nat) (c : Core) (j : Nat) : (s.setCore k c).pdom j = s.pdom j := rfl
@[simp] theorem State.pdom_setRank (s : State) (r : Nat) (x : RankSt) (j : Nat) : (s.setRank r x).pdom j = s.pdom j := rfl
@[simp] theorem State.pdom_setStw (s : State) (i : Nat) (x : Stw) (j : Nat) : (s.setStw i x).pdom j = s.pdom j := rfl
@[simp] theorem State.pdom_setReg (s : State) (a : Nat) (w : Word) (j : Nat) : (s.setReg a w).pdom j = s.pdom j := rfl
@[simp] theorem State.pdom_setChan (s : State) (ch : Nat) (v : BitVec 2) (j : Nat) : (s.setChan ch v).pdom j = s.pdom j := rfl
@[simp] theorem State.pdom_lwKeep (s : State) (a : Nat) (w : Word) (j : Nat) : (s.lwKeep a w).pdom j = s.pdom j := rfl
@[simp] theorem State.pdom_spW (s : State) (k x : Nat) (b : List Byte) (j : Nat) : (s.spW k x b).pdom j = s.pdom j := rfl
@[simp] theorem State.pdom_codeW (s : State) (k x : Nat) (b : List Byte) (j : Nat) : (s.codeW k x b).pdom j = s.pdom j := rfl
@[simp] theorem State.pdom_scW (s : State) (i x : Nat) (b : List Byte) (j : Nat) : (s.scW i x b).pdom j = s.pdom j := rfl
@[simp] theorem State.pdom_srW (s : State) (x : Nat) (b : List Byte) (j : Nat) : (s.srW x b).pdom j = s.pdom j := rfl
@[simp] theorem State.pdom_flW (s : State) (x : Nat) (b : List Byte) (j : Nat) : (s.flW x b).pdom j = s.pdom j := rfl
@[simp] theorem State.pdom_aoW (s : State) (x : Nat) (b : List Byte) (j : Nat) : (s.aoW x b).pdom j = s.pdom j := rfl
@[simp] theorem State.pdom_count (s : State) (a n : Nat) (j : Nat) : (s.count a n).pdom j = s.pdom j := by simp only [State.count]; split <;> rfl
@[simp] theorem State.pdom_logAdd (s : State) (a c e : Nat) (j : Nat) : (s.logAdd a c e).pdom j = s.pdom j := by simp only [State.logAdd]; split <;> rfl
@[simp] theorem State.reg_setCtx (s : State) (k : Nat) (c : Ctx) (j : Nat) : (s.setCtx k c).reg j = s.reg j := rfl
@[simp] theorem State.reg_setCore (s : State) (k : Nat) (c : Core) (j : Nat) : (s.setCore k c).reg j = s.reg j := rfl
@[simp] theorem State.reg_setRank (s : State) (r : Nat) (x : RankSt) (j : Nat) : (s.setRank r x).reg j = s.reg j := rfl
@[simp] theorem State.reg_setStw (s : State) (i : Nat) (x : Stw) (j : Nat) : (s.setStw i x).reg j = s.reg j := rfl
@[simp] theorem State.reg_setDom (s : State) (d : Nat) (x : PDom) (j : Nat) : (s.setDom d x).reg j = s.reg j := rfl
@[simp] theorem State.reg_setChan (s : State) (ch : Nat) (v : BitVec 2) (j : Nat) : (s.setChan ch v).reg j = s.reg j := rfl
@[simp] theorem State.reg_lwKeep (s : State) (a : Nat) (w : Word) (j : Nat) : (s.lwKeep a w).reg j = s.reg j := rfl
@[simp] theorem State.reg_spW (s : State) (k x : Nat) (b : List Byte) (j : Nat) : (s.spW k x b).reg j = s.reg j := rfl
@[simp] theorem State.reg_codeW (s : State) (k x : Nat) (b : List Byte) (j : Nat) : (s.codeW k x b).reg j = s.reg j := rfl
@[simp] theorem State.reg_scW (s : State) (i x : Nat) (b : List Byte) (j : Nat) : (s.scW i x b).reg j = s.reg j := rfl
@[simp] theorem State.reg_srW (s : State) (x : Nat) (b : List Byte) (j : Nat) : (s.srW x b).reg j = s.reg j := rfl
@[simp] theorem State.reg_flW (s : State) (x : Nat) (b : List Byte) (j : Nat) : (s.flW x b).reg j = s.reg j := rfl
@[simp] theorem State.reg_aoW (s : State) (x : Nat) (b : List Byte) (j : Nat) : (s.aoW x b).reg j = s.reg j := rfl
@[simp] theorem State.reg_count (s : State) (a n : Nat) (j : Nat) : (s.count a n).reg j = s.reg j := by simp only [State.count]; split <;> rfl
@[simp] theorem State.reg_logAdd (s : State) (a c e : Nat) (j : Nat) : (s.logAdd a c e).reg j = s.reg j := by simp only [State.logAdd]; split <;> rfl

/-- The counter counted, and every other counter. -/
theorem State.ctr_count (s : State) (a n j : Nat) : (s.count a n).ctr j = if j = a then s.ctr a + BitVec.ofNat 64 n else s.ctr j := by
  unfold State.count
  by_cases h0 : n = 0
  · subst h0; by_cases hj : j = a
    · subst hj; simp
    · simp [hj]
  · simp only [h0, if_false, State.ctr, tget_tset]

end Sys2Proof.Machine
end

