-- ==== Sys2Proof/Laws/Issue.lean ====
section
/-! SUPPORT. What the issue of one instruction can do: nothing, an exception of its fetch or encoding, a failed guard that
falls through, or the instruction's body. -/

namespace Sys2Proof.Machine

/-- `forEach` over no element. -/
@[simp] theorem forEach_nil {α σ : Type} (s : σ) (f : α → σ → σ) : forEach [] s f = s := rfl

/-- `forEach` over one element and the rest. -/
@[simp] theorem forEach_cons {α σ : Type} (a : α) (l : List α) (s : σ) (f : α → σ → σ) :
    forEach (a :: l) s f = forEach l (f a s) f := rfl

/-- A property that one turn keeps is kept by all. -/
theorem forEach_keeps {α σ : Type} (P : σ → Prop) (l : List α) (f : α → σ → σ) (h : ∀ a s, P s → P (f a s)) (s : σ)
    (hs : P s) : P (forEach l s f) := by
  induction l generalizing s with
  | nil => exact hs
  | cons a l ih => exact ih (f a s) (h a s hs)

@[simp] theorem State.onMatch_nil (s : State) (key : Nat) : s.onMatch key [] = s := rfl

/-- A context that cannot issue does nothing. -/
theorem issue_idle (s : State) (x : Iss) (cls : Cls) (len : Nat) (enc : Bool) (body : State → Nat → Ctx → R)
    (h : s.canIssue (whoKey x.who) = false) : s.issue x cls len enc body = s := by
  simp [State.issue, h]

/-- With nothing watching the pc, a byte that may not be fetched raises vector 3 with its address. -/
theorem issue_badFetch (s : State) (x : Iss) (cls : Cls) (len a : Nat) (enc : Bool) (body : State → Nat → Ctx → R)
    (h : s.canIssue (whoKey x.who) = true)
    (hm : (s.entered (whoKey x.who) (guardLen x.guard + len)).matches (whoKey x.who)
      ((s.entered (whoKey x.who) (guardLen x.guard + len)).ctx (whoKey x.who)).pc true false = [])
    (hf : (s.entered (whoKey x.who) (guardLen x.guard + len)).badFetch (whoKey x.who)
      ((s.entered (whoKey x.who) (guardLen x.guard + len)).ctx (whoKey x.who)).pc.toNat (guardLen x.guard + len) = some a) :
    s.issue x cls len enc body =
      ((s.entered (whoKey x.who) (guardLen x.guard + len)).excAt (whoKey x.who) 3 (BitVec.ofNat 32 a)).issued (whoKey x.who) := by
  simp_all [State.issue]

/-- With nothing watching the pc, an illegal encoding, or a packet opcode on a steward, raises vector 1 whatever the guard. -/
theorem issue_illegal (s : State) (x : Iss) (cls : Cls) (len : Nat) (enc : Bool) (body : State → Nat → Ctx → R)
    (h : s.canIssue (whoKey x.who) = true)
    (hm : (s.entered (whoKey x.who) (guardLen x.guard + len)).matches (whoKey x.who)
      ((s.entered (whoKey x.who) (guardLen x.guard + len)).ctx (whoKey x.who)).pc true false = [])
    (hf : (s.entered (whoKey x.who) (guardLen x.guard + len)).badFetch (whoKey x.who)
      ((s.entered (whoKey x.who) (guardLen x.guard + len)).ctx (whoKey x.who)).pc.toNat (guardLen x.guard + len) = none)
    (he : enc = false ∨ clsIllegal (whoKey x.who) cls = true) :
    s.issue x cls len enc body =
      ((s.entered (whoKey x.who) (guardLen x.guard + len)).excAt (whoKey x.who) 1
        ((s.entered (whoKey x.who) (guardLen x.guard + len)).ctx (whoKey x.who)).pc).issued (whoKey x.who) := by
  rcases he with he | he <;> simp_all [State.issue]

/-- With nothing watching the pc and a guard that holds, the body decides; a held instruction leaves everything as it was, and one that has
not issued after all keeps its place in the group. -/
theorem issue_body (s t : State) (x : Iss) (cls : Cls) (len : Nat) (body : State → Nat → Ctx → R)
    (ht : t = s.entered (whoKey x.who) (guardLen x.guard + len))
    (h : s.canIssue (whoKey x.who) = true)
    (hf : t.badFetch (whoKey x.who) (t.ctx (whoKey x.who)).pc.toNat (guardLen x.guard + len) = none)
    (hm : t.matches (whoKey x.who) (t.ctx (whoKey x.who)).pc true false = [])
    (hg : guardHolds (t.ctx (whoKey x.who)) x.guard = true) (hi : clsIllegal (whoKey x.who) cls = false)
    (hc : clsRefused (whoKey x.who) cls = false) (hb : body t (whoKey x.who) (t.ctx (whoKey x.who)) ≠ .hold) :
    s.issue x cls len true body =
      t.settleR (whoKey x.who) (guardLen x.guard + len)
        ((body t (whoKey x.who) (t.ctx (whoKey x.who))).back (whoKey x.who) (s.ctx (whoKey x.who)).grp) := by
  subst ht
  cases hy : body (s.entered (whoKey x.who) (guardLen x.guard + len)) (whoKey x.who)
      ((s.entered (whoKey x.who) (guardLen x.guard + len)).ctx (whoKey x.who)) <;>
    simp_all [State.issue, R.back]

/-- With nothing watching the pc and a guard that fails, the instruction falls through. -/
theorem issue_guard (s t : State) (x : Iss) (cls : Cls) (len : Nat) (body : State → Nat → Ctx → R)
    (ht : t = s.entered (whoKey x.who) (guardLen x.guard + len))
    (h : s.canIssue (whoKey x.who) = true)
    (hf : t.badFetch (whoKey x.who) (t.ctx (whoKey x.who)).pc.toNat (guardLen x.guard + len) = none)
    (hm : t.matches (whoKey x.who) (t.ctx (whoKey x.who)).pc true false = [])
    (hg : guardHolds (t.ctx (whoKey x.who)) x.guard = false) (hi : clsIllegal (whoKey x.who) cls = false) :
    s.issue x cls len true body =
      t.settleR (whoKey x.who) (guardLen x.guard + len) (.ok t (t.ctx (whoKey x.who))) := by
  subst ht
  simp_all [State.issue]

/-- `goto` moves the pc and the loop levels only. -/
theorem Ctx.goto_frame (c : Ctx) (t : Word) : c.goto t = { c with pc := (c.goto t).pc, ls := (c.goto t).ls } := by
  unfold Ctx.goto
  split
  · rfl
  · split
    · split <;> rfl
    · rfl

@[simp] theorem Ctx.goto_v11pend (c : Ctx) (t : Word) : (c.goto t).v11pend = c.v11pend := by rw [Ctx.goto_frame]

@[simp] theorem Ctx.goto_trig (c : Ctx) (t : Word) : (c.goto t).trig = c.trig := by rw [Ctx.goto_frame]

@[simp] theorem Ctx.goto_os (c : Ctx) (t : Word) : (c.goto t).os = c.os := by rw [Ctx.goto_frame]

@[simp] theorem Ctx.goto_st (c : Ctx) (t : Word) : (c.goto t).st = c.st := by rw [Ctx.goto_frame]

/-- Where nothing waits for the boundary, nothing is taken there. -/
theorem State.boundary_idle (s : State) (key : Nat) (h1 : (s.ctx key).v11pend = false) (h2 : (s.ctx key).trig = false) :
    s.boundary key = s := by
  unfold State.boundary State.takePend
  simp [h1, h2]

/-- Inside a group nothing is taken. -/
theorem State.boundary_group (s : State) (key : Nat) (h : (s.ctx key).inGroup = true) : s.boundary key = s := by
  simp [State.boundary, h]

/-- A context that no turn cap waits for goes to sleep. -/
theorem State.toSleep_idle (s : State) (key : Nat) (c : Ctx) (h : c.v11pend = false) : s.toSleep key c = s.setCtx key c := by
  simp [State.toSleep, h]

/-- Completing an instruction with nothing waiting for the boundary. -/
theorem State.complete_idle (s : State) (key : Nat) (c : Ctx) (t : Word) (h1 : c.v11pend = false) (h2 : c.trig = false) :
    s.complete key c t = s.setCtx key ({ c with st := .run, wait := .none, wlen := 0, skip := false, brkSkip := false }.goto t) := by
  rw [State.complete, State.boundary_idle] <;> simp [h1, h2]

/-- What the record of an issue leaves: everything but the core. -/
theorem State.issued_frame (s : State) (key : Nat) : { s.issued key with cores := s.cores } = s := rfl

@[simp] theorem State.ctx_issued (s : State) (key j : Nat) : (s.issued key).ctx j = s.ctx j := rfl

end Sys2Proof.Machine
end

