-- ==== Sys2Proof/Laws/Domains.lean ====
section
/-! SUPPORT. What the shared operations of domains that leave ON, sleep or pause can do, said once: requests across their crossings,
clocks that stand, a guest that is gone, flash commands that end with their domain, debug requests that wait. -/

namespace Sys2Proof.Machine

/-! ### Crossings (01 R18, 16 R450, 19 R514) -/

/-- A domain takes inputs where its island serves and it does not leave ON. -/
theorem ready_iff (s : State) (d : Nat) : s.ready d = true ↔ s.runs d = true ∧ s.leaving d = false := by
  simp [State.ready]

/-- A request to table memory is discarded where its sender leaves ON, and listed else. -/
theorem askOp_cases (s : State) (o : TOp) :
    (s.leaving (coreDom (coreOf o.src)) = false ∧ s.askOp o = s.startOp o) ∨
    (s.leaving (coreDom (coreOf o.src)) = true ∧ s.askOp o = (s.tb.opNo, { s with tb := { s.tb with opNo := s.tb.opNo + 1 } })) := by
  unfold State.askOp
  cases h : s.leaving (coreDom (coreOf o.src)) <;> simp

/-- The fall of a domain's power good takes the control port's request from PD_CFG alone. -/
theorem dropCtl_other (s : State) (d : Nat) (h : d ≠ dCfg) : s.dropCtl d = s := by simp [State.dropCtl, h]

/-- Of PD_CFG it changes nothing but that request. -/
theorem dropCtl_frame (s : State) (d : Nat) : { s.dropCtl d with fab := s.fab } = s := by
  unfold State.dropCtl; split <;> rfl

/-! ### Clocks that stand (16 R450, 17 R486) -/

/-- Work put off changes moments of ranks, domains and the entry into BOXED alone. -/
theorem putOff_frame (s : State) (d n : Nat) : { s.putOff d n with dom := s.dom, pm := s.pm, ranks := s.ranks } = s := by
  unfold State.putOff; split <;> rfl

/-- Rescaling a rank's counts changes moments of the ranks alone. -/
theorem rescale_frame (s : State) (r half : Nat) : { s.rescale r half with ranks := s.ranks } = s := rfl

/-- The grants of tiles of other domains stay parked. -/
theorem unpark_frame (s : State) (d : Nat) : { s.unpark d with tb := { (s.unpark d).tb with arb := s.tb.arb } } = s := rfl

/-! ### A guest that is gone (09 R291) -/

/-- A guest that is present keeps everything. -/
theorem guestGone_present (s : State) (r : Nat) (h : s.present3 r = true) : s.guestGone r = s := by simp [State.guestGone, h]

/-- A context stored with a counter advanced changes contexts and counters alone. -/
theorem setCtx_count_frame (s : State) (k a n : Nat) (c : Ctx) :
    { (s.setCtx k c).count a n with ctxs := s.ctxs, counters := s.counters } = s := by
  unfold State.count; split <;> rfl

/-- One that is gone changes its rank's notices, helper commands and one counter alone. -/
theorem guestGone_frame (s : State) (r : Nat) :
    { s.guestGone r with ranks := s.ranks, ctxs := s.ctxs, counters := s.counters } = s := by
  unfold State.guestGone
  split
  · rfl
  · refine forEach_keeps (fun t : State => { t with ranks := s.ranks, ctxs := s.ctxs, counters := s.counters } = s) _ _ ?_ _ rfl
    intro key t ht
    simp only
    split
    · next =>
      generalize (t.ctx key) = c
      have h := fun c' n => setCtx_count_frame t key (rkA r 0x158) n c'
      generalize hu : (t.setCtx key _).count _ _ = u
      have hu' : { u with ctxs := t.ctxs, counters := t.counters } = t := hu ▸ h _ _
      rw [← ht]; rw [← hu']
    · exact ht

/-! ### Flash commands (15 R442) -/

/-- As their domain loses its contents, a program or erase that has started ends well; a read, a deferred command or none changes
nothing. -/
theorem flashLast_cases (s : State) :
    (s.flashLast = s ∧ ∀ f, s.cfg.flash = some f → f.kind = 1 ∨ f.deferred = true) ∨
    ∃ f, s.cfg.flash = some f ∧ f.kind ≠ 1 ∧ f.deferred = false ∧
      s.flashLast = ({ s with cfg := { s.cfg with flash := none } }).flashEnd f := by
  unfold State.flashLast
  cases h : s.cfg.flash with
  | none => exact .inl ⟨rfl, nofun⟩
  | some f =>
    cases hk : (decide (f.kind = 1) || f.deferred) with
    | true =>
      refine .inl ⟨by simp [hk], ?_⟩
      rintro g ⟨⟩
      simpa using hk
    | false =>
      simp only [Bool.or_eq_false_iff, decide_eq_false_iff_not] at hk
      exact .inr ⟨f, rfl, hk.1, hk.2, by simp [hk.1, hk.2]⟩

/-! ### Debug of a paused island (17 R487) -/

/-- A request that waits changes the list of those that wait alone. -/
theorem dbgHold_frame (s : State) (ck : Nat) (o : DbgOp) :
    { s.dbgHold ck o with dbg := { (s.dbgHold ck o).dbg with held := s.dbg.held } } = s := rfl

/-- A halt or resume of a core of a paused island waits. -/
theorem resume_held (s : State) (ck : Nat) (h : s.dbgWaits ck = true) : s.resume ck = s.dbgHold ck .resume := by simp [State.resume, h]

/-- So does a step. -/
theorem step1_held (s : State) (ck k : Nat) (h : s.dbgWaits ck = true) : s.step1 ck k = s.dbgHold ck (.step k) := by simp [State.step1, h]

/-- Where nothing waits, an idle step has nothing to go on with. -/
theorem dbgGoOn_none (s : State) (hp : s.dbg.pend = none) (hh : s.dbg.held = []) : s.dbgGoOn = s := by
  unfold State.dbgGoOn
  simp only [hh, forEach_nil, hp]
  cases s with | mk => cases ‹Dbg›; simp_all

end Sys2Proof.Machine
end

