-- ==== Sys2Proof/Laws/Keys.lean ====
section
/-! SUPPORT. The table keys of contexts: which core, rank and context number a key names, and that different contexts have
different keys. -/

namespace Sys2Proof.Machine

/-- A packet core's key lies below the stewards' keys. -/
theorem pk_lt (r : Rank) (c : CoreNo) (k : Nat) (h : k < 9) : pk r.val c.val k < 1404 := by
  have := r.isLt; have := c.isLt
  simp only [pk]; omega

theorem coreOf_pk (r : Rank) (c : CoreNo) (k : Nat) (h : k < 9) : coreOf (pk r.val c.val k) = r.val * 13 + c.val := by
  rw [coreOf, if_pos (pk_lt r c k h)]; simp only [pk]; omega

theorem rankOf_pk (r : Rank) (c : CoreNo) (k : Nat) (h : k < 9) : rankOf (pk r.val c.val k) = r.val := by
  have := c.isLt
  simp only [rankOf, pk]; omega

theorem coreNoOf_pk (r : Rank) (c : CoreNo) (k : Nat) (h : k < 9) : coreNoOf (pk r.val c.val k) = c.val := by
  have := c.isLt
  simp only [coreNoOf, pk]; omega

theorem ctxNoOf_pk (r : Rank) (c : CoreNo) (k : Nat) (h : k < 9) : ctxNoOf (pk r.val c.val k) = k := by
  rw [ctxNoOf, if_pos (pk_lt r c k h)]; simp only [pk]; omega

theorem isStw_pk (r : Rank) (c : CoreNo) (k : Nat) (h : k < 9) : isStw (pk r.val c.val k) = false := by
  have := pk_lt r c k h
  simp only [isStw, decide_eq_false_iff_not]; omega

/-- Context 8 is the fault context. -/
theorem isFlt_pk (r : Rank) (c : CoreNo) (k : Nat) (h : k < 9) : isFlt (pk r.val c.val k) = decide (k = 8) := by
  have e : pk r.val c.val k % 9 = k := by simp only [pk]; omega
  simp [isFlt, pk_lt r c k h, e]

@[simp] theorem coreOf_pkt (r : Rank) (c : CoreNo) (k : CtxNo) : coreOf (pk r.val c.val k.val) = r.val * 13 + c.val := coreOf_pk r c k.val (by omega)

@[simp] theorem rankOf_pkt (r : Rank) (c : CoreNo) (k : CtxNo) : rankOf (pk r.val c.val k.val) = r.val := rankOf_pk r c k.val (by omega)

@[simp] theorem coreNoOf_pkt (r : Rank) (c : CoreNo) (k : CtxNo) : coreNoOf (pk r.val c.val k.val) = c.val := coreNoOf_pk r c k.val (by omega)

@[simp] theorem ctxNoOf_pkt (r : Rank) (c : CoreNo) (k : CtxNo) : ctxNoOf (pk r.val c.val k.val) = k.val := ctxNoOf_pk r c k.val (by omega)

@[simp] theorem isStw_pkt (r : Rank) (c : CoreNo) (k : CtxNo) : isStw (pk r.val c.val k.val) = false := isStw_pk r c k.val (by omega)

@[simp] theorem isFlt_pkt (r : Rank) (c : CoreNo) (k : CtxNo) : isFlt (pk r.val c.val k.val) = false := by
  have := k.isLt
  rw [isFlt_pk r c k.val (by omega)]; simp; omega

@[simp] theorem coreOf_flt (r : Rank) (c : CoreNo) : coreOf (pk r.val c.val 8) = r.val * 13 + c.val := coreOf_pk r c 8 (by omega)

@[simp] theorem rankOf_flt (r : Rank) (c : CoreNo) : rankOf (pk r.val c.val 8) = r.val := rankOf_pk r c 8 (by omega)

@[simp] theorem coreNoOf_flt (r : Rank) (c : CoreNo) : coreNoOf (pk r.val c.val 8) = c.val := coreNoOf_pk r c 8 (by omega)

@[simp] theorem ctxNoOf_flt (r : Rank) (c : CoreNo) : ctxNoOf (pk r.val c.val 8) = 8 := ctxNoOf_pk r c 8 (by omega)

@[simp] theorem isStw_flt (r : Rank) (c : CoreNo) : isStw (pk r.val c.val 8) = false := isStw_pk r c 8 (by omega)

@[simp] theorem isFlt_flt (r : Rank) (c : CoreNo) : isFlt (pk r.val c.val 8) = true := isFlt_pk r c 8 (by omega)

@[simp] theorem isStw_stw (i : StwNo) : isStw (1404 + i.val) = true := by simp [isStw]

@[simp] theorem coreOf_stw (i : StwNo) : coreOf (1404 + i.val) = 156 + i.val := by
  rw [coreOf, if_neg (by omega)]; omega

@[simp] theorem ctxNoOf_stw (i : StwNo) : ctxNoOf (1404 + i.val) = 0 := by
  rw [ctxNoOf, if_neg (by omega)]

@[simp] theorem isFlt_stw (i : StwNo) : isFlt (1404 + i.val) = false := by
  simp only [isFlt, Bool.and_eq_false_iff, decide_eq_false_iff_not]; omega

/-- Keys are the contexts' own. -/
theorem pk_inj {r r' : Rank} {c c' : CoreNo} {k k' : Nat} (hk : k < 9) (hk' : k' < 9)
    (h : pk r.val c.val k = pk r'.val c'.val k') : r = r' ∧ c = c' ∧ k = k' := by
  have h1 := congrArg rankOf h; have h2 := congrArg coreNoOf h; have h3 := congrArg ctxNoOf h
  rw [rankOf_pk _ _ _ hk, rankOf_pk _ _ _ hk'] at h1
  rw [coreNoOf_pk _ _ _ hk, coreNoOf_pk _ _ _ hk'] at h2
  rw [ctxNoOf_pk _ _ _ hk, ctxNoOf_pk _ _ _ hk'] at h3
  exact ⟨Fin.ext h1, Fin.ext h2, h3⟩

end Sys2Proof.Machine
end

