-- ==== Sys2Proof/Laws/Ops.lean ====
section
/-! SUPPORT. What each shared operation can do, said once: requesters and registers, logs and counters, the memories, a
context's completion and exceptions. -/

namespace Sys2Proof.Machine

/-! ### Requesters and registers (00 R6, R8; 19 R512, R513) -/

/-- A requester that reaches a register whose island serves makes its access. -/
theorem onReach_ok (s f : State) (q : Req) (a : Nat) (be : BitVec 4) (h : s.reqOk q = true) (he : s.ctlErr a be = none)
    (hs : s.serves a = true) : s.onReach q a be f = f := by simp [State.onReach, h, he, hs]

/-- A requester that can make no access changes nothing, but that LEVEL 2 refuses a debug access. -/
theorem onReach_off (s f : State) (q : Req) (a : Nat) (be : BitVec 4) (h : s.reqOk q = false) :
    s.onReach q a be f = s.denied q a := by simp [State.onReach, h]

/-- An island that is paused or restarts itself holds the access. -/
theorem onReach_held (s f : State) (q : Req) (a : Nat) (be : BitVec 4) (h : s.reqOk q = true) (he : s.ctlErr a be = none)
    (hs : s.serves a = false) : s.onReach q a be f = s := by simp [State.onReach, h, he, hs]

/-- What an access answers is its effect, the state as it was, the refusal of a debug access, or the failure of a region that does not
answer. -/
theorem onReach_cases (s f : State) (q : Req) (a : Nat) (be : BitVec 4) :
    s.onReach q a be f = f ∨ s.onReach q a be f = s ∨ s.onReach q a be f = s.denied q a ∨
      ∃ n, s.ctlErr a be = some n ∧ s.onReach q a be f = s.regionFail q a n := by
  unfold State.onReach
  split
  · exact .inr (.inr (.inl rfl))
  · split
    · split
      · exact .inl rfl
      · exact .inr (.inl rfl)
    · next n hn => exact .inr (.inr (.inr ⟨n, hn, rfl⟩))

/-- A write has its effect, counts in CTL_WR_IGN, or does nothing. -/
theorem mayWrite_cases (s : State) (q : Req) (a : Nat) (f : State → State) :
    s.mayWrite q a f = f s ∨ s.mayWrite q a f = s.count 0x100 ∨ s.mayWrite q a f = s := by
  cases q <;> simp only [State.mayWrite] <;> (try split) <;> (try split) <;> simp

/-- A steward's write always has its effect. -/
@[simp] theorem mayWrite_stw (s : State) (i : StwNo) (a : Nat) (f : State → State) : s.mayWrite (.stw i) a f = f s := rfl

/-- A functional read that reaches the register. -/
theorem readCmd_ok (s : State) (q : Req) (a : Nat) (f : State → Word × State) (p : State → Word) (hq : q ≠ .dbg)
    (h : s.reqOk q = true) (he : s.ctlErr a 0xF = none) (hs : s.serves a = true) :
    s.readCmd q a f p = (f s).2.answer q (f s).1 := by
  unfold State.readCmd
  rw [onReach_ok _ _ _ _ _ h he hs]
  cases q <;> first | rfl | exact absurd rfl hq

/-- A debug read changes the debug port's own registers only. -/
theorem readCmd_dbg (s : State) (a : Nat) (f : State → Word × State) (p : State → Word) (h : s.reqOk .dbg = true)
    (he : s.ctlErr a 0xF = none) (hs : s.serves a = true) : s.readCmd .dbg a f p = (s.daccDone 0 a).answer .dbg (p s) := by
  unfold State.readCmd
  rw [onReach_ok _ _ _ _ _ h he hs]

/-- The end of a write changes the requester's port only. -/
theorem acked_frame (s : State) (q : Req) (a : Nat) : { s.acked q a with fab := s.fab, dbg := s.dbg } = s := by cases q <;> rfl

/-- Answering changes the requester's data only. -/
theorem answer_frame (s : State) (q : Req) (w : Word) :
    { s.answer q w with fab := s.fab, stw := s.stw, dbg := s.dbg } = s := by cases q <;> rfl

/-! ### Logs and counters (00 R528, 02 R71) -/

/-- A log with room gains the entry at its end. -/
theorem logAdd_room (s : State) (a cap e : Nat) (h : (s.log a).ents.length < cap) :
    (s.logAdd a cap e).log a = ⟨(s.log a).ents ++ [BitVec.ofNat 32 e], (s.log a).ovf⟩ := by
  simp only [State.logAdd, if_pos h]
  simp [State.log]

/-- A full log keeps its entries and sets OVF. -/
theorem logAdd_full (s : State) (a cap e : Nat) (h : cap ≤ (s.log a).ents.length) :
    (s.logAdd a cap e).log a = ⟨(s.log a).ents, true⟩ := by
  have h' : ¬ (s.log a).ents.length < cap := by omega
  simp only [State.logAdd, if_neg h']
  simp [State.log]

/-- Another log is as it was. -/
theorem logAdd_other (s : State) (a b cap e : Nat) (h : b ≠ a) : (s.logAdd a cap e).log b = s.log b := by
  simp only [State.logAdd]
  split <;> simp [State.log, tget_tset_ne, h]

/-- A log's read takes its oldest entry and clears OVF. -/
theorem logPop_eq (s : State) (a : Nat) :
    s.logPop a = (((s.log a).ents.headD 0) ||| BitVec.ofNat 32 (b2n (s.log a).ovf * 2 ^ 30),
      { s with logs := tset s.logs a ⟨(s.log a).ents.drop 1, false⟩ }) := by
  unfold State.logPop
  dsimp only
  split <;> rename_i h <;> rw [h] <;> simp

/-- A counter counts, and only that counter. -/
theorem count_ctr (s : State) (a b n : Nat) : (s.count a n).ctr b = s.ctr b + (if b = a then BitVec.ofNat 64 n else 0) := by
  unfold State.count
  split
  · next h => subst h; simp
  · by_cases hb : b = a
    · subst hb; simp [State.ctr]
    · simp [State.ctr, tget_tset_ne, hb]

/-- Counting changes the counters only. -/
theorem count_frame (s : State) (a n : Nat) : { s.count a n with counters := s.counters } = s := by
  unfold State.count; split <;> rfl

/-! ### Memories (06 R183) -/

/-- A scratchpad store writes the bytes and makes good the words it touches; it changes nothing else. -/
theorem spStore_frame (s : State) (ck x : Nat) (bs : List Byte) :
    (s.spStore ck x bs).sp = mwrite 0 s.sp (spA ck x) bs ∧ { s.spStore ck x bs with sp := s.sp, spErr := s.spErr } = s := ⟨rfl, rfl⟩

theorem spStore_wf (s : State) (ck x : Nat) (bs : List Byte) (h : s.sp.wf 0 = true) : (s.spStore ck x bs).sp.wf 0 = true :=
  mwrite_wf _ _ _ _ h

/-! ### A context goes on (05 R160, 08 R247) -/

/-- Going to an address changes the pc and, where it is END of the innermost level, the loop levels. -/
theorem goto_frame (c : Ctx) (t : Word) : { c.goto t with pc := c.pc, ls := c.ls } = c := by
  unfold Ctx.goto
  split
  · cases c; simp_all
  · split
    · split <;> (cases c; simp_all)
    · cases c; simp_all

/-- With no loop level, execution goes on at the address. -/
theorem goto_nil (c : Ctx) (t : Word) (h : c.ls = []) : c.goto t = { c with pc := t } := by simp [Ctx.goto, h]

/-- The record of an issue changes one core only. -/
theorem issued_frame (s : State) (key : Nat) : { s.issued key with cores := s.cores } = s := rfl

/-- What an instruction's body answers, as the state that follows. -/
theorem settleR_cases (s : State) (key len : Nat) (r : R) :
    (∃ u c t, (r = .ok u c ∧ t = (s.ctx key).pc + BitVec.ofNat 32 len ∨ r = .jump u c t) ∧
      s.settleR key len r = (u.complete key c t).issued key) ∨
    (∃ u c, (r = .sleep u c ∧
        s.settleR key len r = (u.toSleep key { c with st := .sleep, wlen := len, grp := { c.grp with flow := 0 } }).issued key) ∨
      (r = .to u c ∧ s.settleR key len r = if c.st = .run then u.setCtx key c else (u.setCtx key c).issued key)) ∨
    (∃ u v fa, r = .exc u v fa ∧ s.settleR key len r = (u.excAt key v fa).issued key) ∨
    (∃ u c v fa, r = .trap u c v fa) ∨ (r = .hold ∧ s.settleR key len r = s) ∨ (∃ u, r = .wait u ∧ s.settleR key len r = u) := by
  rcases r with ⟨u, c⟩ | ⟨u, c, t⟩ | ⟨u, c⟩ | ⟨u, v, fa⟩ | ⟨u, c, v, fa⟩ | _ | u | ⟨u, c⟩
  · exact .inl ⟨u, c, _, .inl ⟨rfl, rfl⟩, rfl⟩
  · exact .inl ⟨u, c, t, .inr rfl, rfl⟩
  · exact .inr (.inl ⟨u, c, .inl ⟨rfl, rfl⟩⟩)
  · exact .inr (.inr (.inl ⟨u, v, fa, rfl, rfl⟩))
  · exact .inr (.inr (.inr (.inl ⟨u, c, v, fa, rfl⟩)))
  · exact .inr (.inr (.inr (.inr (.inl ⟨rfl, rfl⟩))))
  · exact .inr (.inr (.inr (.inr (.inr ⟨u, rfl, rfl⟩))))
  · exact .inr (.inl ⟨u, c, .inr ⟨rfl, rfl⟩⟩)

/-! ### Halts (18 R500) -/

/-- A halt request waits for a paused island, leaves the core as it was, or sets its request, and changes nothing else. -/
theorem reqHalt_cases (s : State) (ck : Nat) :
    s.reqHalt ck = s.dbgHold ck .halt ∨ s.reqHalt ck = s ∨ s.reqHalt ck = s.setCore ck { s.core ck with haltReq := true } := by
  unfold State.reqHalt
  dsimp only
  split
  · exact .inl rfl
  · split
    · exact .inr (.inl rfl)
    · exact .inr (.inr rfl)

end Sys2Proof.Machine
end

