-- ==== Sys2Proof/Machine/Pins.lean ====
section
/-! DEFINITION. Output pins that follow from the state: power good, the forwarded clocks, the flash reset, TDO (16 R458, 18 R494, 19
R520). What xSPI pins do within a flash operation is no state (log entry 120). -/

namespace Sys2Proof.Machine

/-- PG output of domain `d`: high exactly while the domain is ON (16 R458). -/
def State.pgOut (s : State) (d : Nat) : Bool := s.isOn d

/-- XSPI_RESET_N: low while PD_CFG is not ON (19 R520). -/
def State.xspiResetN (s : State) : Bool := s.isOn dCfg

/-- IN_CK has edges: CK_IN, forwarded (19 R520). -/
def State.inCk (s : State) : Bool := s.clockRuns dIn

/-- EG_CK has edges: CK_OUT, forwarded. -/
def State.egCk (s : State) : Bool := s.clockRuns dOut

/-- The block drives XSPI_DQ at some time in a flash operation: PD_CFG runs, and the image is being read or a flash command is under way
(log entry 120). -/
def State.xspiBusy (s : State) : Bool :=
  s.runs dCfg && (decide (s.cfg.phase = 1) || (match s.cfg.flash with | some f => !f.deferred | none => false))

/-- TDO is driven: only in Shift-IR and Shift-DR (18 R494). -/
def State.tdoDriven (s : State) : Bool := s.isOn dDbg && (decide (s.dbg.tap = .shiftIr) || decide (s.dbg.tap = .shiftDr))

end Sys2Proof.Machine
end

