-- ==== Sys2Proof/WellFormed.lean ====
section
/-! DEFINITION. The checks that a command the manual can mean passes: a register address is that of a word, a _LO or _HI
address is one, a cause or a code is one of its table. -/

namespace Sys2Proof

/-- The command is well formed. -/
def Instr.wellFormed : Instr → Bool
  | .counterLoRead _ addr => decide (addr.toNat % 8 = 0)
  | .counterHiRead _ addr => decide (addr.toNat % 8 = 4)
  | .machineCheck _ cause _ => decide (1 ≤ cause.val) && decide (cause.val ≤ 7)
  | .stewardFault _ cause => decide (1 ≤ cause.val) && decide (cause.val ≤ 5)
  | .schedEntryWrite _ addr _ => decide (addr.toNat % 4 = 0) && decide (0x440000 ≤ addr.toNat) && decide (addr.toNat < 0x4C0000)
  | .startAttemptFail code => decide (1 ≤ code.toNat) && decide (code.toNat ≤ 0xE)
  | .islandSelfRestart _ cause => decide (1 ≤ cause.val)
  | .dbgStep t k => (match t with | .seat _ _ => decide (k.val ≤ 8) | .stw _ => decide (k.val = 0))
  | .registerWrite _ addr _ _ => decide (addr.toNat % 4 = 0)
  | .ingressSegment _ _ | .pauseEvent | .inPauseNlChange | .egressFrameStart _ _ | .egressSegment _ _ _
  | .egCreditReturn _ _ | .chAttach _ _ | .chDetach _ _ | .channelAttached _ | .channelDetached _ | .blkDetachReq
  | .blockDetached | .blkDetachReqFall | .hopTransfer _ | .skipToken _ | .verdictToken _ | .dispatchSelect _
  | .contextStart _ _ _ | .headSlotWritten _ _ _ _ | .gateRelease _ | .gatePassMark _ | .rankPuntPop _ _
  | .rankReinjReinject _ _ _ _ | .rankReinjDrop _ _ _ | .turnCapExpiry _ _ _ | .turnHardLimit _ _ _
  | .verdictMessage _ _ | .verdictArrive _ _ _ | .ledgerEntry _ _ | .ledgerRelease _ | .ledgerDiscard _
  | .ledgerForfeit _ | .ledgerVerdict | .ledgerFlush | .ledgerCommit _ | .ledgerPeakRead _ | .ledgerUeLogRead _
  | .nop _ | .dup _ | .drop _ | .swap _ | .over _ | .rot _ | .nip _ | .tuck _ | .twoDup _ | .twoDrop _ | .twoSwap _
  | .twoOver _ | .minusRot _ | .pick _ _ | .depth _ | .put _ _ | .litN _ _ | .lit8 _ _ | .lit16 _ _ | .lit32 _ _
  | .add _ | .sub _ | .neg _ | .inc _ | .dec _ | .and _ | .or _ | .xor _ | .not _ | .andn _ | .shl _ | .shr _ | .sar _
  | .rol _ | .ror _ | .shli _ _ | .shri _ _ | .sari _ _ | .extr _ _ _ | .ins _ _ _ | .clz _ | .popc _ | .bswap32 _
  | .bswap16 _ | .mul _ | .mulh _ | .mulhu _ | .min _ | .max _ | .ceq _ _ | .cne _ _ | .clt _ _ | .cle _ _ | .cgt _ _
  | .cge _ _ | .cltu _ _ | .cleu _ _ | .cgtu _ _ | .cgeu _ _ | .ceqz _ _ | .cnez _ _ | .cbit _ _ | .cmask _ _
  | .cser16 _ _ | .cser32 _ _ | .pand _ _ | .por _ _ | .pxor _ _ | .pandn _ _ | .pmov _ _ | .pnot _ _ | .pset _ _
  | .pclr _ _ | .ppush _ _ | .ppop _ _ | .pall _ | .pload _ | .ld8 _ | .ld8s _ | .ld16 _ | .ld16s _ | .ld32 _ | .st8 _
  | .st16 _ | .st32 _ | .lda32 _ | .lda32Plus _ | .sta32 _ | .sta32Plus _ | .lda8Plus _ | .sta8Plus _ | .ldb32Plus _
  | .stb32Plus _ | .ldb32 _ | .stb32 _ | .ldb8Plus _ | .stb8Plus _ | .ldh8 _ _ | .ldh16 _ _ | .ldh32 _ _ | .sth8 _ _
  | .sth16 _ _ | .sth32 _ _ | .ldhx _ | .sthx _ | .ldc8 _ | .ldc32 _ | .seta _ | .setb _ | .br _ _ | .brT _ _
  | .call _ _ | .calli _ | .ret _ | .loop _ _ | .lexit _ | .jmpi _ | .lcnt _ | .done _ | .droppkt _ | .punt _ _
  | .packetEnd _ _ _ | .emit _ | .skipto _ | .setlane _ | .look _ _ | .lookw _ _ | .upd _ _ | .cnt _ _ | .mtr _ _
  | .lrn _ _ | .log _ _ | .cas _ _ | .unlock _ _ | .wait _ | .waitExpiry _ | .yield _ | .sys _ _ | .rte _
  | .exceptionReturn _ | .mfs _ _ | .mts _ _ | .fence _ | .dice _ | .time _ | .brk _ | .illegalOpcode _ _ _
  | .hcmd _ _ _ | .hput _ _ | .hget _ _ | .hwait _ _ | .hsave _ _ | .hrest _ _ | .hcap _ _ | .hsync _ _ | .csum16 _
  | .movb _ | .fillb _ | .cmpb _ | .byteEngineComplete _ _ | .storeBufferRelease _ _ | .lookupResult _ | .tableAck _
  | .exceptionEntry _ | .lazySave _ _ _ | .faultContextService _ _ | .faultProgramLimit _ _
  | .faultrecInfoClear _ _ _ _ | .faultrecCountRead _ _ _ | .helperResult _ _ _ _ | .killReport _ _ _ _ | .parse _ _
  | .hashCrc32 _ _ | .hashCrc32c _ _ | .hashSiphash _ _ | .sealStart _ | .sealAad _ | .sealData _ | .sealFinish _
  | .sealKeyLoad _ _ _ _ | .sealKeyInvalidate _ _ _ | .guestIssue _ | .guestKillNotice _ | .guestCommitNotice _
  | .guestResult _ _ _ _ _ _ _ _ | .guestMirrorSave _ _ _ _ | .guestLateError _ _ _ | .gstPgChange _
  | .rankGstLateRead _ _ | .tileTransaction _ | .overhold _ | .insertSequencer _ | .tileFail _ _ | .scrubVisit _ _
  | .tblRoundOpen _ | .pliveClear | .tblCmdReadEntry _ _ _ | .tblCmdWriteEntry _ _ _ | .tblCmdReadRows _ _
  | .tblCmdWriteRows _ _ | .tblCmdFailTile _ | .tblCmdComplete | .tblRelocWrite _ _ _ | .tblUeLogRead _
  | .eccWriteback _ _ _ | .rankSpOwnerWrite _ _ _ _ | .spHandoverEffect _ _ _ | .spClearEnd _ _ | .bgtRegionStart _ _
  | .bgtRegionComplete _ _ | .spTestStart _ _ _ | .spTestComplete _ _ | .spAccRead _ _ _ | .spAccWrite _ _ _
  | .spAccComplete _ _ | .retiredCoreGated _ _ | .mcPatchWrite _ _ _ | .mcPatchRead _ _ _ | .mcPatchSetLevel _ _ _
  | .mcPatchInvalidate _ _ _ | .rankMcLogRead _ _ | .rankSpUeLogRead _ _ | .rankRepairLogRead _ _ | .seatDrain _ _ _
  | .seatDrained _ | .seatRotate _ _ _ | .seatRotationComplete _ | .seatCancel _ _ _ | .registerFabricAccess _
  | .stwSemRead _ _ | .stwSemRel _ _ | .interruptBind | .stewardInterruptEntry _ | .icEnter _ _ _ | .icEoi _ _ _
  | .icStkInit _ _ | .icMaskSet _ _ _ | .icMaskClr _ _ _ | .icPendSet _ _ | .icPendClr _ _ | .icSrcCfgWrite _ _ _
  | .moderationExpiry _ | .icHostDbSet _ _ | .libStatusClear _ _ | .bufAlloc _ | .allocBackoffExpiry _ | .bufLink
  | .bufFree | .bufResponse _ _ | .bufWriteBeat | .bufReadRequest _ _ | .bufReadData _ _ _ | .bufWriteError _
  | .bufPoolInput _ _ _ | .bufLateTimeout | .bufErrLogRead _ | .timeRefLost | .timeRefReturn | .timeFreqWrite _ _
  | .timeStep _ | .timeSlew _ | .slewStep | .timeSet _ | .timeNowNsRead _ | .ppsRise | .ppsFall | .schedCommit _ _
  | .schedCancel _ _ | .schedSwitch _ | .powerOnStart | .startAttemptBegin | .cfgStartOk _ _ | .startTimeout
  | .minimalStatus _ | .minimalErase _ | .minimalWrite _ | .minimalRead _ | .minimalSetpref _ | .minimalRestart _
  | .flashRead _ | .flashProgram _ | .flashErase4k _ | .flashErase64k _ | .flashCancel _ | .holdupChange _ _
  | .flashCmdComplete _ | .pmcVoteSet _ _ | .pmcVoteClr _ _ | .pmcDomCfgWrite _ _ _ | .domainEntry _
  | .domainEntryComplete _ | .domainWake _ | .domainWakeComplete _ | .libraryReloadComplete _ | .brownout _
  | .plevelChangeComplete _ | .p0CreditExhausted _ | .p0CreditRestored _ | .thermalForce _ _ | .thermalForceEnd _ _
  | .thermalLimit _ _ | .boxedEntry | .wakeN | .refclkLost | .dcoFail _ | .clockStop _ | .porst | .vinCoreLoss
  | .coreWatchdogExpiry _ _ | .stewardWatchdogExpiry _ | .wdogKickOwn _ | .wdogKickBlk _ | .blockWatchdogExpiry
  | .stwRestart _ _ | .stwReloadRestart _ _ _ | .islandWatchdogExpiry _ | .ingressFlush _ | .islandPause _
  | .islandResume _ | .fltIslLogRead _ | .rankCodeLoad _ _ | .rankCodeLoadComplete _ | .rankCodeCommit _ _ | .tapReset
  | .idcode | .dstatus | .bypass | .daccRead _ | .daccWrite _ _ | .dbgHalt _ | .dbgResume _ | .coreHalted _
  | .lockHaltTimeout _ | .xtrigFire _ | .xtrigResume _ | .dbgXtrigIn _ | .dbgLockLogRead | .ctlErrInfoRead _
  | .refclkReturn | .imageLoaded | .reserveTakesSeat _ | .islandRestartComplete _ | .votedFaultMasked => true

end Sys2Proof
end

