-- ==== Sys2Proof/Tests/Slice0.lean ====
section
/-! SUPPORT. Own tests: the ill-formed terms that WellFormed refuses, and for each statement a concrete state and operands
that meet its hypotheses, clause by clause, with what the command does there. -/

namespace Sys2Proof.Tests
open Sys2Proof Sys2Proof.Machine Sys2Proof.Claim

set_option Elab.async false

/-! ### Helpers -/

/-- The next state of an outcome. -/
def nxt : Out → State
  | .next t => t
  | _ => State.reset

/-- The outcome is the next state `t`. -/
def isNext (o : Out) (t : State) : Bool :=
  match o with
  | .next u => decide (u = t)
  | _ => false

/-- Context 0 of core 0 of rank 0, no guard. -/
def w0 : Iss := ⟨.pkt 0 0 0, .always⟩

/-- The state in which instruction `i` executes: the core's stores have drained and `i` has its place in its group. -/
def ent (i : Instr) (s : State) : State :=
  match i with
  | .illegalOpcode x op _ => s.entered (whoKey x.who) (guardLen x.guard + if 0xE0 ≤ op.toNat ∧ op.toNat ≤ 0xF0 then 2 else 1)
  | _ =>
    match gilin i with
    | some (x, n) => s.entered (whoKey x.who) (guardLen x.guard + n)
    | none => s

/-- `Ready` of the state before the issue alone. -/
def Rdy (s : State) (x : Iss) (n : Nat) : Prop := Ready s (s.entered (whoKey x.who) (guardLen x.guard + n)) x n

/-- Domains ON. -/
def on (ds : List Nat) (s : State) : State := forEach ds s (fun d s => s.setDom d { PDom.init with st := .on })

/-- Every seat of rank `r` holds its core, and its code is executable. -/
def seated (r : Nat) (s : State) : State := s.setRank r { RankSt.init with nx := 0xFFFF, seats := List.range 13 }

/-- Rank 0 runs, and its context 0 executes at 0x100. -/
def st (f : Ctx → Ctx) : State := (seated 0 (on [0] State.reset)).setCtx 0 (f { Ctx.init 0 with st := .run, pc := 0x100 })

/-- The same with an operand stack, its top first. -/
def so (os : List Word) : State := st (fun c => { c with os := os })

/-- Steward 0 runs at 0x100. -/
def ss (f : Ctx → Ctx) : State :=
  let s := (on [dStw] State.reset).setStw 0 { Stw.init with started := true, nx := 0xFFFFFFFFFFFFFFFF }
  s.setCtx 1404 (f { Ctx.init 1404 with st := .run, pc := 0x100 })

/-- Context 0 of state `s` after an instruction that ends at `t` with operand stack `os`. -/
def done0 (s : State) (os : List Word) (t : Word) : State := retire s 0 { s.ctx 0 with os := os } t

/-- Exception `v` with address `fa` at context 0. -/
def exc0 (s : State) (v : Nat) (fa : Word) : State := (s.excAt 0 v fa).issued 0

/-- A metadata block with its verdict. -/
def md (v : BitVec 2) : Meta := { Meta.zero with lane := 3, pip := 7, verdict := v, len := 100, tail := noBuf }

/-- Context 0 holds the packet of entry 5, in slot 0. -/
def held (v : BitVec 2) (s : State) : State :=
  (s.setRank 0 { s.rank 0 with entries := [(5, ⟨⟨[], md v⟩, md v, .inCtx 0 0 0, 3, 0, false, [], 256⟩)] }).setCtx 0
    { s.ctx 0 with entry := some 5 }

/-- Table `t` has a descriptor: CFG and LEN. -/
def tbl (t : Nat) (cfg len : Word) (s : State) : State :=
  (s.setReg (tbA (0x1000 + 32 * t)) cfg).setReg (tbA (0x1000 + 32 * t + 12)) len

/-! ### The queue and one instruction -/

theorem test_step_takes_front : isNext (step { State.reset with pending := [.blkDetachReq, .porst] })
    { State.reset with pending := [.porst], pins := { State.reset.pins with detReq := true } } = true := by decide +kernel

theorem witness_idle : State.reset.pending = [] ∧ State.reset.dbg.pend = none ∧ State.reset.dbg.held = [] ∧ (nxt (step State.reset)).now = 2 := by decide +kernel

theorem witness_stack : stackFx (.rot w0) [1, 2, 3, 4] = some (w0, 1, 3, [3, 1, 2, 4]) ∧ Rdy (so [1, 2, 3, 4]) w0 1 ∧
    (stkFloors ((so [1, 2, 3, 4]).ctx 0)).1 + 3 ≤ 4 ∧
    isNext (exec (.rot w0) (so [1, 2, 3, 4])) (done0 (ent (.rot w0) (so [1, 2, 3, 4])) [3, 1, 2, 4] 0x101) = true := by
  unfold Rdy Ready; decide +kernel

theorem witness_stack_full : stackFx (.dup w0) (List.replicate 27 9) = some (w0, 1, 1, List.replicate 28 9) ∧
    Rdy (so (List.replicate 27 9)) w0 1 ∧
    isNext (exec (.dup w0) (so (List.replicate 27 9))) (done0 (ent (.dup w0) (so (List.replicate 27 9))) (List.replicate 28 9) 0x101) = true := by
  unfold Rdy Ready; decide +kernel

theorem witness_pick : Rdy (so [1, 2, 3]) w0 2 ∧
    isNext (exec (.pick w0 2) (so [1, 2, 3])) (done0 (ent (.pick w0 2) (so [1, 2, 3])) [3, 1, 2, 3] 0x102) = true ∧
    isNext (exec (.pick w0 3) (so [1, 2, 3])) (exc0 (ent (.pick w0 3) (so [1, 2, 3])) 7 0x100) = true := by
  unfold Rdy Ready; decide +kernel

theorem witness_put : isNext (exec (.put w0 1) (so [1, 2, 3])) (done0 (ent (.put w0 1) (so [1, 2, 3])) [2, 1] 0x102) = true ∧
    isNext (exec (.put w0 2) (so [1, 2, 3])) (exc0 (ent (.put w0 2) (so [1, 2, 3])) 7 0x100) = true ∧
    isNext (exec (.depth w0) (so [1, 2, 3])) (done0 (ent (.depth w0) (so [1, 2, 3])) [3, 1, 2, 3] 0x101) = true := by decide +kernel

theorem witness_arith2 : arith2 (.sub w0) 5 7 = some (w0, 1, 0xFFFFFFFE) ∧ Rdy (so [7, 5, 1]) w0 1 ∧
    isNext (exec (.sub w0) (so [7, 5, 1])) (done0 (ent (.sub w0) (so [7, 5, 1])) [0xFFFFFFFE, 1] 0x101) = true := by
  unfold Rdy Ready; decide +kernel

theorem witness_arith1 : arith1 (.sari w0 31) 0x80000000 = some (w0, 2, 0xFFFFFFFF) ∧ Rdy (so [0x80000000]) w0 2 ∧
    isNext (exec (.sari w0 31) (so [0x80000000])) (done0 (ent (.sari w0 31) (so [0x80000000])) [0xFFFFFFFF] 0x102) = true := by
  unfold Rdy Ready; decide +kernel

theorem witness_compare : cmp2 (.clt w0 7) 0xFFFFFFFF 1 = some (w0, 7, true) ∧ Rdy (so [1, 0xFFFFFFFF]) w0 2 ∧
    isNext (exec (.clt w0 7) (so [1, 0xFFFFFFFF])) (retire (ent (.clt w0 7) (so [1, 0xFFFFFFFF])) 0 { (ent (.clt w0 7) (so [1, 0xFFFFFFFF])).ctx 0 with os := [], pred := 0x81 } 0x102) = true ∧
    cmp1 (.ceqz w0 0) 1 = some (w0, 0, false) ∧ isNext (exec (.ceqz w0 0) (so [1])) (done0 (ent (.ceqz w0 0) (so [1])) [] 0x102) = true := by
  unfold Rdy Ready; decide +kernel

theorem witness_predicates : predFx (.por w0 0x07) ((so [4]).ctx 0) = some (w0, 0x07, 7, true) ∧ Rdy (so [4]) w0 2 ∧ Rdy (so [4]) w0 1 ∧
    isNext (exec (.por w0 0x07) (so [4])) (retire (ent (.por w0 0x07) (so [4])) 0 { (ent (.por w0 0x07) (so [4])).ctx 0 with pred := 0x81 } 0x102) = true ∧
    isNext (exec (.ppush w0 7) (so [4])) (done0 (ent (.ppush w0 7) (so [4])) [0, 4] 0x102) = true ∧
    isNext (exec (.pall w0) (so [4])) (done0 (ent (.pall w0) (so [4])) [1, 4] 0x101) = true ∧
    isNext (exec (.pload w0) (so [0xFE])) (retire (ent (.pload w0) (so [0xFE])) 0 { (ent (.pload w0) (so [0xFE])).ctx 0 with os := [], pred := 0xFF } 0x101) = true := by
  unfold Rdy Ready; decide +kernel

/-! ### Fetch, encoding, guard, stack errors -/

theorem witness_fetch : (so [1]).canIssue 0 = true ∧ (st (fun c => { c with st := .stopped })).canIssue 0 = false ∧
    (st (fun c => { c with pc := 0xFFFF })).badFetch 0 0xFFFF 5 = some 0x10000 := by decide +kernel

theorem witness_illegal : badOperand (.pick w0 32) = true ∧ badOperand (.extr w0 31 2) = true ∧
    (so [1]).badFetch 0 0x100 2 = none ∧ (so [1]).matches 0 0x100 true false = [] ∧ isNext (exec (.pick w0 32) (so [1])) (exc0 (ent (.pick w0 32) (so [1])) 1 0x100) = true ∧
    isNext (exec (.illegalOpcode w0 0x5C 0) (so [1])) (exc0 (ent (.illegalOpcode w0 0x5C 0) (so [1])) 1 0x100) = true ∧
    isNext (exec (.illegalOpcode w0 0xE7 0x87) (so [1])) (exc0 (ent (.illegalOpcode w0 0xE7 0x87) (so [1])) 1 0x100) = true := by decide +kernel

theorem witness_guard_fails : guardHolds ((so [1]).ctx 0) (.ifp 3) = false ∧ guardHolds ((so [1]).ctx 0) (.ifnot 0) = false ∧
    (so [1]).badFetch 0 0x100 2 = none ∧ (so [1]).matches 0 0x100 true false = [] ∧
    isNext (exec (.drop ⟨.pkt 0 0 0, .ifp 3⟩) (so [1])) (done0 (ent (.drop ⟨.pkt 0 0 0, .ifp 3⟩) (so [1])) [1] 0x102) = true := by decide +kernel

theorem witness_stack_errors : cells (.add w0) = some (2, 1) ∧ Rdy (so [1]) w0 1 ∧ Rdy (so (List.replicate 28 1)) w0 1 ∧
    isNext (exec (.add w0) (so [1])) (exc0 (ent (.add w0) (so [1])) 7 0x100) = true ∧
    isNext (exec (.dup w0) (so (List.replicate 28 1))) (exc0 (ent (.dup w0) (so (List.replicate 28 1))) 6 0x100) = true := by
  unfold Rdy Ready; decide +kernel

/-! ### Loads, stores and code -/

theorem witness_load : Rdy (so [0x2FFFC]) w0 1 ∧ (so []).mayByte 0 ((so []).ctx 0) 0x2FFFF = true ∧
    (so []).matches 0 0x2FFFC false true = [] ∧
    isNext (exec (.ld32 w0) (so [0x2FFFC])) (done0 (ent (.ld32 w0) (so [0x2FFFC])) [0] 0x101) = true ∧
    isNext (exec (.ldh16 w0 0x1FE) (so [])) (done0 (ent (.ldh16 w0 0x1FE) (so [])) [0] 0x103) = true := by unfold Rdy Ready; decide +kernel

/-- A store waits in core 0's store buffer. -/
def sBuf : State := (so [4, 0xAABBCCDD]).setCore 0 { Core.init with sbuf := [⟨0, 4, [0xDD, 0xCC, 0xBB, 0xAA]⟩] }

theorem witness_store : isNext (exec (.st32 w0) (so [4, 0xAABBCCDD])) (done0 ((ent (.st32 w0) (so [4, 0xAABBCCDD])).setCore 0
      { Core.init with sbuf := [⟨0, 4, [0xDD, 0xCC, 0xBB, 0xAA]⟩] }) [] 0x101) = true ∧
    isNext (exec (.sth16 w0 0x0E) (so [0x8100])) (done0
      ((ent (.sth16 w0 0x0E) (so [0x8100])).setCore 0 { Core.init with sbuf := [⟨0, 0x3800E, [0x81, 0x00]⟩] }) [] 0x103) = true := by decide +kernel

theorem witness_release : sBuf.runs 0 = true ∧ (sBuf.core 0).bgt = none ∧ (sBuf.core 0).sbuf = [⟨0, 4, [0xDD, 0xCC, 0xBB, 0xAA]⟩] ∧ sBuf.sp.wf 0 = true ∧
    (nxt (exec (.storeBufferRelease 0 0) sBuf)).spR 0 3 6 = [0, 0xDD, 0xCC, 0xBB, 0xAA, 0] := by decide +kernel

/-- The scratchpad word at 8 is uncorrectable. -/
def sUe : State := { so [8] with spErr := [(1, true)] }

theorem witness_access_faults : Rdy (so [0x40000]) w0 1 ∧ Rdy sUe w0 1 ∧
    isNext (exec (.ld8 w0) (so [0x40000])) (exc0 (ent (.ld8 w0) (so [0x40000])) 5 0x40000) = true ∧
    isNext (exec (.ld32 w0) (so [2])) (exc0 (ent (.ld32 w0) (so [2])) 4 2) = true ∧ tfind sUe.spErr (spWord 0 8) = some true ∧
    isNext (exec (.ld32 w0) sUe) (exc0 ((ent (.ld32 w0) sUe).spUe 0 8 0) 16 8) = true := by unfold Rdy Ready; decide +kernel

/-- Steward 0, no guard. -/
def wS : Iss := ⟨.stw 0, .always⟩

theorem witness_steward_access : Rdy (ss (fun c => { c with os := [0x1FFFFC, 7] })) wS 1 ∧
    ((ss id).ctlErr 0x208000 0xF = none) ∧
    (let s := ss (fun c => { c with os := [0xF0208000, 7] })
     isNext (exec (.st32 wS) s) ((((ent (.st32 wS) s).setStw 0 { (ent (.st32 wS) s).stwd 0 with acc := some ⟨true, 0x208000, 7, [], 0, 0⟩ }).setCtx 1404
       (asleep ((ent (.st32 wS) s).ctx 1404) .fabric 1)).issued 1404)) = true ∧
    (let s := ss (fun c => { c with os := [0x1FFFFC, 7] })
     (nxt (exec (.st32 wS) s)).srR 0x1FFFFC 4 = [7, 0, 0, 0]) ∧
    (let s := ss (fun c => { c with os := [0xDFFFC, 7] })
     (nxt (exec (.st32 wS) s)).sram = []) := by unfold Rdy Ready; decide +kernel

theorem witness_code_load : Rdy (so [0xFFFC]) w0 1 ∧
    isNext (exec (.ldc32 w0) (so [0xFFFC])) (done0 (ent (.ldc32 w0) (so [0xFFFC])) [0xFFFFFFFF] 0x101) = true ∧
    isNext (exec (.ldc32 w0) (so [2])) (exc0 (ent (.ldc32 w0) (so [2])) 4 2) = true ∧
    isNext (exec (.ldc8 w0) (so [0x10000])) (exc0 (ent (.ldc8 w0) (so [0x10000])) 5 0x10000) = true ∧
    (let s : State := { so [] with dbg := { State.reset.dbg with regs := [(0x10F00000, 0x80F00040), (0x10F00004, 0x11223344)] } }
     bit (s.dreg (ovlBase 0)) 31 = true ∧ bits (s.dreg (ovlBase 0)) 17 2 = 0x40 / 4 ∧ s.codeSeen 0 0x41 = 0x33) ∧
    isNext (exec (.seta w0) (so [9])) (retire (ent (.seta w0) (so [9])) 0 { (ent (.seta w0) (so [9])).ctx 0 with os := [], a := 9 } 0x101) = true := by
  unfold Rdy Ready; decide +kernel

/-! ### Control transfer and loops -/

theorem witness_branch : (jumpFx (.br w0 (.r8 (-2))) 0 ((so []).ctx 0)).map (fun y => (y.2.1, y.2.2.1)) = some (2, 0x100) ∧ Rdy (so []) w0 2 ∧
    isNext (exec (.br w0 (.r8 (-2))) (so [])) (done0 (ent (.br w0 (.r8 (-2))) (so [])) [] 0x100) = true ∧
    (jumpFx (.jmpi w0) 0 ((so [0x10000]).ctx 0)).map (fun y => (y.2.1, y.2.2.1)) = some (1, 0x10000) ∧
    isNext (exec (.jmpi w0) (so [0x10000])) (exc0 (ent (.jmpi w0) (so [0x10000])) 3 0x10000) = true ∧
    (st (fun c => { c with pc := 0x10000 })).mayFetch 0 0x10000 = false := by unfold Rdy Ready; decide +kernel

/-- A context whose return stack has `n` entries. -/
def sr (n : Nat) : State := st (fun c => { c with rs := List.replicate n 0x40 })

theorem witness_return : Rdy (sr 14) w0 1 ∧ Rdy (sr 14) w0 4 ∧
    isNext (exec (.ret w0) (sr 1)) (retire (ent (.ret w0) (sr 1)) 0 { (ent (.ret w0) (sr 1)).ctx 0 with rs := [] } 0x40) = true ∧
    isNext (exec (.ret w0) (sr 0)) (exc0 (ent (.ret w0) (sr 0)) 9 0x100) = true ∧
    isNext (exec (.call w0 0xFFFF) (sr 14)) (exc0 (ent (.call w0 0xFFFF) (sr 14)) 8 0x100) = true ∧
    isNext (exec (.call w0 0xFFFF) (sr 13)) (retire (ent (.call w0 0xFFFF) (sr 13)) 0 { (ent (.call w0 0xFFFF) (sr 13)).ctx 0 with rs := 0x104 :: List.replicate 13 0x40 } 0xFFFF) = true := by
  unfold Rdy Ready; decide +kernel

theorem witness_loop : Rdy (so [0]) w0 3 ∧ isNext (exec (.loop w0 9) (so [0])) (done0 (ent (.loop w0 9) (so [0])) [] 0x10C) = true ∧
    isNext (exec (.loop w0 9) (so [5])) (retire (ent (.loop w0 9) (so [5])) 0 { (ent (.loop w0 9) (so [5])).ctx 0 with os := [], ls := [⟨0x103, 0x10C, 5⟩] } 0x103) = true ∧
    (let s := st (fun c => { c with os := [5], ls := List.replicate 4 ⟨1, 2, 3⟩ })
     isNext (exec (.loop w0 9) s) (exc0 (ent (.loop w0 9) s) 10 0x100) = true) ∧
    isNext (exec (.lexit w0) (so [])) (exc0 (ent (.lexit w0) (so [])) 9 0x100) = true ∧
    (let s := st (fun c => { c with ls := [⟨1, 2, 3⟩] })
     isNext (exec (.lexit w0) s) (retire (ent (.lexit w0) s) 0 { (ent (.lexit w0) s).ctx 0 with ls := [] } 2) = true ∧
     isNext (exec (.lcnt w0) s) (done0 (ent (.lcnt w0) s) [3] 0x101) = true) := by unfold Rdy Ready; decide +kernel

theorem witness_end_test : (let c : Ctx := { Ctx.init 0 with ls := [⟨0x10, 0x20, 2⟩, ⟨0, 0x20, 9⟩] }
    c.goto 0x20 = { c with pc := 0x10, ls := [⟨0x10, 0x20, 1⟩, ⟨0, 0x20, 9⟩] } ∧
    ({ c with ls := [⟨0x10, 0x20, 1⟩, ⟨0, 0x20, 9⟩] } : Ctx).goto 0x20 = { c with pc := 0x20, ls := [⟨0, 0x20, 9⟩] }) := by decide +kernel

/-! ### Packets, tables -/

theorem witness_packet_end : Rdy (held 1 (so [])) w0 1 ∧ (held 1 (so [])).holdsLock 0 = false ∧
    (nxt (exec (.done w0) (held 1 (so [])))).ctx 0 = { (ent (.done w0) (held 1 (so []))).ctx 0 with st := .ending, ending := some .done } ∧
    Rdy (held 1 (so [])) w0 2 ∧
    (let s : State := { held 1 (so []) with tb := { State.reset.tb with locks := [⟨0, 9, 1, 0⟩, ⟨0, 4, 1, 0⟩] } }
     Rdy s w0 1 ∧ s.holdsLock 0 = true ∧ isNext (exec (.droppkt w0) s) (exc0 (ent (.droppkt w0) s) 12 0x704) = true) := by
  unfold Rdy Ready; decide +kernel

/-- Context 0 is in ENDING with its packet. -/
def sEnd (k : EndKind) : State :=
  let s := held 1 (so [])
  s.setCtx 0 { s.ctx 0 with st := .ending, ending := some k, reps := [⟨9, 1, 3⟩] }

theorem witness_packet_end_row : (sEnd .done).runs 0 = true ∧ (sEnd .done).quiet 0 = true ∧ ((sEnd .done).ctx 0).entry = some 5 ∧
    ((tfind ((nxt (exec (.packetEnd 0 0 0) (sEnd .done))).rank 0).entries 5).map (fun e => (e.phase, e.reps))) =
      some (.gate 0 0 0, [⟨9, 1, 3⟩]) ∧
    (nxt (exec (.packetEnd 0 0 0) (sEnd .drop))).ctr (rkA 0 0x128) = 1 ∧
    ((nxt (exec (.packetEnd 0 0 0) (sEnd .drop))).rank 0).entries = [] ∧
    tfind ((sEnd (.punt 3)).rank 0).exc 0 = none := by decide +kernel

/-- Context 5 of core 2 of rank 11 runs. -/
def s11 (os : List Word) : State :=
  (seated 11 (on [11] State.reset)).setCtx (pk 11 2 5) { Ctx.init (pk 11 2 5) with st := .run, pc := 0x100, os := os }

def w11 : Iss := ⟨.pkt 11 2 5, .always⟩

theorem witness_emit : Rdy (s11 [2, 9]) w11 1 ∧ ((s11 [2, 9]).ctx (pk 11 2 5)).reps.length < 7 ∧
    ((nxt (exec (.emit w11) (s11 [2, 9]))).ctx (pk 11 2 5)).reps = [⟨9, 2, 0⟩] ∧
    ((nxt (exec (.setlane w11) (s11 [3]))).ctx (pk 11 2 5)).setLane = some 3 ∧
    (let s := (s11 [2, 9]).setCtx (pk 11 2 5) { (s11 [2, 9]).ctx (pk 11 2 5) with reps := List.replicate 7 ⟨1, 1, 1⟩ }
     Rdy s w11 1 ∧ (nxt (exec (.emit w11) s)).ctx (pk 11 2 5) =
       { (ent (.emit w11) s).ctx (pk 11 2 5) with st := .entry, exc := some ⟨12, 0x800, 0x100, false, false⟩ }) := by unfold Rdy Ready; decide +kernel

theorem witness_skipto : Rdy (held 1 (so [193])) w0 1 ∧ isNext (exec (.skipto w0) (held 1 (so [193]))) (exc0 (ent (.skipto w0) (held 1 (so [193]))) 12 0x900) = true ∧
    ((held 0 (so [192])).mdOf 0).verdict = 0 ∧
    ((nxt (exec (.skipto w0) (held 0 (so [192])))).ctx 0).wait = .verdict none ∧
    ((held 1 (so [86])).mdOf 0).verdict = 1 ∧ skipBad ((held 1 (so [86])).mdOf 0) 86 = false ∧
    ((nxt (exec (.skipto w0) (held 1 (so [86])))).ctx 0).wait = .engine ∧
    skipBad ((held 1 (so [87])).mdOf 0) 87 = true ∧ isNext (exec (.skipto w0) (held 1 (so [87]))) (exc0 (ent (.skipto w0) (held 1 (so [87]))) 12 0x900) = true := by
  unfold Rdy Ready; decide +kernel

/-- Table 4 is an index table of 8 entries, 5 a hash table (keys of 4 bytes, 8 entries), 6 a meter, 7 a ring, 8 a window. -/
def tabs (s : State) : State :=
  tbl 4 0x100 8 (tbl 5 0x200 0x04000008 (tbl 6 0x00420100 8 (tbl 7 0x00820100 8 (tbl 8 0x500 0x40000008 s))))

theorem witness_look : (let s0 := tabs (so [0x100, 7])
     let s := s0.entered 0 2
     Ready s0 s w0 2 ∧ s.tDead 4 (s.bankFor 0 4) = false ∧ s.tCheck .look 4 = none ∧ s.badIdx 4 7 = false ∧ s.opKey 0 4 7 = (false, [], s) ∧
     s.rngErr 0 (s.ctx 0) (s.keyRng 4 7 ++ [⟨0x100, s.tW 4, 8⟩]) = none ∧
     ((nxt (exec (.look w0 4) s0)).tb.ops.map (fun o => (o.id, o.idx, o.raddr, o.fin))) = [(0, 7, 0x100, false)] ∧
     ((nxt (exec (.lookw w0 4) s0)).ctx 0).wait = .top 0) ∧
    (let s0 := tabs (so [0x108, 0x200])
     let s := s0.entered 0 2
     s.tCheck .look 5 = none ∧ s.opKey 0 5 0x200 = (false, [0, 0, 0, 0], s) ∧
     s.rngErr 0 (s.ctx 0) (s.keyRng 5 0x200 ++ [⟨0x108, s.tW 5, 8⟩]) = none) := by
  refine ⟨?_, ?_⟩ <;> (try unfold Ready) <;> decide +kernel

theorem witness_mtr : (let s0 := tabs (so [0x12345, 7])
    let s := s0.entered 0 2
    Ready s0 s w0 2 ∧ s.tDead 6 (s.bankFor 0 6) = false ∧ s.tCheck .mtr 6 = none ∧ s.badIdx 6 7 = false ∧ (s.ctx 0).seq < 16 ∧
    ((nxt (exec (.mtr w0 6) s0)).tb.ops.map (fun o => (o.kind, o.idx, o.w0))) = [(.mtr, 7, 0x2345)]) := by
  unfold Ready; decide +kernel

theorem witness_upd : (let s0 := tabs (held 1 (so [0x100, 7]))
     let s := s0.entered 0 2
     Ready s0 s w0 2 ∧ s.tCheck .upd 4 = none ∧ s.opKey 0 4 7 = (false, [], s) ∧
     s.readMem 0 0x100 (s.updLen 4) = (false, List.replicate 16 0, s) ∧
     s.rngErr 0 (s.ctx 0) (s.keyRng 4 7 ++ [⟨0x100, s.updLen 4, 8⟩]) = none ∧ (s.mdOf 0).verdict = 1 ∧
     ((nxt (exec (.upd w0 4) s0)).ctx 0).wait = .top 0) ∧
    (let s0 := tabs (held 0 (so [0x100, 7]))
     let s := s0.entered 0 2
     (s.mdOf 0).verdict = 0 ∧ ((nxt (exec (.upd w0 4) s0)).ctx 0).st = .sleep ∧ (nxt (exec (.upd w0 4) s0)).tb.ops = []) := by
  refine ⟨?_, ?_⟩ <;> (try unfold Ready) <;> decide +kernel

theorem witness_cas : (let s0 := tabs (held 1 (so [0, 3, 7]))
     let s := s0.entered 0 2
     Ready s0 s w0 2 ∧ s.tCheck .cas 8 = none ∧ s.badIdx 8 7 = false ∧ s.tKind 8 = 5 ∧ s.rngErr 0 (s.ctx 0) (s.keyRng 8 7) = none ∧
     s.tDead 8 (s.bankFor 0 8) = false ∧ s.tCheck .cas 4 = none ∧ (s.locksOf 0).length < 4 ∧
     ((nxt (exec (.cas w0 8) s0)).tb.ops.map (fun o => (o.kind, o.idx, o.w0))) = [(.cas, 7, 3)]) := by
  unfold Ready; decide +kernel

theorem witness_unlock : (let q := tabs (held 1 (so [7]))
     let s0 : State := { q with tb := { q.tb with locks := [⟨0, 4, 7, 0⟩] } }
     let s := s0.entered 0 2
     Ready s0 s w0 2 ∧ s.tCheck .unlock 4 = none ∧ s.badIdx 4 7 = false ∧ s.unlockIdx 4 (s.bankFor 0 4) 7 [] = some 7 ∧
     (s.ctx 0).broken.contains (4, 7) = false ∧ (s.locksOf 0).any (fun l => l.table = 4 && l.idx = 7) = true ∧
     s.tDead 4 (s.bankFor 0 4) = false ∧
     ((nxt (exec (.unlock w0 4) s0)).tb.ops.map (fun o => (o.kind, o.idx))) = [(.unlock, 7)]) := by
  unfold Ready; decide +kernel

theorem witness_deferred : (let s0 := tabs (held 0 (so [1, 2, 7]))
     let s := s0.entered 0 2
     Ready s0 s w0 2 ∧ s.tCheck .cnt 4 = none ∧ s.badIdx 4 7 = false ∧
     (s.ctx 0).seq = 0 ∧
     isNext (exec (.cnt w0 4) (s0.setCtx 0 { s0.ctx 0 with seq := 16 })) (exc0 (ent (.cnt w0 4) (s0.setCtx 0 { s0.ctx 0 with seq := 16 })) 12 0x404) = true) ∧
    (let s0 := tabs (held 0 (so [9, 0x200]))
     let s := s0.entered 0 2
     s.tCheck .lrn 5 = none ∧ s.rngErr 0 (s.ctx 0) (s.keyRng 5 0x200) = none ∧ s.opKey 0 5 0x200 = (false, [0, 0, 0, 0], s)) ∧
    (let s0 := tabs (held 0 (so [0x200]))
     let s := s0.entered 0 2
     s.tCheck .log 7 = none ∧ s.rngErr 0 (s.ctx 0) [⟨0x200, 20, 4⟩] = none ∧ s.readMem 0 0x200 20 = (false, List.replicate 20 0, s)) := by
  refine ⟨?_, ?_, ?_⟩ <;> (try unfold Ready) <;> decide +kernel

/-- Context 0 sleeps for operation 3, which has ended with `o`'s result. -/
def sSleep (kd : TKind) (res : Word) (ue : Bool) : State :=
  let s := held 1 (so [0x100, 7, 5])
  let o := { TOp.new 0 kd 4 false with id := 3, fin := true, res := res, out := [1, 2, 3], raddr := 0x100, ue := ue }
  { s.setCtx 0 { s.ctx 0 with st := .sleep, wait := .top 3, wlen := 2 } with tb := { s.tb with ops := [o] } }

/-- Where the link to the ledger has room the entry leaves, and where it has none the context sleeps. -/
theorem witness_deferred_room (s : State) (h : s = (tabs (held 0 (so [1, 2, 7]))).entered 0 2) :
    s.ledgerFull 0 = (decide (Config.ledLink ≠ 0) && decide (Config.ledLink ≤ 0)) ∧ s.ledgerFull 0 = false := by
  subst h
  have e : (((tabs (held 0 (so [1, 2, 7]))).entered 0 2).ledgerFull 0) =
      (decide (Config.ledLink ≠ 0) && decide (Config.ledLink ≤ 0)) := by rfl
  exact ⟨e, by rw [e]; cases Config.ledLink <;> simp⟩

theorem witness_results : ((sSleep .look 1 false).doneOp 0).map (fun o => o.res) = some 1 ∧
    ((nxt (exec (.lookupResult (.pkt 0 0 0)) (sSleep .look 1 false))).ctx 0).os = [1, 5] ∧
    (nxt (exec (.lookupResult (.pkt 0 0 0)) (sSleep .look 1 false))).spR 0 0x100 3 = [1, 2, 3] ∧
    ((nxt (exec (.lookupResult (.pkt 0 0 0)) (sSleep .lookw 0 false))).ctx 0).os = [0, 5] ∧
    ((nxt (exec (.lookupResult (.pkt 0 0 0)) (sSleep .look 0 true))).ctx 0).st = .ending ∧
    ((nxt (exec (.lookupResult (.pkt 0 0 0)) (sSleep .mtr 0 true))).ctx 0).ending = some (.punt 0x83) ∧
    ((sSleep .mtr 2 false).doneOp 0).map (fun o => (o.kind, o.ue)) = some (.mtr, false) ∧
    ((nxt (exec (.tableAck (.pkt 0 0 0)) (sSleep .upd 1 false))).ctx 0).os = [1, 5] ∧
    ((nxt (exec (.tableAck (.pkt 0 0 0)) (sSleep .cas 1 false))).ctx 0).os = [1] ∧
    ((nxt (exec (.tableAck (.pkt 0 0 0)) (sSleep .unlock 0 false))).ctx 0).os = [7, 5] := by decide +kernel

/-! ### System instructions, exceptions -/

theorem witness_system : Rdy (so [5]) w0 1 ∧ Rdy (so [5]) w0 2 ∧ isNext (exec (.wait w0) (so [0x1000])) (done0 (ent (.wait w0) (so [0x1000])) [] 0x101) = true ∧
    ((nxt (exec (.wait w0) (so [0xFFF]))).ctx 0).wait = .timer 8190 false ∧
    isNext (exec (.yield w0) (so [5])) (done0 (ent (.yield w0) (so [5])) [5] 0x101) = true ∧ (so [5]).opsOut 0 = [] ∧
    isNext (exec (.time w0) (so [5])) (done0 (ent (.time w0) (so [5])) [0, 5] 0x101) = true ∧
    ((nxt (exec (.dice w0) (so []))).ctx 0).os = [0x42021] ∧
    bit ((so [5]).dreg ((so [5]).dbgBase 0)) 28 = false ∧
    ((nxt (exec (.brk w0) (so [5]))).ctx 0).exc = some ⟨15, 0x100, 0x101, false, false⟩ ∧
    isNext (exec (.rte w0) (so [5])) (exc0 (ent (.rte w0) (so [5])) 2 0x100) = true ∧
    ((nxt (exec (.rte w0) (st (fun c => { c with elev := 1 })))).ctx 0).st = .ret ∧
    ((nxt (exec (.sys w0 9) (so [5]))).ctx 0).exc = some ⟨14, 9, 0x102, false, false⟩ := by unfold Rdy Ready; decide +kernel

theorem witness_fence : (let s := sBuf
    (s.opsOut 0).all (fun o => decide (o.kind ≠ .upd) && decide (o.kind ≠ .cas) && decide (o.kind ≠ .unlock)) = true ∧ Rdy s w0 1 ∧
    (nxt (exec (.fence w0) s)).spR 0 4 4 = [0xDD, 0xCC, 0xBB, 0xAA] ∧ ((nxt (exec (.fence w0) s)).core 0).sbuf = []) := by
  unfold Rdy Ready; decide +kernel

theorem witness_special : Rdy (so [5]) w0 2 ∧ isNext (exec (.mfs w0 13) (so [5])) (done0 (ent (.mfs w0 13) (so [5])) [0x38000, 5] 0x102) = true ∧
    isNext (exec (.mfs w0 15) (so [5])) (exc0 (ent (.mfs w0 15) (so [5])) 2 0x100) = true ∧ isNext (exec (.mts w0 5) (so [5])) (exc0 (ent (.mts w0 5) (so [5])) 2 0x100) = true ∧
    isNext (exec (.mts w0 0) (so [5])) (exc0 (ent (.mts w0 0) (so [5])) 2 0x100) = true ∧
    isNext (exec (.mts w0 2) (so [5])) (retire (ent (.mts w0 2) (so [5])) 0 { (ent (.mts w0 2) (so [5])).ctx 0 with os := [], a := 5 } 0x102) = true ∧
    (let s := st (fun c => { c with elev := 2, os := [0] })
     Rdy s w0 2 ∧ isNext (exec (.mts w0 15) s) (retire (ent (.mts w0 15) s) 0 { (ent (.mts w0 15) s).ctx 0 with os := [] } 0x102) = true ∧
     isNext (exec (.mfs w0 15) s) (retire (ent (.mfs w0 15) s) 0 { (ent (.mfs w0 15) s).ctx 0 with os := [1, 0] } 0x102) = true) := by unfold Rdy Ready; decide +kernel

theorem witness_exception : (let x : Exc := ⟨6, 0, 0x100, false, false⟩
    ((so []).raise 0 x).ctx 0 = { (so []).ctx 0 with st := .entry, exc := some x } ∧
    (((st (fun c => { c with elev := 1 })).raise 0 x).ctx 0).stop = some ⟨2, 6, 0, 0x100, 0⟩ ∧
    (((st (fun c => { c with elev := 2 })).raise 0 { x with vec := 5 }).core 0).stopq = [0]) := by decide +kernel

/-- Context 0 is in ENTRY with exception 14, its memory stack at `m`. -/
def sEntry (m : Word) : State := st (fun c => { c with st := .entry, exc := some ⟨14, 9, 0x102, false, false⟩, msp := m, os := [1, 2], wlen := 2 })

theorem witness_entry : (sEntry 0x30800).runs 0 = true ∧ (0x30800 : Word).toNat % 64 = 0 ∧
    (sEntry 0x30800).microClean 0 = true ∧ (sEntry 0x30800).portBad 0 0x30780 64 = none ∧
    (let s := (sEntry 0x30800).setReg (spOwn 0 0) 1
     s.portBad 0 0x30780 64 = some 0x30780 ∧ ((nxt (exec (.exceptionEntry (.pkt 0 0 0)) s)).ctx 0).stop = some ⟨1, 5, 0x30780, 0x100, 0⟩) ∧
    (nxt (exec (.exceptionEntry (.pkt 0 0 0)) (sEntry 0x30800))).spR 0 0x30780 4 = [2, 1, 0, 0] ∧
    (let c := (nxt (exec (.exceptionEntry (.pkt 0 0 0)) (sEntry 0x30080))).ctx 0
     c.msp = 0x30000 ∧ c.elev = 1 ∧ c.cause = 14 ∧ c.faultaddr = 9 ∧ c.pc = 0xFFFF ∧ c.h1.ofloor = 2) ∧
    ((nxt (exec (.exceptionEntry (.pkt 0 0 0)) (sEntry 0x30040))).ctx 0).stop = some ⟨1, 14, 9, 0x100, 0⟩ := by decide +kernel

/-- Context 0 is in RETURN at ELEV 1 with the memory stack at `m`, above it the frame of `sEntry`. -/
def sRet (m : Word) (csw : Byte) : State :=
  let s := st (fun c => { c with st := .ret, elev := 1, msp := m, os := [9, 1, 2], h1 := ⟨false, 2, 0⟩ })
  { s with sp := mwrite 0 [] 0x30780 [0x02, 1, 0, 0, csw, 0, 0, 0, 0x55, 0, 0, 0] }

theorem witness_exception_return : (sRet 0x30780 0).levelQuiet 0 1 = true ∧ popOk 0 0x30780 = true ∧
    (sRet 0x30780 0).portBad 0 0x30780 64 = none ∧ (sRet 0x30780 0).microClean 0 = true ∧
    frameOk 0 ((sRet 0x30780 0).ctx 0) (bytesWords ((sRet 0x30780 0).seen 0 0x30780 64)) false = true ∧
    (let c := (nxt (exec (.exceptionReturn (.pkt 0 0 0)) (sRet 0x30780 0))).ctx 0
     c.pc = 0x102 ∧ c.os = [1, 2] ∧ c.elev = 0 ∧ c.pred = 0x55 ∧ c.msp = 0x30800) ∧
    frameOk 0 ((sRet 0x30780 1).ctx 0) (bytesWords ((sRet 0x30780 1).seen 0 0x30780 64)) false = false ∧
    ((nxt (exec (.exceptionReturn (.pkt 0 0 0)) (sRet 0x30780 1))).ctx 0).stop = some ⟨4, 18, 0, 0x100, 0⟩ ∧ popOk 0 0x307C0 = false ∧
    ((nxt (exec (.exceptionReturn (.pkt 0 0 0)) (sRet 0x307C0 0))).ctx 0).stop = some ⟨5, 18, 0, 0x100, 0⟩ := by decide +kernel

theorem witness_turn_cap : (let s := st (fun c => { c with turn := 1 })
     s.capOf 0 (s.mdOf 0) = 0 ∧ (s.core 0).halted = false ∧ s.runs 0 = true ∧
     ((nxt (exec (.turnCapExpiry 0 0 0) s)).ctx 0).exc = some ⟨11, 1, 0x100, false, false⟩ ∧
     isNext (exec (.turnCapExpiry 0 0 0) (s.setCtx 0 { s.ctx 0 with v11done := true })) (s.setCtx 0 { s.ctx 0 with v11done := true }) = true) ∧
    (let s := st (fun c => { c with turn := 128 })
     ((nxt (exec (.turnHardLimit 0 0 0) s)).ctx 0).stop = some ⟨6, 11, 1, 0x100, 128⟩) := by decide +kernel

/-- Context 0 is STOPPED and first in its core's queue; the vector table holds a fault program at 0x500. -/
def sStop : State :=
  let s := held 1 (so [])
  { (s.setCtx 0 { s.ctx 0 with st := .stopped, stop := some ⟨3, 5, 0x77, 0x100, 0⟩, wlen := 2 }).setCore 0 { Core.init with stopq := [0] }
    with code := mwrite 0xFF [] 62 [0, 5] }

theorem witness_fault_context : (sStop.core 0).svc = none ∧ sStop.vectorOf 0 31 = 0x500 ∧ sStop.opsOut 0 = [] ∧ sStop.microClean 0 = true ∧
    (let t := nxt (exec (.faultContextService 0 0) sStop)
     (t.core 0).svc = some 0 ∧ (t.ctx 8).pc = 0x500 ∧ (t.ctx 8).faultaddr = 0x77 ∧
     (let u := t.setCtx 8 { t.ctx 8 with fcycles := 256 }
      (u.ctx 8).st = .run ∧ ((nxt (exec (.faultProgramLimit 0 0) u)).ctx 8).st = .free ∧
      isNext (exec (.faultProgramLimit 0 0) t) t = true)) := by decide +kernel

/-! ### Byte engine, helpers and guest port -/

/-- Context 0 sleeps for the byte engine, whose only operation is `b`. -/
def sEng (b : BeOp) : State :=
  let s := held 1 (so [3, 2, 1, 7])
  (s.setCtx 0 { s.ctx 0 with st := .sleep, wait := .engine, wlen := 2 }).setCore 0 { Core.init with beq := [b] }

theorem witness_byte_engine_join : (let s := so [8, 0x20, 0x10, 7]
    Rdy s w0 2 ∧ s.lenBad 0 (s.ctx 0) 0x10 0x20 = none ∧ s.lenBad 0 (s.ctx 0) 0x10 8 = none ∧ s.lenBad 0 (s.ctx 0) 0x20 8 = none ∧
    ((nxt (exec (.movb w0) s)).core 0).beq = [⟨0, 1, 0x10, 0x20, 8⟩] ∧ ((nxt (exec (.movb w0) s)).ctx 0).wait = .engine) ∧
    (let s := so [8, 2, 0x2FFFF, 7]
     s.lenBad 0 (s.ctx 0) 0x2FFFF 2 = some 0x30000 ∧ isNext (exec (.fillb w0) s) (exc0 (ent (.fillb w0) s) 5 0x30000) = true) := by
  refine ⟨?_, ?_⟩ <;> (try unfold Rdy Ready) <;> decide +kernel

theorem witness_byte_engine : (let s := { sEng ⟨0, 0, 0, 3, 0xFFFF⟩ with sp := mwrite 0 [] 0 [1, 2, 3] }
     s.runs 0 = true ∧ (s.core 0).bgt = none ∧ s.spErr = [] ∧ ((nxt (exec (.byteEngineComplete 0 0) s)).ctx 0).os = [0x0402, 7]) ∧
    (let t := nxt (exec (.byteEngineComplete 0 0) (sEng ⟨0, 2, 0x2FFFE, 2, 0x1AB⟩))
     t.spR 0 0x2FFFD 4 = [0, 0xAB, 0xAB, 0] ∧ (t.ctx 0).os = [7]) ∧
    (let s := { sEng ⟨0, 1, 0, 1, 3⟩ with sp := mwrite 0 [] 0 [1, 2, 3] }
     (nxt (exec (.byteEngineComplete 0 0) s)).spR 0 0 5 = [1, 1, 2, 3, 0]) ∧
    (let s := { sEng ⟨0, 3, 0, 8, 4⟩ with sp := mwrite 0 [] 0 [1, 2, 3, 4, 0, 0, 0, 0, 1, 2, 3, 5] }
     ((nxt (exec (.byteEngineComplete 0 0) s)).ctx 0).os = [4, 7]) ∧
    (let t := nxt (exec (.byteEngineComplete 0 0) (sEng ⟨0, 4, 14, 0, 0⟩))
     (t.mdOf 0).len = 86 ∧ (t.ctx 0).os = [2, 1, 7]) := by refine ⟨?_, ?_, ?_, ?_, ?_⟩ <;> decide +kernel

/-- A command of slot `sl` with its state. -/
def cmd (sl need : Nat) (c : Byte) (a b : Word) (puts rdy : List Word) (fin : Bool) : HCmd :=
  { slot := sl, c := c, a := a, b := b, need := need, puts := puts, ep := 0, lvl := 0, spec := false, committed := false, accepted := false,
    killed := false, res := [], cnt := 0, last := false, err := none, rdy := rdy, fin := fin,
    inp := some [], sq := false, tag := 0 }

/-- Context 0 with operands `os` and the commands `hs`; it owns slot 2, and slot 3 has no owner. -/
def sh (os : List Word) (hs : List HCmd) : State :=
  (st (fun c => { c with os := os, hs := hs })).setCore 0 { Core.init with own2 := some 0 }

theorem witness_helper_commands : (let s := sh [5, 4, 9] []
     Rdy s w0 2 ∧ (s.core 0).own 2 = some 0 ∧ s.cmdCode 0 2 1 = none ∧ s.cmdCode 0 1 0x11 = none ∧ (s.ctx 0).nextEp = some 0 ∧
     ((nxt (exec (.hcmd w0 2 1) s)).rank 0).sealQ = [⟨0, 0⟩] ∧
     ((nxt (exec (.hcmd w0 1 0x11) s)).ctx 0).hs = [{ cmd 1 1 0x11 4 5 [] [] false with inp := some (List.replicate 5 0) }] ∧
     (s.core 0).own 3 ≠ some 0 ∧ isNext (exec (.hcmd w0 3 1) s) (exc0 (ent (.hcmd w0 3 1) s) 17 3) = true) ∧
    (let s := sh [5, 4, 9] [cmd 1 1 0x11 4 5 [] [] false]
     Rdy s w0 1 ∧ ((nxt (exec (.hput w0 1) s)).ctx 0).hs = [cmd 1 1 0x11 4 5 [5] [] false] ∧
     ((nxt (exec (.hput w0 1) s)).core 0).h1 = [⟨0, 0⟩]) ∧
    (let s := sh [9] [cmd 1 0 0 4 5 [] [6, 8] true]
     ((nxt (exec (.hget w0 1) s)).ctx 0).hs = [cmd 1 0 0 4 5 [] [8] true]) ∧
    (let s := sh [9] [cmd 1 0 0 4 5 [] [6] true]
     isNext (exec (.hget w0 1) s) (retire (ent (.hget w0 1) s) 0 { (ent (.hget w0 1) s).ctx 0 with os := [6, 9], hs := [] } 0x101) = true) ∧
    (let s := sh [9] [cmd 1 0 0 4 5 [] [] false]
     ((nxt (exec (.hget w0 1) s)).ctx 0).wait = .again true ∧ ((nxt (exec (.hwait w0 1) s)).ctx 0).wait = .again false ∧
     isNext (exec (.hsync w0 0) s) (retire (ent (.hsync w0 0) s) 0 ((ent (.hsync w0 0) s).ctx 0) 0x101) = true) := by
  refine ⟨?_, ?_, ?_, ?_, ?_⟩ <;> (try unfold Rdy Ready) <;> decide +kernel

theorem witness_helper_state : (let s := sh [5, 4, 9] []
     isNext (exec (.hcap w0 0) s) (retire (ent (.hcap w0 0) s) 0 { (ent (.hcap w0 0) s).ctx 0 with os := [0x80010000, 5, 4, 9] } 0x101) = true ∧
     (s.ctx 0).elev = 0 ∧ isNext (exec (.hsave w0 2) s) (exc0 (ent (.hsave w0 2) s) 2 0x100) = true ∧ isNext (exec (.hrest w0 2) s) (exc0 (ent (.hrest w0 2) s) 2 0x100) = true) ∧
    (let s := (st (fun c => { c with os := [0x34100, 9], elev := 1 })).setCore 0 Core.init
     Rdy s w0 1 ∧ s.saveErr 0 3 (s.ctx 0) 0x34100 = none ∧ s.saveErr 0 0 (s.ctx 0) 0x34100 = none ∧
     isNext (exec (.hsave w0 0) s) (retire (ent (.hsave w0 0) s) 0 { (ent (.hsave w0 0) s).ctx 0 with os := [9] } 0x101) = true ∧
     ((nxt (exec (.hsave w0 3) s)).core 0).res3 = some 0 ∧ ((nxt (exec (.hrest w0 3) s)).core 0).own3 = some 0) := by
  refine ⟨?_, ?_⟩ <;> (try unfold Rdy Ready) <;> decide +kernel

theorem witness_hash : (let h := { cmd 1 1 0x10 0x10 9 [0] [] false with inp := some [0x31, 0x32, 0x33, 0x34, 0x35, 0x36, 0x37, 0x38, 0x39] }
     let s := (sh [] [h]).setCore 0 { Core.init with h1 := [⟨0, 0⟩] }
     s.runs 0 = true ∧ (s.cmdOf ⟨0, 0⟩ 1).isSome = true ∧ s.mayRange 0 (s.ctx 0) 0x10 9 = true ∧
     ((nxt (exec (.hashCrc32 0 0) s)).ctx 0).hs.map (fun h => (h.res, h.last)) = [([0xCBF43926], true)]) ∧
    (let s := (sh [] [cmd 1 0 0 0 2049 [] [] false]).setCore 0 { Core.init with h1 := [⟨0, 0⟩] }
     ((nxt (exec (.hashCrc32 0 0) s)).ctx 0).hs.map (fun h => (h.res, h.err)) = [([0], some 7)]) ∧
    (let s := (sh [] [{ cmd 1 0 0 0x2FFFF 2 [] [] false with inp := none }]).setCore 0 { Core.init with h1 := [⟨0, 0⟩] }
     s.mayRange 0 (s.ctx 0) 0x2FFFF 2 = false ∧
     ((nxt (exec (.hashSiphash 0 0) s)).ctx 0).hs.map (fun h => (h.res, h.err)) = [([], none)] ∧
     ((nxt (exec (.hashCrc32 0 0) s)).ctx 0).hs.map (fun h => (h.res, h.err)) = [([0], some 2)]) := by
  refine ⟨?_, ?_, ?_⟩ <;> decide +kernel

theorem witness_parse_seal : (let s := (sh [] [cmd 0 0 1 0x40 3 [] [] false]).setCore 0 { Core.init with h0 := [⟨0, 0⟩] }
     (s.cmdOf ⟨0, 0⟩ 0).isSome = true ∧ ((nxt (exec (.parse 0 0) s)).ctx 0).hs.map (fun h => (h.res, h.err)) = [([0], some 7)]) ∧
    (let s := (sh [] [{ cmd 0 0 1 0 3 [] [] false with inp := some (List.replicate 256 0) }]).setCore 0 { Core.init with h0 := [⟨0, 0⟩] }
     ((nxt (exec (.parse 0 0) s)).ctx 0).hs.map (fun h => h.res.length) = [3]) ∧
    (let s := sh [] [cmd 2 0 1 0 0 [] [] false]
     let s := s.setRank 0 { s.rank 0 with sealQ := [⟨0, 0⟩] }
     (s.cmdOf ⟨0, 0⟩ 2).isSome = true ∧ ((nxt (exec (.sealStart 0) s)).ctx 0).hs.map (fun h => (h.res, h.err)) = [([0], some 5)]) ∧
    (let s := sh [] [{ cmd 1 0 0 0 0 [] [] false with res := [7], last := true }]
     ((nxt (exec (.helperResult 0 0 0 1) s)).ctx 0).hs.map (fun h => (h.rdy, h.fin)) = [([7], true)]) ∧
    (let s := sh [] [{ cmd 1 0 0 0 0 [] [] false with killed := true }]
     ((nxt (exec (.killReport 0 0 0 1) s)).ctx 0).hs = []) := by refine ⟨?_, ?_, ?_, ?_, ?_⟩ <;> decide +kernel

/-- Steward 0 runs, so that its writes reach the registers. -/
def via (s : State) : State :=
  (s.setDom dStw { PDom.init with st := .on }).setStw 0 { Stw.init with started := true, nx := 0xFFFFFFFFFFFFFFFF }

theorem witness_seal_key : MayWrite (via (so [])) (.stw 0) (rkA 0 0x2050) ∧
    ((nxt (exec (.sealKeyLoad (.stw 0) 0 1023 true) (via (so [])))).rank 0).sealKeys = [(1023, ⟨List.replicate 32 0, true, true, 1⟩)] := by
  refine ⟨⟨by unfold Reaches; decide +kernel, trivial⟩, by decide +kernel⟩

theorem witness_guest : (let s := sh [] [{ cmd 3 0 0 0 0 [] [] false with accepted := true }]
     let s := s.setRank 0 { s.rank 0 with gq := [.cmd 0 0 0], gcmt := [⟨0, 0⟩], gkill := [⟨0, 1⟩], entries := [(5, ⟨⟨[], md 1⟩, md 1, .queued, 3, 0, false, [], 256⟩)] }
     let s := { s with pins := { s.pins with gstPg := true } }
     s.seatCore 0 0 = some 0 ∧ ((nxt (exec (.guestIssue 0) s)).rank 0).gq = [] ∧ ((nxt (exec (.guestKillNotice 0) s)).rank 0).gkill = [] ∧
     ((nxt (exec (.guestCommitNotice 0) s)).rank 0).gcmt = [] ∧
     ((nxt (exec (.guestResult 0 0 0 0 0x77 true true 0x05) s)).ctx 0).hs.map (fun h => (h.res, h.err)) = [([0x77], some 0xEF)] ∧
     ((nxt (exec (.guestMirrorSave 0 0 15 9) s)).rank 0).mirror = [(0, List.replicate 15 0 ++ [9])] ∧
     (let t := nxt (exec (.guestLateError 0 5 0x22) s)
      (t.log (rkA 0 0x2090)).ents = [0xA0220005] ∧ ((tfind (t.rank 0).entries 5).map (fun e => e.md.taint)) = some true) ∧
     (nxt (exec (.gstPgChange false) s)).pins.gstPg = false ∧
     isNext (exec (.guestMirrorSave 0 0 15 9) { s with pins := { s.pins with gstPg := false } }) { s with pins := { s.pins with gstPg := false } } = true) := by decide +kernel

/-- The packet of entry 5 is queued in rank 0. -/
def sQ : State :=
  let s := seated 0 (on [0] State.reset)
  s.setRank 0 { s.rank 0 with entries := [(5, ⟨⟨[1, 2], md 1⟩, md 1, .queued, 3, 0, false, [], 256⟩)] }

theorem witness_context_life : sQ.led.ent = [] ∧ sQ.keySeq 0 (sQ.mdOf 0) = 0 ∧ sQ.wouldSelect 0 = some (.entry 5, 0, 0) ∧ (sQ.rank 0).staged 0 < 2 ∧ sQ.eligOf 0 0 = List.range 8 ∧
    (let t := nxt (exec (.dispatchSelect 0) sQ)
     (t.ctx 0).st = .loading ∧ t.spR 0 0x38000 3 = [1, 2, 0] ∧ t.ctr (rkA 0 0x100) = 1 ∧
     (∀ b, b < 8 → t.bankOwner 0 (slotA 0 0 + 8 * b) = 0) ∧
     ((nxt (exec (.contextStart 0 0 0) t)).ctx 0).a = 0x38000 ∧
     ((nxt (exec (.headSlotWritten 0 0 0 0) t)).rank 0).staged 0 = 0) ∧
    (let s := st (fun c => { c with st := .sleep, wait := .timer 0 false, wlen := 1, os := [4, 5] })
     ((nxt (exec (.waitExpiry (.pkt 0 0 0)) s)).ctx 0).os = [5]) ∧
    (let s := st (fun c => { c with wait := .lazy 2, lazy := true, msp := 0x30780 })
     ((nxt (exec (.lazySave 0 0 0) s)).ctx 0).lazy = false) := by refine ⟨?_, ?_, ?_, ?_, ?_, ?_, ?_, ?_⟩ <;> decide +kernel

/-! ### Links, order gate, reinjection -/

/-- Rank 0 runs with the items of its input link. -/
def sl (items : List LinkItem) : State := { sQ with links := [(0, items)] }

theorem witness_links : (let s := sl [.pkt ⟨[9], md 0⟩ [] true]
     s.linkRuns 0 = true ∧ s.bypassWaits 0 = false ∧ s.ing.vmsgs = [] ∧ 2 ≤ s.freeReplay 0 ∧
     (nxt (exec (.hopTransfer .ing) s)).link 0 = []) ∧
    (let s : State := { on [dOut] State.reset with links := [(13, [.pkt ⟨[9], md 1⟩ [] true])], chSt := [(0, 2)] }
     s.linkRuns 13 = true ∧ s.chan (md 1).egCh.toNat = 2 ∧ (nxt (exec (.hopTransfer .eg) s)).eg.frames.map (fun f => f.head) = [[9]]) ∧
    (let s := sl [.skip 3 9]
     pipBefore 9 ((s.rank 0).nextOf 3) = false ∧ (s.rank 0).storeFill < 256 ∧
     ((nxt (exec (.skipToken .ing) s)).rank 0).marks.map (fun m => (m.lane, m.pip)) = [(3, 9)]) ∧
    (let s := { (sQ.setRank 0 { sQ.rank 0 with entries := [(5, ⟨⟨[1, 2], md 0⟩, md 0, .queued, 3, 0, false, [], 256⟩)] })
                  with links := [(0, [.verdict 3 7 1 80])] }
     (((s.rank 0).find 3 7).map (fun p => p.1)) = some 5 ∧
     ((tfind ((nxt (exec (.verdictToken .ing) s)).rank 0).entries 5).map (fun e => (e.md.verdict, e.md.len))) = some (1, 80)) := by
  refine ⟨?_, ?_, ?_, ?_⟩ <;> decide +kernel

/-- A packet at the gate of rank 0, NEXT of lane 3 at pip 7. -/
def sGate : State :=
  sQ.setRank 0 { sQ.rank 0 with entries := [(5, ⟨⟨[1, 2], md 1⟩, md 1, .gate 0 0 0, 3, 0, false, [], 256⟩)], next := [(3, 7)] }

theorem witness_gate : sGate.gateNext 0 = some ⟨false, 0, false, 5⟩ ∧
    ((tfind (sGate.rank 0).entries 5).map (fun e => gatePunt 0 (sGate.entryPkt 0 e))) = some none ∧
    (let t := nxt (exec (.gateRelease 0) sGate)
     (t.link 1).length = 1 ∧ (t.rank 0).nextOf 3 = 8 ∧ (t.rank 0).out = [.release 3 7 0 1] ∧ (t.rank 0).entries = []) ∧
    (let s := sQ.setRank 0 { sQ.rank 0 with marks := [⟨3, 7, 4, none, false, 0, 0⟩], next := [(3, 7)] }
     s.gateNext 0 = some ⟨false, 4, true, 4⟩ ∧
     (let t := nxt (exec (.gatePassMark 0) s)
      t.link 1 = [.skip 3 7] ∧ (t.rank 0).nextOf 3 = 8 ∧ (t.rank 0).marks = [])) := by
  refine ⟨?_, ?_, ?_, ?_⟩ <;> decide +kernel

/-- Entry 2 of rank 0's exception queue is held, its chain at frame 6. -/
def sExc : State :=
  let s := via sQ
  s.setRank 0 { s.rank 0 with exc := [(2, ⟨{ md 1 with tail := 6, len := 300 }, true, 0⟩)] }

theorem witness_reinject : MayWrite sExc (.stw 0) (rkA 0 0x18) ∧ sExc.isHeld 0 2 = true ∧ sExc.reinjReason 0 2 0 true = 0 ∧
    sExc.reinjReason 0 3 0 true = 1 ∧ sExc.isHeld 0 3 = false ∧ sExc.reinjReason 0 2 12 true = 4 ∧
    (let t := nxt (exec (.rankReinjReinject (.stw 0) 0 2 0) sExc)
     (t.rank 0).reinjQ = [(0, 2)] ∧ t.reg (rkA 0 0x1C) = 0x00010002) ∧
    (nxt (exec (.rankReinjReinject (.stw 0) 0 3 0) sExc)).reg (rkA 0 0x1C) = 0x03010003 ∧
    (let t := nxt (exec (.rankReinjDrop (.stw 0) 0 2) sExc)
     (t.rank 0).exc = [] ∧ t.buf.freeq.map (fun i => i.h) = [6]) := by
  refine ⟨⟨by unfold Reaches; decide +kernel, trivial⟩, ?_⟩; decide +kernel

/-! ### Verdicts and the ledger -/

theorem witness_verdict_messages : (let s := { on [dIn] State.reset with ing := { State.reset.ing with vq := [⟨3, 7, 1, 80⟩] } }
     s.runs dIn = true ∧ s.tailOpen 3 7 = false ∧ s.link 0 = [] ∧
     (nxt (exec (.verdictMessage 3 7) s)).ing.vmsgs = [⟨3, 7, 1, 80, List.range 12, true, List.range 12, true⟩]) ∧
    (let s0 := held 0 (so [])
     let s := { (on [dOut] s0) with ing := { s0.ing with vmsgs := [⟨3, 7, 1, 80, [0], true, [4], true⟩] } }
     s.runs 0 = true ∧ s.runs dOut = true ∧
     (let t := nxt (exec (.verdictArrive (.rank 0) 3 7) s)
      t.ing.vmsgs.map (fun m => m.ranks) = [[]] ∧ (t.rank 0).out = [.vmark 3 7] ∧ (t.mdOf 0).verdict = 1) ∧
     isNext (exec (.verdictArrive (.rank 1) 3 7) s) s = true ∧
     (nxt (exec (.verdictArrive .egress 3 7) s)).ing.vmsgs.map (fun m => m.eg) = [false] ∧
     (nxt (exec (.verdictArrive (.excq 4) 3 7) s)).ing.vmsgs.map (fun m => m.excq) = [[]]) := by
  refine ⟨?_, ?_⟩ <;> decide +kernel

/-- A ledger entry of frame (3, 7) from rank 0 on table 4. -/
def le (vgood rel : Bool) (seq : Nat) : LEntry := ⟨3, 7, 0, 0, true, vgood, rel, 0, 4, 0, seq, [0, 0, 0, 0, 0, 0, 0, 0], false⟩

/-- The ledger holds `ent`; rank 0's link carries `ms`. -/
def sLed (ent : List (Nat × LEntry)) (ms : List LMsg) : State :=
  let s := on [0, dTblN, dTblS] State.reset
  { s.setRank 0 { RankSt.init with out := ms } with led := { s.led with ent := ent } }

theorem witness_ledger : (let s := sLed [] [.vmark 3 9, .entry (le false false 0)]
     s.ledOn = true ∧ s.front 0 = some (.entry (le false false 0)) ∧
     (nxt (exec (.ledgerEntry 0 16383) s)).led.ent = [(16383, le false false 0)]) ∧
    (let s := fun m => sLed [(0, le false false 0), (1, { le false false 1 with attempt := 2 })] [m]
     (nxt (exec (.ledgerRelease 0) (s (.release 3 7 0 1)))).led.ent = [(0, le true true 0), (1, { le false false 1 with attempt := 2 })] ∧
     (nxt (exec (.ledgerRelease 0) (s (.release 3 7 0 2)))).led.ent = [(1, { le false false 1 with attempt := 2 })] ∧
     (nxt (exec (.ledgerDiscard 0) (s (.discard 3 7 2)))).led.ent = [(0, le false false 0)] ∧
     (nxt (exec (.ledgerForfeit 0) (s (.forfeit 3 7)))).led.ent = []) := by refine ⟨?_, ?_⟩ <;> decide +kernel

theorem witness_ledger_verdict : (let s0 := sLed [(0, le false false 0), (1, { le true false 1 with pip := 8 })] [.vmark 3 7]
     let s := fun (v : BitVec 2) => { s0 with ing := { s0.ing with vmsgs := [⟨3, 7, v, 80, [], false, [], true⟩] } }
     ((s 1).ledMsg.map (fun m => m.v)) = some 1 ∧
     (nxt (exec .ledgerVerdict (s 1))).led.ent = [(0, le true false 0), (1, { le true false 1 with pip := 8 })] ∧
     (nxt (exec .ledgerVerdict (s 2))).led.ent = [(1, { le true false 1 with pip := 8 })]) ∧
    (let s0 := sLed [(0, le false false 0), (1, { le true false 1 with pip := 8 })] []
     let s := { s0 with ing := { s0.ing with flush := [⟨0, 0, 0, 0, [], false, [], true⟩] } }
     s.ing.vmsgs = [] ∧ s.ing.flush.any (fun m => m.ledger) = true ∧
     (nxt (exec .ledgerFlush s)).led.ent = [(1, { le true false 1 with pip := 8 })]) ∧
    (let s := sLed [(0, le true true 0), (1, le true true 1), (2, { le false true 2 with pip := 8 })] []
     s.notFirst (le true true 1) = true ∧ (le false true 2).due = false ∧ isNext (exec (.ledgerCommit 1) s) s = true ∧
     s.notFirst (le true true 0) = false ∧ s.tDead 4 (s.bankOf 4 0) = false ∧ tfind s.ledErr 0 = none ∧
     tfind (nxt (exec (.ledgerCommit 0) s)).led.ent 0 = none) ∧
    (let s := tabs (sLed [(0, le true true 0)] [])
     s.tDead 4 (s.bankOf 4 0) = false ∧ s.winsAll 14 (s.commitTiles (le true true 0)) = true ∧
     s.seqBusy 4 (s.bankOf 4 0) = false ∧ (nxt (exec (.ledgerCommit 0) s)).led.ent = []) := by
  refine ⟨?_, ?_, ?_, ?_⟩ <;> decide +kernel

/-! ### Ingress, egress, channels, the buffer port -/

/-- Every rank and ingress run, the block is RUNNING and channel 9 is ATTACHED. -/
def sIn : State :=
  { forEach (List.range 12) (on (List.range 12 ++ [dIn, dOut]) State.reset) seated with blk := 2, chSt := [(9, 2)] }

/-- A segment of channel 9. -/
def sg (sop eop : Bool) (bytes : BitVec 6) : Seg := ⟨9, sop, eop, bytes, false, true, 0x0201⟩

/-- A frame of channel 9 in progress, dispatched at its SOP. -/
def opF : OpenF := { OpenF.skip with discard := false, md := md 0, head := List.replicate 64 1, bytes := 64, dispatched := true, handles := [6] }

theorem witness_ingress_sop : sIn.inReady = true ∧ State.reset.inReady = false ∧ sIn.opn 9 = none ∧
    sIn.sopRefused 9 (sg true true 20) none = none ∧ sIn.sopRefused 9 (sg true true 13) none = some (inA 0x410) ∧
    sIn.fallBack 9 = false ∧
    (let t := nxt (exec (.ingressSegment (some (sg true true 20)) none) sIn)
     (t.link 0).length = 1 ∧ t.ctr (inA 0x408) = 20) ∧
    (nxt (exec (.ingressSegment (some (sg true true 13)) none) sIn)).ctr (inA 0x410) = 1 ∧
    (nxt (exec (.ingressSegment (some (sg false true 20)) none) sIn)).ctr (inA 0x428) = 1 ∧
    sIn.sopRefused 9 (sg true false 0) none = none ∧ sIn.handles (sIn.poolOf 9) = [] ∧ sIn.poolEmpty (sIn.poolOf 9) = false ∧
    (nxt (exec (.ingressSegment (some (sg true false 0)) none) sIn)).ing.waitCh = some 9 ∧
    (let s := { sIn with buf := { sIn.buf with store := [(sIn.poolOf 9, [6, 7])] } }
     let t := nxt (exec (.ingressSegment (some (sg true false 0)) none) s)
     t.handles (s.poolOf 9) = [7] ∧ (t.opn 9).map (fun f => (f.handles, f.bytes)) = some ([6], 64)) := by decide +kernel

theorem witness_ingress_more : (let s := { sIn with ing := { sIn.ing with opn := [(9, opF)] } }
     ((nxt (exec (.ingressSegment (some (sg false false 0)) none) s)).opn 9).map (fun f => f.bytes) = some 128 ∧
     (nxt (exec (.ingressSegment (some (sg false true 10)) none) s)).ing.vq = [⟨3, 7, 1, 74⟩]) ∧
    (let s := { sIn with ing := { sIn.ing with opn := [(9, OpenF.skip)] } }
     (nxt (exec (.ingressSegment (some (sg false true 10)) none) s)).opn 9 = none) ∧
    (let s := { sIn with now := 40, ing := { sIn.ing with nlq := [(40, true), (48, false)] } }
     s.ing.nl = false ∧ (nxt (exec .inPauseNlChange s)).ing.nl = true ∧ (nxt (exec .inPauseNlChange s)).ing.nlq = [(48, false)] ∧
     isNext (exec .inPauseNlChange { s with now := 39 }) { s with now := 39 } = true) ∧
    (sIn.refreshPause.pauseDue = some 9 ∧ tfind (nxt (exec .pauseEvent sIn)).ing.pauseLast 9 = some false) := by
  refine ⟨?_, ?_, ?_, ?_⟩ <;> decide +kernel

/-- A frame of 20 bytes waits at egress on channel 9, which has `n` credits; `st` says whether it is started. -/
def sEg (n st : Nat) : State :=
  let f : EgF := { md := { md 1 with len := 20 }, head := List.replicate 20 5, ch := 9, lane := 3, shared := none, st := st, sent := 0,
                   crc := 0xFFFFFFFF, fcs := none, tdata := [], tgot := 0, treq := 0, rdH := noBuf, rdBeat := 0, rdNext := none,
                   rdErr := false, order := 4, rep := false, gw := false, overrun := false }
  { sIn with eg := { sIn.eg with frames := [f], credits := [(9, BitVec.ofNat 12 n)] } }

theorem witness_egress : (sEg 4 0).runs dOut = true ∧ ((sEg 4 0).egFront 9 3).map (fun f => (sEg 4 0).mayStart f) = some true ∧
    (sEg 4 0).scheduled 9 = false ∧ (nxt (exec (.egressFrameStart 9 3) (sEg 4 0))).eg.frames.map (fun f => f.st) = [1] ∧
    ((sEg 0 0).egFront 9 3).map (fun f => (sEg 0 0).mayStart f) = some false ∧
    ((sEg 4 1).egOpen 9 3).map (fun f => (((sEg 4 1).nextSeg f).isSome, (sEg 4 1).portFree 0)) = some (true, true) ∧
    (let t := nxt (exec (.egressSegment 0 9 3) (sEg 4 1))
     t.creditOf 9 = 3 ∧ t.ctr (egA 0x400) = 1 ∧ t.eg.frames = [] ∧ (tfind t.eg.lastSeg 0).map (fun g => (g.sop, g.eop, g.bytes)) = some (true, true, 20)) ∧
    (sEg 4 1).chan 9 ≠ 0 ∧ (nxt (exec (.egCreditReturn 9 255) (sEg 4000 1))).creditOf 9 = 4095 := by decide +kernel

theorem witness_scheduled_start : (let s := (sEg 4 0).setReg (egA (0x1000 + 36)) 0x40
    s.scheduled 9 = true ∧ (nxt (exec (.egressFrameStart 9 3) s)).eg.frames.map (fun f => f.st) = [1]) := by decide +kernel

theorem witness_channels : MayWrite (via sIn) (.stw 0) (inA 0) ∧
    (let s := via sIn
     (nxt (exec (.chAttach (.stw 0) 9) s)).reg (inA 4) = 0x43010009 ∧ (nxt (exec (.chAttach (.stw 0) 8) s)).chan 8 = 1 ∧
     (nxt (exec (.chDetach (.stw 0) 9) s)).chan 9 = 3 ∧ (nxt (exec (.chDetach (.stw 0) 8) s)).reg (inA 4) = 0x43020008) ∧
    (let s := { sIn with chSt := [(5, 1), (6, 3)] }
     s.held 5 = 0 ∧ s.drained 6 = true ∧ (nxt (exec (.channelAttached 5) s)).chSt = [(5, 2), (6, 3)] ∧
     (nxt (exec (.channelDetached 6) s)).chan 6 = 0 ∧ (nxt (exec (.channelDetached 6) s)).reg (inA 0x200) = 64) := by
  refine ⟨⟨by unfold Reaches; decide +kernel, trivial⟩, ?_, ?_⟩ <;> decide +kernel

theorem witness_block_detach : (let t := nxt (exec .blkDetachReq sIn)
     t.detaching = true ∧ t.chan 9 = 3 ∧
     (let u := nxt (exec .blockDetached { t with chSt := [(9, 0)] })
      u.blk = 4 ∧ u.pins.detAck = true ∧ (u.pdom dIn).st = .off ∧
      (nxt (exec .blkDetachReqFall u)).pins.detAck = false)) ∧
    (nxt (exec .blkDetachReq { sIn with blk := 5 })).pins.detAck = true := by refine ⟨?_, ?_⟩ <;> decide +kernel

theorem witness_blockDetached_premises : (let s : State := { State.reset with detaching := true, blk := 2 }
    (∀ e ∈ s.chSt, e.2 = 0) ∧ (∀ r k, s.isHeld r k = false) ∧ s.buf.store = [] ∧ s.buf.freeq = [] ∧ s.buf.outc = [] ∧
    (∀ e ∈ s.led.ent, e.2.due = false)) :=
  ⟨by decide +kernel, fun _ _ => rfl, rfl, rfl, rfl, by decide +kernel⟩

/-- Ingress runs with the buffer commands `oc` outstanding. -/
def sb (oc : List (BCmd × Nat)) : State := { sIn with now := 8192, buf := { sIn.buf with outc := oc } }

theorem witness_buffer_commands : (let s := (sb []).setReg (bufA 0) 0x0400
     (s.handles 0).length + s.allocsOut 0 < s.prefetch 0 ∧ s.poolEmpty 0 = false ∧
     (nxt (exec (.bufAlloc 0) s)).buf.outc = [(.alloc 0, 8192)]) ∧ (sb []).prefetch 1 = 0 ∧
    (nxt (exec (.bufResponse 0 5) (sb []))).reg (bufA 0x28) = 16 ∧
    (let t := nxt (exec (.bufResponse 0 5) (sb [(.alloc 0, 8000)]))
     t.handles 0 = [5] ∧ t.buf.outc = []) ∧
    tfind (nxt (exec (.bufResponse 2 5) (sb [(.alloc 0, 8000)]))).buf.backoff 0 = some 8256 ∧
    (let t := nxt (exec (.bufResponse 1 noBuf) (sb [(.free 6 0 1, 8000)]))
     t.ctr (bufA 0x418) = 1 ∧ t.reg (bufA 0x28) = 1) ∧
    (nxt (exec .bufLateTimeout (sb [(.alloc 0, 4096)]))).buf.lateN = 1 ∧
    (nxt (exec .bufLateTimeout (sb [(.alloc 0, 4097)]))).buf.lateN = 0 := by
  refine ⟨?_, ?_, ?_, ?_, ?_, ?_, ?_, ?_⟩ <;> decide +kernel

theorem witness_buffer_data : (let s := { sb [] with ing := { sIn.ing with wq := [.link 3 7 6 8, .beat 3 7 8 0 128 []] } }
     (nxt (exec .bufLink s)).ing.wq.length = 1 ∧ (nxt (exec .bufWriteBeat (nxt (exec .bufLink s)))).ctr (bufA 0x420) = 1) ∧
    (let s := (freeChain 0 { md 2 with tail := 6, len := 300 } (sb []))
     (s.freeNext.map (fun i => i.h)) = some 6 ∧ (nxt (exec .bufFree s)).buf.outc.length = 1) ∧
    (let s0 := sEg 4 1
     let s := { s0 with eg := { s0.eg with frames := s0.eg.frames.map (fun f => { f with md := { f.md with len := 300, tail := 6 }, rdH := 6, head := List.replicate 256 5 }) } }
     (s.eg.frames.map (fun f => (s.nextRead f).isSome)) = [true] ∧
     (let t := nxt (exec (.bufReadRequest 9 3) s)
      t.buf.rdq = [(4, 0, 6)] ∧ (nxt (exec (.bufReadData 1 noBuf false) t)).eg.frames.map (fun f => (f.tgot, f.rdNext)) = [(1, some noBuf)] ∧
      (nxt (exec (.bufReadData 1 noBuf true) t)).reg (bufA 0x28) = 4)) ∧
    (nxt (exec (.bufReadData 1 noBuf false) (sb []))).reg (bufA 0x28) = 16 ∧
    ((nxt (exec (.bufWriteError 9) (sb []))).log (bufA 0x2C)).ents = [0x82000009] ∧
    (nxt (exec (.bufPoolInput 1 2 4) (sb []))).reg (bufA 0x24) = 0x40201 := by
  refine ⟨?_, ?_, ?_, ?_, ?_, ?_⟩ <;> decide +kernel

/-! ### Table memory beside the contexts, scratchpads, seats -/

/-- A LOOK of entry 7 of index table 4 waits at its tile. -/
def sLook : State := { nxt (exec (.look w0 4) (on [dTblN, dTblS] (tabs (so [0x100, 7])))) with tile := mwrite 0 [] (tlA 0 0 0) (List.replicate 200 3) }

theorem witness_tile : sLook.runs (tileDom 0) = true ∧ sLook.failedTile 0 = false ∧ sLook.winner 0 (sLook.present 0 []) = some 0 ∧
    (sLook.presented 0 0).map (fun p => (p.1.kind, p.1.phase, p.1.orphan, p.1.acc.length)) = some (.look, 0, false, 1) ∧
    (sLook.presented 0 0).map (fun p => p.2) = some ⟨0, 3, 1, 0, 0, []⟩ ∧
    (nxt (exec (.tileTransaction 0) sLook)).tb.ops.map (fun o => (o.fin, o.res, o.out)) = [(true, 1, List.replicate 16 3)] ∧
    ((sLook.setArb 5 (sLook.arb 5)).winner 5 (sLook.present 5 [])) = none ∧ ((nxt (exec (.tileTransaction 5) sLook)).arb 5).freeCy = 2 ∧
    isNext (exec (.overhold 0) sLook) sLook = true := by decide +kernel

theorem witness_tile_idle : State.reset.winner 5 (State.reset.present 5 []) = none ∧ ∀ q, State.reset.presented 5 q = none :=
  ⟨by decide +kernel, fun _ => rfl⟩

theorem witness_overhold : (let s0 := on [dTblN] State.reset
    let s : State := { s0 with tb := { s0.tb with ops := [{ TOp.cmd .rowsRead 0 false 9 17 [] with acc := [⟨0, 9, 17, 0, 0, []⟩] }] } }
    s.winner 0 (s.present 0 []) = some 12 ∧ (s.presented 0 12).map (fun p => (p.2.n, p.2.kind, p.1.orphan)) = some (17, 0, false) ∧
    (let t := nxt (exec (.overhold 0) s)
     t.tb.ops.map (fun o => (o.fin, o.res, o.out.length)) = [(true, 4, 512)] ∧ t.reg (tbA 0x90) = 0x1000)) := by decide +kernel

theorem witness_tile_units : (let s := on [dTblN, dTblS] State.reset
     (nxt (exec (.tileFail 3 true) s)).failedTile 3 = true ∧ (s.arb 3).ueRows = [] ∧ isNext (exec (.tileFail 3 false) s) s = true ∧
     s.winsAll 13 [3] = true ∧ s.rowOwner 3 65535 = none ∧ s.rowOwner (otherTile 3) 65535 = none ∧ s.tile.wf 0 = true ∧
     (nxt (exec (.scrubVisit 3 65535) s)).tb.visited = [(262143, 262144)] ∧
     (nxt (exec (.scrubVisit 3 65535) s)).tb.scrubReq = [] ∧
     (let u := s.setArb 3 { s.arb 3 with ueRows := [1, 2, 3, 4] }
      ((nxt (exec (.tileFail 3 false) u)).arb 3).failCause = 2)) := by decide +kernel

/-- A learn of a new key in hash table 5 is at its sequencer. -/
def sIns : State :=
  let s := on [dTblN, dTblS] (tabs State.reset)
  { s with tb := { s.tb with ops := [{ TOp.new 14 .lrn 5 false with seqHalf := some 0, key := [1, 2, 3, 4], data := List.replicate 4 7 }] } }

theorem witness_insert : sIns.tDead 5 false = false ∧
    ((sIns.tb.ops.map (fun o => sIns.winsAll o.req (((sIns.cands o.table o.key).map (fun e => sIns.wrTile o.table (sIns.entryAt o.table false e).1)).eraseDups))) = [true]) ∧
    (nxt (exec (.insertSequencer 0) sIns)).tb.ops.map (fun o => (o.fin, o.res)) = [(true, 1)] ∧
    (nxt (exec (.insertSequencer 0) sIns)).tile ≠ [] := by decide +kernel

theorem witness_rounds : MayWrite (via (tabs (on [dTblN] State.reset))) (.stw 0) (tbA 0x18) ∧
    (let s := (tbl 9 0x10000100 8 (via (tabs (on [dTblN] State.reset)))).setReg (tbA 0x20) 0x200
     s.tb.plive = false ∧ s.tDual 9 = true ∧
     (let u := nxt (exec (.tblRoundOpen (.stw 0)) s)
      u.tb.cur = 1 ∧ u.abank 9 = true ∧ u.pbank 9 = false ∧ u.reg (tbA 0x20) = 0 ∧ u.runs dTblN = true ∧ u.roundCount u.tb.prev = 0 ∧
      (nxt (exec (.tblRoundOpen (.stw 0)) u)).tb.refused = true ∧
      isNext (exec .pliveClear u) u = true ∧ (nxt (exec .pliveClear { u with now := 20 })).tb.plive = false)) := by
  refine ⟨⟨by unfold Reaches; decide +kernel, trivial⟩, ?_⟩; decide +kernel

/-- Steward 0 runs with the tables of `tabs`, and TBL_CMD_ADDR holds `a`. -/
def sCmd (a : Word) : State := (via (tabs (on [dTblN, dTblS] State.reset))).setReg (tbA 4) a

theorem witness_table_commands : MayWrite (sCmd 7) (.stw 0) (tbA 0) ∧
    ((sCmd 7).tb.busy = false ∧ (sCmd 7).tKind 4 ≠ 0 ∧ (sCmd 7).tLen 4 = 8 ∧ (sCmd 7).tDual 4 = false ∧
     (let u := nxt (exec (.tblCmdReadEntry (.stw 0) false 4) (sCmd 7))
      u.tb.busy = true ∧ isNext (exec (.tblCmdReadRows (.stw 0) 1) u) u = true) ∧
     (nxt (exec (.tblCmdReadEntry (.stw 0) false 4) (sCmd 8))).tb.cmdReason = 2 ∧
     (sCmd 0xFFFF).liveRow 0 0xFFFF = false ∧ (tbl 9 0x10000100 8 (sCmd 0)).liveRow 0 0 = true ∧ (sCmd 0xFFFF).failedTile 0 = false ∧
     (nxt (exec (.tblCmdWriteRows (.stw 0) 1) (tbl 9 0x10000100 8 (sCmd 0)))).tb.cmdReason = 1 ∧
     (nxt (exec (.tblCmdReadRows (.stw 0) 2) (sCmd 0xFFFF))).tb.cmdReason = 2 ∧
     (nxt (exec (.tblCmdWriteRows (.stw 0) 1) (sCmd 0xFFFF))).tb.ops.map (fun o => (o.kind, o.idx)) = [(.rowsWrite, 0xFFFF)] ∧
     ((nxt (exec (.tblCmdFailTile (.stw 0)) (sCmd 0))).arb 0).failCause = 3) ∧
    (let s0 := sCmd 7
     let s : State := { s0 with tb := { s0.tb with busy := true, ops := [{ TOp.cmd .cmdRead 4 false 7 0 [] with fin := true, out := [1, 2, 3, 4] }] } }
     (nxt (exec .tblCmdComplete s)).reg (tbA 0x400) = 0x04030201 ∧ (nxt (exec .tblCmdComplete s)).tb.busy = false) ∧
    (MayWrite (sCmd 7) (.stw 0) (tbA (0x300 + 4 * 7)) ∧ (nxt (exec (.tblRelocWrite (.stw 0) 7 0xFFFFFFFF) (sCmd 7))).reg (tbA 0x31C) = 0xDFFFFFFF) := by
  refine ⟨⟨by unfold Reaches; decide +kernel, trivial⟩, ?_, ?_, ⟨by unfold Reaches; decide +kernel, trivial⟩, ?_⟩ <;> decide +kernel

theorem witness_scratchpad : (let s := { seated 0 (on [0] State.reset) with sp := mwrite 0 [] (spA 0 64) [1, 2], spErr := [(8, false)] }
     s.runs 0 = true ∧ s.seatOf 0 0 = some 0 ∧
     (let u := s.setRank 0 { s.rank 0 with due := [(32, 0)] }
      u.dueNow 0 32 = true ∧ (nxt (exec (.spClearEnd 0 0) u)).sp = [] ∧ (nxt (exec (.spClearEnd 0 0) u)).spErr = []) ∧
     (let u := s.setCore 0 { s.core 0 with wb := [(0, 8)] }
      (nxt (exec (.eccWriteback 0 0 0) u)).spErr = []) ∧
     (let u := s.setReg (rkA 0 0x3014) 1
      u.fld (rkA 0 0x3014) 15 0 ≠ 0 ∧ ((nxt (exec (.bgtRegionStart 0 0) u)).core 0).bgt.map (fun p => p.1) = some 0) ∧
     (let u := s.setCore 0 { s.core 0 with bgt := some (1, []) }
      (nxt (exec (.bgtRegionComplete 0 0) u)).spErr = [])) := by decide +kernel

/-- Rank 0 runs, its seat 12 holds a core, and steward 0 runs; seat 12's banks have the owners `own`, its status is `w`. -/
def sSp (own w : Word) : State := ((via (seated 0 (on [0] State.reset))).setReg (spOwn 0 12) own).setReg (spSt 0 12) w

theorem witness_banks : (MayWrite (sSp 0 0) (.stw 0) (spOwn 0 12) ∧ MayWrite (sSp 0 0) (.stw 0) (rkA 0 (0x3118 + 0x40 * 12)) ∧
      MayWrite (sSp 0 0) (.stw 0) (rkA 0 (0x310C + 0x40 * 12))) ∧
    ((sSp 0 0).mayHand 0 12 = true ∧ (sSp 0 0).mayHand 0 3 = false ∧
     (let t := nxt (exec (.rankSpOwnerWrite (.stw 0) 0 12 0xC000) (sSp 0 0))
      t.reg (spSt 0 12) = 0x800000 ∧ t.bankQuiet 0 12 7 = true ∧ (nxt (exec (.spHandoverEffect 0 12 7) t)).reg (spOwn 0 12) = 0xC000) ∧
     (nxt (exec (.rankSpOwnerWrite (.stw 0) 0 3 0xC000) (sSp 0 0))).reg (spSt 0 3) = 0x2000000) ∧
    ((nxt (exec (.spTestStart (.stw 0) 0 12) (sSp 2 0))).reg (spSt 0 12) = 0x40000000 ∧
     (let s0 := nxt (exec (.spTestStart (.stw 0) 0 12) (sSp 2 0))
      let s := { s0 with now := 1000000, sp := mwrite 0 [] (spA 12 0) (List.replicate 16 1) }
      bit (s0.reg (spHid 0 12 6)) 0 = true ∧ bit (s0.reg (spHid 0 12 6)) 1 = false ∧
      s.dueNow 0 28 = true ∧ (nxt (exec (.spTestComplete 0 12) s)).reg (spSt 0 12) = 0 ∧
      (nxt (exec (.spTestComplete 0 12) s)).spR 12 0 9 = List.replicate 8 0 ++ [1])) ∧
    ((nxt (exec (.spAccRead (.stw 0) 0 12) (sSp 0 0))).reg (spSt 0 12) = 0x10000000 ∧
     (let t := nxt (exec (.spAccWrite (.stw 0) 0 12) ((sSp 3 0).setReg (rkA 0 (0x3110 + 0x40 * 12)) 0x55))
      t.reg (spSt 0 12) = 0x20000000 ∧ (t.reg (spHid 0 12 2)).toNat = 2 ∧ t.sp.wf 0 = true ∧
      (nxt (exec (.spAccComplete 0 12) t)).spR 12 0 2 = [0x55, 0]) ∧
     (let t := nxt (exec (.spAccRead (.stw 0) 0 12) (sSp 3 0))
      (t.reg (spHid 0 12 2)).toNat = 1 ∧ tfind t.spErr (spWord 12 0) = none ∧ (nxt (exec (.spAccComplete 0 12) t)).reg (spSt 0 12) = 0)) := by
  refine ⟨⟨⟨by unfold Reaches; decide +kernel, trivial⟩, ⟨by unfold Reaches; decide +kernel, trivial⟩, ⟨by unfold Reaches; decide +kernel, trivial⟩⟩, ?_, ?_, ?_⟩ <;>
    decide +kernel

theorem witness_machine_check : (let s := seated 0 (on [0, dStw] State.reset)
     (s.core 3).retired = false ∧ s.seatOf 0 3 = some 3 ∧ isNext (exec (.machineCheck (.core 0 3) 8 5) s) s = true ∧
     isNext (exec (.machineCheck (.core 0 3) 7 5) s) s = true ∧ isNext (exec (.machineCheck (.core 0 3) 5 5) s) s = true ∧
     (let r3 := s.setRank 0 { s.rank 0 with rot := 3, rotSeat := 2 }
      r3.seatCore 0 12 = some 12 ∧ ((nxt (exec (.machineCheck (.core 0 12) 7 5) r3)).core 12).retired = true) ∧
     (let s := s.setCore 3 { s.core 3 with mcheck := some (5, 0x123) }
      let t := nxt (exec (.machineCheck (.core 0 3) 5 0x123) s)
      (t.core 3).retired = true ∧ t.seatCore 0 3 = none ∧ (t.log (rkA 0 0x3008)).ents = [0x83500123] ∧ (t.rank 0).boundOn 3 = false ∧
      (t.rank 0).repl = [3] ∧ ((nxt (exec (.retiredCoreGated 0 3) t)).core 3).gated = true ∧
      (let u := { t with now := 4000 }
       u.dueNow 0 0 = true ∧ u.storeGood 12 = true ∧ (nxt (exec (.reserveTakesSeat 0) u)).seatCore 0 3 = some 12)) ∧
     ((nxt (exec (.machineCheck (.stw 0) 1 5) (via s))).stwd 0).faulted = true) := by decide +kernel

theorem witness_rotation : MayWrite (sSp 0 0) (.stw 0) (rkA 0 0x3000) ∧
    ((nxt (exec (.seatDrain (.stw 0) 0 12) (sSp 0 0))).reg (rkA 0 0x3004) = 0x2C00000C ∧
     (let t := nxt (exec (.seatDrain (.stw 0) 0 2) (sSp 0 0))
      (t.rank 0).rot = 1 ∧ (nxt (exec (.seatCancel (.stw 0) 0 2) t)).rank 0 = { t.rank 0 with rot := 0 } ∧
      (nxt (exec (.seatRotate (.stw 0) 0 2) t)).reg (rkA 0 0x3004) = 0x30000002 ∧
      (let u := nxt (exec (.seatDrained 0) t)
       (u.rank 0).rot = 2 ∧
       (let v := { nxt (exec (.seatRotate (.stw 0) 0 2) u) with now := 4000 }
        (v.rank 0).rot = 3 ∧ v.dueNow 0 0 = true ∧ v.storeGood 12 = true ∧
        (let w := nxt (exec (.seatRotationComplete 0) v)
         w.seatCore 0 2 = some 12 ∧ w.seatCore 0 12 = some 2))))) := by
  refine ⟨⟨by unfold Reaches; decide +kernel, trivial⟩, ?_⟩; decide +kernel

theorem witness_patches : MayWrite (sSp 0 0) (.stw 0) (rkA 0 (0x3130 + 0x40 * 12)) ∧
    ((sSp 0 0).hasReserve 0 = true ∧ ((sSp 0 0).rank 0).rot = 0 ∧ (sSp 0 0).mcMap 0 12 = false ∧
     (nxt (exec (.mcPatchRead (.stw 0) 0 3) (sSp 0 0))).reg (rkA 0 (0x311C + 0x40 * 3)) = 0x48000000 ∧
     (let s := (sSp 0 0).setReg (rkA 0 (0x3124 + 0x40 * 12)) 0x82FF00FF
      ((nxt (exec (.mcPatchSetLevel (.stw 0) 0 12) s)).core 12).plevel = 0xFF ∧ ((nxt (exec (.mcPatchWrite (.stw 0) 0 12) s)).core 12).patch = [(0, 0x82FF00FF)] ∧
      (let u := s.setReg (rkA 0 (0x3120 + 0x40 * 12)) 0x8000001F
       u.mcMap 0 12 = true ∧ u.mcIdx 0 12 = 31 ∧ bits (u.reg (rkA 0 (0x3124 + 0x40 * 12))) 25 16 = 767 ∧
       (let v := nxt (exec (.mcPatchWrite (.stw 0) 0 12) u)
        (v.core 12).pmap = [(31, 0x82FF00FF)] ∧ ((nxt (exec (.mcPatchInvalidate (.stw 0) 0 12) v)).core 12).pmap = [(31, 0x02FF00FF)] ∧
        (nxt (exec (.mcPatchRead (.stw 0) 0 12) v)).reg (rkA 0 (0x3124 + 0x40 * 12)) = 0x82FF00FF)))) := by
  refine ⟨⟨by unfold Reaches; decide +kernel, trivial⟩, ?_⟩; decide +kernel

/-! ### Stewards, the register fabric, interrupts, time -/

/-- The control port asks: write `we` at word address `a` with data `d`. -/
def rq (we : Bool) (a : BitVec 24) (d : Word) : CtlReq := ⟨we, a, d, 0xF⟩

/-- The configuration block and the stewards' domain are ON; no steward has started. -/
def sC : State := on [dCfg, dStw, dTime, dIn] State.reset

theorem witness_fabric : sC.isOn dCfg = true ∧ sC.fab.ctl = none ∧ sC.fab.dbg = none ∧
    (∀ i, i < 4 → (sC.stwd i).acc = none) ∧
    sC.ctlErr (rkA 0 8) 0xF ≠ none ∧ sC.ctlErr 8 0xF = none ∧ sC.ctlErr (pmA 0) 0xF = none ∧ hostMay (pmA 0) = true ∧ hostMay 8 = false ∧
    (nxt (exec (.registerFabricAccess (some (rq false 0x400002 0))) sC)).fab.err = true ∧
    (nxt (exec (.registerFabricAccess (some (rq false 2 0))) sC)).fab.ack = true ∧
    (nxt (exec (.registerFabricAccess (some (rq true 2 0))) sC)).ctr 0x100 = 1 ∧
    bit (sC.reg 8) 31 = false := by decide +kernel

/-- Steward 0 waits for the register at `a`. -/
def sAcc (we : Bool) (a : Nat) : State :=
  let s := ss (fun c => { c with os := [1], st := .sleep, wait := .fabric, wlen := 1 })
  (s.setDom dTime { PDom.init with st := .on }).setStw 0 { s.stwd 0 with acc := some ⟨we, BitVec.ofNat 26 a, 9, [5], 6, 7⟩ }

theorem witness_steward_fabric : (sAcc true (tmA 0x24)).ctlErr (tmA 0x24) 0xF = none ∧ (sAcc true (tmA 0x24)).runs dStw = true ∧
    (BitVec.ofNat 26 (tmA 0x24)).toNat = tmA 0x24 ∧ (sAcc true 4).ctlErr (BitVec.ofNat 26 0x3FFFFFC).toNat 0xF ≠ none ∧
    (∀ i, i < 4 → i ≠ 0 → ((sAcc true (tmA 0x24)).stwd i).acc = none) ∧
    (let t := nxt (exec (.registerFabricAccess none) (sAcc true (tmA 0x24)))
     t.reg (tmA 0x24) = 9 ∧ (t.ctx 1404).os = [5] ∧ (t.ctx 1404).pc = 0x101) ∧
    ((nxt (exec (.registerFabricAccess none) (sAcc false (tmA 0x24)))).ctx 1404).os = [0, 5] ∧
    ((nxt (exec (.registerFabricAccess none) (sAcc false 0x3FFFFFC))).ctx 1404).exc = some ⟨5, 0xF3FFFFFC, 0x100, false, false⟩ := by
  decide +kernel

theorem witness_semaphores : Reaches (ss id) (.stw 0) (swA 0x17C) ∧ MayWrite (ss id) (.stw 0) (swA 0x180) ∧
    (let t := nxt (exec (.stwSemRead (.stw 0) 31) (ss id))
     (t.stwd 0).rd = 0x80000001 ∧ t.sems = [(31, 1)] ∧ ((nxt (exec (.stwSemRead (.stw 0) 31) t)).stwd 0).rd = 1 ∧
     tget 0 (nxt (exec (.stwSemRel (.stw 0) 31) t)).sems 31 = 0) := by
  refine ⟨by unfold Reaches; decide +kernel, ⟨by unfold Reaches; decide +kernel, trivial⟩, ?_⟩; decide +kernel

/-- Steward 0 runs, steward 1 has stopped with CAUSE `n`. -/
def sFl (n : Nat) : State :=
  let s := (ss id).setReg (swA 0x314) (BitVec.ofNat 32 (n * 2 ^ 24))
  s.setStw 1 { Stw.init with faulted := true, prio := [3] }

theorem witness_steward_faults : (ss id).stwLive 0 = true ∧
    (let t := nxt (exec (.stewardFault 0 5) (ss id))
     (t.stwd 0).faulted = true ∧ t.reg (swA 0x310) = 0x05000100 ∧ t.ctr (swA 0x248) = 1) ∧
    MayWrite (sFl 1) (.stw 0) (swA 0x308) ∧ (sFl 3).fld (swA 0x314) 27 24 = 3 ∧
    (nxt (exec (.stwRestart (.stw 0) 1) (sFl 3))).reg (swA 0x314) = 0x83000000 ∧
    (nxt (exec (.stwRestart (.stw 0) 0) (sFl 3))).reg (swA 0x310) = 0x80000000 ∧
    ((nxt (exec (.stwRestart (.stw 0) 1) (sFl 1))).ctx 1405).pc = 0xFFFF ∧ (nxt (exec (.stwRestart (.stw 0) 1) (sFl 1))).stwd 1 =
      { (sFl 1).stwd 1 with started := true, faulted := false, prio := [] } ∧ (sFl 3).stwCode.wf 0xFF = true := by
  refine ⟨?_, ?_, ⟨by unfold Reaches; decide +kernel, trivial⟩, ?_⟩ <;> decide +kernel

/-- Source 240 is latched, unmasked and bound to no steward; it targets steward 0 at level 3. -/
def sIc : State :=
  let s := (ss (fun c => { c with ie := true, msp := BitVec.ofNat 32 (stackBase 1404 + stackSize 1404) })).setReg (icA (0x1000 + 4 * 240)) 0x0103
  let s := s.setReg (icA 0x1C) 0
  { s with ic := { s.ic with latches := 1 } }

theorem witness_interrupts : sIc.runs dStw = true ∧
    ((List.range 256).find? (fun n => (sIc.icSample.route n).isSome) = some 240) ∧ sIc.icSample.route 240 = some 0 ∧
    sIc.icSample.srcHeld 240 = false ∧
    (let t := nxt (exec .interruptBind sIc)
     t.boundTo 240 = some 0 ∧ t.canIssue 1404 = true ∧ (t.ctx 1404).ie = true ∧ t.icSample.irqDue 0 = true ∧ pushOk 1404 (t.ctx 1404).msp = true ∧
     ((nxt (exec (.stewardInterruptEntry 0) t)).ctx 1404).cause = 19 ∧
     (List.range 256).find? (fun n => (t.icSample.route n).isSome) = none) ∧
    (let s := { sIc with ic := { sIc.ic with timers := [(5, 7), (6, 0)] } }
     isNext (exec (.moderationExpiry 5) s) s = true ∧ (nxt (exec (.moderationExpiry 6) s)).ic.timers = [(5, 7)]) := by
  refine ⟨?_, ?_, ?_, ?_, ?_, ?_⟩ <;> decide +kernel

theorem witness_priority_stack : (MayWrite (ss id) (.stw 0) (icA 0x100) ∧ MayWrite (ss id) (.stw 0) (icA 0x104) ∧ MayWrite (ss id) (.stw 0) (icA 0x10C)) ∧
    (let t := nxt (exec (.icEnter (.stw 0) 0 5) (ss id))
     (t.stwd 0).prio = [5] ∧ ((nxt (exec (.icEoi (.stw 0) 0 5) t)).stwd 0).prio = [] ∧
     ((nxt (exec (.icEoi (.stw 0) 0 4) t)).stwd 0).fcause = 2 ∧
     (let u := nxt (exec (.icEnter (.stw 0) 0 5) t)
      (u.stwd 0).frozen = true ∧ (u.stwd 0).fcause = 1 ∧ u.ctr (swA 0x230) = 1 ∧ isNext (exec (.icEnter (.stw 0) 0 9) u) u = true ∧
      ((nxt (exec (.icStkInit (.stw 0) 0) u)).stwd 0).frozen = false)) ∧
    (MayWrite (sFl 1) (.stw 0) (icA 0x140) ∧ MayWrite (sFl 1) (.stw 0) (icA 0x144) ∧ isNext (exec (.icEnter (.stw 0) 1 5) (sFl 1)) (sFl 1) = true) := by
  refine ⟨⟨⟨by unfold Reaches; decide +kernel, trivial⟩, ⟨by unfold Reaches; decide +kernel, trivial⟩, ⟨by unfold Reaches; decide +kernel, trivial⟩⟩, ?_,
    ⟨by unfold Reaches; decide +kernel, trivial⟩, ⟨by unfold Reaches; decide +kernel, trivial⟩, ?_⟩ <;> decide +kernel

theorem witness_ic_writes : (MayWrite (ss id) (.stw 0) (icA 0x3C) ∧ MayWrite (ss id) (.stw 0) (icA 0x5C) ∧ MayWrite (ss id) (.stw 0) (icA 0x80) ∧
      MayWrite sC .ctl (icA 0x80) ∧ MayWrite (ss id) (.stw 0) (icA 0x84) ∧ MayWrite (ss id) (.stw 0) (icA (0x1000 + 4 * 255)) ∧
      MayWrite (ss id) (.stw 0) (icA 0x88) ∧ MayWrite (ss id) (.stw 0) (swA 0x14)) ∧
    ((nxt (exec (.icMaskSet (.stw 0) 7 0x80000000) (ss id))).reg (icA 0x1C) ||| 0x80000000 = (nxt (exec (.icMaskSet (.stw 0) 7 0x80000000) (ss id))).reg (icA 0x1C) ∧
     (nxt (exec (.icPendSet (.stw 0) 0xFFFF) (ss id))).ic.latches = 0xFF00 ∧ (nxt (exec (.icPendSet .ctl 0xFFFF) sC)).ic.latches = 0x00FF ∧
     (nxt (exec (.icSrcCfgWrite (.stw 0) 255 0xFFFFFFFF) (ss id))).reg (icA (0x1000 + 4 * 255)) = 0x03FF0F0F ∧
     (nxt (exec (.icHostDbSet (.stw 0) 0x81) (ss id))).reg (icA 0x8C) = 0x81 ∧
     (let s := ((ss id).setReg (swA 0x14) 3).setDom 1 { PDom.init with bad := true }
      (nxt (exec (.libStatusClear (.stw 0) 2) s)).reg (swA 0x14) = 1 ∧ ((nxt (exec (.libStatusClear (.stw 0) 2) s)).pdom 1).bad = false)) := by
  refine ⟨⟨⟨by unfold Reaches; decide +kernel, trivial⟩, ⟨by unfold Reaches; decide +kernel, trivial⟩, ⟨by unfold Reaches; decide +kernel, trivial⟩,
    ⟨by unfold Reaches; decide +kernel, by decide +kernel⟩, ⟨by unfold Reaches; decide +kernel, trivial⟩, ⟨by unfold Reaches; decide +kernel, trivial⟩,
    ⟨by unfold Reaches; decide +kernel, trivial⟩, ⟨by unfold Reaches; decide +kernel, trivial⟩⟩, ?_⟩; decide +kernel

/-- The time is 5 s and 10 ns; TIME_ADJ_NS holds `ns`. -/
def sTm (ns : Word) : State :=
  let s := via (on [dTime, dOut] State.reset)
  ({ s with time := { s.time with sec := 5, ns := 10 } }).setReg (tmA 0x24) ns

theorem witness_time : (MayWrite (sTm 0) (.stw 0) (tmA 0x20) ∧ MayWrite (sTm 0) (.stw 0) (tmA 0x30) ∧ Reaches (sTm 0) (.stw 0) (tmA 0)) ∧
    ((sTm 5).time.slew = none ∧ (sTm 5).adjSec = 0 ∧ (sTm 5).runs dTime = true ∧
     (nxt (exec (.timeFreqWrite (.stw 0) 0x7FFFFFFF) (sTm 0))).reg (tmA 0x20) = 4294967 ∧
     (nxt (exec (.timeStep (.stw 0)) (sTm 0xFFFFFFF0))).timeNs = 4999999994 ∧
     (nxt (exec (.timeStep (.stw 0)) (sTm 1000000000))).time.refused = true ∧
     (nxt (exec (.timeSlew (.stw 0)) (sTm 1000001))).time.refused = true ∧
     (let t := nxt (exec (.timeSlew (.stw 0)) (sTm 1000000))
      t.time.slew = some (1000000, true, 16000) ∧ (nxt (exec .slewStep { t with now := 16000 })).timeNs = 5000000011) ∧
     (nxt (exec (.timeSet (.stw 0)) (sTm 999999999))).timeNs = 999999999 ∧ (nxt (exec (.timeSet (.stw 0)) (sTm 1000000000))).time.refused = true ∧
     ((nxt (exec (.timeNowNsRead (.stw 0)) (sTm 0))).stwd 0).rd = 10 ∧ tget 0 (nxt (exec (.timeNowNsRead (.stw 0)) (sTm 0))).time.capSec 0 = 5 ∧
     (let t := nxt (exec .timeRefLost (sTm 0))
      t.time.refLost = true ∧ (nxt (exec .timeRefReturn t)).time.locked = true)) := by
  refine ⟨⟨⟨by unfold Reaches; decide +kernel, trivial⟩, ⟨by unfold Reaches; decide +kernel, trivial⟩, by unfold Reaches; decide +kernel⟩, ?_⟩; decide +kernel

theorem witness_pps : (let s0 := (sTm 0).setReg (tmA 0x3C) 0x80000003
    let s := { s0 with time := { s0.time with ppsDue := true } }
    let t := nxt (exec .ppsRise s)
    t.time.ppsOut = true ∧ t.time.ppsFall = 3000 ∧ (nxt (exec .ppsFall { t with now := 3000 })).time.ppsOut = false) := by decide +kernel

theorem witness_schedules : (MayWrite (sTm 0) (.stw 0) (tmA 0x800) ∧ MayWrite (sTm 0) (.stw 0) (tmA (0x40000 + 0x1000 * 63 + 4 * 1023)) ∧
      MayWrite (sTm 0) (.stw 0) (tmA (0x80000 + 0x1000 * 63 + 4 * 1023))) ∧
    ((sTm 0).commitReason 63 = 0 ∧ (sTm 0).switchAt 63 = 5000001010 ∧
     (let t := nxt (exec (.schedCommit (.stw 0) 63) (sTm 0))
      (t.sch 63).pend = true ∧ t.commitReason 63 = 1 ∧ t.reg (tmA 0x804) = 63 ∧
      (nxt (exec (.schedCommit (.stw 0) 63) t)).reg (tmA 0x804) = 0x1200003F ∧
      ((nxt (exec (.schedCancel (.stw 0) 63) t)).sch 63).pend = false ∧ isNext (exec (.schedSwitch 63) t) t = true ∧
      (let u := nxt (exec (.schedSwitch 63) { t with time := { t.time with ns := 1010 } })
       (u.sch 63).oper = true ∧ u.ctr (tmA 0x900) = 1) ∧
      ((nxt (exec (.schedEntryWrite (.stw 0) (BitVec.ofNat 26 (tmA (0x40000 + 0x1000 * 63 + 4 * 1023))) 7) t)).sch 63).wrRefused = true) ∧
     (nxt (exec (.schedEntryWrite (.stw 0) (BitVec.ofNat 26 (tmA (0x40000 + 0x1000 * 63 + 4 * 1023))) 7) (sTm 0))).reg (schE 63 true 1023) = 7 ∧
     ((nxt (exec (.schedEntryWrite (.stw 0) (BitVec.ofNat 26 (tmA (0x80000 + 0x1000 * 63 + 4 * 1023))) 7) (sTm 0))).sch 63).wrRefused = true) := by
  refine ⟨⟨⟨by unfold Reaches; decide +kernel, trivial⟩, ⟨by unfold Reaches; decide +kernel, trivial⟩, ⟨by unfold Reaches; decide +kernel, trivial⟩⟩, ?_⟩; decide +kernel

/-! ### Start, image, flash, minimal mode -/

theorem witness_power_on : State.reset.cfg.cold = true ∧
    (let t := nxt (exec .powerOnStart State.reset)
     t.blk = 1 ∧ t.cfg.attempts = 1 ∧ (t.pdom 19).st = .on ∧ t.cfg.cold = false ∧ t.cfg.phase = 1 ∧
     t.imageBad t.cfg.slot = some ⟨4, 0, 0, 0⟩ ∧
     (let u := nxt (exec (.startAttemptFail 1) t)
      u.cfg.phase = 4 ∧ u.cfg.startAt = 1000000 ∧ u.pm.coolWait = false ∧ u.eg.frames = [] ∧ u.fld (cfA 4) 7 0 = 1) ∧
     (nxt (exec .imageLoaded t)).fld (cfA 4) 7 0 = 4) := by decide +kernel

theorem witness_attempt : (let s : State := { State.reset with now := 1000000, cfg := { State.reset.cfg with phase := 4, attempts := 2, startAt := 1000000 } }
    s.pm.coolWait = false ∧ s.eg.frames = [] ∧ (nxt (exec .startAttemptBegin s)).cfg.phase = 1 ∧ (nxt (exec .startAttemptBegin s)).cfg.slot = 1) := by
  decide +kernel

/-- The third attempt waits for CFG_START_OK, and its 2 s are over. -/
def sLate : State :=
  let t := nxt (exec .powerOnStart State.reset)
  { t with cfg := { t.cfg with attempts := 3, phase := 2 }, now := 2000001000 }

theorem witness_start_timeout : (sLate.cfg.startAt + 2000000000) / 1000 < sLate.now / 1000 ∧
    nxt (exec .startTimeout sLate) = sLate.failStart ⟨0xC, 0, 0, 0⟩ ∧
    (sLate.failStart ⟨0xC, 0, 0, 0⟩).blk = 3 ∧ (sLate.failStart ⟨0xC, 0, 0, 0⟩).chan 0 = 1 := by
  refine ⟨by decide +kernel, ?_, by decide +kernel, by decide +kernel⟩
  have h : (sLate.cfg.phase ≠ 2 || decide (sLate.now / 1000 ≤ sLate.startLimit)) = false := by decide +kernel
  simp only [exec, execStartTimeout, nxt, h, Bool.false_eq_true, if_false]

/-- Steward 0 runs and has to set CFG_START_OK. -/
def sOk : State :=
  let s := on [dCfg] (ss id)
  { s with blk := 1, cfg := { s.cfg with phase := 2, cold := false } }

theorem witness_start_ok : (MayWrite sOk (.stw 0) (cfA 0) ∧ MayWrite (sOk.setStw 1 (sOk.stwd 0)) (.stw 1) (cfA 0)) ∧
    ((nxt (exec (.cfgStartOk (.stw 0) true) sOk)).blk = 2 ∧ (nxt (exec (.cfgStartOk (.stw 0) true) sOk)).chan 0 = 1 ∧
     isNext (exec (.cfgStartOk (.stw 0) false) sOk) sOk = true) := by
  refine ⟨⟨⟨by unfold Reaches; decide +kernel, trivial⟩, ⟨by unfold Reaches; decide +kernel, trivial⟩⟩, ?_⟩; decide +kernel

/-- Steward 0 runs; FLASH_ADDR, FLASH_SRAM and FLASH_LEN hold `a`, 0x1000 and `n`. -/
def sFr (a n : Word) : State :=
  let s := on [dCfg] (ss id)
  ((s.setReg (cfA 0x24) a).setReg (cfA 0x28) 0x1000).setReg (cfA 0x2C) n

/-- A flash command in progress. -/
def sFc (kind addr len : Nat) (d : Bool) : State :=
  let s := sFr 0 0
  { s with cfg := { s.cfg with flash := some ⟨kind, addr, 0x1000, len, d, none⟩, holdupTab := [2, 8, 20] },
           flash := mwrite 0xFF [] 0x3000000 [0xF0, 1], sram := mwrite 0 [] 0x1000 [0x30, 5] }

theorem witness_flash_commands : MayWrite (sFr 0x3010000 256) (.stw 0) (cfA 0x20) ∧
    ((sFr 0x3010000 256).flReason 2 = 0 ∧ (sFr 0x3000001 256).flReason 2 = 2 ∧ (sFr 0x3000001 0).flReason 3 = 2 ∧
     (nxt (exec (.flashProgram (.stw 0)) (sFr 0x3000001 256))).reg (cfA 0x30) = 0x24000000 ∧
     (nxt (exec (.flashRead (.stw 0)) (sFr 0x3000001 256))).reg (cfA 0x30) = 0x80000000 ∧
     (nxt (exec (.flashErase4k (.stw 0)) (sFr 0x3010000 256))).reg (cfA 0x30) = 0x40000000 ∧
     (nxt (exec (.flashCancel (.stw 0)) (sFc 2 0x3010000 2 true))).reg (cfA 0x30) = 0x0A000000 ∧
     isNext (exec (.flashCancel (.stw 0)) (sFc 2 0x3010000 2 false)) (sFc 2 0x3010000 2 false) = true ∧
     (nxt (exec (.flashCancel (.stw 0)) (nxt (exec (.holdupChange true 8) (sFc 3 0x3000000 0 true))))).reg (cfA 0x30) = 0x0A000000 ∧
     (nxt (exec (.holdupChange true 8) (sFc 3 0x3000000 0 true))).reg (cfA 0x30) = 0x80000000 ∧
     (nxt (exec (.holdupChange true 7) (sFc 3 0x3000000 0 true))).reg (cfA 0x34) = 0x80000007) := by
  refine ⟨⟨by unfold Reaches; decide +kernel, trivial⟩, ?_⟩; decide +kernel

theorem witness_flash_complete : (sFc 2 0x3000000 2 false).flash.wf 0xFF = true ∧ (sFc 2 0x3000000 2 false).sram.wf 0 = true ∧
    (nxt (exec (.flashCmdComplete true) (sFc 2 0x3000000 2 false))).reg (cfA 0x30) = 0x10000000 ∧
    (nxt (exec (.flashCmdComplete false) (sFc 1 0x3000000 3 false))).srR 0x1000 4 = [0xF0, 1, 0xFF, 0] ∧
    (nxt (exec (.flashCmdComplete false) (sFc 2 0x3000000 1 false))).flR 0x3000000 2 = [0x30, 1] ∧
    (nxt (exec (.flashCmdComplete false) (sFc 3 0x3000000 0 false))).flash = [] := by decide +kernel

/-- Minimal mode: the mailbox holds a command of OP `op` with its ADDRESS and LENGTH, hold-up power is there. -/
def sMin (op a n : Nat) : State :=
  let s := on [dCfg, dStw] State.reset
  { s.setReg (cfA 0x34) 0x800000FF with
    blk := 3, cfg := { s.cfg with holdupTab := [2, 8, 20] }, ic := { s.ic with latches := 1 },
    sram := mwrite 0 [] 0x1FC000 ([BitVec.ofNat 8 op, 0, 7, 0] ++ leBytes 4 a ++ leBytes 4 n ++ [0, 0, 0, 0, 0xAB, 0xCD]) }

theorem witness_minimal : (sMin 1 0 0).blk = 3 ∧ ((sMin 1 0 0).minTake .mailbox).isSome = true ∧ (sMin 1 0 0).ic.latches.getLsbD 0 = true ∧
    (let t := nxt (exec (.minimalStatus .mailbox) (sMin 1 0 0))
     t.reg (icA 0x8C) = 1 ∧ t.srR 0x1FE000 6 = [1, 0, 7, 0, 0, 0]) ∧
    ((sMin 3 0x3010000 2).minTake .mailbox).any (fun m => !m.tooLong 2 && !minRefused 0x3010000 2 && m.rest.heldUp 2) = true ∧
    (nxt (exec (.minimalWrite ⟨.mailbox, false⟩) (sMin 3 0x3010000 2))).flR 0x3010000 2 = [0xAB, 0xCD] ∧
    ((sMin 2 0x10000 0x10000).minTake .mailbox).any (fun m => !minRefused 0x10000 0x10000 && m.rest.heldUp 4) = true ∧
    (nxt (exec (.minimalErase ⟨.mailbox, false⟩) (sMin 2 1 0x10000))).srR 0x1FE004 1 = [1] ∧
    (let t := nxt (exec (.minimalErase ⟨.mailbox, true⟩) (sMin 2 0x10000 0x10000))
     t.srR 0x1FE004 1 = [2] ∧ t.flash = []) ∧
    (nxt (exec (.minimalRead ⟨.mailbox, false⟩) (sMin 4 0x3010000 2))).srR 0x1FE010 2 = [0xFF, 0xFF] ∧
    (nxt (exec (.minimalRestart .mailbox) (sMin 6 0 0))).cfg.phase = 4 ∧
    (nxt (exec (.minimalStatus .mailbox) (sMin 7 0 0))).ic.latches = 0 := by decide +kernel

theorem witness_minimal_setpref : ((sMin 5 1 0).minTake .mailbox).any (fun m => m.rest.heldUp 2 && m.rest.heldUp 3 && m.rest.flash.wf 0xFF) = true ∧
    (nxt (exec (.minimalSetpref ⟨.mailbox, false⟩) (sMin 5 1 0))).cfg.prefB = true ∧ (sMin 5 1 0).sram.wf 0 = true ∧
    (let s := { sMin 4 0 0 with chSt := [(0, 2)] }
     ((s.minReply ⟨[1, 0, 7, 0], some [1, 2, 3, 4, 5, 6, 7, 8, 9, 10, 11, 12], s⟩ 0 []).eg.frames.map (fun f => f.head.take 8)) = [[7, 8, 9, 10, 11, 12, 1, 2]]) := by
  decide +kernel

/-! ### Power -/

/-- The block runs with its power management; rank 3 has the domain state `x`. -/
def sPw (x : PDom) : State :=
  let s := via (on [dCfg, dIn, dOut, dTime, dTblN, dTblS] State.reset)
  { s.setDom 3 x with blk := 2, now := 100000, cfg := { s.cfg with cold := false } }

theorem witness_votes : (MayWrite (sPw PDom.init) (.stw 0) (pmA 0) ∧ MayWrite (sPw PDom.init) (.stw 0) (pmA 4) ∧ MayWrite (sPw PDom.init) (.stw 0) (pmA (0x100 + 4 * 19))) ∧
    ((sPw PDom.init).pmcRuns = true ∧
     (let t := nxt (exec (.pmcVoteSet (.stw 0) 8) (sPw PDom.init))
      (t.pdom 3).vote = 1 ∧ t.voteByte 3 ≠ 0 ∧ ((nxt (exec (.pmcVoteClr (.stw 0) 8) t)).pdom 3).vote = 1 ∧
      ((nxt (exec (.pmcVoteClr (.stw 0) 8) { t with now := 100010 })).pdom 3).vote = 0 ∧
      t.depsOn 3 = true ∧ (t.pdom 3).st = .off ∧ (t.pdom 3).entering = none ∧ (t.pdom 3).waking = false ∧ (t.pdom 3).bad = false ∧
      ((nxt (exec (.domainWake 3) t)).pdom 3).tdue = 140000) ∧
     (nxt (exec (.pmcDomCfgWrite (.stw 0) 19 0xFFFFFFFF) (sPw PDom.init))).reg (pmA (0x100 + 4 * 19)) = 0x303) := by
  refine ⟨⟨⟨by unfold Reaches; decide +kernel, trivial⟩, ⟨by unfold Reaches; decide +kernel, trivial⟩, ⟨by unfold Reaches; decide +kernel, trivial⟩⟩, ?_⟩; decide +kernel

theorem witness_domains : (let s := sPw { PDom.init with st := .on }
     s.voteByte 3 = 0 ∧ ((nxt (exec (.domainEntry 3) s)).pdom 3).entering = some (s.domTarget 3) ∧
     isNext (exec (.domainEntry 3) (s.setDom 3 { s.pdom 3 with vote := 1 })) (s.setDom 3 { s.pdom 3 with vote := 1 }) = true) ∧
    (let s := { sPw { PDom.init with st := .off, entering := some .off } with sp := mwrite 0 [] (spA 39 9) [1], code := mwrite 0xFF [] (cdA 39 9) [1] }
     let t := nxt (exec (.domainEntryComplete 3) s)
     (t.pdom 3).entering = none ∧ t.sp = [] ∧ t.code = []) ∧
    (let t := nxt (exec (.domainWakeComplete 3) (sPw { PDom.init with st := .off, waking := true }))
     (t.pdom 3).st = .on ∧ (t.pdom 3).plevel = 1 ∧ (t.pdom 3).loading = true ∧ t.runs 3 = true ∧ t.runs dStw = true ∧ t.code.wf 0xFF = true) ∧
    ((nxt (exec (.plevelChangeComplete 3) (sPw { PDom.init with st := .on, pchg := some 3 }))).pdom 3).plevel = 3 ∧
    (let s := sPw { PDom.init with st := .rest }
     s.awake = true ∧ (s.pdom 3).entering = none ∧ ((nxt (exec (.brownout 3) s)).pdom 3).lost = true ∧ (nxt (exec (.brownout 3) s)).ctr (pmA 0x810) = 1) := by
  refine ⟨?_, ?_, ?_, ?_, ?_⟩ <;> decide +kernel

theorem witness_credit : (let s := sPw { PDom.init with st := .on }
     (s.credit0 3 ≠ 0) ∧ 2000 ≤ s.credit0 3 ∧
     ((nxt (exec (.p0CreditRestored 3) (s.setDom 3 { s.pdom 3 with exh := true }))).pdom 3).exh = false) := by decide +kernel

theorem witness_thermal : (let s := sPw PDom.init
     s.awake = true ∧ s.blk ≠ 5 ∧ s.pm.force = false ∧ s.pm.boxing = false ∧
     (let t := nxt (exec (.thermalForce 15 461) s)
      t.pm.force = true ∧ t.reg (pmA 0x43C) = 461 ∧ isNext (exec (.thermalForce 15 460) s) s = false ∧
      (t.sense 15 440).hotter 440 = false ∧ (nxt (exec (.thermalForceEnd 15 440) t)).pm.force = false) ∧
     (let t := nxt (exec (.thermalLimit 2 500) s)
      t.pm.boxing = true ∧ t.fld (pmA 0x504) 23 20 = 2 ∧ (t.pdom 3).st = .off ∧ t.pm.boxWake = false)) := by decide +kernel

theorem witness_boxed : (let s := sPw PDom.init
     let t := nxt (exec (.thermalLimit 2 500) s)
     (nxt (exec .wakeN t)).pm.boxWake = true ∧ (let u := nxt (exec .boxedEntry { t with now := 10000000 })
      u.blk = 5 ∧ u.ctxs = [] ∧ u.fld (pmA 0x504) 25 24 = 2)) ∧
    (let s := { sPw PDom.init with blk := 5 }
     s.fld (pmA 0x504) 25 24 ≠ 2 ∧ (nxt (exec .wakeN s)).blk = 1) ∧
    (let s := sPw PDom.init
     bit ((nxt (exec .wakeN s)).reg (pmA 0x500)) 6 = true ∧
     (let t := nxt (exec .refclkLost s)
      bit (t.reg clkmon) 0 = true ∧ bit ((nxt (exec .refclkReturn t)).reg clkmon) 0 = false) ∧
     s.clocked 0 = true ∧ bit ((nxt (exec (.clockStop 0) s)).reg clkmon) 1 = true) := by refine ⟨?_, ?_, ?_⟩ <;> decide +kernel

theorem witness_porst : (nxt (exec .porst (sPw PDom.init))).pins.porst = false ∧ (sPw PDom.init).cfg.flash = none ∧
    (nxt (exec .vinCoreLoss (sPw PDom.init))).cfg.cold = true := by decide +kernel

/-! ### Faults and debug -/

theorem witness_watchdogs : (let s := (seated 0 (on [0] State.reset)).setCore 5 { Core.init with wdog := 4096 }
     s.seatOf 0 5 = some 5 ∧ ((nxt (exec (.coreWatchdogExpiry 0 5) s)).core 5).retired = true ∧
     isNext (exec (.coreWatchdogExpiry 0 6) s) s = true) ∧
    (let s := ((ss id).setReg (swA 0x300) 0x00010002).setCore (stwCore 0) { Core.init with wdog := 2000 }
     s.stwLive 0 = true ∧ s.fld (swA 0x300) 31 16 ≠ 0 ∧ ((nxt (exec (.stewardWatchdogExpiry 0) s)).stwd 0).faulted = true ∧
     MayWrite s (.stw 0) (swA 0x304) ∧ ((nxt (exec (.wdogKickOwn (.stw 0)) s)).core (stwCore 0)).wdog = 0 ∧
     (let t : State := { s with blkWdog := 1000000, cfg := { s.cfg with phase := 3 } }
      (nxt (exec .blockWatchdogExpiry t)).blkWarn = true ∧ (nxt (exec (.wdogKickBlk (.stw 0)) t)).blkWdog = 0 ∧
      (let u := nxt (exec .blockWatchdogExpiry { t with blkWarn := true })
       u.fld (swA 0x310) 27 24 = 6 ∧ (u.ctx 1404).st = .run) ∧
      (nxt (exec .blockWatchdogExpiry { t with cfg := { t.cfg with phase := 2 } })).fld (cfA 4) 7 0 = 14 ∧ isNext (exec .blockWatchdogExpiry s) s = true)) := by
  refine ⟨?_, ?_, ?_, ?_, ⟨by unfold Reaches; decide +kernel, trivial⟩, ?_⟩ <;> decide +kernel

theorem witness_islands : sIn.isOn dIn = true ∧ (sIn.pdom dIn).restarting = false ∧
    (let t := nxt (exec (.islandSelfRestart .ingress 2) sIn)
     (t.pdom dIn).restarting = true ∧ (t.pdom dIn).rcause = 2 ∧ t.ing.flush.length = 1 ∧ t.ing.vmsgs = [] ∧
     t.ing.flush.map (fun m => (m.ledger, m.eg, m.ranks.contains 3, m.excq.contains 3)) = [(true, true, true, true)] ∧
     (nxt (exec (.ingressFlush (.rank 3)) t)).ing.flush.map (fun m => m.ranks.contains 3) = [false] ∧
     (nxt (exec (.ingressFlush .egress) t)).ing.flush.map (fun m => m.eg) = [false] ∧
     (nxt (exec (.ingressFlush (.excq 3)) t)).ing.flush.map (fun m => m.excq.contains 3) = [false] ∧
     isNext (exec (.islandRestartComplete .ingress) t) t = true ∧
     ((nxt (exec (.islandRestartComplete .ingress) { t with now := 8000 })).log (swA 0x324)).ents = [0x88000000]) ∧
    ((nxt (exec (.islandWatchdogExpiry .egress) sIn)).pdom dOut).rcause = 3 ∧
    ((nxt (exec .votedFaultMasked sIn)).log (swA 0x324)).ents.length = 1 := by decide +kernel

theorem witness_oscillators : sIn.dcoOn 3 = true ∧ pauses 3 = true ∧
    (let t := nxt (exec (.dcoFail 3) sIn)
     bit (t.reg clkmon) 8 = true ∧ (t.pdom 3).paused = true ∧ ((nxt (exec (.islandResume 3) { t with now := 5000 })).pdom 3).paused = false ∧
     ((nxt (exec (.islandPause 3) (t.setDom 3 { t.pdom 3 with paused := false }))).pdom 3).fdue = 4100) ∧
    ((nxt (exec (.dcoFail 12) sIn)).pdom 12).restarting = (decide (12 = dIn ∨ 12 = dOut ∨ 12 = dTime)) := by decide +kernel

theorem witness_rank_code : MayWrite (sSp 0 0) (.stw 0) (rkA 0 0x3028) ∧ (sSp 0 0).codeReason 0 2 ≠ 0 ∧
    (nxt (exec (.rankCodeCommit (.stw 0) 0) (sSp 0 0))).reg (rkA 0 0x302C) = BitVec.ofNat 32 (2 ^ 30 + (sSp 0 0).codeReason 0 2 * 2 ^ 27) := by
  refine ⟨⟨by unfold Reaches; decide +kernel, trivial⟩, ?_⟩; decide +kernel

/-- The debug port is ON at level `l`; ranks and steward 0 run. -/
def sDb (l : BitVec 2) : State :=
  let s := (via sIn).setDom dDbg { PDom.init with st := .on }
  let s := s.setDom dCfg { PDom.init with st := .on }
  { s with dbg := { s.dbg with level := l } }

theorem witness_debug_access : (sDb 0).isOn dDbg = true ∧ (sDb 0).dbg.accStatus = 0 ∧ (sDb 0).ctlErr 8 0xF = none ∧
    (nxt (exec .dstatus (sDb 1))).dbg.dr.take 6 = [true, false, false, false, false, true] ∧
    (nxt (exec .tapReset (sDb 0))).dbg.ir = 1 ∧ (nxt (exec .bypass (sDb 0))).dbg.dr = [false] ∧ (nxt (exec .idcode (sDb 0))).dbg.ir = 1 ∧
    (let t := nxt (exec (.daccRead 8) (sDb 0))
     t.dbg.accStatus = 1 ∧ t.fab.dbg = some (false, 8, 0) ∧ (nxt (exec (.daccRead 8) t)).fab = t.fab) ∧
    (nxt (exec (.daccWrite 8 0) (sDb 1))).dbg.accStatus = 2 ∧ (nxt (exec (.daccRead 8) (sDb 2))).dbg.accStatus = 2 ∧
    (let t := nxt (exec (.daccWrite 0x30000004 0xF000) (sDb 0))
     t.dreg 0x30000004 = 0xF000 ∧ (nxt (exec (.dbgXtrigIn 5) t)).dbg.xout = 5 ∧ isNext (exec (.dbgXtrigIn 5) (sDb 0)) (sDb 0) = true) := by
  decide +kernel

theorem witness_halt : (sDb 0).dbgCore (.seat 0 3) = some 3 ∧ (sDb 0).isOn (coreDom 3) = true ∧
    (let t := nxt (exec (.dbgHalt (.seat 0 3)) (sDb 0))
     (t.core 3).haltReq = true ∧ t.coreQuiet 3 = true ∧ (keysOf 3).any t.holdsLock = false ∧
     (let u := nxt (exec (.coreHalted (.seat 0 3)) t)
      (u.core 3).halted = true ∧ ((nxt (exec (.dbgResume (.seat 0 3)) u)).core 3).halted = false ∧
      ((nxt (exec (.dbgStep (.seat 0 3) 2) u)).core 3).stepCtx = some 2) ∧
     (let v : State := { t with tb := { t.tb with locks := [⟨0, 4, 7, 27⟩, ⟨0, 4, 8, 0⟩] }, dbg := { t.dbg with dr := [] } }
      (keysOf 3).any v.holdsLock = true ∧ isNext (exec (.coreHalted (.seat 0 3)) v) v = true ∧
      isNext (exec (.lockHaltTimeout (.seat 0 3)) v) v = true ∧
      (let v := v.setCore 3 { v.core 3 with haltCy := 256 }
       let w := nxt (exec (.lockHaltTimeout (.seat 0 3)) v)
       (w.core 3).halted = true ∧ w.tb.locks = [⟨0, 4, 8, 0⟩] ∧ w.dbg.lockIdx = [7] ∧
       (nxt (exec .dbgLockLogRead w)).dreg 0x30000054 = 7))) ∧
    (let t := nxt (exec (.dbgHalt (.seat 0 3)) (sDb 1)); (t.core 3).haltReq = false ∧ t.dbg.accStatus = 2) := by decide +kernel

/-- What debug asks of a paused rank waits (17 R487), and reaches it as it goes on. -/
theorem witness_debug_paused : (let s := (sDb 0).setDom 0 { (sDb 0).pdom 0 with paused := true, fdue := 4100 }
     s.dbgCore (.seat 0 3) = some 3 ∧ s.isOn (coreDom 3) = true ∧ s.dbgWaits 3 = true ∧ s.daccHeld 0x10300000 = true ∧
     (nxt (exec (.dbgHalt (.seat 0 3)) s)).dbg.held = [(3, .halt)] ∧
     (nxt (exec (.daccRead 0x10300000) s)).dbg.pend = some (false, 0x10300000, 0) ∧
     (let t := nxt (exec (.dbgHalt (.seat 0 3)) s)
      (t.dbgGoOn.core 3).haltReq = false ∧ ((t.setDom 0 { t.pdom 0 with paused := false }).dbgGoOn.core 3).haltReq = true)) := by
  decide +kernel

theorem witness_xtrig : (nxt (exec (.xtrigFire 9) (sDb 0))).dreg 0x30000004 = 0x900 ∧
    (let s := (sDb 0).setCore 3 { Core.init with halted := true }
     let s := { s with dbg := { s.dbg with regs := tset s.dbg.regs (s.dbgBase 27) 0x10 } }
     3 ∈ s.subscribers 1 ∧ (s.core 3).isHalted = true ∧ ((nxt (exec (.xtrigResume 1) s)).core 3).halted = false) := by
  refine ⟨?_, ?_⟩ <;> decide +kernel

/-! ### Registers, reset -/

theorem witness_log_reads : Claim.logRow (.fltIslLogRead (.stw 0)) = some (.stw 0, swA 0x324) ∧
    (let s := { via sIn with logs := [(swA 0x324, ⟨[0x80000001, 5], true⟩)] }
     Reaches s (.stw 0) (swA 0x324) ∧
     (let t := nxt (exec (.fltIslLogRead (.stw 0)) s)
      (t.stwd 0).rd = 0xC0000001 ∧ t.log (swA 0x324) = ⟨[5], false⟩)) ∧
    (let s := sDb 0
     Reaches s .dbg (swA 0x324) ∧ (nxt (exec (.fltIslLogRead .dbg) { s with lw := [(swA 0x324, 9)] })).dbg.accData = 9) := by
  refine ⟨rfl, ⟨by unfold Reaches; decide +kernel, by decide +kernel⟩, ⟨by unfold Reaches; decide +kernel, by decide +kernel⟩⟩

theorem witness_special_reads : (Reaches (via sIn) (.stw 0) 8 ∧ Reaches (via sIn) (.stw 0) (rkA 0 0x1018) ∧ Reaches (via sIn) (.stw 0) (rkA 0 0x14)) ∧
    ((nxt (exec (.ctlErrInfoRead (.stw 0)) ((via sIn).setReg 8 0x80000004))).reg 8 = 0 ∧
     (nxt (exec (.faultrecCountRead (.stw 0) 0 0) ((via sIn).setReg (rkA 0 0x1018) 4))).reg (rkA 0 0x1018) = 0 ∧
     ((nxt (exec (.rankPuntPop (.stw 0) 0) (via sIn))).stwd 0).rd = 0 ∧
     (let s := sExc.setRank 0 { sExc.rank 0 with exc := [(2, ⟨md 1, false, 0⟩)] }
      s.isHeld 0 2 = true ∧ ((nxt (exec (.rankPuntPop (.stw 0) 0) s)).stwd 0).rd = 0x80000002)) := by
  refine ⟨⟨by unfold Reaches; decide +kernel, by unfold Reaches; decide +kernel, by unfold Reaches; decide +kernel⟩, ?_⟩; decide +kernel

theorem witness_counters : (let s := (via sIn).count (rkA 0 0x100) (2 ^ 32 + 3)
    ctrBase (rkA 0 0x100) = some (rkA 0 0x100) ∧ ctrBase (rkA 0 0x104) = some (rkA 0 0x100) ∧ Reaches s (.stw 0) (rkA 0 0x100) ∧
    (let t := nxt (exec (.counterLoRead (.stw 0) (BitVec.ofNat 26 (rkA 0 0x100))) s)
     (t.stwd 0).rd = 3 ∧ ((nxt (exec (.counterHiRead (.stw 0) (BitVec.ofNat 26 (rkA 0 0x104))) t)).stwd 0).rd = 1)) := by
  refine ⟨?_, ?_, by unfold Reaches; decide +kernel, ?_⟩ <;> decide +kernel

theorem witness_register_write : Reaches (via sIn) (.stw 0) (inA 8) ∧ MayWrite (via sIn) (.stw 0) (rkA 0 0x1000) ∧
    ((nxt (exec (.registerWrite (.stw 0) (BitVec.ofNat 26 (inA 8)) 0xFFFFFFFF 0xF) (via sIn))).reg (inA 8) = 0x3FF ∧
     (nxt (exec (.faultrecInfoClear (.stw 0) 0 0 0x80000000) ((via sIn).setReg (rkA 0 0x1000) 0xC0000001))).reg (rkA 0 0x1000) = 1 ∧
     (nxt (exec (.registerWrite .ctl 8 0 0xF) sC)).ctr 0x100 = 1 ∧ (nxt (exec (.registerWrite .ctl (BitVec.ofNat 26 (rkA 0 8)) 0 0xF) sC)).reg 8 = 0xB1000008) := by
  refine ⟨by unfold Reaches; decide +kernel, ⟨by unfold Reaches; decide +kernel, trivial⟩, ?_⟩; decide +kernel

theorem witness_reset_canonical : State.reset.sp.wf 0 = true ∧ State.reset.code.wf 0xFF = true ∧ State.reset.stwCode.wf 0xFF = true ∧
    State.reset.sram.wf 0 = true ∧ State.reset.tile.wf 0 = true ∧ State.reset.flash.wf 0xFF = true ∧ State.reset.ao.wf 0 = true := by decide +kernel

/-! ### Libraries: a good record, a bad one -/

/-- A rank's code and record in the library, with their CRC. -/
def libCodeBytes : List Byte := List.replicate 0x10000 0xFF
def libRecBytes : List Byte := [0x34, 0x12, 5, 0, 6, 0, 0x78, 0x56, 1, 2, 3, 4, 7, 0, 0, 0]

/-- State `s` with code, record and a CRC value of rank 0 in the library. -/
def libC (s : State) (c : BitVec 32) : State :=
  (s.sramLoad (libCode 0) libCodeBytes).sramLoad (libRec 0) (libRecBytes ++ leBytes 4 c.toNat)

/-- The library's check is good. -/
def libS (s : State) : State := libC s (crc32 0 (libCodeBytes ++ libRecBytes))

theorem libC_code (s : State) (c : BitVec 32) : (libC s c).srR (libCode 0) 0x10000 = libCodeBytes := by
  have h : libCodeBytes.length = 0x10000 := List.length_replicate
  show mread 0 (mload 0 (mload 0 s.sram (libCode 0) libCodeBytes) (libRec 0) _) (libCode 0) 0x10000 = _
  rw [mread_mload_out 0 _ _ _ _ _ (Or.inl (by decide)), ← h, mread_mload]

theorem libC_rec (s : State) (c : BitVec 32) : (libC s c).srR (libRec 0) 20 = libRecBytes ++ leBytes 4 c.toNat := by
  have h : (libRecBytes ++ leBytes 4 c.toNat).length = 20 := by rw [List.length_append, leBytes_length]; rfl
  have k := mread_mload 0 (mload 0 s.sram (libCode 0) libCodeBytes) (libRec 0) (libRecBytes ++ leBytes 4 c.toNat)
  rw [h] at k; exact k

theorem libC_good (s : State) (c : BitVec 32) : (libC s c).libGood 0 = decide (crc32 0 (libCodeBytes ++ libRecBytes) = c) := by
  have h2 : (libC s c).srR (libRec 0) 16 ++ (libC s c).srR (libRec 0 + 16) 4 = libRecBytes ++ leBytes 4 c.toNat := by
    rw [← libC_rec s c]; unfold State.srR; exact (mread_add _ _ _ 16 4).symm
  obtain ⟨h3, h4⟩ := List.append_inj h2 (by unfold State.srR; rw [mread_length]; rfl)
  unfold State.libGood State.srN
  rw [libC_code, h3, h4, leNat_leBytes]
  have hc : BitVec.ofNat 32 (c.toNat % 256 ^ 4) = c := by
    apply BitVec.eq_of_toNat_eq; have := c.isLt; simpa using this
  rw [hc]

theorem witness_lib_good (s : State) : (libS s).libGood 0 = true ∧
    (libC s (crc32 0 (libCodeBytes ++ libRecBytes) + 1)).libGood 0 = false := by
  refine ⟨?_, ?_⟩
  · unfold libS; rw [libC_good, decide_eq_true_eq]
  · rw [libC_good, decide_eq_false_iff_not]
    generalize crc32 0 (libCodeBytes ++ libRecBytes) = c
    intro h; bv_omega

/-- Rank 0 and the stewards run; the rank waits for its library. -/
def sLib : State :=
  let s := seated 0 (on [0, dStw] State.reset)
  s.setDom 0 { s.pdom 0 with loading := true }

theorem witness_library_reload : (libS sLib).runs 0 = true ∧ (libS sLib).runs dStw = true ∧ ((libS sLib).pdom 0).loading = true ∧
    (libS sLib).code.wf 0xFF = true ∧ (libS sLib).libGood 0 = true := by
  refine ⟨?_, ?_, ?_, ?_, (witness_lib_good _).1⟩ <;> decide +kernel

theorem witness_code_load_command : MayWrite (libS (via sLib)) (.stw 0) (rkA 0 0x3028) ∧
    (libS sLib).codeReason 0 1 = 0 ∧ (libS sLib).codeReason 0 2 = 0 ∧ sLib.codeReason 0 2 = 4 := by
  refine ⟨⟨by unfold Reaches; decide +kernel, trivial⟩, ?_, ?_, ?_⟩
  · unfold State.codeReason
    rw [(witness_lib_good _).1]
    decide +kernel
  · have h : ∀ t < 13, (libS sLib).runsLib 0 t = true := by
      intro t ht
      have hc : (libS sLib).seatCore 0 t = some t := by
        have : ∀ t, t < 13 → (libS sLib).seatCore 0 t = some t := by decide +kernel
        exact this t ht
      unfold State.runsLib
      rw [hc]
      unfold libS; simp only [libC_code, decide_eq_true_eq]
      exact mread_nil _ _ _
    unfold State.codeReason
    rw [List.all_eq_true.mpr (fun t ht => h t (List.mem_range.mp ht))]
    decide +kernel
  · have h : sLib.runsLib 0 0 = false := by
      have hc : sLib.seatCore 0 0 = some 0 := by decide +kernel
      have h1 : sLib.codeR (0 * 13 + 0) 0 0x10000 = List.replicate 0x10000 0xFF := mread_nil _ _ _
      have h2 : sLib.srR (libCode 0) 0x10000 = List.replicate 0x10000 0 := mread_nil _ _ _
      unfold State.runsLib
      rw [hc]
      simp only [h1, h2, decide_eq_false_iff_not, List.replicate_inj]
      decide
    unfold State.codeReason
    rw [show List.range 13 = 0 :: (List.range 12).map (· + 1) from rfl, List.all_cons, h]
    decide +kernel

theorem witness_code_load_complete : (let s := (sLib.setRank 0 { sLib.rank 0 with codeLoad := true }).setDue 0 1 0
    s.runs 0 = true ∧ s.runs dStw = true ∧ (s.rank 0).codeLoad = true ∧ s.dueNow 0 1 = true ∧ s.code.wf 0xFF = true ∧
    s.seatCore 0 12 = some 12) := by decide +kernel

theorem witness_ledger_peak : Reaches (on [dTblN] (via sIn)) (.stw 0) (ldA 4) := by unfold Reaches; decide +kernel

/-! ### WellFormed: one ill-formed command for each check, and a well-formed one beside it -/

theorem test_ill_counter_lo : (Instr.counterLoRead .ctl 0x104).wellFormed = false ∧ (Instr.counterLoRead .ctl 0x100).wellFormed = true := by decide

theorem test_ill_counter_hi : (Instr.counterHiRead .ctl 0x100).wellFormed = false ∧ (Instr.counterHiRead .ctl 0x104).wellFormed = true := by decide

theorem test_ill_machine_check : (Instr.machineCheck (.core 0 0) 0 0).wellFormed = false := by decide

theorem test_ill_steward_fault : (Instr.stewardFault 1 0).wellFormed = false ∧ (Instr.stewardFault 1 6).wellFormed = false ∧
    (Instr.stewardFault 1 5).wellFormed = true := by decide

theorem test_ill_sched_entry : (Instr.schedEntryWrite .ctl 0x440002 0).wellFormed = false ∧ (Instr.schedEntryWrite .ctl 0x43FFFC 0).wellFormed = false ∧
    (Instr.schedEntryWrite .ctl 0x4C0000 0).wellFormed = false ∧ (Instr.schedEntryWrite .ctl 0x4BFFFC 0).wellFormed = true := by decide

theorem test_ill_start_code : (Instr.startAttemptFail 0).wellFormed = false ∧ (Instr.startAttemptFail 15).wellFormed = false ∧
    (Instr.startAttemptFail 14).wellFormed = true := by decide

theorem test_ill_self_restart : (Instr.islandSelfRestart .ingress 0).wellFormed = false := by decide

theorem test_ill_step : (Instr.dbgStep (.seat 0 0) 9).wellFormed = false ∧ (Instr.dbgStep (.stw 1) 1).wellFormed = false ∧
    (Instr.dbgStep (.seat 0 0) 8).wellFormed = true ∧ (Instr.dbgStep (.stw 1) 0).wellFormed = true := by decide

theorem test_ill_register : (Instr.registerWrite .ctl 0x102 0 0xF).wellFormed = false ∧ (Instr.registerWrite .ctl 0x104 0 0xF).wellFormed = true := by decide

/-! ### Groups and code bytes (07 R212–R215, 05 R168–R170) -/

/-- Rank 0 as in `st`, with code bytes at 0x100. -/
def sCode (bs : List Byte) : State := { so [] with code := mwrite 0xFF [] 0x100 bs }

/-- The groups of chapter 7's worked example: G1 and G2 as written, and G5, whose fourth operation fills it. -/
theorem test_groups_example :
    ((sCode [0x75, 0x0C, 0x00, 0x21, 0x00, 0x81, 0x41, 0x01, 0xE1, 0x80, 5]).groupAt 0 0x100).map (fun i => i.op) = [0x75, 0x21] ∧
    ((sCode [0x41, 0x01, 0x75, 0x0E, 0x00, 0x01, 0xE1, 0x80, 5]).groupAt 0 0x100).map (fun i => i.op) = [0x41, 0x75, 0x01] ∧
    ((sCode [0x35, 0, 12, 0xB4, 13, 0x21, 0x40, 1, 0x23, 0x01, 0x7F, 0xA0, 4]).groupAt 0 0x100).map (fun i => i.op) = [0x35, 0xB4, 0x21, 0x23] ∧
    ((sCode [0x01, 0x7F, 0xA0, 4, 0x4A, 2]).groupAt 0 0x100).map (fun i => i.op) = [0x01, 0x7F, 0xA0] := by decide +kernel

/-- Three LIT32 fill 15 bytes and a fourth would pass the window; YIELD ends a group; 0x5C stands alone. -/
theorem test_group_limits :
    ((sCode ((List.replicate 4 [0x22, 1, 2, 3, 4]).flatten)).groupAt 0 0x100).length = 3 ∧
    ((sCode [0x00, 0xB1, 0x00]).groupAt 0 0x100).map (fun i => i.op) = [0x00, 0xB1] ∧
    ((sCode [0x5C, 0x00]).groupAt 0 0x100).length = 1 ∧ ((sCode [0x00, 0x5C]).groupAt 0 0x100).length = 1 := by decide +kernel

/-- A debug step of two NOPs that fold: the first leaves it in progress, the second ends it. -/
theorem test_step_runs_a_group :
    (let s := (sCode [0x00, 0x00, 0xB1]).setCore 0 { Core.init with halted := true, stepCtx := some 0 }
     let t := nxt (exec (.nop w0) s)
     let u := nxt (exec (.nop w0) t)
     (t.core 0).stepCtx = some 0 ∧ (t.core 0).haltReq = false ∧ (u.core 0).stepCtx = some 0 ∧
     ((nxt (exec (.yield w0) u)).core 0).stepCtx = none ∧ ((nxt (exec (.yield w0) u)).core 0).haltReq = true) := by decide +kernel

theorem test_decode_gilin : (let w : Who := .pkt 0 0 0
    decodeGilin w [0x22, 0x44, 0x33, 0x22, 0x11] = (.lit32 w0 0x11223344, 5) ∧ decodeGilin w [0xE9, 0x36, 3, 5] = (.ins ⟨w, .ifnot 1⟩ 3 5, 4) ∧
    decodeGilin w [0x84, 0x56, 0x34, 0x12] = (.call w0 0x123456, 4) ∧ decodeGilin w [0x81, 0xFE] = (.brT w0 (.r8 0xFE), 2) ∧
    decodeGilin w [0x4F, 7] = (.cser32 w0 7, 2) ∧ decodeGilin w [0x5B] = (.pload w0, 1) ∧ decodeGilin w [0x6F] = (.stb32Plus w0, 1) ∧
    decodeGilin w [0x79, 0x0E, 0x01] = (.sth32 w0 0x010E, 3) ∧ decodeGilin w [0x92, 0x10] = (.punt w0 0x10, 2) ∧
    decodeGilin w [0xA8, 9] = (.unlock w0 9, 2) ∧ decodeGilin w [0xB9] = (.brk w0, 1) ∧ decodeGilin w [0xD8, 0x41] = (.hcmd w0 3 0x41, 2) ∧
    decodeGilin w [0xCD] = (.hrest w0 1, 1) ∧ decodeGilin w [0xF0, 3] = (.cmpb w0, 2) ∧ decodeGilin w [0x1F] = (.litN w0 15, 1) ∧
    decodeGilin w [0xF0, 4] = (.illegalOpcode w0 0xF0 4, 1) ∧ decodeGilin w [0xE1, 0xE2] = (.illegalOpcode w0 0xE1 0xE2, 1) ∧
    decodeGilin w [0xBA] = (.illegalOpcode w0 0xBA 0, 1)) := by decide +kernel

/-! ### Clauses beside the first ones -/

/-- The fault context of core 0 of rank 0 runs. -/
def sFx : State := (seated 0 (on [0] State.reset)).setCtx 8 { Ctx.init 8 with st := .run, pc := 0x100 }

def wF : Iss := ⟨.flt 0 0, .always⟩

theorem witness_refused : packetOp (.done wS) = true ∧ (ss id).canIssue 1404 = true ∧
    (((nxt (exec (.done wS) (ss id))).ctx 1404).exc.map (fun x => x.vec)) = some 1 ∧ whoKey wF.who = 8 ∧ isFlt 8 = true ∧ Rdy sFx wF 2 ∧
    refused false (.look wF 4) = true ∧ (sFx.ctx 8).elev = 0 := by unfold Rdy Ready; decide +kernel

theorem witness_call_wraps : (let s := st (fun c => { c with pc := 0xFFFC })
    Rdy s w0 4 ∧ codeTop 0 = 0x10000 ∧ ((nxt (exec (.call w0 0x200) s)).ctx 0).rs = [0]) := by unfold Rdy Ready; decide +kernel

theorem witness_emit_elsewhere : (0 : Rank).val ≠ 11 ∧ Rdy (so [2, 9]) w0 1 ∧
    isNext (exec (.emit w0) (so [2, 9])) (exc0 (ent (.emit w0) (so [2, 9])) 1 0x100) = true ∧ (so [2, 9]).microClean 0 = true := by
  unfold Rdy Ready; decide +kernel

theorem witness_fence_waits : (let s : State := { so [] with tb := { State.reset.tb with ops := [{ TOp.new 0 .upd 4 false with id := 3, src := 0 }] } }
    Rdy s w0 1 ∧ (s.opsOut 0).any (fun o => decide (o.kind = .upd) || decide (o.kind = .cas) || decide (o.kind = .unlock)) = true ∧
    ((nxt (exec (.fence w0) s)).ctx 0).wait = .again false) := by unfold Rdy Ready; decide +kernel

theorem witness_return_bank : (let s := (sRet 0x30780 0).setReg (spOwn 0 0) 1
    popOk 0 0x30780 = true ∧ s.portBad 0 0x30780 64 = some 0x30780 ∧ s.microClean 0 = true ∧
    ((nxt (exec (.exceptionReturn (.pkt 0 0 0)) s)).ctx 0).exc.map (fun x => x.vec) = some 5) := by decide +kernel

theorem witness_turn_cap_asleep : (let s := st (fun c => { c with st := .sleep, wait := .top 3, turn := 1 })
    s.capOf 0 (s.mdOf 0) = 0 ∧ (s.core 0).halted = false ∧
    ((nxt (exec (.turnCapExpiry 0 0 0) s)).ctx 0).exc = some ⟨11, 1, 0x100, true, true⟩ ∧
    ((nxt (exec (.turnHardLimit 0 0 0) (s.setCtx 0 { s.ctx 0 with turn := 128 }))).ctx 0).st = .stopped) := by decide +kernel

theorem witness_guest_commit : (let h := { cmd 3 0 0 0 0 [] [] false with spec := true }
    let s0 := sh [] [h]
    let s := s0.setRank 0 { s0.rank 0 with gq := [.cmd 0 0 0], gkill := [⟨0, 0⟩] }
    s.runs 0 = true ∧ ((s.ctx 0).hs.find? (fun h => h.slot = 3 && h.ep = 0 && !h.fin && !h.accepted)) = some h ∧
    ((nxt (exec (.guestIssue 0) s)).rank 0).gcmt = [⟨0, 0⟩] ∧ ((nxt (exec (.guestKillNotice 0) s)).rank 0).gq = [] ∧
    s.pins.gstPg = false ∧ isNext (exec (.guestLateError 0 5 1) s) s = true) := by decide +kernel

/-- A context of rank 0 sleeps for room in the ledger, which now has it. -/
def sRoom : State :=
  let s := sLed [] []
  s.setCtx 3 { Ctx.init 3 with st := .sleep, wait := .ledger (le false false 4), wlen := 2, seq := 4, os := [1, 2, 3] }

theorem witness_ledger_room : sRoom.ledOn = true ∧ sRoom.front 0 = none ∧ sRoom.runs 0 = true ∧ tfind sRoom.led.ent 9 = none ∧
    (sRoom.ledSleeper 0).map (fun p => p.1) = some 3 ∧
    sRoom.ledgerFull 0 = (decide (Config.ledLink ≠ 0) && decide (Config.ledLink ≤ 0)) := by
  refine ⟨?_, ?_, ?_, ?_, ?_, rfl⟩ <;> decide +kernel

theorem witness_ledger_ends : (let s := { tabs (sLed [(0, le true true 0)] []) with ledErr := [(0, true)] }
     (le true true 0).due = true ∧ s.notFirst (le true true 0) = false ∧ tfind s.ledErr 0 = some true ∧
     (nxt (exec (.ledgerCommit 0) s)).ctr (ldA 0x128) = 1 ∧ (nxt (exec (.ledgerCommit 0) s)).led.ent = []) ∧
    (let s0 := tabs (sLed [(0, le true true 0)] [])
     let s := s0.setArb 0 { s0.arb 0 with failed := true }
     s.tDead 4 (s.bankOf 4 0) = true ∧ (nxt (exec (.ledgerCommit 0) s)).ctr (tbA 0x810) = 1) := by
  refine ⟨?_, ?_⟩ <;> decide +kernel

theorem witness_detach_early_fall : (let s : State := { State.reset with detaching := true, blk := 2, pins := { State.reset.pins with detReq := false } }
    s.ing.resv = none ∧ (nxt (exec .blockDetached s)).pins.detAck = true) := by decide +kernel

theorem witness_buffer_presented : (let s := { sb [] with buf := { (sb []).buf with cmd := some (.alloc 3) } }
     (nxt (exec (.bufAlloc 3) s)).buf.outc = [(.alloc 3, 8192)] ∧ (nxt (exec (.bufAlloc 3) s)).buf.cmd = none ∧
     isNext (exec (.bufAlloc 0) s) s = true) ∧
    (let s := { sb [] with ing := { sIn.ing with wq := [.link 3 7 6 8] }, buf := { (sb []).buf with cmd := some .link } }
     (nxt (exec .bufLink s)).ing.wq = []) ∧
    (let s0 := freeChain 0 { md 2 with tail := 6, len := 300 } (sb [])
     let s := { s0 with buf := { s0.buf with cmd := (s0.buf.freeq.head?).map (fun i => .free i.id) } }
     s.buf.freeq.length = 1 ∧ (nxt (exec .bufFree s)).buf.outc.length = 1) ∧
    (let s := nxt (exec (.bufPoolInput 0 4 0) (sb []))
     s.ing.nlq = [(8200, true)] ∧ (nxt (exec (.bufPoolInput 0 5 0) s)).ing.nlq = [(8200, true)] ∧
     (nxt (exec (.bufPoolInput 0 0 0) s)).ing.nlq = [(8200, true), (8200, false)]) := by
  refine ⟨?_, ?_, ?_, ?_⟩ <;> decide +kernel

theorem witness_scrub_waits : (let s0 := on [dTblN, dTblS] State.reset
    let s : State := { s0 with tb := { s0.tb with ops := [{ TOp.cmd .rowsRead 0 false 9 1 [] with acc := [⟨0, 9, 1, 0, 0, []⟩] }] } }
    ({ s with tb := { s.tb with scrubReq := [(0, 5)] } } : State).winsAll 13 [0] = false ∧ (nxt (exec (.scrubVisit 0 5) s)).tb.scrubReq = [(0, 5)] ∧
    (nxt (exec (.scrubVisit 0 5) s)).tb.visited = []) := by decide +kernel

/-- Table 11 is a hash table of 8 entries, mirrored to the tile 16 above. -/
theorem witness_insert_second : (let s0 := on [dTblN, dTblS] (tbl 11 0x08000200 0x04000008 State.reset)
    let s : State := { s0 with tb := { s0.tb with ops := [{ TOp.new 14 .lrn 11 false with seqHalf := some 0, key := [1, 2, 3, 4], data := List.replicate 4 7 }] } }
    s.tMirror 11 = true ∧ s.tDead 11 false = false ∧
    (nxt (exec (.insertSequencer 0) s)).tb.ops.map (fun o => (o.fin, o.res, o.acc.map (fun a => a.tile))) = [(false, 1, [16])]) := by decide +kernel

theorem witness_micro : (so []).microClean 0 = true ∧ (ss id).microClean 156 = true ∧ (sFl 1).microClean 156 = true ∧ sStop.microClean 0 = true ∧
    (sEng ⟨0, 0, 0, 3, 0⟩).microClean 0 = true ∧ sQ.microClean 0 = true := by decide +kernel

/-- With a patch map entry valid for the release check of CSUM16's entry, the sequencer follows words that no proof sees. -/
theorem test_micro_map : ((so []).setCore 0 { Core.init with pmap := [(0, 0x80E00000)] }).microClean 0 = false ∧
    microNext 0 (fun _ => false) 5 0 [] = .go 6 [] ∧ MOp.entry .csum16 ≤ 0x280 := by decide +kernel

/-! ### Clauses of the second review -/

theorem witness_steward_access_faults : (let s := ss (fun c => { c with os := [0x1FFFFE, 7] })
     Rdy s wS 1 ∧ isNext (exec (.st32 wS) s) ((((ent (.st32 wS) s)).excAt 1404 5 0x1FFFFE).issued 1404) = true) ∧
    (let s := ss (fun c => { c with os := [0x1FFFFD, 7] })
     isNext (exec (.ld16 wS) s) ((((ent (.ld16 wS) s)).excAt 1404 4 0x1FFFFD).issued 1404) = true) ∧
    (let s := ss (fun c => { c with os := [0x200000, 7] })
     isNext (exec (.ld8 wS) s) ((((ent (.ld8 wS) s)).excAt 1404 5 0x200000).issued 1404) = true) ∧
    (let s := ss (fun c => { c with os := [0xF3FFFFFC, 7] })
     s.ctlErr 0x3FFFFFC 0xF ≠ none ∧ isNext (exec (.ld32 wS) s) ((((ent (.ld32 wS) s)).excAt 1404 5 0xF3FFFFFC).issued 1404) = true) ∧
    (let s := ss (fun c => { c with os := [0xF0208000, 7] })
     s.ctlErr 0x208000 0xF = none ∧ isNext (exec (.st8 wS) s) ((((ent (.st8 wS) s)).excAt 1404 4 0xF0208000).issued 1404) = true) := by
  refine ⟨?_, ?_, ?_, ?_, ?_⟩ <;> (try unfold Rdy Ready) <;> decide +kernel

theorem witness_break_halts : (let q := so [5]
     let s : State := { q with dbg := { q.dbg with regs := [(q.dbgBase 0, 0x10000000)] } }
     let t := nxt (exec (.brk w0) s)
     Rdy s w0 1 ∧ bit (s.dreg (s.dbgBase 0)) 28 = true ∧ (s.ctx 0).brkSkip = false ∧ (t.core 0).haltReq = true ∧
     (t.ctx 0).brkSkip = true ∧ (t.ctx 0).pc = 0x100 ∧
     (let u := t.setCore 0 { t.core 0 with haltReq := false }
      ((nxt (exec (.brk w0) u)).ctx 0).exc = some ⟨15, 0x100, 0x101, false, false⟩)) := by
  unfold Rdy Ready; decide +kernel

/-- A taken entry with nothing behind it leaves the state as it is; a pending issue of the next group is free (`h`, `h8`). -/
theorem witness_entry_squash (h : Config.freePick 0 % 2 = 0) (h8 : Config.freePick 8 % 2 = 0) :
    (let s0 := st (fun c => { c with st := .entry, grp := ⟨0, 0, 0x101, 1⟩, exc := some ⟨14, 9, 0x100, false, false⟩, msp := 0x30800 })
     (s0.ctx 0).grp.left = 0 ∧ (s0.ctx 0).wlen = 0 ∧ (s0.ctx 0).hs = [] ∧ Config.freePick s0.freeCount % 2 = 0 ∧
     Config.freePick (s0.freeCount + 8) % 2 = 0 ∧
     s0.squash (.pkt 0 0 0) ⟨14, 9, 0x100, false, false⟩ = s0.setCtx 0 { s0.ctx 0 with grp := ⟨0, 0, 0x101, 1⟩ }) ∧
    (let x : Exc := ⟨11, 9, 0x100, false, false⟩
     (sEntry 0x30800).squash (.pkt 0 0 0) x = (sEntry 0x30800).setCtx 0
       { (sEntry 0x30800).ctx 0 with grp := { ((sEntry 0x30800).ctx 0).grp with left := 0 } }) :=
  ⟨⟨by decide +kernel, by decide +kernel, by decide +kernel, h, h8, by decide +kernel⟩, by decide +kernel⟩

/-- A helper command on bytes of a bank that is not the core's raises vector 5; a range that it may not read gives no bytes. -/
theorem witness_helper_bank : (let s := (sh [5, 4, 9] []).setReg (spOwn 0 0) 1
     Rdy s w0 2 ∧ s.cmdCode 0 0 1 = none ∧ (s.ctx 0).nextEp = some 0 ∧ s.helperBank 0 0 1 ((ent (.hcmd w0 0 1) s).ctx 0) = some 0x38000 ∧
     isNext (exec (.hcmd w0 0 1) s) (exc0 (ent (.hcmd w0 0 1) s) 5 0x38000) = true) ∧
    (let s := sh [2, 0x2FFFF, 9] []
     s.helperBank 0 1 0x11 (s.ctx 0) = none ∧ s.mayRange 0 (s.ctx 0) 0x2FFFF 2 = false ∧
     ((nxt (exec (.hcmd w0 1 0x11) s)).ctx 0).hs.map (fun h => h.inp) = [none]) := by
  refine ⟨?_, ?_⟩ <;> (try unfold Rdy Ready) <;> decide +kernel

/-- Context 0 has the seal command `h`; key slot 5 is valid. -/
def sSeal (c : Byte) (a b : Word) (y : Seal) : State :=
  let s := sh [] [cmd 2 0 c a b [] [] false]
  s.setRank 0 { s.rank 0 with sealQ := [⟨0, 0⟩], sealKeys := [(5, ⟨List.replicate 16 1, false, true, 1⟩)], sealSets := [(0, y.words)] }

/-- A message of slot 5, encrypting, in phase `p`. -/
def seal5 (p : Nat) : Seal := ⟨5, false, p, 1, List.replicate 12 2 ++ [0, 0, 0, 1], List.replicate 16 0, 0, 0⟩

theorem witness_seal : (Seal.ofWords (seal5 1).words).words = (seal5 1).words ∧
    (let s := sSeal 1 5 0x40 (seal5 0)
     (s.cmdOf ⟨0, 0⟩ 2).isSome = true ∧ s.mayRange 0 (s.ctx 0) 0x40 12 = true ∧ ((s.rank 0).sealKey 5).valid = true ∧
     (let t := nxt (exec (.sealStart 0) s)
      tget [] (t.rank 0).sealSets 0 = ({ seal5 1 with ctr := List.replicate 12 0 ++ [0, 0, 0, 1] } : Seal).words ∧
      (t.ctx 0).hs.map (fun h => (h.res, h.last, h.err)) = [([0], true, none)])) := by
  refine ⟨?_, ?_⟩ <;> decide +kernel

theorem witness_seal_data : (let s := sSeal 2 0x40 3 (seal5 1)
     s.mayRange 0 (s.ctx 0) 0x40 3 = true ∧ ((s.rank 0).sealKey 5).gen.toNat = (seal5 1).gen ∧
     ((Seal.ofWords (tget [] ((nxt (exec (.sealAad 0) s)).rank 0).sealSets 0)).aad = 3)) ∧
    (let s := sSeal 3 0x40 3 (seal5 1)
     ((Seal.ofWords (tget [] ((nxt (exec (.sealData 0) s)).rank 0).sealSets 0)).phase = 3)) ∧
    (let s := sSeal 4 0x40 0 (seal5 1)
     s.mayRange 0 (s.ctx 0) 0x40 16 = true ∧ (seal5 1).phase ≠ 0 ∧
     ((nxt (exec (.sealFinish 0) s)).ctx 0).hs.map (fun h => (h.res, h.err)) = [([0], none)]) := by
  refine ⟨?_, ?_, ?_⟩ <;> decide +kernel
/-- A due entry of operation `op` on table `t`, with its payload. -/
def lc (op : BitVec 2) (t : Byte) (p : List Byte) : LEntry := ⟨3, 7, 0, 0, true, true, true, op, t, 0, 0, p, false⟩

/-- The ledger commits `e`; tables as in `tabs`. -/
def sCom (e : LEntry) : State := tabs (sLed [(0, e)] [])

theorem witness_commits : (let s := sCom (lc 0 4 [7, 0, 0, 0, 3, 0, 0, 0, 5, 0, 0, 0])
     s.winsAll 14 (s.commitTiles (lc 0 4 [7, 0, 0, 0, 3])) = true ∧ cell s 4 false 7 = some (List.replicate 16 0) ∧
     cell (nxt (exec (.ledgerCommit 0) s)) 4 false 7 = some ([3, 0, 0, 0, 0, 0, 0, 0, 5, 0, 0, 0, 0, 0, 0, 0])) ∧
    (let s := sCom (lc 1 6 [2, 0, 0, 0, 3, 0, 0, 0, 5, 0, 0, 0])
     (cell s 6 false 2).isSome = true ∧
     cell (nxt (exec (.ledgerCommit 0) s)) 6 false 2 = (cell s 6 false 2).map (fun c => (((Meter.ofBytes c).refill 5).charge 3).put c)) ∧
    (let s := sCom (lc 2 5 (fit 16 [1, 2, 3, 4] ++ [9, 9, 9, 9]))
     s.seqBusy 5 (s.bankOf 5 0) = false ∧ s.cands 5 [1, 2, 3, 4] ≠ [] ∧
     (let t := nxt (exec (.ledgerCommit 0) s)
      (s.cands 5 [1, 2, 3, 4]).head?.map (fun w => (cell t 5 false w).map (fun c => c.drop (s.tW 5 - 4))) = some (some [0, 0, 0, 0x80]) ∧
      (let u := nxt (exec (.ledgerCommit 0) { t with led := s.led })
       u.tile = t.tile ∧ u.ctr (ldA 0x130) = 1))) ∧
    (let s := sCom (lc 3 7 (List.replicate 24 6))
     let s := { s with tb := { s.tb with rnext := [(7, 7)] } }
     let t := nxt (exec (.ledgerCommit 0) s)
     tget 0 t.tb.rnext 7 = 0 ∧ (cell t 7 false 7).map (fun c => (c.drop 20).take 8) = some [3, 7, 0, 0, 6, 6, 6, 6]) := by
  refine ⟨?_, ?_, ?_, ?_⟩ <;> decide +kernel

/-- An uncorrectable error under the entry loses the commit; an entry of a mirrored table stays till its second copy is written. -/
theorem witness_commit_lost : (let s0 := sCom (lc 0 4 [7, 0, 0, 0, 3, 0, 0, 0, 5, 0, 0, 0])
     let w := s0.entryAt 4 false 7
     let s := { s0 with tileErr := [(laneKey (s0.wrTile 4 w.1) w.2.1 0, true)] }
     cell s 4 false 7 = none ∧ (nxt (exec (.ledgerCommit 0) s)).tile = s.tile ∧ (nxt (exec (.ledgerCommit 0) s)).ctr (tbA 0x810) = 1) ∧
    (let s0 := sLed [(0, lc 0 11 [1, 0, 0, 0, 3, 0, 0, 0, 5, 0, 0, 0])] []
     let s := tbl 11 0x08000100 8 s0
     s.tMirror 11 = true ∧ (nxt (exec (.ledgerCommit 0) s)).led.ent.map (fun p => p.2.com) = [true]) := by
  refine ⟨?_, ?_⟩ <;> decide +kernel

theorem witness_ledger_flush : (let s0 := sLed [(0, le false false 0), (1, le true false 1)] [.entry (le false false 2), .fmark]
     let s := { s0 with ing := { s0.ing with flush := [⟨0, 0, 0, 0, [], false, [], true⟩] } }
     flushLeads (s.rank 0).out = false ∧ isNext (exec .ledgerFlush s) s = true ∧
     (let u := s.setRank 0 { s.rank 0 with out := [.fmark] }
      (nxt (exec .ledgerFlush u)).led.ent = [(1, le true false 1)] ∧ ((nxt (exec .ledgerFlush u)).rank 0).out = []) ∧
     (let u := { s with ing := { s.ing with flush := [⟨0, 0, 0, 0, [3], false, [], true⟩] } }
      isNext (exec .ledgerFlush u) u = true)) := by decide +kernel

/-- Lane 1: alone it is lost; with lane 0 it carries the frame's second segment. -/
theorem witness_ingress_lane1 : (nxt (exec (.ingressSegment none (some (sg true true 20))) sIn)).ctr (inA 0x428) = 1 ∧
    sIn.sopRefused 9 (sg true false 0) (some (sg false true 20)) = none ∧
    (let t := nxt (exec (.ingressSegment (some (sg true false 0)) (some (sg false true 20))) sIn)
     (t.link 0).length = 1 ∧ t.ctr (inA 0x408) = 84 ∧ t.opn 9 = none) ∧
    (let s := { sIn with ing := { sIn.ing with opn := [(9, opF)] } }
     let t := nxt (exec (.ingressSegment (some (sg false false 0)) (some (sg false false 0))) s)
     (t.opn 9).map (fun f => f.bytes) = some 192 ∧ (t.link 0).length = 2) := by
  refine ⟨?_, ?_, ?_, ?_⟩ <;> decide +kernel

/-- Frames that end badly: truncated, runt, broken, and cut by another SOP. -/
theorem witness_ingress_bad_ends : (let s := fun (n : Nat) (d : Bool) => { sIn with ing := { sIn.ing with opn := [(9, { opF with bytes := n, dispatched := d })] } }
    ((s 16383 true).handles 0 = [] ∧ (16383 - 256) % (s 16383 true).bufSize 0 ≠ 0) ∧
    (let t := nxt (exec (.ingressSegment (some (sg false false 0)) none) (s 16383 true))
     t.ing.vq = [⟨3, 7, 2, 16383⟩] ∧ t.ctr (inA 0x420) = 1 ∧ t.opn 9 = some .skip) ∧
    (let t := nxt (exec (.ingressSegment (some (sg false true 3)) none) (s 10 false))
     t.ctr (inA 0x410) = 1 ∧ t.link 0 = [.skip 3 7] ∧ t.opn 9 = none) ∧
    (let t := nxt (exec (.ingressSegment (some { sg false true 10 with fcsOk := false }) none) (s 64 true))
     t.ing.vq = [⟨3, 7, 2, 74⟩] ∧ t.ctr (inA 0x418) = 1) ∧
    (let t := nxt (exec (.ingressSegment (some (sg false false 5)) none) (s 64 true))
     t.ing.vq = [⟨3, 7, 2, 64⟩] ∧ t.ctr (inA 0x428) = 1 ∧ t.opn 9 = some .skip) ∧
    (let t := nxt (exec (.ingressSegment (some (sg true true 20)) none) (s 64 true))
     t.ing.vq = [⟨3, 7, 2, 64⟩] ∧ t.ctr (inA 0x428) = 1 ∧ t.ctr (inA 0x420) = 1 ∧ t.opn 9 = none)) ∧
    (let s := { sIn with ing := { sIn.ing with opn := [(9, OpenF.skip)] } }
     let t := nxt (exec (.ingressSegment (some (sg true true 20)) none) s)
     t.opn 9 = none ∧ t.ctr (inA 0x428) = 1 ∧ t.ctr (inA 0x420) = 0) := by
  refine ⟨?_, ?_⟩ <;> decide +kernel

/-- Beside `tabs`, 12 is an LPM table of two strides, 13 an interval table of depth 1, 14 a mirrored index table. -/
def tabs2 (s : State) : State :=
  (tbl 12 0x300 0x02000008 (tbl 13 0x400 0x01000008 (tbl 14 0x08000100 8 (tabs s)))).setReg (tbA (0x1000 + 32 * 12 + 24)) 4

/-- The state in which the request of table instruction `i` waits at its tile; tile 0 holds `bs` at its start. -/
def sTop (i : Instr) (bs : List Byte) (os : List Word) : State :=
  { nxt (exec i (on [dTblN, dTblS] (tabs2 (held 1 (so os))))) with tile := mwrite 0 [] (tlA 0 0 0) bs }

/-- Kind, phase, end, result and first byte of each operation. -/
def shown (s : State) : List (TKind × Nat × Bool × Word × Byte) := s.tb.ops.map (fun o => (o.kind, o.phase, o.fin, o.res, o.out.headD 0))

/-- The tile's winner is the rank's request. -/
def wins (s : State) (t : Nat) : Bool := s.winner t (s.present t []) = some 0 && (s.presented t 0).all (fun p => !p.1.orphan && !s.copyGone p.1 p.2)

theorem witness_look_kinds : (let s := { sTop (.look w0 5) [] [0x108, 0x200] with
       tile := mwrite 0 [] (tlA 0 0 0) (([9] ++ List.replicate 14 0 ++ [0x80]) ++ ([9] ++ List.replicate 14 0 ++ [0x80])) }
     wins s 0 = true ∧ shown (nxt (exec (.tileTransaction 0) (nxt (exec (.tileTransaction 0) (nxt (exec (.tileTransaction 0)
       (nxt (exec (.tileTransaction 0) s)))))))) = [(.look, 0, true, 1, 9)]) ∧
    (let s := sTop (.look w0 12) [] [0x108, 0x200]
     wins s 0 = true ∧ shown (nxt (exec (.tileTransaction 0) s)) = [(.look, 0, true, 0, 0)]) ∧
    (let s := sTop (.look w0 12) [2, 0, 0, 0x40] [0x108, 0x200]
     shown (nxt (exec (.tileTransaction 0) s)) = [(.look, 100, false, 0, 0)]) ∧
    (let s := sTop (.look w0 12) [2, 0, 0, 0x80] [0x108, 0x200]
     shown (nxt (exec (.tileTransaction 0) s)) = [(.look, 1, false, 0, 0)] ∧
     (nxt (exec (.tileTransaction 0) s)).tb.ops.map (fun o => o.node) = [2]) ∧
    (let s := sTop (.look w0 13) [] [0x108, 0x200]
     let t := nxt (exec (.tileTransaction 0) s)
     wins s 0 = true ∧ shown t = [(.look, 100, false, 0, 0)] ∧ shown (nxt (exec (.tileTransaction 0) t)) = [(.look, 100, true, 0, 0)]) ∧
    (let s := sTop (.look w0 13) (List.replicate 32 1) [0x108, 0x200]
     shown (nxt (exec (.tileTransaction 0) s)) = [(.look, 0, true, 0, 0)]) := by
  refine ⟨?_, ?_, ?_, ?_, ?_, ?_⟩ <;> decide +kernel

/-- On a mirrored table a row with an uncorrectable error is read at the other copy. -/
theorem witness_look_mirrored : (let s0 := sTop (.look w0 14) [] [0x108, 2]
    let s := { s0 with tileErr := [(laneKey 0 1 0, true)], tile := mwrite 0 [] (tlA 16 1 0) [7] }
    s.altOk 14 0 = true ∧ readOf s true 0 1 1 = some (7 :: List.replicate 31 0) ∧ readOf s false 0 1 1 = none ∧ wins s 0 = true ∧
    shown (nxt (exec (.tileTransaction 0) s)) = [(.look, 0, true, 1, 7)]) := by decide +kernel

/-- An UPD, a CAS and a window CAS of entry 2 wait at tile 0. -/
def sUp (t : Byte) : State := { sTop (.upd w0 t) [] [0x108, 2] with tile := mwrite 0 [] (tlA 0 1 20) [6] }
def sCas (t : Byte) (new old : Word) : State := sTop (.cas w0 t) [] [new, old, 2]

/-- After a transaction of tile `t`. -/
def after1 (t : Fin 32) (s : State) : State := nxt (exec (.tileTransaction t) s)

/-- The UPD of the mirrored table after both its writes. -/
def sUp2 : State := after1 16 (after1 0 (sUp 14))

theorem witness_table_writes : (wins (sUp 4) 0 = true ∧ (sUp 4).tile.wf 0 = true ∧ (sUp 4).altOk 4 0 = false ∧ shown (after1 0 (sUp 4)) = [(.upd, 200, true, 1, 0)]) ∧
    ((sUp 14).altOk 14 0 = true ∧ (shown (after1 0 (sUp 14)) == [(.upd, 200, false, 1, 0)]) = true ∧
     (shown sUp2 == [(.upd, 200, true, 1, 0)]) = true ∧ (mread 0 sUp2.tile (tlA 16 1 20) 1 == [6]) = true) := by
  refine ⟨?_, ?_⟩ <;> decide +kernel

theorem witness_table_cas : (wins (sCas 4 5 0) 0 = true ∧ (sCas 4 5 0).tKind 4 ≠ 5 ∧ (sCas 4 5 0).lockFill 0 = 0 ∧
     shown (after1 0 (sCas 4 5 0)) = [(.cas, 200, true, 1, 0)] ∧ (after1 0 (sCas 4 5 0)).tb.locks = [⟨0, 4, 2, 0⟩] ∧
     mread 0 (after1 0 (sCas 4 5 0)).tile (tlA 0 1 0) 1 = [5]) ∧
    (let u : State := { sCas 4 5 0 with tb := { (sCas 4 5 0).tb with locks := List.replicate 64 ⟨0, 4, 3, 9⟩ } }
     shown (after1 0 u) = [(.cas, 0, false, 0, 0)]) ∧
    (shown (after1 0 (sCas 4 5 3)) = [(.cas, 0, true, 0, 0)] ∧ (after1 0 (sCas 4 5 3)).tb.locks = []) ∧
    ((sCas 8 0 3).tKind 8 = 5 ∧ shown (after1 0 (sCas 8 0 3)) = [(.cas, 200, true, 0, 0)] ∧
     mread 0 (after1 0 (sCas 8 0 3)).tile (tlA 0 1 0) 4 = [3, 0, 1, 0]) := by
  refine ⟨?_, ?_, ?_, ?_⟩ <;> decide +kernel

/-- A write of TBL_CMD, entry 2 of table 4. -/
def sCw : State := nxt (exec (.tblCmdWriteEntry (.stw 0) false 4) ((sCmd 2).setReg (tbA 0x400) 0x55))

theorem witness_table_cmd_write : (sCw.winner 0 (sCw.present 0 [])).isSome = true ∧ shown (after1 0 sCw) = [(.cmdWrite, 200, true, 0, 0)] ∧
    mread 0 (after1 0 sCw).tile (tlA 0 1 0) 1 = [0x55] := by decide +kernel

/-- A request to an island that does not serve waits; a fault of steward 0 before CFG_START_OK fails the attempt. -/
theorem witness_fabric_waits : (let s := sC.setDom dTime { sC.pdom dTime with restarting := true }
     s.runs dCfg = true ∧ s.serves (tmA 0x24) = false ∧
     (let t := nxt (exec (.registerFabricAccess (some (rq false (BitVec.ofNat 24 (tmA 0x24 / 4)) 0))) s)
      t.fab.ack = false ∧ t.fab.ctl.isSome = true) ∧
     isNext (exec (.registerWrite .ctl (BitVec.ofNat 26 (tmA 0x24)) 7 0xF) s) s = true) := by decide +kernel

theorem witness_start_fault : sOk.stwLive 0 = true ∧
    (let t := nxt (exec (.stewardFault 0 4) sOk)
     t.cfg.phase = 5 ∧ isNext (exec (.cfgStartOk (.stw 0) true) (t.setStw 0 { t.stwd 0 with started := true, faulted := false }))
       (t.setStw 0 { t.stwd 0 with started := true, faulted := false }) = true ∧
     (boot (nxt (exec (.startAttemptFail 0xD) t))).2.1 = 13 ∧ (boot (nxt (step t))).2.1 = 13) := by decide +kernel

/-- An interrupt at ELEV 2 is a double fault of the steward. -/
theorem witness_interrupt_elev2 : (let t := nxt (exec .interruptBind (sIc.setCtx 1404 { sIc.ctx 1404 with elev := 2 }))
     t.canIssue 1404 = true ∧ (t.ctx 1404).ie = true ∧ t.icSample.irqDue 0 = true ∧ (t.ctx 1404).floors.length < 15 ∧
     (nxt (exec (.stewardInterruptEntry 0) t)).fld (swA 0x310) 27 24 = 1) := by decide +kernel

/-- Minimal mode without hold-up power: the operation is deferred, and DEFER falls when it runs later. -/
theorem witness_minimal_defer : (let s := (sMin 3 0x3010000 2).setReg (cfA 0x34) 0
     let t := nxt (exec (.minimalWrite ⟨.mailbox, false⟩) s)
     t.reg (cfA 0x30) = 0x40000002 ∧ t.reg (cfA 0x38) = 4 ∧ t.flash = s.flash ∧ t.ic = s.ic ∧
     (let u := nxt (exec (.minimalWrite ⟨.mailbox, false⟩) (t.setReg (cfA 0x34) 0x800000FF))
      u.reg (cfA 0x30) = 0 ∧ u.flR 0x3010000 2 = [0xAB, 0xCD])) ∧
    (let f : State := nxt (exec (.holdupChange true 8) { sFc 2 0x3000000 2 true with now := 11 })
     (nxt (exec (.flashCancel (.stw 0)) { f with now := 14 })).cfg.flash = none ∧
     isNext (exec (.flashCancel (.stw 0)) { f with now := 15 }) { f with now := 15 } = true) := by
  refine ⟨?_, ?_⟩ <;> decide +kernel

/-- The steps of an entry, a brown-out in the cycle of a wake, and the counts of CK_RANK at a change of P-level. -/
theorem witness_power_steps : (let s0 := sPw { PDom.init with st := .hold, entering := some .hold, tdue := 100052 }
     let s := s0.setRank 3 { s0.rank 3 with out := [.vmark 3 7] }
     s.passes (100052 - 50) = true ∧ ((s.entryStep 3).rank 3).out = [] ∧
     (let u := s.setDom 3 { s.pdom 3 with tdue := 100090 }
      u.passes (100090 - 50) = false ∧ ((u.entryStep 3).rank 3).out = [.vmark 3 7])) ∧
    (let s := sPw { PDom.init with st := .rest, waking := true, tdue := 123994 }
     s.awake = true ∧ (123994 - 24000) / 10 ≠ s.now / 10 ∧ ((nxt (exec (.brownout 3) s)).pdom 3).st = .rest ∧
     (let u := s.setDom 3 { s.pdom 3 with tdue := 124002 }
      ((nxt (exec (.brownout 3) u)).pdom 3).st = .off ∧ ((nxt (exec (.brownout 3) u)).pdom 3).tdue = 140002)) ∧
    (let s := (sPw { PDom.init with st := .on, plevel := 1, pchg := some 3 }).setDue 3 32 100100
     tfind ((nxt (exec (.plevelChangeComplete 3) s)).rank 3).due 32 = some (100000 + (100 * plHalf 1 + plHalf 3 - 1) / plHalf 3)) := by
  refine ⟨?_, ?_, ?_⟩ <;> decide +kernel

theorem witness_entry_of_time : (let s0 := on [dTime] State.reset
    let s : State := { s0 with blk := 4, cfg := { s0.cfg with cold := false }, time := { s0.time with ns := 7, tick := 9 } }
    let t := nxt (exec (.domainEntry 17) s)
    s.voteByte dTime = 0 ∧ s.pmcRuns = true ∧ t.time.copyNs = 7 ∧ t.time.copyTick = 9) := by decide +kernel

/-- A STOPPED context is work of the fault context. -/
theorem witness_watchdog_stopq : (let s := (seated 0 (on [0] State.reset)).setCore 5 { Core.init with wdog := 4096, stopq := [2] }
    isNext (exec (.coreWatchdogExpiry 0 5) s) s = true) := by decide +kernel

/-- TAP scans, the data of DACC, and the fabric's end of a debug access. -/
theorem witness_tap : (let t := nxt (exec (.daccRead 0x30000004) (nxt (exec (.daccWrite 0x30000004 0xF000) (sDb 0))))
     t.dbg.tap = .idle ∧ t.dbg.irCap = 1 ∧ t.dbg.ir = 8 ∧ t.dbg.accData = 0xF000 ∧
     ((nxt (exec (.daccRead 0x30000004) t)).dbg.dr.take 16 = bitsOf 16 0xF000) ∧ (nxt (exec .tapReset t)).dbg.ir = 1 ∧
     (nxt (exec .tapReset t)).dbg.tap = .reset) ∧
    (let t := nxt (exec (.daccRead (BitVec.ofNat 32 (tmA 0x24))) ((sDb 0).setDom dTime { PDom.init with st := .on }))
     let u := nxt (exec (.registerFabricAccess none) (nxt (exec .tapReset t)))
     u.dbg.accStatus = 0 ∧ u.dbg.ir = 1 ∧ u.fab.dbg = none ∧
     (let v := t.setDom dTime { t.pdom dTime with st := .off }
      (nxt (exec (.registerFabricAccess none) v)).dbg.accStatus = 2) ∧
     (let v := t.setDom dTime { t.pdom dTime with paused := true }
      (nxt (exec (.registerFabricAccess none) v)).dbg.accStatus = 1)) ∧
    (let s := { sDb 0 with sramErr := [(1, true)] }
     (nxt (exec (.registerFabricAccess none) (nxt (exec (.daccRead 0x3000008) s)))).dbg.accStatus = 3) := by
  refine ⟨?_, ?_, ?_⟩ <;> decide +kernel

/-- A failing register access of each requester. -/
theorem witness_register_fails : (let t := nxt (exec (.registerWrite .ctl (BitVec.ofNat 26 (rkA 0 8)) 0 0xF) sC)
     t.fab.err = true ∧ t.fab.ack = true ∧ t.reg 8 = 0xB1000008) ∧
    (let s := ss id
     s.reqOk (.stw 0) = true ∧ s.ctlErr (rkA 0 8) 0xF ≠ none ∧
     ((nxt (exec (.registerWrite (.stw 0) (BitVec.ofNat 26 (rkA 0 8)) 0 0xF) s)).ctx 1404).exc = some ⟨5, BitVec.ofNat 32 (0xF0000000 + rkA 0 8), 0x100, false, false⟩) ∧
    (let s := sDb 0
     s.ctlErr (tmA 0x24) 0xF ≠ none ∧ s.serves (tmA 0x24) = true ∧
     (nxt (exec (.registerWrite .dbg (BitVec.ofNat 26 (tmA 0x24)) 0 0xF) s)).dbg.accStatus = 2) := by
  refine ⟨?_, ?_, ?_⟩ <;> decide +kernel

/-- The output pins that follow from the state. -/
theorem test_pins : (let s := sPw PDom.init
    s.pgOut 3 = false ∧ s.pgOut dCfg = true ∧ s.xspiResetN = true ∧ State.reset.xspiResetN = false ∧ s.inCk = true ∧ s.egCk = true ∧
    (nxt (exec (.dcoFail 12) s)).inCk = false ∧ s.xspiBusy = false ∧ ({ s with cfg := { s.cfg with phase := 1 } } : State).xspiBusy = true ∧
    (sDb 0).tdoDriven = false) := by decide +kernel

/-! ### Clauses of the third review -/

/-- A store is released into the region under test; SKIPTO meets a bank that is not the core's. -/
theorem witness_release_abort : (let s := sBuf.setCore 0 { sBuf.core 0 with bgt := some (0, []) }
     s.runs 0 = true ∧ s.sp.wf 0 = true ∧
     (let t := nxt (exec (.storeBufferRelease 0 0) s)
      (t.core 0).bgt = none ∧ t.ctr (rkA 0 0x188) = 1 ∧ t.spR 0 3 6 = [0, 0xDD, 0xCC, 0xBB, 0xAA, 0])) ∧
    (held 1 (so [86])).portBad 0 0x38000 0x108 = none ∧
    (let s := (held 1 (so [86])).setReg (spOwn 0 0) 1
     Rdy s w0 1 ∧ (s.mdOf 0).verdict = 1 ∧ skipBad (s.mdOf 0) 86 = false ∧ s.portBad 0 0x38000 0x108 = some 0x38000 ∧
     isNext (exec (.skipto w0) s) (exc0 (ent (.skipto w0) s) 5 0x38000) = true) := by
  refine ⟨?_, ?_, ?_⟩ <;> (try unfold Rdy Ready) <;> decide +kernel

/-- The turn cap inside a group, or at ELEV 2, becomes pending. -/
theorem witness_turn_cap_pending : (let s := st (fun c => { c with turn := 1, grp := ⟨0, 2, 0x100, 1⟩ })
     (s.ctx 0).grp.left ≠ 0 ∧ (s.ctx 0).pc = (s.ctx 0).grp.next ∧ (s.ctx 0).wait = .none ∧ s.capOf 0 (s.mdOf 0) = 0 ∧
     isNext (exec (.turnCapExpiry 0 0 0) s) ((s.count (rkA 0 0x130)).setCtx 0 { s.ctx 0 with v11done := true, v11pend := true }) = true) ∧
    (let s := st (fun c => { c with turn := 1, elev := 2 })
     isNext (exec (.turnCapExpiry 0 0 0) s) ((s.count (rkA 0 0x130)).setCtx 0 { s.ctx 0 with v11done := true, v11pend := true }) = true) := by
  refine ⟨?_, ?_⟩ <;> decide +kernel

/-- A rank that leaves ON presents nothing at its guest bay, and with no guest its commands end with 0xFE. -/
theorem witness_guest_gone : (let s0 := sh [] [{ cmd 3 0 0 0 0 [] [] false with accepted := true }]
     let s := s0.setRank 0 { s0.rank 0 with gq := [.cmd 0 0 0], gcmt := [⟨0, 0⟩], gkill := [⟨0, 1⟩] }
     s.isOn 0 = true ∧ s.leaving 0 = false ∧
     (let t := nxt (exec (.gstPgChange false) s)
      (t.rank 0).gq = [] ∧ (t.rank 0).gcmt = [] ∧ (t.ctx 0).hs.map (fun h => (h.last, h.err, h.killed, h.fin)) = [(true, some 0xFE, false, false)]) ∧
     (let u := s.setDom 0 { s.pdom 0 with st := .off, entering := some .off, tdue := 4000 }
      u.leaving 0 = true ∧ isNext (exec (.guestIssue 0) u) u = true ∧ isNext (exec (.guestKillNotice 0) u) u = true ∧
      isNext (exec (.guestCommitNotice 0) u) u = true)) := by decide +kernel

/-- The key of an insert that waits at its sequencer is in its table already. -/
theorem witness_insert_present : (let t := nxt (exec (.insertSequencer 0) sIns)
     let op := fun (k : TKind) => { TOp.new 14 k 5 false with id := 9, seqHalf := some 0, key := [1, 2, 3, 4], data := List.replicate 4 8 }
     let s := fun (k : TKind) => ({ t with tb := { t.tb with ops := [op k] } } : State)
     ((t.insert 5 false [1, 2, 3, 4] (List.replicate 4 8)).1 = .present 0) ∧ t.lockOf 5 0 = none ∧ t.tile.wf 0 = true ∧
     (nxt (exec (.insertSequencer 0) (s .lrn))).tile = t.tile ∧
     (nxt (exec (.insertSequencer 0) (s .lrn))).tb.ops.map (fun o => (o.fin, o.res)) = [(true, 0)] ∧
     (nxt (exec (.insertSequencer 0) (s .upd))).tile ≠ t.tile ∧
     (nxt (exec (.insertSequencer 0) (s .upd))).tb.ops.map (fun o => (o.fin, o.res)) = [(true, 1)]) := by decide +kernel

/-- The PMC goes on with a sensor at its limit; a thermal limit comes while it is paused. -/
theorem witness_pmc_paused : (let s := (sPw PDom.init).setDom 20 { PDom.init with paused := true, fdue := 50000 }
     isNext (exec (.thermalLimit 2 500) s) (s.sense 2 500) = true ∧
     (let t := s.sense 2 500
      t.tooHot = some 2 ∧ t.pm.boxing = false ∧ t.blk ≠ 5 ∧ pauses 19 = true ∧ (t.pdom 20).entering = none ∧
      (nxt (exec (.islandResume 19) t)).pm.boxing = true ∧ (nxt (exec (.islandResume 19) t)).fld (pmA 0x504) 23 20 = 2) ∧
     s.tooHot = none ∧ s.stood 20 45900 = 54100 ∧ (nxt (exec (.islandResume 19) s)).pm.boxing = false) := by decide +kernel

/-- PD_CFG loses its contents with an erase under way: the erase has ended (15 R442). -/
theorem witness_flash_last : (let s0 := sFc 3 0x3000000 0 false
     let s : State := { s0 with cfg := { s0.cfg with cold := false } }.setDom dCfg { PDom.init with st := .off, entering := some .off }
     s.pmcRuns = true ∧ s.flash.wf 0xFF = true ∧ s.cfg.flash.map (fun f => (f.kind, f.deferred)) = some (3, false) ∧
     (let t := nxt (exec (.domainEntryComplete ⟨dCfg, by decide⟩) s)
      t.cfg.flash = none ∧ t.flash = [] ∧ (t.pdom dCfg).entering = none)) := by decide +kernel

/-- A rank and a table half come out of HOLD. -/
theorem witness_hold_wake : (let s0 := sPw { PDom.init with st := .hold, waking := true, tdue := 100000 }
     let s := s0.setCtx 351 { Ctx.init 351 with hs := [{ cmd 3 0 0 0 0 [] [] false with accepted := true }] }
     let t := nxt (exec (.domainWakeComplete 3) s)
     (s.pdom 3).st = .hold ∧ (t.pdom 3).st = .on ∧ bit (t.gstCapWord 3) 31 = false ∧
     (t.ctx 351).hs.map (fun h => (h.last, h.err)) = [(true, some 0xFE)] ∧ (t.ctx 0) = (s.ctx 0)) ∧
    (let s0 := (sPw PDom.init).setDom dTblN { PDom.init with st := .hold, waking := true, tdue := 100000 }
     let s := s0.setArb 2 { s0.arb 2 with park := some 4 }
     let t := nxt (exec (.domainWakeComplete ⟨dTblN, by decide⟩) s)
     (t.pdom dTblN).st = .on ∧ (t.arb 2).park = none ∧ tileDom 2 = dTblN) := by
  refine ⟨?_, ?_⟩ <;> decide +kernel

end Sys2Proof.Tests
end

section
/-! The register rows and REGISTER_WRITE (00 R6–R8, R528; 02 R71; 19 R509–R513): what each read returns and takes, and what a write
leaves. -/

namespace Sys2Proof.Machine
open Sys2Proof.Claim

/-! ### What an answer leaves unchanged -/

@[simp] theorem State.reg_answer (s : State) (q : Req) (w : Word) (a : Nat) : (s.answer q w).reg a = s.reg a := by cases q <;> rfl
@[simp] theorem State.log_answer (s : State) (q : Req) (w : Word) (a : Nat) : (s.answer q w).log a = s.log a := by cases q <;> rfl
@[simp] theorem State.lwLast_answer (s : State) (q : Req) (w : Word) (a : Nat) : (s.answer q w).lwLast a = s.lwLast a := by cases q <;> rfl
@[simp] theorem State.rank_answer (s : State) (q : Req) (w : Word) (r : Nat) : (s.answer q w).rank r = s.rank r := by cases q <;> rfl
@[simp] theorem State.hiLatch_answer (s : State) (q p : Req) (w : Word) : (s.answer q w).hiLatch p = s.hiLatch p := by cases q <;> rfl
@[simp] theorem State.answer_ranks (s : State) (q : Req) (w : Word) : (s.answer q w).ranks = s.ranks := by cases q <;> rfl
@[simp] theorem State.answer_led (s : State) (q : Req) (w : Word) : (s.answer q w).led = s.led := by cases q <;> rfl
@[simp] theorem State.answer_counters (s : State) (q : Req) (w : Word) : (s.answer q w).counters = s.counters := by cases q <;> rfl

@[simp] theorem State.log_lwKeep (s : State) (a : Nat) (w : Word) (b : Nat) : (s.lwKeep a w).log b = s.log b := rfl

@[simp] theorem State.lwLast_lwKeep_same (s : State) (a : Nat) (w : Word) : (s.lwKeep a w).lwLast a = w := by
  simp [State.lwLast, State.lwKeep]

/-- The requester that is answered has the data. -/
@[simp] theorem answered_answer (s : State) (q : Req) (w : Word) : answered (s.answer q w) q w := by
  cases q <;> simp [answered, State.answer]

/-! ### Reads that reach the register -/

/-- A functional read gives its requester the value of `f`. -/
theorem readCmd_reaches {s : State} {q : Req} {a : Nat} (h : Reaches s q a) (hq : q ≠ .dbg) (f : State → Word × State)
    (p : State → Word) : s.readCmd q a f p = (f s).2.answer q (f s).1 :=
  readCmd_ok s q a f p hq h.1 h.2.1 h.2.2

/-- A debug read gives the port the value of `p` and changes nothing else. -/
theorem readCmd_dbg_reaches {s : State} {a : Nat} (h : Reaches s .dbg a) (f : State → Word × State) (p : State → Word) :
    s.readCmd .dbg a f p =
      { s with dbg := { s.dbg with accStatus := 0, accAddr := BitVec.ofNat 32 a, accData := p s, accRead := true } } :=
  readCmd_dbg s a f p h.1 h.2.1 h.2.2

/-- A functional read of an LW register keeps the value it gives. -/
theorem readLw_reaches {s : State} {q : Req} {a : Nat} (h : Reaches s q a) (hq : q ≠ .dbg) (f : State → Word × State) :
    s.readLw q a f = ((f s).2.lwKeep a (f s).1).answer q (f s).1 :=
  readCmd_reaches h hq _ _

/-- A debug read of an LW register returns the value last kept. -/
theorem readLw_dbg_reaches {s : State} {a : Nat} (h : Reaches s .dbg a) (f : State → Word × State) :
    s.readLw .dbg a f =
      { s with dbg := { s.dbg with accStatus := 0, accAddr := BitVec.ofNat 32 a, accData := s.lwLast a, accRead := true } } :=
  readCmd_dbg_reaches h _ _

/-! ### Logs (00 R528) -/

theorem log_logPop_same (s : State) (a : Nat) : (s.logPop a).2.log a = ⟨(s.log a).ents.drop 1, false⟩ := by
  simp [logPop_eq, State.log]

theorem log_logPop_ne (s : State) {a b : Nat} (h : b ≠ a) : (s.logPop a).2.log b = s.log b := by
  simp [logPop_eq, State.log, tget_tset_ne _ _ _ _ _ h]

/-- The value of a log's read: the oldest entry, with OVF in bit 30. -/
theorem logPop_value (s : State) (a : Nat) :
    (s.logPop a).1 = (s.log a).ents.headD 0 ||| (if (s.log a).ovf then 0x40000000 else 0) := by
  rw [logPop_eq]
  cases (s.log a).ovf <;> rfl

/-- Every log row is the LW read that pops the log at its address. -/
theorem exec_logRow {i : Instr} {q : Req} {a : Nat} (h : logRow i = some (q, a)) (s : State) :
    exec i s = .next (s.readLw q a (fun s => s.logPop a)) := by
  unfold logRow at h
  split at h <;> cases h <;> rfl

/-- A functional read of a log register. -/
theorem logRow_functional {s : State} {i : Instr} {q : Req} {a : Nat} (hi : logRow i = some (q, a)) (h : Reaches s q a)
    (hq : q ≠ .dbg) :
    let w := (s.log a).ents.headD 0 ||| (if (s.log a).ovf then 0x40000000 else 0)
    ∃ t, exec i s = .next t ∧ answered t q w ∧ t.log a = ⟨(s.log a).ents.drop 1, false⟩ ∧ t.lwLast a = w ∧
      ∀ b, b ≠ a → t.log b = s.log b := by
  dsimp only
  rw [← logPop_value, exec_logRow hi, readLw_reaches h hq]
  exact ⟨_, rfl, answered_answer _ _ _, by simp [log_logPop_same], by simp, fun b hb => by simp [log_logPop_ne s hb]⟩

/-! ### Debug reads of the other rows (00 R8) -/

/-- A debug read changes nothing but the port's own registers, which hold the data of a read with STATUS 0. -/
theorem readCmd_dbg_frame {s : State} {a : Nat} (h : Reaches s .dbg a) (f : State → Word × State) (p : State → Word) :
    let t := s.readCmd .dbg a f p
    { t with dbg := s.dbg } = s ∧ t.dbg.accStatus = 0 ∧ t.dbg.accRead = true ∧ t.dbg.accData = p s := by
  dsimp only
  rw [readCmd_dbg_reaches h]
  exact ⟨rfl, rfl, rfl, rfl⟩

/-- The address is CTL_ERR_INFO's, or lies in its rank where a fault record's COUNT does. -/
def IsCountOrErrInfo (a : Nat) : Prop := a = 8 ∨ a % 0x100000 ∈ (List.range 13).map (fun j => 0x1018 + 0x20 * j)

theorem not_isCountOrErrInfo_puntPop (r : Rank) : ¬ IsCountOrErrInfo (rkA r.val 0x14) := by
  have := r.isLt
  simp only [IsCountOrErrInfo, rkA, List.mem_map, List.mem_range]
  rintro (h | ⟨j, -, h⟩) <;> omega

/-- The debug reads of the rows that read no log, each with its register's address. -/
def IsDebugRow (i : Instr) (a : Nat) : Prop :=
  (i, a) ∈ [(Instr.ctlErrInfoRead .dbg, 8), (.ledgerPeakRead .dbg, ldA 4), (.timeNowNsRead .dbg, tmA 0)] ∨
    (∃ (r : Rank) (seat : Seat), i = .faultrecCountRead .dbg r seat ∧ a = rkA r.val (0x1000 + 0x20 * seat.val + 0x18)) ∨
    (∃ r : Rank, i = .rankPuntPop .dbg r ∧ a = rkA r.val 0x14)

/-- Each is a debug read of its register, which returns what is stored where that is CTL_ERR_INFO or a COUNT. -/
theorem debugRow_reads {s : State} {i : Instr} {a : Nat} (hi : IsDebugRow i a) :
    ∃ f p, exec i s = .next (s.readCmd .dbg a f p) ∧ (IsCountOrErrInfo a → p s = s.reg a) := by
  simp only [IsDebugRow, List.mem_cons, Prod.mk.injEq, List.not_mem_nil, or_false] at hi
  rcases hi with (⟨rfl, rfl⟩ | ⟨rfl, rfl⟩ | ⟨rfl, rfl⟩) | ⟨r, seat, rfl, rfl⟩ | ⟨r, rfl, rfl⟩
  · exact ⟨_, _, rfl, fun _ => rfl⟩
  · exact ⟨_, _, rfl, fun h => absurd h (by unfold IsCountOrErrInfo; decide)⟩
  · exact ⟨_, _, rfl, fun h => absurd h (by unfold IsCountOrErrInfo; decide)⟩
  · exact ⟨_, _, rfl, fun _ => rfl⟩
  · exact ⟨_, _, rfl, fun h => absurd h (not_isCountOrErrInfo_puntPop r)⟩

theorem debugRow_frame {s : State} {i : Instr} {a : Nat} (hi : IsDebugRow i a) (h : Reaches s .dbg a) :
    ∃ t, exec i s = .next t ∧ { t with dbg := s.dbg } = s ∧ t.dbg.accStatus = 0 ∧ t.dbg.accRead = true ∧
      (IsCountOrErrInfo a → t.dbg.accData = s.reg a) := by
  obtain ⟨f, p, he, hp⟩ := debugRow_reads (s := s) hi
  obtain ⟨hs, hst, hrd, hd⟩ := readCmd_dbg_frame h f p
  exact ⟨_, he, hs, hst, hrd, fun ha => hd.trans (hp ha)⟩

/-! ### Registers cleared or restarted by their read (00 R6) -/

/-- A functional read of a register that clears returns its value and leaves 0. -/
theorem readRc_functional {s : State} {q : Req} {a : Nat} (h : Reaches s q a) (hq : q ≠ .dbg) (p : State → Word) :
    let t := s.readCmd q a (fun s => s.readRc a) p
    answered t q (s.reg a) ∧ t.reg a = 0 := by
  dsimp only
  rw [readCmd_reaches h hq]
  exact ⟨answered_answer _ _ _, by simp [State.readRc]⟩

theorem ledgerPeakRead_functional {s : State} {q : Req} (h : Reaches s q (ldA 4)) (hq : q ≠ .dbg) :
    ∃ t, exec (.ledgerPeakRead q) s = .next t ∧ answered t q (BitVec.ofNat 32 s.led.peak) ∧ t.led = { s.led with peak := s.fill } := by
  refine ⟨s.readCmd q (ldA 4) State.peakRead (fun s => BitVec.ofNat 32 s.led.peak), rfl, ?_⟩
  rw [readCmd_reaches h hq]
  exact ⟨answered_answer _ _ _, State.answer_led _ _ _⟩

/-! ### RANK_PUNT_POP (03 R101) -/

/-- An entry of rank `r`'s exception queue that is held and not yet popped. -/
def State.PuntDue (s : State) (r : Nat) (p : Nat × ExcE) : Prop :=
  p ∈ (s.rank r).exc ∧ p.2.popped = false ∧ s.isHeld r p.1 = true

/-- The entries that are held and not yet popped. -/
def State.puntPending (s : State) (r : Nat) : List (Nat × ExcE) :=
  (s.rank r).exc.filter (fun e => !e.2.popped && s.isHeld r e.1)

theorem mem_puntPending {s : State} {r : Nat} {p : Nat × ExcE} : p ∈ s.puntPending r ↔ s.PuntDue r p := by
  simp [State.puntPending, State.PuntDue, List.mem_filter]

/-- The entries of rank `r`, entry `k` marked as popped. -/
def State.markPopped (s : State) (r k : Nat) : State :=
  s.setRank r { s.rank r with exc := tmap (s.rank r).exc (fun j e => if j = k then { e with popped := true } else e) }

/-- The search for the entry of least order: what is found so far, and the next entry. -/
def olderOf (b : Option (Nat × Nat)) (e : Nat × ExcE) : Option (Nat × Nat) :=
  match b with
  | some (o, _) => if e.2.order < o then some (e.2.order, e.1) else b
  | none => some (e.2.order, e.1)

/-- The search finds what the library's `argmin` finds. -/
theorem foldl_olderOf (l : List (Nat × ExcE)) :
    l.foldl olderOf none = (l.argmin (fun e => e.2.order)).map (fun e => (e.2.order, e.1)) := by
  refine List.foldl_hom (init := none) (Option.map fun e : Nat × ExcE => (e.2.order, e.1)) fun b e => ?_
  cases b with
  | none => rfl
  | some b => by_cases hlt : e.2.order < b.2.order <;> simp [List.argAux, olderOf, hlt]

/-- RANK_PUNT_POP takes the pending entry of least order. -/
theorem puntPop_eq_argmin (s : State) (r : Nat) :
    s.puntPop r = match (s.puntPending r).argmin (fun e => e.2.order) with
      | none => (0, s)
      | some p => (BitVec.ofNat 32 (2 ^ 31 + p.1), s.markPopped r p.1) := by
  have hpop : s.puntPop r = match (s.puntPending r).foldl olderOf none with
      | none => (0, s)
      | some (_, k) => (BitVec.ofNat 32 (2 ^ 31 + k), s.markPopped r k) := rfl
  rw [hpop, foldl_olderOf]
  cases (s.puntPending r).argmin (fun e => e.2.order) <;> rfl

theorem puntPop_none {s : State} {r : Nat} (h : ¬ ∃ p, s.PuntDue r p) : s.puntPop r = (0, s) := by
  have hnil : s.puntPending r = [] :=
    List.eq_nil_iff_forall_not_mem.mpr fun p hp => h ⟨p, mem_puntPending.mp hp⟩
  rw [puntPop_eq_argmin, hnil]
  rfl

theorem puntPop_oldest {s : State} {r : Nat} (h : ∃ p, s.PuntDue r p) :
    ∃ p, s.PuntDue r p ∧ (∀ p', s.PuntDue r p' → p.2.order ≤ p'.2.order) ∧
      s.puntPop r = (BitVec.ofNat 32 (2 ^ 31 + p.1), s.markPopped r p.1) := by
  obtain ⟨p', hp'⟩ := h
  rcases hmin : (s.puntPending r).argmin (fun e => e.2.order) with _ | p
  · rw [List.argmin_eq_none] at hmin
    simp [← mem_puntPending, hmin] at hp'
  · refine ⟨p, mem_puntPending.mp (List.argmin_mem hmin), fun x hx => ?_, ?_⟩
    · exact List.le_of_mem_argmin (f := fun e : Nat × ExcE => e.2.order) (mem_puntPending.mpr hx) hmin
    · rw [puntPop_eq_argmin, hmin]

/-- Every entry with the number popped is marked. -/
theorem markPopped_popped (s : State) (r k : Nat) {e : Nat × ExcE} (he : e ∈ ((s.markPopped r k).rank r).exc) (hk : e.1 = k) :
    e.2.popped = true := by
  simp only [State.markPopped, State.rank_setRank_same, tmap, List.mem_map] at he
  obtain ⟨x, -, rfl⟩ := he
  simp [show x.1 = k from hk]

theorem rankPuntPop_nothing {s : State} {q : Req} {r : Rank} (h : Reaches s q (rkA r.val 0x14)) (hq : q ≠ .dbg)
    (hd : ¬ ∃ p, s.PuntDue r.val p) :
    ∃ t, exec (.rankPuntPop q r) s = .next t ∧ answered t q 0 ∧ t.ranks = s.ranks := by
  refine ⟨s.readLw q (rkA r.val 0x14) (fun s => s.puntPop r.val), rfl, ?_⟩
  rw [readLw_reaches h hq, puntPop_none hd]
  exact ⟨answered_answer _ _ _, by simp⟩

theorem rankPuntPop_oldest {s : State} {q : Req} {r : Rank} (h : Reaches s q (rkA r.val 0x14)) (hq : q ≠ .dbg)
    (hd : ∃ p, s.PuntDue r.val p) :
    ∃ t p, exec (.rankPuntPop q r) s = .next t ∧ s.PuntDue r.val p ∧ (∀ p', s.PuntDue r.val p' → p.2.order ≤ p'.2.order) ∧
      answered t q (BitVec.ofNat 32 (2 ^ 31 + p.1)) ∧ ∀ e ∈ (t.rank r.val).exc, e.1 = p.1 → e.2.popped = true := by
  obtain ⟨p, hp, hmin, heq⟩ := puntPop_oldest hd
  refine ⟨s.readLw q (rkA r.val 0x14) (fun s => s.puntPop r.val), p, rfl, hp, hmin, ?_⟩
  rw [readLw_reaches h hq, heq]
  exact ⟨answered_answer _ _ _, fun e he hk => markPopped_popped s r.val p.1 (by simpa using he) hk⟩

/-! ### Counters (02 R71) -/

/-- A functional read of the lower word latches the upper one for its requester. -/
theorem hiLatch_ctrLo (s : State) (q : Req) (b : Nat) : (s.ctrLo q b).2.hiLatch q = (s.ctr b >>> 32).setWidth 32 := by
  simp [State.ctrLo, State.hiLatch]

theorem counterLoRead_functional {s : State} {q : Req} {addr : RegAddr} {b : Nat} (hb : ctrBase (addr.toNat / 4 * 4) = some b)
    (h : Reaches s q (addr.toNat / 4 * 4)) (hq : q ≠ .dbg) (hab : addr.toNat / 4 * 4 = b) :
    ∃ t, exec (.counterLoRead q addr) s = .next t ∧ answered t q ((s.ctr b).setWidth 32) ∧
      t.hiLatch q = (s.ctr b >>> 32).setWidth 32 ∧ t.counters = s.counters := by
  have he : exec (.counterLoRead q addr) s = .next ((s.ctrLo q b).2.answer q (s.ctrLo q b).1) := by
    change execCounterLoRead q addr s = _
    simp [execCounterLoRead, hb, ← hab, readCmd_reaches h hq]
  exact ⟨_, he, answered_answer _ _ _, (State.hiLatch_answer _ _ _ _).trans (hiLatch_ctrLo s q b), State.answer_counters _ _ _⟩

theorem counterHiRead_functional {s : State} {q : Req} {addr : RegAddr} {b : Nat} (hb : ctrBase (addr.toNat / 4 * 4) = some b)
    (h : Reaches s q (addr.toNat / 4 * 4)) (hq : q ≠ .dbg) (hab : addr.toNat / 4 * 4 ≠ b) :
    ∃ t, exec (.counterHiRead q addr) s = .next t ∧ answered t q (s.hiLatch q) ∧ t.counters = s.counters := by
  have he : exec (.counterHiRead q addr) s = .next (s.answer q (s.hiLatch q)) := by
    change execCounterHiRead q addr s = _
    simp [execCounterHiRead, hb, hab, readCmd_reaches h hq]
  exact ⟨_, he, answered_answer _ _ _, State.answer_counters _ _ _⟩

/-! ### Writes (19 R512, R513; 18 R497, R498) -/

/-- An access to a region that does not answer fails. -/
theorem onReach_fails {s : State} {q : Req} {a n : Nat} {be : BitVec 4} (f : State) (hq : s.reqOk q = true)
    (he : s.ctlErr a be = some n) : s.onReach q a be f = s.regionFail q a n := by simp [State.onReach, hq, he]

/-- A steward below ELEV 2 enters an exception that is no stack error. -/
theorem stwRaise_enters (s : State) (i : Nat) (x : Exc) (hx : stackVec x.vec = false) (h : (s.ctx (1404 + i)).elev ≠ 2) :
    s.stwRaise i x = s.setCtx (1404 + i)
      { s.ctx (1404 + i) with st := .entry, wait := .none, skip := false, brkSkip := false, exc := some x } := by
  simp only [State.stwRaise, hx, h, Bool.false_and, decide_false, Bool.or_self, Bool.false_eq_true, if_false]

/-- A debug write above LEVEL 0 does nothing. -/
theorem mayWrite_dbg_level {s : State} {a : Nat} {f : State → State} (h : s.dbg.level ≠ 0) : s.mayWrite .dbg a f = s := if_pos h

/-- A write that may be made has its effect. -/
theorem mayWrite_of_MayWrite {s : State} {q : Req} {a : Nat} (h : MayWrite s q a) (f : State → State) : s.mayWrite q a f = f s := by
  obtain ⟨-, h⟩ := h
  cases q with
  | ctl => exact if_pos h
  | stw i => rfl
  | dbg => simp [State.mayWrite, h.1, h.2]

/-- A write is acknowledged as the statements say where LEVEL 0 stands for debug. -/
theorem acked_eq_claim (s : State) (q : Req) (a : Nat) (h : q = .dbg → s.dbg.level = 0) : s.acked q a = acked q a s := by
  cases q with
  | ctl => rfl
  | stw i => rfl
  | dbg => simp [State.acked, h rfl, State.daccDone, acked]

/-- A write that may be made has its effect and is acknowledged, where its effect leaves LEVEL as it was. -/
theorem writeCmd_of_MayWrite {s : State} {q : Req} {a : Nat} (h : MayWrite s q a) (f : State → State)
    (hf : (f s).dbg.level = s.dbg.level) : s.writeCmd q a f = acked q a (f s) := by
  obtain ⟨⟨hreq, herr, hserves⟩, hq⟩ := id h
  rw [State.writeCmd, onReach_ok _ _ _ _ _ hreq herr hserves, mayWrite_of_MayWrite h]
  refine acked_eq_claim _ _ _ ?_
  rintro rfl
  exact hf.trans hq.1

/-- VALID and OVERRUN are cleared where bit 31 is written. -/
theorem faultClear_eq (s : State) (a : Nat) (w : Word) :
    s.faultClear a w = if bit w 31 then s.setReg a (s.reg a &&& 0x3FFFFFFF) else s := rfl

theorem faultrecInfoClear_eq {s : State} {q : Req} {r : Rank} {seat : Seat} (w : Word)
    (h : MayWrite s q (rkA r.val (0x1000 + 0x20 * seat.val))) :
    let a := rkA r.val (0x1000 + 0x20 * seat.val)
    exec (.faultrecInfoClear q r seat w) s = .next (acked q a (if bit w 31 then s.setReg a (s.reg a &&& 0x3FFFFFFF) else s)) := by
  have hlevel : (s.faultClear (rkA r.val (0x1000 + 0x20 * seat.val)) w).dbg.level = s.dbg.level := by
    rw [faultClear_eq]; split <;> rfl
  exact congrArg Host.Outcome.next (writeCmd_of_MayWrite h _ hlevel)

/-! ### REGISTER_WRITE -/

section
variable {s : State} {addr : RegAddr} (w : Word) (be : BitVec 4)

/-- A steward's write has the register's effect on all four bytes. -/
theorem registerWrite_stw {i : StwNo} (h : Reaches s (.stw i) (addr.toNat / 4 * 4)) :
    exec (.registerWrite (.stw i) addr w be) s = .next (s.writeReg (.stw i) (addr.toNat / 4 * 4) w 0xF) :=
  congrArg Host.Outcome.next (onReach_ok _ _ _ _ _ h.1 h.2.1 h.2.2)

/-- A steward's write to a region that does not answer takes vector 5. -/
theorem registerWrite_stw_fails {i : StwNo} (hq : s.reqOk (.stw i) = true) (he : s.ctlErr (addr.toNat / 4 * 4) 0xF ≠ none)
    (hrun : (s.ctx (1404 + i.val)).st = .run) (helev : (s.ctx (1404 + i.val)).elev ≠ 2) :
    exec (.registerWrite (.stw i) addr w be) s = .next (s.setCtx (1404 + i.val)
      { s.ctx (1404 + i.val) with
          st := .entry, wait := .none, skip := false, brkSkip := false,
          exc := some ⟨5, BitVec.ofNat 32 (0xF0000000 + addr.toNat / 4 * 4), (s.ctx (1404 + i.val)).pc, false, false⟩ }) := by
  obtain ⟨n, hn⟩ := Option.ne_none_iff_exists'.mp he
  refine congrArg Host.Outcome.next ((onReach_fails _ hq hn).trans ?_)
  rw [State.regionFail, if_pos hrun]
  exact stwRaise_enters _ _ _ rfl helev

theorem reqOk_ctl (hon : s.isOn dCfg = true) (hfree : s.fab.ctl = none) : s.reqOk .ctl = true := by
  simp [State.reqOk, hon, hfree]

/-- CTL_ERR_INFO takes the first failure: its reason and word address. -/
theorem ctlFail_first (s : State) (a n : Nat) (h : bit (s.reg 8) 31 = false) :
    s.ctlFail a n = { s.setReg 8 (BitVec.ofNat 32 (2 ^ 31 + n * 2 ^ 28 + a % 2 ^ 26 / 4 * 4)) with
      fab := { s.fab with ack := true, err := true, rdata := 0 } } := by
  rw [State.ctlFail, h]
  rfl

/-- The control port's first failure is kept in CTL_ERR_INFO with its reason and word address. -/
theorem registerWrite_ctl_fails (hq : s.reqOk .ctl = true) {n : Nat} (he : s.ctlErr (addr.toNat / 4 * 4) be = some n)
    (hinfo : bit (s.reg 8) 31 = false) :
    exec (.registerWrite .ctl addr w be) s =
      .next { s.setReg 8 (BitVec.ofNat 32 (2 ^ 31 + n * 2 ^ 28 + addr.toNat / 4 * 4)) with
        fab := { s.fab with ack := true, err := true, rdata := 0 } } := by
  have haddr : addr.toNat / 4 * 4 % 2 ^ 26 / 4 * 4 = addr.toNat / 4 * 4 := by have := addr.isLt; omega
  refine congrArg Host.Outcome.next ((onReach_fails _ hq he).trans ?_)
  rw [State.regionFail, ctlFail_first _ _ _ hinfo, haddr]

/-- The control port's write to a register of R513 has its effect; to any other it only counts. -/
theorem registerWrite_ctl (hq : s.reqOk .ctl = true) (he : s.ctlErr (addr.toNat / 4 * 4) be = none)
    (hs : s.serves (addr.toNat / 4 * 4) = true) :
    let a := addr.toNat / 4 * 4
    exec (.registerWrite .ctl addr w be) s =
      .next (acked .ctl a (if hostMay a then s.writeReg .ctl a w be else s.count 0x100)) :=
  congrArg Host.Outcome.next (onReach_ok _ _ _ _ _ hq he hs)

/-- A write to an island that is paused or restarts itself changes nothing until it completes (log entry 117). -/
theorem registerWrite_ctl_held (hq : s.reqOk .ctl = true) (he : s.ctlErr (addr.toNat / 4 * 4) be = none)
    (hs : s.serves (addr.toNat / 4 * 4) = false) : exec (.registerWrite .ctl addr w be) s = .next s :=
  congrArg Host.Outcome.next (onReach_held _ _ _ _ _ hq he hs)

/-- A debug write that LEVEL forbids, or to a region that does not answer, ends with STATUS 2. -/
theorem registerWrite_dbg_refused (hon : s.isOn dDbg = true) (hidle : s.dbg.accStatus ≠ 1)
    (hs : s.serves (addr.toNat / 4 * 4) = true) (h : s.dbg.level ≠ 0 ∨ s.ctlErr (addr.toNat / 4 * 4) 0xF ≠ none) :
    exec (.registerWrite .dbg addr w be) s = .next (s.daccDone 2 (addr.toNat / 4 * 4)) := by
  refine congrArg Host.Outcome.next ?_
  by_cases hl : s.dbg.level = 2
  · have hq : s.reqOk .dbg = false := by rw [State.reqOk, hl]; simp
    rw [onReach_off _ _ _ _ _ hq]
    simp [State.denied, hon, hidle]
  · have hq : s.reqOk .dbg = true := by rw [State.reqOk, decide_eq_true hl]; simp [hon, hidle]
    cases he : s.ctlErr (addr.toNat / 4 * 4) 0xF with
    | none =>
      have hlevel : s.dbg.level ≠ 0 := h.resolve_right (not_not_intro he)
      rw [onReach_ok _ _ _ _ _ hq he hs, mayWrite_dbg_level hlevel, State.acked, if_neg hlevel]
    | some n => exact onReach_fails _ hq he

end

/-! ### The effect of a write on a stored register (00 R7, R9) -/

theorem writeReg_timeAdjNs (s : State) (q : Req) (w : Word) (be : BitVec 4) :
    s.writeReg q (tmA 0x24) w be = s.setReg (tmA 0x24) w := rfl

theorem writeReg_inChSel (s : State) (q : Req) (w : Word) (be : BitVec 4) :
    s.writeReg q (inA 8) w be = s.setReg (inA 8) (w &&& 0x3FF) := rfl

theorem writeReg_tblCmdAddr (s : State) (q : Req) (w : Word) (be : BitVec 4) :
    s.writeReg q (tbA 4) w be = s.setReg (tbA 4) w := rfl

/-- Ones written clear their bits. -/
theorem writeReg_pmcEv (s : State) (q : Req) (w : Word) (be : BitVec 4) :
    s.writeReg q (pmA 0x500) w be = s.setReg (pmA 0x500) (s.reg (pmA 0x500) &&& ~~~ w) := by
  change s.clrReg (pmA 0x500) w.toNat = _
  rw [State.clrReg, BitVec.ofNat_toNat, BitVec.setWidth_eq]

/-- BLK_ID is read only. -/
theorem writeReg_blkId (s : State) (q : Req) (w : Word) (be : BitVec 4) : s.writeReg q 0 w be = s := rfl

/-- Settles O58: each read row is one functional or debug read of its register, each write row one access that reaches it. -/
theorem registerAccess : Obligations.RegisterAccess := by
  unfold Obligations.RegisterAccess
  refine ⟨fun s i q a hi h => ⟨logRow_functional hi h, ?_⟩, fun s i a hi h => debugRow_frame hi h,
    fun s q => ⟨?_, ?_, ledgerPeakRead_functional, ?_, ?_, ?_⟩, fun s addr w be => ⟨?_, ?_, ?_, ?_⟩, fun s q w => ?_⟩
  · rintro rfl
    rw [exec_logRow hi, readLw_dbg_reaches h]
  · exact fun h hq => ⟨_, rfl, readRc_functional h hq _⟩
  · exact fun r seat h hq => ⟨_, rfl, readRc_functional h hq _⟩
  · exact fun r h hq => ⟨rankPuntPop_nothing h hq, rankPuntPop_oldest h hq⟩
  · exact fun addr b hb h hq => ⟨counterLoRead_functional hb h hq, counterHiRead_functional hb h hq⟩
  · exact fun r seat w h => faultrecInfoClear_eq w h
  · exact fun i h => registerWrite_stw w be h
  · exact fun i => registerWrite_stw_fails w be
  · intro hon hfree
    have hq := reqOk_ctl hon hfree
    refine ⟨fun n => registerWrite_ctl_fails w be hq, fun he hs => ⟨fun hm => ?_, fun hm => ?_⟩, registerWrite_ctl_held w be hq⟩
    · rw [registerWrite_ctl w be hq he hs, if_pos hm]
    · rw [registerWrite_ctl w be hq he hs, hm]; rfl
  · exact registerWrite_dbg_refused w be
  · exact ⟨writeReg_timeAdjNs s q w _, writeReg_inChSel s q w _, writeReg_tblCmdAddr s q w _, writeReg_pmcEv s q w _,
      writeReg_blkId s q w _⟩

end Sys2Proof.Machine
end

section
/-! What egress and the channels' commands leave (02 R53–R70, 14 R416). -/

namespace Sys2Proof.Machine
open Sys2Proof.Claim

/-! ### The free queue and the end of a frame at egress (13 R393, R395; 02 R56, R62) -/

/-- A chain handed to the free queue changes that queue alone. -/
theorem freeChainFor_eq (owner : Nat) (chs : List Nat) (m : Meta) (s : State) :
    ∃ q n, freeChainFor owner chs m s = { s with buf := { s.buf with freeq := q, freeNo := n } } := by
  unfold freeChainFor
  dsimp only
  split
  · exact ⟨s.buf.freeq, s.buf.freeNo, rfl⟩
  · exact ⟨_, _, rfl⟩

/-- A frame that leaves egress changes the frames there, the counts of shared chains and the free queue alone. -/
theorem egDone_eq (s : State) (f : EgF) (d : Bool) :
    ∃ fs sh q n, s.egDone f d =
      { s with eg := { s.eg with frames := fs, shared := sh }, buf := { s.buf with freeq := q, freeNo := n } } := by
  unfold State.egDone
  dsimp only
  split
  · obtain ⟨q, n, h⟩ := freeChainFor_eq 0x30 (if d then [f.ch] else []) f.md
      { s with eg := { s.eg with frames := s.eg.frames.filter (fun g => g.order ≠ f.order) } }
    exact ⟨_, s.eg.shared, q, n, h⟩
  · split
    · obtain ⟨q, n, h⟩ := freeChainFor_eq 0x31 _ f.md _
      exact ⟨_, _, q, n, h⟩
    · exact ⟨_, _, s.buf.freeq, s.buf.freeNo, rfl⟩

section
variable (s : State) (f : EgF) (d : Bool)

@[simp] theorem creditOf_egDone (j : Nat) : (s.egDone f d).creditOf j = s.creditOf j := by
  obtain ⟨fs, sh, q, n, h⟩ := egDone_eq s f d; rw [h]; rfl

@[simp] theorem lastSeg_egDone : (s.egDone f d).eg.lastSeg = s.eg.lastSeg := by
  obtain ⟨fs, sh, q, n, h⟩ := egDone_eq s f d; rw [h]

@[simp] theorem ctr_egDone (a : Nat) : (s.egDone f d).ctr a = s.ctr a := by
  obtain ⟨fs, sh, q, n, h⟩ := egDone_eq s f d; rw [h]; rfl

end

/-- What is left at egress of a dropped frame is marked as dropped. -/
theorem mem_frames_egDone {s : State} {f g : EgF} (hg : g ∈ (s.egDone f true).eg.frames) :
    g.st = 3 ∨ (g ∈ s.eg.frames ∧ g.order ≠ f.order) := by
  unfold State.egDone at hg
  dsimp only at hg
  split at hg
  · obtain ⟨q, n, h⟩ := freeChainFor_eq 0x30 [f.ch] f.md
      { s with eg := { s.eg with frames := s.eg.frames.filter (fun g => g.order ≠ f.order) } }
    rw [if_pos rfl, h] at hg
    exact .inr (by simpa using hg)
  · split at hg
    · obtain ⟨q, n, h⟩ := freeChainFor_eq 0x31 _ f.md _
      rw [h] at hg
      exact .inr (by simpa using (List.mem_filter.mp hg).1)
    · simp only [if_true, List.mem_map] at hg
      obtain ⟨x, hx, rfl⟩ := hg
      split
      · exact .inl rfl
      · exact .inr ⟨hx, ‹_›⟩


/-! ### EGRESS_FRAME_START (02 R53, R57; 14 R416) -/

/-- The front frame is the channel's and the lane's. -/
theorem egFront_spec {s : State} {ch : Nat} {lane : Lane} {f : EgF} (h : s.egFront ch lane = some f) : f.ch = ch := by
  have := List.find?_some h
  simp only [Bool.and_eq_true, decide_eq_true_eq] at this
  exact this.1.1

/-- A start needs the channel ATTACHED, no other frame of it started, and for a pending frame four credits. -/
theorem mayStart_spec {s : State} {f : EgF} (h : s.mayStart f = true) :
    s.chan f.ch = 2 ∧ f.st = 0 ∧ (∀ g ∈ s.eg.frames, g.ch = f.ch → g.st ≠ 1 ∧ g.st ≠ 2) ∧
      (f.md.verdict = 0 → 4 ≤ s.creditOf f.ch) := by
  simp only [State.mayStart, Bool.and_eq_true, decide_eq_true_eq, Bool.not_eq_true', List.any_eq_false, not_and] at h
  obtain ⟨⟨⟨⟨⟨hst, hch⟩, hno1⟩, hno2⟩, hcredit⟩, -⟩ := h
  refine ⟨hch, hst, fun g hg hgch => ⟨hno1 g hg hgch, hno2 g hg hgch⟩, fun hv => ?_⟩
  simpa [EgF.lenOf, hv] using hcredit

/-- What a start that R57 allows does. -/
theorem egressFrameStart_of_mayStart {s : State} {ch : Chan} {lane : Lane} {f : EgF} (hr : s.runs dOut = true)
    (hf : s.egFront ch.val lane = some f) (hm : s.mayStart f = true) :
    let t := bits (s.egMap ch.val) 5 0
    exec (.egressFrameStart ch lane) s = .next (
      if s.scheduled ch.val = false then s.putEg { f with st := 1 }
      else if s.gateOpen t f.md.tc.toNat = false then s
      else if s.guardOk t f.md.tc.toNat f.lenOf = true then s.putEg { f with st := 1 }
      else if f.gw then s else (s.putEg { f with gw := true }).count (tmA 0x910)) := by
  change execEgressFrameStart ch lane s = _
  simp [execEgressFrameStart, hf, hr, hm]

theorem egressFrameStart_not_mayStart {s : State} {ch : Chan} {lane : Lane} {f : EgF} (hf : s.egFront ch.val lane = some f)
    (hm : s.mayStart f = false) : exec (.egressFrameStart ch lane) s = .next s := by
  change execEgressFrameStart ch lane s = _
  simp [execEgressFrameStart, hf, hm]

/-! ### Credits (02 R58) -/

theorem creditOf_le (s : State) (ch : Nat) : s.creditOf ch ≤ 4095 := by
  have := (tget 0 s.eg.credits ch).isLt
  simp only [State.creditOf]; omega

theorem creditOf_putCredit_same (s : State) (ch : Nat) {n : Nat} (h : n ≤ 4095) : (s.putCredit ch n).creditOf ch = n := by
  simp only [State.creditOf, State.putCredit, tget_tset_same, BitVec.toNat_ofNat]; omega

theorem creditOf_putCredit_ne (s : State) {ch j : Nat} (n : Nat) (h : j ≠ ch) : (s.putCredit ch n).creditOf j = s.creditOf j := by
  simp only [State.creditOf, State.putCredit, tget_tset_ne _ _ _ _ _ h]

@[simp] theorem creditOf_count (s : State) (a n j : Nat) : (s.count a n).creditOf j = s.creditOf j := by simp [State.creditOf]

/-- EG_CREDIT_RETURN adds the count, up to 4095, and counts an overflow. -/
theorem egCreditReturn_eq {s : State} {ch : Chan} {cnt : Byte} (hr : s.ready dOut = true) (hch : s.chan ch.val ≠ 0) (hc : cnt ≠ 0) :
    exec (.egCreditReturn ch cnt) s = .next ((s.putCredit ch.val (min 4095 (s.creditOf ch.val + cnt.toNat))).count (egA 0x420)
      (if 4095 < s.creditOf ch.val + cnt.toNat then 1 else 0)) := by
  change execEgCreditReturn ch cnt s = _
  simp only [execEgCreditReturn, hr, hch, hc, decide_false, Bool.not_true, Bool.or_self, Bool.false_eq_true, if_false]
  split
  · rw [Nat.min_eq_left (by omega)]
  · rw [Nat.min_eq_right (by omega)]; rfl

/-! ### EGRESS_SEGMENT (02 R55, R57) -/

/-- The started frame is at egress. -/
theorem egOpen_mem {s : State} {ch : Nat} {lane : Lane} {f : EgF} (h : s.egOpen ch lane = some f) : f ∈ s.eg.frames :=
  List.mem_of_find?_eq_some h

/-- A started frame once its segment `g` has gone out; an overrun of its gate is noted (14 R416). -/
def State.sentFrame (s : State) (f : EgF) (g : OutSeg) : EgF := { f.after g with overrun := f.overrun || s.gateShut f }

/-- Egress after one segment `g` of frame `f` has gone out on a port lane. -/
def State.egSent (s : State) (port : Fin 2) (ch : Nat) (f : EgF) (g : OutSeg) : State :=
  let seg := segOf ch (decide (f.sent = 0)) g
  let drv := if port.val = 0 then [(0, seg)] else tset s.eg.lastSeg 1 seg
  (((({ s with eg := { s.eg with lastSeg := drv } }).putCredit ch (s.creditOf ch - 1)).putEg
    (s.sentFrame f g)).count (egA 0x408) g.bytes.length).count (tmA 0x918) (b2n (s.gateShut f))

/-- Without a credit no segment goes out. -/
theorem egressSegment_noCredit {s : State} {port : Fin 2} {ch : Chan} {lane : Lane} {f : EgF}
    (hf : s.egOpen ch.val lane = some f) (hc : s.creditOf ch.val = 0) : exec (.egressSegment port ch lane) s = .next s := by
  change execEgressSegment port ch lane s = _
  simp [execEgressSegment, hf, hc]

/-- With one, the segment goes out; the frame leaves egress after its EOP. -/
theorem egressSegment_eq {s : State} {port : Fin 2} {ch : Chan} {lane : Lane} {f : EgF} {g : OutSeg} (hr : s.runs dOut = true)
    (hf : s.egOpen ch.val lane = some f) (hg : s.nextSeg f = some g) (hc : s.creditOf ch.val ≠ 0) (hp : s.portFree port.val = true) :
    exec (.egressSegment port ch lane) s = .next (
      if g.eop then (((s.egSent port ch.val f g).count (egA 0x400)).count (egA 0x410) (b2n g.err)).egDone
        (s.sentFrame f g) false
      else s.egSent port ch.val f g) := by
  change execEgressSegment port ch lane s = _
  cases he : g.eop <;> simp [execEgressSegment, hf, hr, hp, hc, hg, he, State.egSent, State.sentFrame]

section
variable (s : State) (port : Fin 2) (ch : Nat) (f : EgF) (g : OutSeg)

theorem creditOf_egSent (h : s.creditOf ch ≠ 0) : (s.egSent port ch f g).creditOf ch + 1 = s.creditOf ch := by
  have hle := creditOf_le s ch
  have hput := creditOf_putCredit_same { s with eg := { s.eg with lastSeg :=
    if port.val = 0 then [(0, segOf ch (decide (f.sent = 0)) g)] else tset s.eg.lastSeg 1 (segOf ch (decide (f.sent = 0)) g) } }
    ch (n := s.creditOf ch - 1) (by omega)
  have heq : (s.egSent port ch f g).creditOf ch = s.creditOf ch - 1 := by
    simp only [State.egSent, creditOf_count]
    exact hput
  omega

theorem lastSeg_egSent : tfind (s.egSent port ch f g).eg.lastSeg port.val = some (segOf ch (decide (f.sent = 0)) g) := by
  simp only [State.egSent, State.count_eg, State.putEg, State.putCredit]
  obtain ⟨p, hp⟩ := port
  obtain rfl | rfl : p = 0 ∨ p = 1 := by omega
  · rfl
  · exact tfind_tset_same _ _ _

theorem ctr_egSent (a : Nat) : (s.egSent port ch f g).ctr a =
    s.ctr a + (if a = egA 0x408 then BitVec.ofNat 64 g.bytes.length else 0) +
      (if a = tmA 0x918 then BitVec.ofNat 64 (b2n (s.gateShut f)) else 0) := by
  simp only [State.egSent, count_ctr]
  rfl

/-- The frame keeps its place with the bytes added. -/
theorem mem_frames_egSent (h : f ∈ s.eg.frames) :
    s.sentFrame f g ∈ (s.egSent port ch f g).eg.frames := by
  simp only [State.egSent, State.count_eg, State.putEg, State.putCredit, List.mem_map]
  exact ⟨f, h, by simp [State.sentFrame, EgF.after]⟩

end

/-- A segment of a started frame that has a credit. -/
theorem egressSegment_sent {s : State} {port : Fin 2} {ch : Chan} {lane : Lane} {f : EgF} {g : OutSeg} (hr : s.runs dOut = true)
    (hf : s.egOpen ch.val lane = some f) (hg : s.nextSeg f = some g) (hc : s.creditOf ch.val ≠ 0) (hp : s.portFree port.val = true) :
    ∃ t seg, exec (.egressSegment port ch lane) s = .next t ∧ t.creditOf ch.val + 1 = s.creditOf ch.val ∧
      tfind t.eg.lastSeg port.val = some seg ∧ seg.ch.toNat = ch.val ∧ seg.sop = decide (f.sent = 0) ∧ seg.eop = g.eop ∧
      seg.err = g.err ∧ seg.data = BitVec.ofNat 512 (leNat g.bytes) ∧
      t.ctr (egA 0x408) = s.ctr (egA 0x408) + BitVec.ofNat 64 g.bytes.length ∧
      t.ctr (tmA 0x918) = s.ctr (tmA 0x918) + (if s.gateShut f then 1 else 0) ∧
      (g.eop = true → t.ctr (egA 0x400) = s.ctr (egA 0x400) + 1) ∧
      (g.eop = false → ∃ f1 ∈ t.eg.frames, f1.order = f.order ∧ f1.sent = f.sent + g.bytes.length) := by
  have hch : (segOf ch.val (decide (f.sent = 0)) g).ch.toNat = ch.val := by
    have := ch.isLt
    simp only [segOf, BitVec.toNat_ofNat]; omega
  have hcredit := creditOf_egSent s port ch.val f g hc
  have hlast := lastSeg_egSent s port ch.val f g
  have hctr := ctr_egSent s port ch.val f g
  have hshut : BitVec.ofNat 64 (b2n (s.gateShut f)) = if s.gateShut f then 1 else 0 := by cases s.gateShut f <;> rfl
  rw [egressSegment_eq hr hf hg hc hp]
  cases he : g.eop
  · refine ⟨_, _, rfl, hcredit, hlast, hch, rfl, he, rfl, rfl, ?_, ?_, nofun, fun _ =>
      ⟨_, mem_frames_egSent s port ch.val f g (egOpen_mem hf), rfl, rfl⟩⟩
    · simp [hctr, egA, tmA]
    · simp [hctr, egA, tmA, hshut]
  · refine ⟨_, _, rfl, ?_, ?_, hch, rfl, he, rfl, rfl, ?_, ?_, fun _ => ?_, nofun⟩
    · simpa using hcredit
    · simpa using hlast
    · simp [count_ctr, hctr, egA, tmA]
    · simp [count_ctr, hctr, egA, tmA, hshut]
    · simp [count_ctr, hctr, egA, tmA]

/-- Settles O43: the conditions of a start are those of `mayStart`, and a segment's effect is `egSent`. -/
theorem egressFrames : Obligations.EgressFrames := by
  unfold Obligations.EgressFrames
  refine fun s ch lane hr => ⟨fun f hf => ⟨fun hm => ?_, egressFrameStart_not_mayStart hf⟩, fun port f g hf hg =>
    ⟨egressSegment_noCredit hf, egressSegment_sent hr hf hg⟩, fun cnt hl hch hc => ?_⟩
  · obtain ⟨hatt, hst, hno, hpend⟩ := mayStart_spec hm
    rw [egFront_spec hf] at hatt hno hpend
    refine ⟨hatt, hst, hno, hpend, ?_, fun hs hg => ?_, fun hs hg hk => ?_⟩ <;>
      rw [egressFrameStart_of_mayStart hr hf hm]
    · rintro (hs | ⟨hg, hk⟩)
      · simp [hs]
      · simp [hg, hk]
    · simp [hs, hg]
    · simp [hs, hg, hk]
  · refine ⟨_, egCreditReturn_eq ((ready_iff s dOut).mpr ⟨hr, hl⟩) hch hc, ?_, ?_, fun j hj => ?_, ?_⟩
    · simp [creditOf_putCredit_same s ch.val (Nat.min_le_left 4095 _)]
    · rw [count_ctr, if_pos rfl]
      split <;> rfl
    · simp [creditOf_putCredit_ne s _ hj]
    · unfold State.count; split <;> rfl

end Sys2Proof.Machine
end

section
/-! The states of channels and of the block: attach, detach and the whole-block detach (02 R59–R70). -/

namespace Sys2Proof.Machine
open Sys2Proof.Claim

/-! ### The state of a channel -/

theorem chan_setChan (s : State) (ch j : Nat) (v : BitVec 2) : (s.setChan ch v).chan j = if j = ch then v else s.chan j :=
  tget_tset 0 s.chSt ch j v

/-- A listed key and its value stand in the table. -/
theorem mem_of_tfind_eq_some {α : Type} {t : Tab α} {k : Nat} {v : α} (h : tfind t k = some v) : (k, v) ∈ t := by
  induction t with
  | nil => cases h
  | cons e t ih =>
    obtain ⟨i, w⟩ := e
    by_cases hi : i = k
    · simp_all [tfind]
    · exact List.mem_cons_of_mem _ (ih (by simpa [tfind, hi] using h))

/-- A channel in a state other than DETACHED is listed. -/
theorem mem_chSt_of_chan {s : State} {ch : Nat} (h : s.chan ch ≠ 0) : (ch, s.chan ch) ∈ s.chSt := by
  refine mem_of_tfind_eq_some ?_
  unfold State.chan tget at h ⊢
  cases hf : tfind s.chSt ch with
  | none => rw [hf] at h; exact absurd rfl h
  | some v => rfl

/-! ### What attach and detach change -/

/-- Dropping a channel's queued frames changes egress, the free queue and counters alone. -/
theorem dropQueued_frame (s : State) (ch : Nat) :
    { s.dropQueued ch with counters := s.counters, eg := s.eg, buf := s.buf } = s := by
  refine forEach_keeps (fun t : State => { t with counters := s.counters, eg := s.eg, buf := s.buf } = s) _ _ (fun f t ht => ?_) s rfl
  obtain ⟨fs, sh, q, n, h⟩ := egDone_eq (t.count (egA 0x418)) f true
  rw [h]
  exact ht

/-- Of the frames at egress, one that a drop passes over has another number than those dropped. -/
theorem mem_frames_forEach_egDone (l : List EgF) (s : State) {g : EgF}
    (hg : g ∈ (forEach l s (fun f s => (s.count (egA 0x418)).egDone f true)).eg.frames) :
    g.st = 3 ∨ (g ∈ s.eg.frames ∧ ∀ f ∈ l, g.order ≠ f.order) := by
  induction l generalizing s with
  | nil => exact .inr ⟨hg, by simp⟩
  | cons f l ih =>
    rw [forEach_cons] at hg
    rcases ih _ hg with h | ⟨hmem, hne⟩
    · exact .inl h
    · rcases mem_frames_egDone hmem with h | ⟨hmem, hf⟩
      · exact .inl h
      · rw [State.count_eg] at hmem
        exact .inr ⟨hmem, List.forall_mem_cons.mpr ⟨hf, hne⟩⟩

/-- After a drop the channel has no frame that has not started. -/
theorem st_ne_zero_of_mem_dropQueued {s : State} {ch : Nat} {f : EgF} (hf : f ∈ (s.dropQueued ch).eg.frames) (hch : f.ch = ch) :
    f.st ≠ 0 := by
  intro h0
  rcases mem_frames_forEach_egDone _ s hf with h3 | ⟨hmem, hne⟩
  · omega
  · exact hne f (List.mem_filter.mpr ⟨hmem, by simp [hch, h0]⟩) rfl

/-- A channel's detach changes its state, egress, the free queue, pause states and counters alone. -/
theorem detach_frame (s : State) (ch : Nat) :
    { s.detach ch with chSt := s.chSt, counters := s.counters, eg := s.eg, buf := s.buf, ing := s.ing } = s :=
  congrArg (fun t : State => { t with chSt := s.chSt, ing := s.ing }) (dropQueued_frame (s.setChan ch 3) ch)

theorem chan_detach (s : State) (ch j : Nat) : (s.detach ch).chan j = if j = ch then 3 else s.chan j := by
  have hframe := congrArg (State.chan · j) (dropQueued_frame (s.setChan ch 3) ch)
  exact hframe.trans (chan_setChan s ch j 3)

@[simp] theorem reg_detach (s : State) (ch a : Nat) : (s.detach ch).reg a = s.reg a := by
  have hframe := congrArg (State.reg · a) (detach_frame s ch)
  exact hframe

@[simp] theorem dbg_detach (s : State) (ch : Nat) : (s.detach ch).dbg = s.dbg := by
  have hframe := congrArg State.dbg (detach_frame s ch)
  exact hframe

/-- The events of votes change power domains alone. -/
theorem forEach_voteEvent_frame (l : List Nat) (s : State) :
    { forEach l s (fun r s => s.voteEvent r) with dom := s.dom } = s := by
  refine forEach_keeps (fun t : State => { t with dom := s.dom } = s) _ _ (fun r t ht => ?_) s rfl
  unfold State.voteEvent
  dsimp only
  split <;> exact ht

/-- A channel's attach clears its credits and makes it ATTACHING; beside that it changes power domains and pause states alone. -/
theorem attach_frame (s : State) (ch : Nat) :
    { s.attach ch with dom := s.dom, ing := s.ing } = (s.setChan ch 1).putCredit ch 0 :=
  congrArg (fun t : State => { t with ing := s.ing })
    (forEach_voteEvent_frame ((List.range 12).filter (fun r => onPath (s.laneOf ch) r))
      ((s.setChan ch 1).putCredit ch 0).refreshPause)

theorem chan_attach (s : State) (ch j : Nat) : (s.attach ch).chan j = if j = ch then 1 else s.chan j := by
  have hframe := congrArg (State.chan · j) (attach_frame s ch)
  exact hframe.trans (chan_setChan s ch j 1)

theorem creditOf_attach (s : State) (ch j : Nat) : (s.attach ch).creditOf j = if j = ch then 0 else s.creditOf j := by
  have hframe := congrArg (State.creditOf · j) (attach_frame s ch)
  refine hframe.trans ?_
  split
  · next h => rw [h]; exact creditOf_putCredit_same _ _ (Nat.zero_le _)
  · next h => exact creditOf_putCredit_ne _ 0 h

@[simp] theorem reg_attach (s : State) (ch a : Nat) : (s.attach ch).reg a = s.reg a := by
  have hframe := congrArg (State.reg · a) (attach_frame s ch)
  exact hframe

@[simp] theorem dbg_attach (s : State) (ch : Nat) : (s.attach ch).dbg = s.dbg := by
  have hframe := congrArg State.dbg (attach_frame s ch)
  exact hframe

/-! ### CH_CMD (02 R64, R65) -/

/-- CH_CMD_STATUS after a command: source, REASON, REFUSED, OP and channel. -/
def chStatus (q : Req) (op ch n : Nat) : Word :=
  BitVec.ofNat 32 (srcOf q * 2 ^ 28 + n * 2 ^ 25 + (if n = 0 then 0 else 2 ^ 24) + op * 2 ^ 16 + ch)

/-- A command reports in CH_CMD_STATUS and, where it is not refused, attaches or detaches. -/
theorem chCmd_eq (s : State) (q : Req) (op ch : Nat) :
    s.chCmd q op ch =
      let s1 := s.setReg (inA 4) (chStatus q op ch (s.chReason op ch))
      if s.chReason op ch ≠ 0 then s1 else if op = 1 then s1.attach ch else s1.detach ch := by
  have hbit : at_ (b2n (decide (s.chReason op ch ≠ 0))) 24 = if s.chReason op ch = 0 then 0 else 2 ^ 24 := by
    by_cases h : s.chReason op ch = 0 <;> simp [h, at_, b2n]
  unfold State.chCmd
  dsimp only
  rw [hbit]
  rfl

/-- A refused command changes CH_CMD_STATUS alone. -/
theorem chCmd_refused {s : State} {q : Req} {op ch : Nat} (hw : MayWrite s q (inA 0)) (h : s.chReason op ch ≠ 0) :
    s.writeCmd q (inA 0) (fun s => s.chCmd q op ch) =
      acked q (inA 0) (s.setReg (inA 4) (chStatus q op ch (s.chReason op ch))) := by
  have hs : s.chCmd q op ch = s.setReg (inA 4) (chStatus q op ch (s.chReason op ch)) := by rw [chCmd_eq]; exact if_pos h
  rw [writeCmd_of_MayWrite hw _ (by rw [hs]; rfl), hs]

@[simp] theorem reg_acked (q : Req) (a b : Nat) (s : State) : (acked q a s).reg b = s.reg b := by cases q <;> rfl
@[simp] theorem chan_acked (q : Req) (a ch : Nat) (s : State) : (acked q a s).chan ch = s.chan ch := by cases q <;> rfl
@[simp] theorem creditOf_acked (q : Req) (a ch : Nat) (s : State) : (acked q a s).creditOf ch = s.creditOf ch := by cases q <;> rfl
@[simp] theorem eg_acked (q : Req) (a : Nat) (s : State) : (acked q a s).eg = s.eg := by cases q <;> rfl

@[simp] theorem chan_setReg (s : State) (a ch : Nat) (w : Word) : (s.setReg a w).chan ch = s.chan ch := rfl
@[simp] theorem creditOf_setReg (s : State) (a ch : Nat) (w : Word) : (s.setReg a w).creditOf ch = s.creditOf ch := rfl

/-- CH_ATTACH of a DETACHED channel. -/
theorem chAttach_accepted {s : State} {q : Req} {ch : Chan} (hw : MayWrite s q (inA 0)) (h : s.chReason 1 ch.val = 0) :
    ∃ t, exec (.chAttach q ch) s = .next t ∧ t.reg (inA 4) = chStatus q 1 ch.val 0 ∧ t.chan ch.val = 1 ∧ t.creditOf ch.val = 0 ∧
      ∀ j, j ≠ ch.val → t.chan j = s.chan j ∧ t.creditOf j = s.creditOf j := by
  have hcmd : s.chCmd q 1 ch.val = (s.setReg (inA 4) (chStatus q 1 ch.val 0)).attach ch.val := by rw [chCmd_eq, h]; rfl
  have hwrite := writeCmd_of_MayWrite hw (fun s => s.chCmd q 1 ch.val) (by rw [hcmd, dbg_attach]; rfl)
  refine ⟨_, congrArg Host.Outcome.next hwrite, ?_⟩
  rw [hcmd]
  simp +contextual [chan_attach, creditOf_attach]

/-- CH_DETACH of an ATTACHED channel. -/
theorem chDetach_accepted {s : State} {q : Req} {ch : Chan} (hw : MayWrite s q (inA 0)) (h : s.chReason 2 ch.val = 0) :
    ∃ t, exec (.chDetach q ch) s = .next t ∧ t.reg (inA 4) = chStatus q 2 ch.val 0 ∧ t.chan ch.val = 3 ∧
      (∀ f ∈ t.eg.frames, f.ch = ch.val → f.st ≠ 0) ∧ ∀ j, j ≠ ch.val → t.chan j = s.chan j := by
  have hcmd : s.chCmd q 2 ch.val = (s.setReg (inA 4) (chStatus q 2 ch.val 0)).detach ch.val := by rw [chCmd_eq, h]; rfl
  have hwrite := writeCmd_of_MayWrite hw (fun s => s.chCmd q 2 ch.val) (by rw [hcmd, dbg_detach]; rfl)
  have hqueued : ∀ f ∈ ((s.setReg (inA 4) (chStatus q 2 ch.val 0)).detach ch.val).eg.frames, f.ch = ch.val → f.st ≠ 0 :=
    fun f hf => st_ne_zero_of_mem_dropQueued hf
  refine ⟨_, congrArg Host.Outcome.next hwrite, ?_⟩
  rw [hcmd]
  simp +contextual [chan_detach, hqueued]

/-! ### CHANNEL_ATTACHED and CHANNEL_DETACHED (02 R60, R61, R66) -/

/-- A channel that has reached its new state `v` sets its bit of CH_DONE. -/
theorem chDone_setChan (s : State) (ch : Nat) (v : BitVec 2) :
    let t := ((s.setChan ch v).chDone ch).refreshPause
    t.chan ch = v ∧ t.reg (inA (0x200 + 4 * (ch / 32))) = s.reg (inA (0x200 + 4 * (ch / 32))) ||| BitVec.ofNat 32 (2 ^ (ch % 32)) ∧
      (∀ j, j ≠ ch → t.chan j = s.chan j) ∧ { t with chSt := s.chSt, regs := s.regs, ing := s.ing } = s :=
  ⟨(chan_setChan s ch ch v).trans (if_pos rfl), State.reg_setReg_same _ _ _, fun j hj => (chan_setChan s ch j v).trans (if_neg hj), rfl⟩

theorem channelAttached_done {s : State} {ch : Chan} (hr : s.runs dIn = true) (hch : s.chan ch.val = 1) (hh : s.held ch.val = 0) :
    exec (.channelAttached ch) s = .next (((s.setChan ch.val 2).chDone ch.val).refreshPause) := by
  change execChannelAttached ch s = _
  simp [execChannelAttached, hr, hch, hh]

theorem channelDetached_eq {s : State} {ch : Chan} (hr : s.runs dIn = true) (hch : s.chan ch.val = 3) :
    exec (.channelDetached ch) s =
      .next (if s.drained ch.val then ((s.setChan ch.val 0).chDone ch.val).refreshPause else s) := by
  change execChannelDetached ch s = _
  cases hd : s.drained ch.val <;> simp [execChannelDetached, hr, hch, hd]

/-! ### BLK_DETACH_REQ (02 R67, R68) -/

theorem freeChain_eq (owner : Nat) (m : Meta) (s : State) :
    ∃ q n, freeChain owner m s = { s with buf := { s.buf with freeq := q, freeNo := n } } := freeChainFor_eq owner [] m s

/-- Flushing the exception queues changes ranks and the free queue alone. -/
theorem flushExc_eq (s : State) : ∃ x b, s.flushExc = { s with ranks := x, buf := b } := by
  refine forEach_keeps (fun t : State => ∃ x b, t = { s with ranks := x, buf := b }) _ _ (fun r t ht => ?_) s ⟨_, _, rfl⟩
  refine forEach_keeps (fun u : State => ∃ x b, u = { s with ranks := x, buf := b }) _ _ ?_ t ht
  rintro e u ⟨x, b, rfl⟩
  exact (freeChain_eq (0x20 + r) e.2.md _).elim fun q hq => hq.elim fun n h => ⟨_, _, h⟩

section
variable (s : State)

@[simp] theorem chan_flushExc (ch : Nat) : s.flushExc.chan ch = s.chan ch := by
  obtain ⟨x, b, h⟩ := flushExc_eq s; rw [h]; rfl

@[simp] theorem pins_flushExc : s.flushExc.pins = s.pins := by
  obtain ⟨x, b, h⟩ := flushExc_eq s; rw [h]

@[simp] theorem detaching_flushExc : s.flushExc.detaching = s.detaching := by
  obtain ⟨x, b, h⟩ := flushExc_eq s; rw [h]

end

/-- With nothing held, nothing is flushed. -/
theorem flushExc_of_not_isHeld {s : State} (h : ∀ r k, s.isHeld r k = false) : s.flushExc = s := by
  refine forEach_keeps (fun t : State => t = s) _ _ (fun r t ht => ?_) s rfl
  simp [ht, h]

/-- Detaching channels one by one leaves each of them DETACHING, and every other as it was. -/
theorem chan_forEach_detach (l : List Nat) (s : State) (ch : Nat) :
    (forEach l s (fun ch s => s.detach ch)).chan ch = if ch ∈ l then 3 else s.chan ch := by
  induction l generalizing s with
  | nil => rfl
  | cons j l ih =>
    rw [forEach_cons, ih, chan_detach]
    by_cases hl : ch ∈ l
    · simp [hl]
    · by_cases hj : ch = j <;> simp [hl, hj]

/-- It leaves the pins and the block's detach as they were. -/
theorem forEach_detach_keeps (l : List Nat) (s : State) :
    (forEach l s (fun ch s => s.detach ch)).pins = s.pins ∧ (forEach l s (fun ch s => s.detach ch)).detaching = s.detaching := by
  refine forEach_keeps (fun t : State => t.pins = s.pins ∧ t.detaching = s.detaching) _ _ (fun ch t ht => ?_) s ⟨rfl, rfl⟩
  have hframe := detach_frame t ch
  exact ⟨(congrArg State.pins hframe).trans ht.1, (congrArg State.detaching hframe).trans ht.2⟩

/-- The channels that the whole-block detach starts with. -/
def State.attachedOnes (s : State) : List Nat := (s.chSt.filter (fun e => e.2 = 1 || e.2 = 2)).map Prod.fst

theorem beginDetach_eq (s : State) :
    s.beginDetach = (forEach s.attachedOnes { s with detaching := true } (fun ch s => s.detach ch)).flushExc := rfl

/-- The detach of the block begins that of every channel that is attached or attaching. -/
theorem chan_beginDetach {s : State} {ch : Nat} (h : s.chan ch = 1 ∨ s.chan ch = 2) : s.beginDetach.chan ch = 3 := by
  have hne : s.chan ch ≠ 0 := by rcases h with h | h <;> rw [h] <;> decide
  have hmem : ch ∈ s.attachedOnes :=
    List.mem_map.mpr ⟨(ch, s.chan ch), List.mem_filter.mpr ⟨mem_chSt_of_chan hne, by simpa using h⟩, rfl⟩
  rw [beginDetach_eq, chan_flushExc, chan_forEach_detach, if_pos hmem]

theorem beginDetach_keeps (s : State) : s.beginDetach.pins = s.pins ∧ s.beginDetach.detaching = true := by
  rw [beginDetach_eq, pins_flushExc, detaching_flushExc]
  exact forEach_detach_keeps _ _

theorem blkDetachReq_running {s : State} (hreq : s.pins.detReq = false) (hb : s.blk = 2) :
    exec .blkDetachReq s = .next ({ s with pins := { s.pins with detReq := true } }.beginDetach) := by
  change execBlkDetachReq s = _
  simp [execBlkDetachReq, hreq, hb]

theorem blkDetachReq_detached {s : State} (hreq : s.pins.detReq = false) (hb : s.blk = 4 ∨ s.blk = 5) :
    exec .blkDetachReq s = .next { s with pins := { s.pins with detReq := true, detAck := true } } := by
  change execBlkDetachReq s = _
  rcases hb with hb | hb <;> simp [execBlkDetachReq, hreq, hb]

/-! ### BLOCK_DETACHED and the entry into BOXED (02 R68, 16 R450, R456) -/

/-- Two states agree in BLK_STATE, the whole-block detach, the pins and the ledger. -/
structure SameBlock (s t : State) : Prop where
  blk : t.blk = s.blk
  detaching : t.detaching = s.detaching
  pins : t.pins = s.pins
  led : t.led = s.led

theorem SameBlock.trans {s t u : State} (h : SameBlock s t) (k : SameBlock t u) : SameBlock s u :=
  ⟨k.blk.trans h.blk, k.detaching.trans h.detaching, k.pins.trans h.pins, k.led.trans h.led⟩

theorem holdCopies_eq (s : State) (d : Nat) : ∃ x, s.holdCopies d = { s with time := x } := by
  unfold State.holdCopies
  split <;> exact ⟨_, rfl⟩

theorem dropCtl_eq (s : State) (d : Nat) : ∃ x, s.dropCtl d = { s with fab := x } := by
  unfold State.dropCtl
  split <;> exact ⟨_, rfl⟩

theorem timeSave_eq (s : State) : ∃ m x, s.timeSave = { s with ao := m, time := x } := by
  unfold State.timeSave State.aoW
  exact ⟨_, _, rfl⟩

/-- A save list goes to AO memory; the timebase notes when. -/
theorem save_eq (s : State) (d : Nat) : ∃ m x, s.save d = { s with ao := m, time := x } := by
  unfold State.save
  split_ifs
  · exact ⟨_, s.time, rfl⟩
  · exact timeSave_eq s
  · exact ⟨_, s.time, rfl⟩
  · exact ⟨_, s.time, rfl⟩
  · exact ⟨s.ao, s.time, rfl⟩

/-- What a domain has asked of others goes with its power good. -/
theorem pgFall_eq (s : State) (d : Nat) : ∃ k tb rs b i f g,
    s.pgFall d = { s with links := k, tb := tb, ranks := rs, buf := b, ing := i, fab := f, dbg := g } := by
  unfold State.pgFall
  dsimp only
  split_ifs <;> exact ⟨_, _, _, _, _, _, _, rfl⟩

/-- For BOXED a domain goes OFF, and the block's state, the ledger and the other domains stay. -/
theorem boxDom_eq (s : State) (d : Nat) : ∃ u x, SameBlock s u ∧ u.dom = s.dom ∧ x.st = .off ∧ s.boxDom d = u.setDom d x := by
  unfold State.boxDom
  dsimp only
  split_ifs
  · obtain ⟨x, hx⟩ := holdCopies_eq s d
    obtain ⟨y, hy⟩ := dropCtl_eq (s.holdCopies d) d
    refine ⟨(s.holdCopies d).dropCtl d, _, ?_, ?_, rfl, rfl⟩ <;> rw [hy, hx]
    exact ⟨rfl, rfl, rfl, rfl⟩
  · obtain ⟨m, x, hx⟩ := save_eq s d
    obtain ⟨k, tb, rs, b, i, f, g, hy⟩ := pgFall_eq (s.save d) d
    refine ⟨(s.save d).pgFall d, _, ?_, ?_, rfl, rfl⟩ <;> rw [hy, hx]
    exact ⟨rfl, rfl, rfl, rfl⟩
  · exact ⟨s, _, ⟨rfl, rfl, rfl, rfl⟩, rfl, rfl, rfl⟩

theorem boxDom_sameBlock (s : State) (d : Nat) : SameBlock s (s.boxDom d) := by
  obtain ⟨u, x, hu, -, -, h⟩ := boxDom_eq s d
  rw [h]
  exact hu.trans ⟨rfl, rfl, rfl, rfl⟩

theorem pdom_boxDom_off (s : State) {d j : Nat} (h : j = d ∨ (s.pdom j).st = .off) : ((s.boxDom d).pdom j).st = .off := by
  obtain ⟨u, x, -, hdom, hx, he⟩ := boxDom_eq s d
  rw [he, State.pdom, State.setDom, tget_tset]
  split
  · exact hx
  · next hj => rw [hdom]; exact h.resolve_left hj

/-- Domains go OFF one by one. -/
theorem forEach_boxDom (l : List Nat) (s : State) :
    SameBlock s (forEach l s (fun d s => s.boxDom d)) ∧
      ∀ d, d ∈ l ∨ (s.pdom d).st = .off → ((forEach l s (fun d s => s.boxDom d)).pdom d).st = .off := by
  induction l generalizing s with
  | nil => exact ⟨⟨rfl, rfl, rfl, rfl⟩, fun d h => h.resolve_left (by simp)⟩
  | cons j l ih =>
    obtain ⟨hsame, hoff⟩ := ih (s.boxDom j)
    refine ⟨(boxDom_sameBlock s j).trans hsame, fun d h => hoff d ?_⟩
    rw [List.mem_cons, or_assoc, or_left_comm] at h
    exact h.imp_right (pdom_boxDom_off s)

theorem tfind_tmap {α : Type} (t : Tab α) (f : Nat → α → α) (k : Nat) : tfind (tmap t f) k = (tfind t k).map (f k) := by
  induction t with
  | nil => rfl
  | cons e t ih =>
    obtain ⟨i, v⟩ := e
    by_cases h : i = k
    · subst h; simp [tmap, tfind]
    · simpa [tmap, tfind, h] using ih

/-- Clearing every vote leaves the domains' states. -/
theorem st_tmap_vote (t : Tab PDom) (d : Nat) :
    (tget PDom.init (tmap t (fun _ x => { x with vote := 0 })) d).st = (tget PDom.init t d).st := by
  unfold tget
  rw [tfind_tmap]
  cases tfind t d <;> rfl

/-- The entry into BOXED takes every domain OFF and leaves the block's state and the ledger. -/
theorem beginBoxed_spec (s : State) (cause sensor temp : Nat) :
    SameBlock s (s.beginBoxed cause sensor temp) ∧ (s.beginBoxed cause sensor temp).pm.boxing = true ∧
      ∀ d, d < 20 → ((s.beginBoxed cause sensor temp).pdom d).st = .off := by
  have hoff := forEach_boxDom (List.range 20) s
  unfold State.beginBoxed
  generalize forEach (List.range 20) s (fun d s => s.boxDom d) = u at hoff ⊢
  obtain ⟨⟨hblk, hdet, hpins, hled⟩, hoff⟩ := hoff
  exact ⟨⟨hblk, hdet, hpins, hled⟩, rfl, fun d hd => (st_tmap_vote u.dom d).trans (hoff d (.inl (List.mem_range.mpr hd)))⟩

/-- The block as its detach leaves it to the entry into BOXED: the ledger's entries discarded and `n` of them counted. -/
def State.detached (s : State) (n : Nat) : State :=
  let s3 := ({ s with led := { s.led with ent := [] } }).count (ldA 0x120) n
  { s3 with blk := 4, detaching := false, pins := { s3.pins with detAck := true } }

theorem pins_detached (s : State) (n : Nat) : (s.detached n).pins = { s.pins with detAck := true } := by simp [State.detached]

theorem ent_detached (s : State) (n : Nat) : (s.detached n).led.ent = [] := by simp [State.detached]

/-- With nothing held, no handle stored or kept, and no commit under way, a detached block drops its ledger and enters BOXED. -/
theorem blockDetached_eq {s : State} (hd : s.detaching = true) (hb : s.blk = 2) (hch : ∀ e ∈ s.chSt, e.2 = 0)
    (hheld : ∀ r k, s.isHeld r k = false) (hstore : s.buf.store = []) (hresv : s.ing.resv = none) (hfree : s.buf.freeq = [])
    (hout : s.buf.outc = []) (hpmc : (s.pdom dPmc).paused = false) (hled : ∀ e ∈ s.led.ent, e.2.due = false ∧ e.2.com = false) :
    ∃ n, exec .blockDetached s = .next ((s.detached n).beginBoxed 1 0 0) := by
  have hown : s.ownHandles = [] := by simp [State.ownHandles, hstore, hresv]
  have hclear : ({ s with buf := { s.buf with store := [] }, ing := { s.ing with resv := none } } : State) = s := by
    rw [← hstore, ← hresv]
  have hlist : s.chSt.any (fun e => e.2 ≠ 0) = false := by simpa using hch
  have hdue : s.led.ent.any (fun e => e.2.due || e.2.com) = false := by simpa using hled
  refine ⟨(s.led.ent.filter (fun e => e.2.used)).length, ?_⟩
  change execBlockDetached s = _
  simp only [execBlockDetached, flushExc_of_not_isHeld hheld, hown, List.foldl_nil, hclear]
  rw [if_neg (by simp only [hd, hb, hlist]; decide), if_neg (by simp only [hpmc, hfree, hout, hdue]; decide)]
  rfl

/-- The whole-block detach completes. -/
theorem blockDetached_done {s : State} (hd : s.detaching = true) (hb : s.blk = 2) (hch : ∀ e ∈ s.chSt, e.2 = 0)
    (hheld : ∀ r k, s.isHeld r k = false) (hstore : s.buf.store = []) (hresv : s.ing.resv = none) (hfree : s.buf.freeq = [])
    (hout : s.buf.outc = []) (hpmc : (s.pdom dPmc).paused = false) (hled : ∀ e ∈ s.led.ent, e.2.due = false ∧ e.2.com = false) :
    ∃ t, exec .blockDetached s = .next t ∧ t.blk = 4 ∧ t.detaching = false ∧ t.pins = { s.pins with detAck := true } ∧
      t.led.ent = [] ∧ t.pm.boxing = true ∧ ∀ d, d < 20 → (t.pdom d).st = .off := by
  obtain ⟨n, he⟩ := blockDetached_eq hd hb hch hheld hstore hresv hfree hout hpmc hled
  obtain ⟨⟨hblk, hdet, hpins, hent⟩, hboxing, hoff⟩ := beginBoxed_spec (s.detached n) 1 0 0
  exact ⟨_, he, hblk, hdet, hpins.trans (pins_detached s n), (congrArg Ledger.ent hent).trans (ent_detached s n), hboxing, hoff⟩

/-- Settles O44: CH_CMD by its refusal reason, CHANNEL_ATTACHED and CHANNEL_DETACHED by their one effect, the whole-block detach by its
channels and the entry into BOXED. -/
theorem channelLifeCycle : Obligations.ChannelLifeCycle := by
  unfold Obligations.ChannelLifeCycle
  refine ⟨fun s q ch hw => ⟨fun h => ?_, fun h => ?_, chAttach_accepted hw, chDetach_accepted hw⟩,
    fun s ch hr => ⟨fun hch hh => ?_, fun hch hd => ?_, fun hch hd => ?_⟩, fun s =>
    ⟨fun hreq => ⟨fun hb => ?_, blkDetachReq_detached hreq⟩, blockDetached_done, rfl⟩⟩
  · exact congrArg Host.Outcome.next (chCmd_refused hw h)
  · exact congrArg Host.Outcome.next (chCmd_refused hw h)
  · exact ⟨_, channelAttached_done hr hch hh, chDone_setChan s ch.val 2⟩
  · refine ⟨_, channelDetached_eq hr hch, ?_⟩
    rw [if_pos hd]
    exact chDone_setChan s ch.val 0
  · rw [channelDetached_eq hr hch, hd]
    rfl
  · obtain ⟨hpins, hdet⟩ := beginDetach_keeps { s with pins := { s.pins with detReq := true } }
    exact ⟨_, blkDetachReq_running hreq hb, hdet, hpins,
      fun ch h => chan_beginDetach (s := { s with pins := { s.pins with detReq := true } }) h⟩

end Sys2Proof.Machine
end

section
/-! What each operation of ingress changes, and what it leaves (02 R35–R52, 13 R389–R391). -/

namespace Sys2Proof.Machine
open Sys2Proof.Claim

/-! ### The parts of ingress that an operation changes -/

section
variable (s : State)

@[simp] theorem link_launch (k : Nat) (x : LinkItem) : (s.launch k x).link k = s.link k ++ [x] := tget_tset_same _ _ _ _
@[simp] theorem launch_ing (k : Nat) (x : LinkItem) : (s.launch k x).ing = s.ing := rfl
@[simp] theorem launch_counters (k : Nat) (x : LinkItem) : (s.launch k x).counters = s.counters := rfl
@[simp] theorem opn_launch (k ch : Nat) (x : LinkItem) : (s.launch k x).opn ch = s.opn ch := rfl
@[simp] theorem handles_launch (k p : Nat) (x : LinkItem) : (s.launch k x).handles p = s.handles p := rfl
@[simp] theorem ctr_launch (k a : Nat) (x : LinkItem) : (s.launch k x).ctr a = s.ctr a := rfl

@[simp] theorem setOpn_links (ch : Nat) (o : Option OpenF) : (s.setOpn ch o).links = s.links := rfl
@[simp] theorem link_setOpn (ch k : Nat) (o : Option OpenF) : (s.setOpn ch o).link k = s.link k := rfl
@[simp] theorem setOpn_vq (ch : Nat) (o : Option OpenF) : (s.setOpn ch o).ing.vq = s.ing.vq := rfl
@[simp] theorem setOpn_lanePip (ch : Nat) (o : Option OpenF) : (s.setOpn ch o).ing.lanePip = s.ing.lanePip := rfl
@[simp] theorem setOpn_counters (ch : Nat) (o : Option OpenF) : (s.setOpn ch o).counters = s.counters := rfl
@[simp] theorem ctr_setOpn (ch a : Nat) (o : Option OpenF) : (s.setOpn ch o).ctr a = s.ctr a := rfl
@[simp] theorem handles_setOpn (ch p : Nat) (o : Option OpenF) : (s.setOpn ch o).handles p = s.handles p := rfl
@[simp] theorem setOpn_none_opn (ch : Nat) : (s.setOpn ch none).ing.opn = tdel s.ing.opn ch := rfl

@[simp] theorem opn_setOpn (ch : Nat) (o : Option OpenF) : (s.setOpn ch o).opn ch = o := by
  cases o with
  | none => exact tfind_tdel_same _ _
  | some f => exact tfind_tset_same _ _ _

@[simp] theorem setOpn_blk (ch : Nat) (o : Option OpenF) : (s.setOpn ch o).blk = s.blk := rfl
@[simp] theorem launch_blk (k : Nat) (x : LinkItem) : (s.launch k x).blk = s.blk := rfl
@[simp] theorem setStore_links (p : Nat) (hs : List Handle) : (s.setStore p hs).links = s.links := rfl
@[simp] theorem link_setStore (p k : Nat) (hs : List Handle) : (s.setStore p hs).link k = s.link k := rfl
@[simp] theorem setStore_ing (p : Nat) (hs : List Handle) : (s.setStore p hs).ing = s.ing := rfl
@[simp] theorem ctr_setStore (p a : Nat) (hs : List Handle) : (s.setStore p hs).ctr a = s.ctr a := rfl
@[simp] theorem handles_setStore (p : Nat) (hs : List Handle) : (s.setStore p hs).handles p = hs := tget_tset_same _ _ _ _

@[simp] theorem link_count (a n k : Nat) : (s.count a n).link k = s.link k := by simp [State.link]
@[simp] theorem opn_count (a n ch : Nat) : (s.count a n).opn ch = s.opn ch := by simp [State.opn]
@[simp] theorem handles_count (a n p : Nat) : (s.count a n).handles p = s.handles p := by simp [State.handles]

/-- A frame's pip is the next of its lane, and is counted. -/
theorem takePip_lanePip (lane : Lane) : tget 0#16 (s.takePip lane).ing.lanePip lane.toNat = tget 0#16 s.ing.lanePip lane.toNat + 1 :=
  tget_tset_same _ _ _ _

@[simp] theorem ctr_takePip (lane : Lane) (a : Nat) : (s.takePip lane).ctr a = s.ctr a + (if a = inA 0x400 then 1 else 0) := count_ctr _ _ _ _
@[simp] theorem link_takePip (lane : Lane) (k : Nat) : (s.takePip lane).link k = s.link k := rfl
@[simp] theorem takePip_vq (lane : Lane) : (s.takePip lane).ing.vq = s.ing.vq := rfl
@[simp] theorem takePip_opn (lane : Lane) : (s.takePip lane).ing.opn = s.ing.opn := rfl

/-! ### The end of a frame -/

/-- Channel `ch` without its frame `f`: the tail flushed, the bytes counted, the first handle of a short frame returned. -/
def State.closeFrame (s : State) (ch : Nat) (f : OpenF) : State :=
  let s0 := ((s.flushTail f).setOpn ch none).count (inA 0x408) f.bytes
  let p := f.md.pool.toNat
  if decide (f.bytes ≤ 256) && !f.handles.isEmpty then s0.setStore p (s0.handles p ++ f.handles.take 1) else s0

variable (ch : Nat) (f : OpenF) (v : BitVec 2)

theorem flushTail_eq : ∃ w, s.flushTail f = { s with ing := { s.ing with wq := w } } := by
  unfold State.flushTail
  split
  · exact ⟨s.ing.wq, rfl⟩
  · exact ⟨_, rfl⟩

@[simp] theorem closeFrame_links : (s.closeFrame ch f).links = s.links := by
  obtain ⟨w, h⟩ := flushTail_eq s f
  unfold State.closeFrame
  split <;> simp [h]

@[simp] theorem closeFrame_vq : (s.closeFrame ch f).ing.vq = s.ing.vq := by
  obtain ⟨w, h⟩ := flushTail_eq s f
  unfold State.closeFrame
  split <;> simp [h]

@[simp] theorem closeFrame_opn : (s.closeFrame ch f).ing.opn = tdel s.ing.opn ch := by
  obtain ⟨w, h⟩ := flushTail_eq s f
  unfold State.closeFrame
  split <;> simp [h]

@[simp] theorem ctr_closeFrame (a : Nat) :
    (s.closeFrame ch f).ctr a = s.ctr a + (if a = inA 0x408 then BitVec.ofNat 64 f.bytes else 0) := by
  obtain ⟨w, h⟩ := flushTail_eq s f
  unfold State.closeFrame
  split <;> simp only [ctr_setStore, count_ctr, ctr_setOpn, h] <;> rfl

/-- A frame of at most 256 bytes returns its first handle. -/
theorem handles_closeFrame (hlen : f.bytes ≤ 256) :
    (s.closeFrame ch f).handles f.md.pool.toNat = s.handles f.md.pool.toNat ++ f.handles.take 1 := by
  have hstore : (s.flushTail f).handles f.md.pool.toNat = s.handles f.md.pool.toNat := by
    obtain ⟨w, h⟩ := flushTail_eq s f
    rw [h]; rfl
  cases hh : f.handles <;> simp [State.closeFrame, hh, hlen, hstore]

theorem endFrame_dispatched (h : f.dispatched = true) :
    s.endFrame ch f v = { s.closeFrame ch f with ing := { (s.closeFrame ch f).ing with
      vq := (s.closeFrame ch f).ing.vq ++ [⟨f.md.lane, f.md.pip, v, BitVec.ofNat 14 f.bytes⟩] } } := by
  unfold State.endFrame
  dsimp only
  rw [if_pos h]
  rfl

/-- A bad frame that was not dispatched leaves a skip token in its place. -/
theorem endFrame_skip (h : f.dispatched = false) :
    ∃ m, s.endFrame ch f 2 = freeChain 0 m ((s.closeFrame ch f).launch 0 (.skip f.md.lane f.md.pip)) := by
  unfold State.endFrame
  dsimp only
  rw [if_neg (by simp [h]), if_neg (by decide)]
  exact ⟨_, rfl⟩

/-- A good frame of at most 256 bytes that was not dispatched goes to rank 0 whole. -/
theorem endFrame_whole (h : f.dispatched = false) (hlen : f.bytes ≤ 256) (hh : f.handles = []) (ht : f.tbuf = []) :
    s.endFrame ch f 1 = ((s.setOpn ch none).count (inA 0x408) f.bytes).launch 0 (.pkt ⟨fit 256 f.head, { f.md with
      verdict := 1, len := BitVec.ofNat 14 f.bytes, round := s.tb.cur, tail := noBuf }⟩ [] true) := by
  simp [State.endFrame, State.flushTail, h, hlen, hh, ht]

end

/-! ### Frames that end badly (02 R40, R43–R46) -/

/-- Frame `f` has ended badly with `len` bytes: its verdict is to be issued or a skip token stands in its place. -/
structure EndedBad (s t : State) (f : OpenF) (len : Nat) : Prop where
  verdict : f.dispatched = true → t.ing.vq = s.ing.vq ++ [⟨f.md.lane, f.md.pip, 2, BitVec.ofNat 14 len⟩]
  skip : f.dispatched = false → t.ing.vq = s.ing.vq ∧ t.link 0 = s.link 0 ++ [.skip f.md.lane f.md.pip]
  bytes : t.ctr (inA 0x408) = s.ctr (inA 0x408) + BitVec.ofNat 64 len

theorem endFrame_endedBad (s : State) (ch : Nat) (f : OpenF) : EndedBad s (s.endFrame ch f 2) f f.bytes := by
  cases hd : f.dispatched with
  | true =>
    rw [endFrame_dispatched s ch f 2 hd]
    refine ⟨fun _ => by simp, by simp [hd], ?_⟩
    exact (ctr_closeFrame s ch f (inA 0x408)).trans (by rw [if_pos rfl])
  | false =>
    obtain ⟨m, hm⟩ := endFrame_skip s ch f hd
    obtain ⟨q, n, hq⟩ := freeChain_eq 0 m ((s.closeFrame ch f).launch 0 (.skip f.md.lane f.md.pip))
    rw [hm, hq]
    refine ⟨by simp [hd], fun _ => ⟨closeFrame_vq s ch f, (link_launch _ _ _).trans ?_⟩, ?_⟩
    · rw [State.link, closeFrame_links, State.link]
    · exact (ctr_closeFrame s ch f (inA 0x408)).trans (by rw [if_pos rfl])

/-- Beside the verdict, the token and the handles it leaves the channel without a frame, and counts the bytes. -/
theorem endFrame_bad_eq (s : State) (ch : Nat) (f : OpenF) : ∃ x l b, s.endFrame ch f 2#2 =
    { s.closeFrame ch f with ing := { (s.closeFrame ch f).ing with vq := x }, links := l, buf := b } := by
  cases hd : f.dispatched with
  | true => exact ⟨_, (s.closeFrame ch f).links, (s.closeFrame ch f).buf, endFrame_dispatched s ch f 2 hd⟩
  | false =>
    obtain ⟨m, hm⟩ := endFrame_skip s ch f hd
    obtain ⟨q, n, hq⟩ := freeChain_eq 0 m ((s.closeFrame ch f).launch 0 (.skip f.md.lane f.md.pip))
    exact ⟨(s.closeFrame ch f).ing.vq, _, _, hm.trans hq⟩

@[simp] theorem ctr_endFrame_bad (s : State) (ch a : Nat) (f : OpenF) :
    (s.endFrame ch f 2#2).ctr a = s.ctr a + (if a = inA 0x408 then BitVec.ofNat 64 f.bytes else 0) := by
  obtain ⟨x, l, b, h⟩ := endFrame_bad_eq s ch f
  rw [h]
  exact ctr_closeFrame s ch f a

@[simp] theorem opn_endFrame_bad (s : State) (ch : Nat) (f : OpenF) : (s.endFrame ch f 2#2).opn ch = none := by
  obtain ⟨x, l, b, h⟩ := endFrame_bad_eq s ch f
  rw [h]
  exact (congrArg (tfind · ch) (closeFrame_opn s ch f)).trans (tfind_tdel_same _ _)

/-- A counter counted before the end is no part of it. -/
theorem EndedBad.of_count {s t : State} {a n : Nat} {f : OpenF} {len : Nat} (h : EndedBad (s.count a n) t f len) (ha : a ≠ inA 0x408) :
    EndedBad s t f len := by
  obtain ⟨hv, hs, hb⟩ := h
  exact ⟨by simpa using hv, by simpa using hs, by simpa [count_ctr, ha.symm] using hb⟩

/-- Nor is what the channel holds after it. -/
theorem EndedBad.setOpn {s t : State} {f : OpenF} {len : Nat} (h : EndedBad s t f len) (ch : Nat) (o : Option OpenF) :
    EndedBad s (t.setOpn ch o) f len := ⟨h.verdict, h.skip, h.bytes⟩

/-- The truncation of a frame is a bad end, and counted. -/
theorem truncFrame_endedBad (s : State) (ch : Nat) (f : OpenF) : EndedBad s (s.truncFrame ch f) f f.bytes :=
  (endFrame_endedBad (s.count (inA 0x420)) ch f).of_count (by decide)

@[simp] theorem ctr_truncFrame (s : State) (ch a : Nat) (f : OpenF) : (s.truncFrame ch f).ctr a =
    s.ctr a + (if a = inA 0x420 then 1 else 0) + (if a = inA 0x408 then BitVec.ofNat 64 f.bytes else 0) :=
  (ctr_endFrame_bad _ _ _ _).trans (congrArg (· + _) (count_ctr _ _ _ _))

@[simp] theorem opn_truncFrame (s : State) (ch : Nat) (f : OpenF) : (s.truncFrame ch f).opn ch = none := opn_endFrame_bad _ _ _

/-! ### The bytes of a segment join a frame (02 R35, R43, 13 R389) -/

/-- `n` bytes have joined frame `f`, and ingress has not judged it: verdicts and counters stay, and the link of a frame not yet
dispatched. -/
structure Grew (s : State) (f : OpenF) (n : Nat) (s1 : State) (f1 : OpenF) : Prop where
  counters : s1.counters = s.counters
  vq : s1.ing.vq = s.ing.vq
  links : f.dispatched = false → s1.links = s.links
  md : f1.md = f.md
  dispatched : f1.dispatched = f.dispatched
  errSeen : f1.errSeen = f.errSeen
  bytes : f1.bytes = f.bytes + n

theorem putHead_grew (s : State) (f : OpenF) (bs : List Byte) (last : Bool) :
    Grew s f bs.length (s.putHead f bs last).1 (s.putHead f bs last).2 := by
  cases hd : f.dispatched <;> constructor <;> simp [State.putHead, hd]

theorem putTail_grew (s : State) (f : OpenF) (bs : List Byte) : Grew s f bs.length (s.putTail f bs).1 (s.putTail f bs).2 := by
  unfold State.putTail
  dsimp only
  split
  · exact ⟨rfl, rfl, fun _ => rfl, rfl, rfl, rfl, rfl⟩
  · exact ⟨rfl, rfl, fun _ => rfl, rfl, rfl, rfl, rfl⟩

/-- The tail bytes of a frame have a buffer where they begin inside one or the pool's store holds a handle. -/
theorem needHandle_have {s : State} {f : OpenF} (h : (f.bytes - 256) % s.bufSize f.md.pool.toNat ≠ 0 ∨ s.handles f.md.pool.toNat ≠ []) :
    ∃ s1 f1, s.needHandle f = .have s1 f1 ∧ Grew s f 0 s1 f1 := by
  unfold State.needHandle
  dsimp only
  by_cases hin : (f.bytes - 256 = 0 ∧ f.handles ≠ []) ∨ (f.bytes - 256) % s.bufSize f.md.pool.toNat ≠ 0
  · exact ⟨s, f, if_pos hin, rfl, rfl, fun _ => rfl, rfl, rfl, rfl, rfl⟩
  · obtain ⟨g, gs, hgs⟩ := List.exists_cons_of_ne_nil (h.resolve_left fun hk => hin (.inr hk))
    rw [if_neg hin, hgs]
    refine ⟨_, _, rfl, ?_⟩
    split <;> exact ⟨rfl, rfl, fun _ => rfl, rfl, rfl, rfl, rfl⟩

/-- There is room for a frame's next bytes: they are head bytes, or tail bytes with a buffer. -/
def State.HasRoom (s : State) (f : OpenF) : Prop :=
  f.bytes < 256 ∨ (f.bytes - 256) % s.bufSize f.md.pool.toNat ≠ 0 ∨ s.handles f.md.pool.toNat ≠ []

theorem putBytes_of_hasRoom {s : State} {f : OpenF} (h : s.HasRoom f) (ch : Nat) (bs : List Byte) (eop : Bool)
    (cont : State → OpenF → State) :
    ∃ s1 f1, Grew s f bs.length s1 f1 ∧ s.putBytes ch f bs eop cont = .ok (cont s1 f1) := by
  by_cases hhead : f.bytes < 256
  · exact ⟨_, _, putHead_grew s f bs _, by rw [State.putBytes, if_pos hhead]⟩
  · obtain ⟨s1, f1, hn, hg⟩ := needHandle_have (h.resolve_left hhead)
    have ht := putTail_grew s1 f1 bs
    refine ⟨_, _, ⟨ht.counters.trans hg.counters, ht.vq.trans hg.vq, fun hd => (ht.links (hg.dispatched.trans hd)).trans (hg.links hd),
      ht.md.trans hg.md, ht.dispatched.trans hg.dispatched, ht.errSeen.trans hg.errSeen, ?_⟩,
      by rw [State.putBytes, if_neg hhead, hn]⟩
    rw [ht.bytes, hg.bytes, Nat.add_zero]

theorem Grew.ctr {s s1 : State} {f f1 : OpenF} {n : Nat} (hg : Grew s f n s1 f1) (a : Nat) : s1.ctr a = s.ctr a :=
  congrArg (tget 0 · a) hg.counters

/-- Once bytes have joined a frame, its bad end is the bad end of the frame with them. -/
theorem Grew.endedBad {s s1 t : State} {f f1 : OpenF} {n : Nat} (hg : Grew s f n s1 f1) (h : EndedBad s1 t f1 f1.bytes) :
    EndedBad s t f (f.bytes + n) := by
  obtain ⟨hv, hs, hb⟩ := h
  have hlink : f.dispatched = false → s1.link 0 = s.link 0 := fun hd => congrArg (tget [] · 0) (hg.links hd)
  rw [hg.dispatched, hg.md, hg.vq, hg.bytes] at hv
  rw [hg.dispatched, hg.md, hg.vq] at hs
  exact ⟨hv, fun hd => hlink hd ▸ hs hd, by rw [hb, hg.ctr, hg.bytes]⟩

/-! ### One segment (02 R35, R40, R44) -/

theorem Seg.count_le (g : Seg) : Seg.count g ≤ 64 := by
  have := g.bytes.isLt
  unfold Seg.count
  split_ifs <;> omega

theorem Seg.length_payload (g : Seg) : (Seg.payload g).length = Seg.count g := by
  rw [Seg.payload, List.length_take, leBytes_length, Nat.min_eq_left (Seg.count_le g)]

theorem Seg.count_eq (g : Seg) : Seg.count g = if g.eop = true ∧ g.bytes ≠ 0 then g.bytes.toNat else 64 := by
  unfold Seg.count
  by_cases he : g.eop = true <;> by_cases hb : g.bytes = 0 <;> simp [he, hb]

theorem Seg.count_of_not_eop {g : Seg} (h : g.eop = false) : Seg.count g = 64 := by simp [Seg.count, h]

theorem Seg.broken_of_eop {g : Seg} (h : g.eop = true) : Seg.broken g = false := by simp [Seg.broken, h]

theorem Seg.broken_of_not_eop {g : Seg} (h : g.eop = false) : Seg.broken g = decide (g.bytes ≠ 0) := by simp [Seg.broken, h]

section
variable {s : State} {ch : Nat} {f : OpenF} {g : Seg}

/-- Segment `g` has brought its bytes to frame `f` of channel `ch`: at EOP the frame is judged, before it stays open. -/
def State.joined (s : State) (ch : Nat) (f : OpenF) (g : Seg) : State :=
  if !g.eop then s.setOpn ch (some f)
  else if 14 ≤ f.bytes && g.fcsOk && !f.errSeen then s.endFrame ch f 1
  else (s.count (inA (if f.bytes < 14 then 0x410 else 0x418))).endFrame ch f 2

theorem joined_open (h : g.eop = false) : s.joined ch f g = s.setOpn ch (some f) := by simp [State.joined, h]

theorem joined_good (he : g.eop = true) (hlen : 14 ≤ f.bytes) (hfcs : g.fcsOk = true) (herr : f.errSeen = false) :
    s.joined ch f g = s.endFrame ch f 1 := by simp [State.joined, he, hlen, hfcs, herr]

theorem joined_bad (he : g.eop = true) (h : f.bytes < 14 ∨ g.fcsOk = false ∨ f.errSeen = true) :
    s.joined ch f g = (s.count (inA (if f.bytes < 14 then 0x410 else 0x418))).endFrame ch f 2 := by
  have hbad : (14 ≤ f.bytes && g.fcsOk && !f.errSeen) = false := by
    rcases h with h | h | h <;> simp [h]
  simp [State.joined, he, hbad]

/-- The frame with the head bytes and the error signal of a segment. -/
def OpenF.withHead (f : OpenF) (g : Seg) : OpenF :=
  { f with head := f.head ++ Seg.payload g, bytes := f.bytes + Seg.count g, errSeen := f.errSeen || g.err }

/-- A segment of head bytes joins its frame; those of a dispatched frame go on to rank 0. -/
theorem feed_head (h : f.bytes < 256) : s.feed ch f g = .ok ((if f.dispatched then
    s.launch 0 (.headSeg f.md.lane f.md.pip (Seg.payload g) (g.eop || decide (256 ≤ f.bytes + Seg.count g))) else s).joined ch
      (f.withHead g) g) := by
  have hlen : ¬ 16384 ≤ f.bytes + Seg.count g := by have := Seg.count_le g; omega
  rw [State.feed, if_neg hlen, State.putBytes, if_pos h]
  simp only [State.putHead, Seg.length_payload]
  rfl

/-- A segment that takes its frame beyond 16 383 bytes has it truncated there. -/
theorem feed_truncates (hlen : 16384 ≤ f.bytes + Seg.count g) (hb : f.bytes < 16384) (hroom : s.HasRoom f) :
    ∃ s1 f1, Grew s f (16383 - f.bytes) s1 f1 ∧
      s.feed ch f g = .ok (if g.eop then s1.truncFrame ch f1 else (s1.truncFrame ch f1).setOpn ch (some .skip)) := by
  obtain ⟨s1, f1, hg, he⟩ := putBytes_of_hasRoom hroom ch ((Seg.payload g).take (16383 - f.bytes)) g.eop
    (fun s f => let s1 := s.truncFrame ch f; if g.eop then s1 else s1.setOpn ch (some .skip))
  rw [List.length_take, Seg.length_payload, Nat.min_eq_left (by omega)] at hg
  exact ⟨s1, f1, hg, by rw [State.feed, if_pos hlen, he]⟩

/-- Any other segment that has room brings its bytes. -/
theorem feed_joins (hlen : f.bytes + Seg.count g < 16384) (hroom : s.HasRoom f) :
    ∃ s1 f1, Grew s f (Seg.count g) s1 f1 ∧ s.feed ch f g = .ok (s1.joined ch { f1 with errSeen := f1.errSeen || g.err } g) := by
  obtain ⟨s1, f1, hg, he⟩ := putBytes_of_hasRoom hroom ch (Seg.payload g) g.eop
    (fun s f => s.joined ch { f with errSeen := f.errSeen || g.err } g)
  rw [Seg.length_payload] at hg
  exact ⟨s1, f1, hg, by rw [State.feed, if_neg (by omega), ← he]; rfl⟩

/-- A frame that ends short, with a bad FCS or with an error ends badly. -/
theorem feed_badEnd (hlen : f.bytes + Seg.count g < 16384) (hroom : s.HasRoom f) (he : g.eop = true)
    (hbad : f.bytes + Seg.count g < 14 ∨ g.fcsOk = false ∨ g.err = true ∨ f.errSeen = true) :
    ∃ s1 f1, Grew s f (Seg.count g) s1 f1 ∧ s.feed ch f g =
      .ok ((s1.count (inA (if f.bytes + Seg.count g < 14 then 0x410 else 0x418))).endFrame ch { f1 with errSeen := f1.errSeen || g.err } 2) := by
  obtain ⟨s1, f1, hg, hfeed⟩ := feed_joins (ch := ch) hlen hroom
  have hb1 : f1.bytes < 14 ∨ g.fcsOk = false ∨ (f1.errSeen || g.err) = true := by
    rw [hg.bytes, hg.errSeen, Bool.or_eq_true]
    exact hbad.imp_right (Or.imp_right Or.symm)
  rw [joined_bad he hb1] at hfeed
  exact ⟨s1, f1, hg, by rw [hfeed, ← hg.bytes]⟩

/-! ### A segment without SOP -/

theorem seg_cont (h : g.sop = false) (nxt : Option Seg) : s.seg g nxt = s.segCont g := by simp [State.seg, h]

theorem segCont_closed (ho : s.opn g.ch.toNat = none) : s.segCont g = .ok (s.count (inA 0x428)) := by simp [State.segCont, ho]

theorem segCont_discards (ho : s.opn g.ch.toNat = some f) (hd : f.discard = true) :
    s.segCont g = .ok (if g.eop then s.setOpn g.ch.toNat none else s) := by simp [State.segCont, ho, hd]

theorem segCont_broken (hb : s.blk = 2) (ho : s.opn g.ch.toNat = some f) (hd : f.discard = false) (hbr : Seg.broken g = true) :
    s.segCont g = .ok (((s.count (inA 0x428)).truncFrame g.ch.toNat f).setOpn g.ch.toNat (some .skip)) := by
  simp [State.segCont, ho, hd, hbr, hb]

theorem segCont_feeds (hb : s.blk = 2) (ho : s.opn g.ch.toNat = some f) (hd : f.discard = false) (hbr : Seg.broken g = false) :
    s.segCont g = s.feed g.ch.toNat f g := by
  simp [State.segCont, ho, hd, hbr, hb]

/-! ### A segment with SOP (02 R42, R45, R46) -/

theorem seg_sop (h : g.sop = true) (nxt : Option Seg) : s.seg g nxt = s.segSop g nxt := by simp [State.seg, h]

/-- A SOP ends the frame that its channel has open. -/
def State.sopClears (s : State) (ch : Nat) : State :=
  match s.opn ch with
  | none => s
  | some f =>
    let s1 := s.count (inA 0x428)
    if f.discard then s1.setOpn ch none
    else if s.blk = 3 then (s1.count (inA 0x420)).setOpn ch none
    else s1.truncFrame ch f

theorem sopClears_closed (ho : s.opn ch = none) : s.sopClears ch = s := by simp [State.sopClears, ho]

theorem sopClears_discard (ho : s.opn ch = some f) (hd : f.discard = true) :
    s.sopClears ch = (s.count (inA 0x428)).setOpn ch none := by simp [State.sopClears, ho, hd]

theorem sopClears_truncates (hb : s.blk = 2) (ho : s.opn ch = some f) (hd : f.discard = false) :
    s.sopClears ch = (s.count (inA 0x428)).truncFrame ch f := by simp [State.sopClears, ho, hd, hb]

/-- A SOP that is refused counts its counter, and its frame is discarded up to EOP. -/
def State.sopRefuse (s : State) (g : Seg) (a : Nat) : State :=
  let s1 := (s.count a).count (inA 0x428) (b2n (Seg.broken g))
  let s2 := if a = pmA 0x800 then s1.orReg (pmA 0x500) 32 else s1
  if g.eop then s2 else s2.setOpn g.ch.toNat (some .skip)

theorem segSop_refused {a : Nat} (h : (s.sopClears g.ch.toNat).sopRefused g.ch.toNat g none = some a) :
    s.segSop g none = .ok ((s.sopClears g.ch.toNat).sopRefuse g a) := by
  unfold State.sopClears at h ⊢
  unfold State.segSop
  cases ho : s.opn g.ch.toNat <;> simp only [ho] at h ⊢ <;> simp only [h, Bool.or_false] <;> rfl

theorem segSop_takes {nxt : Option Seg} (hb : s.blk = 2) (h : (s.sopClears g.ch.toNat).sopRefused g.ch.toNat g nxt = none) :
    s.segSop g nxt = (s.sopClears g.ch.toNat).sopTake g.ch.toNat g nxt := by
  have hne : ¬ s.blk = 3 := by rw [hb]; decide
  unfold State.sopClears at h ⊢
  unfold State.segSop
  cases ho : s.opn g.ch.toNat <;> simp only [ho] at h ⊢ <;> simp only [h] <;> exact if_neg hne

theorem segSop_minimal {nxt : Option Seg} (hb : s.blk = 3) (h : (s.sopClears g.ch.toNat).sopRefused g.ch.toNat g nxt = none) :
    s.segSop g nxt = .ok ((s.sopClears g.ch.toNat).feedMin g.ch.toNat { OpenF.skip with discard := false } g) := by
  unfold State.sopClears at h ⊢
  unfold State.segSop
  cases ho : s.opn g.ch.toNat <;> simp only [ho] at h ⊢ <;> simp only [h] <;> exact if_pos hb

/-! ### What a refusal counts (02 R45, R50, R52, R530) -/

theorem badAtSop_mem {nxt : Option Seg} {b : Nat} (h : badAtSop g nxt = some b) : b = 0x410 ∨ b = 0x418 ∨ b = 0x420 := by
  unfold badAtSop at h
  grind

/-- The frame of one segment is bad only for its length, its FCS or an error. -/
theorem badAtSop_one (he : g.eop = true) : badAtSop g none =
    if Seg.count g < 14 then some 0x410 else if g.err || !g.fcsOk then some 0x418 else none := by
  simp [badAtSop, Seg.broken_of_eop he, cutShort, he]

theorem badAtSop_one_none (he : g.eop = true) (h : badAtSop g none = none) :
    14 ≤ Seg.count g ∧ g.fcsOk = true ∧ g.err = false := by
  rw [badAtSop_one he] at h
  split_ifs at h with hlen hbad
  simp only [Bool.or_eq_true, not_or, Bool.not_eq_true, Bool.not_eq_true', Bool.not_eq_false] at hbad
  exact ⟨by omega, hbad.2, hbad.1⟩

/-- The frame of two segments of one edge is bad where the first breaks R40, or for an error of either or the second's FCS. -/
theorem badAtSop_two {h : Seg} (he : g.eop = false) (hs : h.sop = false) (hh : h.eop = true) : badAtSop g (some h) =
    if g.bytes ≠ 0 then some 0x420 else if g.err || h.err || !h.fcsOk then some 0x418 else none := by
  have hlen : ¬ 64 + Seg.count h < 14 := by omega
  by_cases hb : g.bytes = 0 <;> simp [badAtSop, Seg.broken_of_not_eop he, cutShort, hs, Seg.broken_of_eop hh, he, hh, hb, hlen]

theorem badAtSop_two_none {h : Seg} (he : g.eop = false) (hs : h.sop = false) (hh : h.eop = true) (hb : badAtSop g (some h) = none) :
    g.err = false ∧ h.err = false ∧ h.fcsOk = true := by
  rw [badAtSop_two he hs hh] at hb
  split_ifs at hb with hbytes hbad
  simpa [and_assoc] using hbad

theorem sopRefused_mem {nxt : Option Seg} {a : Nat} (h : s.sopRefused ch g nxt = some a) :
    a ∈ [inA 0x430, pmA 0x800, inA 0x438, inA 0x440] ∨ ∃ b, badAtSop g nxt = some b ∧ a = inA b := by
  unfold State.sopRefused at h
  split_ifs at h
  · cases h; simp
  · cases h; simp
  · cases h; simp
  · cases h; simp
  · obtain ⟨b, hb, rfl⟩ := Option.map_eq_some_iff.mp h
    exact .inr ⟨b, hb, rfl⟩

theorem badAtSop_of_sopRefused {nxt : Option Seg} (h : s.sopRefused ch g nxt = none) : badAtSop g nxt = none := by
  unfold State.sopRefused at h
  split_ifs at h
  exact Option.map_eq_none_iff.mp h

/-- Of the counters of refusals none is that of protocol errors. -/
theorem sopRefused_ne_protocol {nxt : Option Seg} {a : Nat} (h : s.sopRefused ch g nxt = some a) : a ≠ inA 0x428 := by
  rcases sopRefused_mem h with hm | ⟨b, hb, rfl⟩
  · simp only [List.mem_cons, List.not_mem_nil, or_false] at hm
    rcases hm with rfl | rfl | rfl | rfl <;> decide
  · rcases badAtSop_mem hb with rfl | rfl | rfl <;> decide

/-- The frame of one segment is not truncated. -/
theorem sopRefused_ne_truncated {a : Nat} (he : g.eop = true) (h : s.sopRefused ch g none = some a) : a ≠ inA 0x420 := by
  rcases sopRefused_mem h with hm | ⟨b, hb, rfl⟩
  · simp only [List.mem_cons, List.not_mem_nil, or_false] at hm
    rcases hm with rfl | rfl | rfl | rfl <;> decide
  · rw [badAtSop_one he] at hb
    split_ifs at hb <;> cases hb <;> decide

theorem sopRefuse_eq (s : State) (g : Seg) (a : Nat) : ∃ r, s.sopRefuse g a =
    let s1 : State := { (s.count a).count (inA 0x428) (b2n (Seg.broken g)) with regs := r }
    if g.eop then s1 else s1.setOpn g.ch.toNat (some .skip) := by
  unfold State.sopRefuse
  dsimp only
  split_ifs <;> exact ⟨_, rfl⟩

theorem ctr_sopRefuse (s : State) (g : Seg) (a b : Nat) : (s.sopRefuse g a).ctr b =
    s.ctr b + (if b = a then 1 else 0) + (if b = inA 0x428 then BitVec.ofNat 64 (b2n (Seg.broken g)) else 0) := by
  have hcount : ((s.count a).count (inA 0x428) (b2n (Seg.broken g))).ctr b =
      s.ctr b + (if b = a then 1 else 0) + (if b = inA 0x428 then BitVec.ofNat 64 (b2n (Seg.broken g)) else 0) := by
    rw [count_ctr, count_ctr]; rfl
  obtain ⟨r, h⟩ := sopRefuse_eq s g a
  rw [h, ← hcount]
  dsimp only
  split <;> rfl

/-- A refusal takes no pip, dispatches nothing and judges nothing. -/
theorem sopRefuse_keeps (s : State) (g : Seg) (a : Nat) : (s.sopRefuse g a).links = s.links ∧
    (s.sopRefuse g a).ing.lanePip = s.ing.lanePip ∧ (s.sopRefuse g a).ing.vq = s.ing.vq := by
  obtain ⟨r, h⟩ := sopRefuse_eq s g a
  rw [h]
  dsimp only
  split <;> simp

theorem opn_sopRefuse (ho : s.opn g.ch.toNat = none) (a : Nat) :
    (s.sopRefuse g a).opn g.ch.toNat = if g.eop then none else some .skip := by
  obtain ⟨r, h⟩ := sopRefuse_eq s g a
  rw [h]
  cases g.eop with
  | true => simpa [State.opn] using ho
  | false => simp

/-! ### An accepted SOP (02 R42, R43, R46, 13 R391) -/

/-- The record of a frame at its SOP. -/
def State.newFrame (s : State) (ch : Nat) (saf : Bool) : OpenF :=
  { OpenF.skip with discard := false, md := s.stamp ch saf, hasPip := true }

/-- The packet of a whole frame `f`, its verdict good. -/
def State.wholePkt (s : State) (f : OpenF) : Pkt :=
  ⟨fit 256 f.head, { f.md with verdict := 1, len := BitVec.ofNat 14 f.bytes, round := s.tb.cur, tail := noBuf }⟩

/-- The last segment of a good frame of at most 256 bytes that waits whole at ingress sends it to rank 0. -/
theorem feed_whole (hd : f.dispatched = false) (hh : f.handles = []) (ht : f.tbuf = []) (he : g.eop = true)
    (hb : f.bytes + Seg.count g ≤ 256) (h256 : f.bytes < 256) (hlen : 14 ≤ f.bytes + Seg.count g) (hfcs : g.fcsOk = true)
    (herr : f.errSeen = false) (hgerr : g.err = false) :
    s.feed ch f g = .ok (((s.setOpn ch none).count (inA 0x408) (f.bytes + Seg.count g)).launch 0
      (.pkt (s.wholePkt (f.withHead g)) [] true)) := by
  rw [feed_head h256, if_neg (by simp [hd]), joined_good he hlen hfcs (by simp [OpenF.withHead, herr, hgerr]),
    endFrame_whole s ch (f.withHead g) hd hb hh ht]
  rfl

/-- A SOP whose frame ends at the same edge waits whole. -/
theorem sopTake_whole {nxt : Option Seg} (h : g.eop = true ∨ ∃ x, nxt = some x ∧ x.eop = true) :
    s.sopTake ch g nxt = (s.takePip (s.laneOf ch)).feed ch (s.newFrame ch (s.fallBack ch)) g := by
  unfold State.sopTake
  rcases h with h | ⟨x, rfl, h⟩ <;> simp only [h, Bool.true_or, Bool.or_true, if_true] <;> rfl

/-- A good frame of one segment. -/
theorem sopTake_one (he : g.eop = true) (hr : s.sopRefused ch g none = none) :
    s.sopTake ch g none = .ok ((((s.takePip (s.laneOf ch)).setOpn ch none).count (inA 0x408) (Seg.count g)).launch 0
      (.pkt (s.wholePkt ((s.newFrame ch (s.fallBack ch)).withHead g)) [] true)) := by
  obtain ⟨hlen, hfcs, herr⟩ := badAtSop_one_none he (badAtSop_of_sopRefused hr)
  have hle := Seg.count_le g
  have h0 : (s.newFrame ch (s.fallBack ch)).bytes = 0 := rfl
  rw [sopTake_whole (.inl he), feed_whole rfl rfl rfl he (by omega) (by omega) (by omega) hfcs rfl herr, h0, Nat.zero_add]
  rfl

/-- The record of a frame of two segments between them. -/
def State.halfFrame (s : State) (g : Seg) : OpenF := (s.newFrame g.ch.toNat (s.fallBack g.ch.toNat)).withHead g

/-- Ingress between the two segments of a frame. -/
def State.halfway (s : State) (g : Seg) : State := (s.takePip (s.laneOf g.ch.toNat)).setOpn g.ch.toNat (some (s.halfFrame g))

theorem bytes_halfFrame (he : g.eop = false) : (s.halfFrame g).bytes = 64 := (Nat.zero_add _).trans (Seg.count_of_not_eop he)

/-- A good frame of two segments: the SOP's waits for the second. -/
theorem sopTake_first {h : Seg} (he : g.eop = false) (hhe : h.eop = true) :
    s.sopTake g.ch.toNat g (some h) = .ok (s.halfway g) := by
  have h256 : (s.newFrame g.ch.toNat (s.fallBack g.ch.toNat)).bytes < 256 := Nat.zero_lt_succ 255
  rw [sopTake_whole (.inr ⟨h, rfl, hhe⟩), feed_head h256, joined_open he]
  rfl

/-- The second sends the frame to rank 0. -/
theorem seg_second {h : Seg} (hb : s.blk = 2) (he : g.eop = false) (hch : h.ch = g.ch) (hhs : h.sop = false) (hhe : h.eop = true)
    (hr : s.sopRefused g.ch.toNat g (some h) = none) :
    (s.halfway g).seg h none = .ok ((((s.halfway g).setOpn g.ch.toNat none).count (inA 0x408) (64 + Seg.count h)).launch 0
      (.pkt (s.wholePkt ((s.halfFrame g).withHead h)) [] true)) := by
  obtain ⟨hgerr, hherr, hfcs⟩ := badAtSop_two_none he hhs hhe (badAtSop_of_sopRefused hr)
  have hle := Seg.count_le h
  have hbytes := bytes_halfFrame (s := s) he
  have ho : (s.halfway g).opn h.ch.toNat = some (s.halfFrame g) := by rw [hch]; exact opn_setOpn _ _ _
  rw [seg_cont hhs, segCont_feeds (s := s.halfway g) hb ho rfl (Seg.broken_of_eop hhe),
    feed_whole rfl rfl rfl hhe (by omega) (by omega) (by omega) hfcs hgerr hherr, hbytes, hch]
  rfl

/-- Of a frame longer than its segment the packet of the SOP: its verdict pending, its tail in buffer `h`. -/
def State.cutPkt (s : State) (ch : Nat) (g : Seg) (h : Handle) : Pkt := ⟨fit 256 (Seg.payload g), { s.stamp ch false with tail := h }⟩

/-- The record of a frame dispatched at its SOP. -/
def State.cutFrame (s : State) (ch : Nat) (g : Seg) (h : Handle) : OpenF :=
  { s.newFrame ch false with md := { s.stamp ch false with tail := h }, handles := [h], dispatched := true, head := Seg.payload g,
                             bytes := 64 }

/-- A cut-through SOP takes the first handle of its pool. -/
theorem sopTake_cut {h : Handle} {hs : List Handle} (he : g.eop = false) (hf : s.fallBack ch = false)
    (hh : s.handles (s.poolOf ch) = h :: hs) :
    s.sopTake ch g none = .ok ((((((s.takePip (s.laneOf ch)).setStore (s.poolOf ch) hs).launch 0
      (.pkt (s.cutPkt ch g h) [] false)).count (ldA 0x148)).setOpn ch (some (s.cutFrame ch g h)))) := by
  unfold State.sopTake
  simp only [he, hf, hh]
  rfl

/-- With no handle and without EMPTY ingress waits. -/
theorem sopTake_waits (he : g.eop = false) (hf : s.fallBack ch = false) (hh : s.handles (s.poolOf ch) = [])
    (hp : s.poolEmpty (s.poolOf ch) = false) : s.sopTake ch g none = .wait ch := by
  simp [State.sopTake, he, hf, hh, hp]

end

end Sys2Proof.Machine
end

section
/-! INGRESS_SEGMENT, PAUSE_EVENT and IN_PAUSE_NL_CHANGE: what an edge does (02 R34–R52). -/

namespace Sys2Proof.Machine
open Sys2Proof.Claim

/-! ### An edge (02 R37, R48) -/

/-- Ingress as its segments find it: a handle kept is at hand again, and pause states follow R48. -/
def State.atEdge (s : State) : State := s.unkeep.refreshPause

/-- Ingress after an edge at which no segment waits. -/
def State.afterEdge (s : State) : State := ({ s with ing := { s.ing with waitCh := none } }).refreshPause

section
variable (s : State)

@[simp] theorem afterEdge_links : s.afterEdge.links = s.links := rfl
@[simp] theorem link_afterEdge (k : Nat) : s.afterEdge.link k = s.link k := rfl
@[simp] theorem afterEdge_counters : s.afterEdge.counters = s.counters := rfl
@[simp] theorem ctr_afterEdge (a : Nat) : s.afterEdge.ctr a = s.ctr a := rfl
@[simp] theorem afterEdge_opn : s.afterEdge.ing.opn = s.ing.opn := rfl
@[simp] theorem opn_afterEdge (ch : Nat) : s.afterEdge.opn ch = s.opn ch := rfl
@[simp] theorem afterEdge_vq : s.afterEdge.ing.vq = s.ing.vq := rfl
@[simp] theorem afterEdge_lanePip : s.afterEdge.ing.lanePip = s.ing.lanePip := rfl
@[simp] theorem handles_afterEdge (p : Nat) : s.afterEdge.handles p = s.handles p := rfl

theorem atEdge_eq : ∃ p r b,
    s.atEdge = { s with ing := { s.ing with pauseSt := p, resv := r }, buf := { s.buf with store := b } } := by
  unfold State.atEdge State.unkeep
  split
  · exact ⟨_, none, _, rfl⟩
  · exact ⟨_, s.ing.resv, s.buf.store, rfl⟩

@[simp] theorem atEdge_links : s.atEdge.links = s.links := by obtain ⟨p, r, b, h⟩ := atEdge_eq s; rw [h]
@[simp] theorem link_atEdge (k : Nat) : s.atEdge.link k = s.link k := by obtain ⟨p, r, b, h⟩ := atEdge_eq s; rw [h]; rfl
@[simp] theorem atEdge_counters : s.atEdge.counters = s.counters := by obtain ⟨p, r, b, h⟩ := atEdge_eq s; rw [h]
@[simp] theorem ctr_atEdge (a : Nat) : s.atEdge.ctr a = s.ctr a := by obtain ⟨p, r, b, h⟩ := atEdge_eq s; rw [h]; rfl
@[simp] theorem atEdge_opn : s.atEdge.ing.opn = s.ing.opn := by obtain ⟨p, r, b, h⟩ := atEdge_eq s; rw [h]
@[simp] theorem opn_atEdge (ch : Nat) : s.atEdge.opn ch = s.opn ch := by obtain ⟨p, r, b, h⟩ := atEdge_eq s; rw [h]; rfl
@[simp] theorem atEdge_vq : s.atEdge.ing.vq = s.ing.vq := by obtain ⟨p, r, b, h⟩ := atEdge_eq s; rw [h]
@[simp] theorem atEdge_lanePip : s.atEdge.ing.lanePip = s.ing.lanePip := by obtain ⟨p, r, b, h⟩ := atEdge_eq s; rw [h]
@[simp] theorem atEdge_blk : s.atEdge.blk = s.blk := by obtain ⟨p, r, b, h⟩ := atEdge_eq s; rw [h]
@[simp] theorem atEdge_tb : s.atEdge.tb = s.tb := by obtain ⟨p, r, b, h⟩ := atEdge_eq s; rw [h]
@[simp] theorem handles_atEdge (p : Nat) : s.atEdge.handles p = s.unkeep.handles p := rfl
@[simp] theorem laneOf_atEdge (ch : Nat) : s.atEdge.laneOf ch = s.laneOf ch := by obtain ⟨p, r, b, h⟩ := atEdge_eq s; rw [h]; rfl
@[simp] theorem poolOf_atEdge (ch : Nat) : s.atEdge.poolOf ch = s.poolOf ch := by obtain ⟨p, r, b, h⟩ := atEdge_eq s; rw [h]; rfl
@[simp] theorem bufSize_atEdge (p : Nat) : s.atEdge.bufSize p = s.bufSize p := by obtain ⟨p, r, b, h⟩ := atEdge_eq s; rw [h]; rfl
@[simp] theorem poolEmpty_atEdge (p : Nat) : s.atEdge.poolEmpty p = s.poolEmpty p := by
  obtain ⟨p, r, b, h⟩ := atEdge_eq s; rw [h]; rfl
@[simp] theorem fallBack_atEdge (ch : Nat) : s.atEdge.fallBack ch = s.fallBack ch := by
  obtain ⟨p, r, b, h⟩ := atEdge_eq s; rw [h]; rfl
@[simp] theorem stamp_atEdge (ch : Nat) (saf : Bool) : s.atEdge.stamp ch saf = s.stamp ch saf := by
  obtain ⟨p, r, b, h⟩ := atEdge_eq s; rw [h]; rfl
@[simp] theorem sopRefused_atEdge (ch : Nat) (g : Seg) (nxt : Option Seg) :
    s.atEdge.sopRefused ch g nxt = s.sopRefused ch g nxt := by
  obtain ⟨p, r, b, h⟩ := atEdge_eq s; rw [h]; rfl

end

theorem ingressSegment_ready {s : State} (h : s.inReady = true) (l0 l1 : Option Seg) :
    exec (.ingressSegment l0 l1) s = .next ((s.atEdge.edge l0 l1).refreshPause) := by
  change execIngressSegment l0 l1 s = _
  simp only [execIngressSegment, h]
  rfl

/-- An edge with a segment on lane 0 that does not wait. -/
theorem ingressSegment_one {s t : State} {g : Seg} (h : s.inReady = true) (hs : s.atEdge.seg g none = .ok t) :
    exec (.ingressSegment (some g) none) s = .next t.afterEdge := by
  rw [ingressSegment_ready h]
  simp only [State.edge, laneMate, hs]
  rfl

/-- An edge with a segment on either lane of one channel. -/
theorem ingressSegment_two {s t u : State} {g h : Seg} (hr : s.inReady = true) (he : g.eop = false) (hch : h.ch = g.ch)
    (hs : s.atEdge.seg g (some h) = .ok t) (ht : t.seg h none = .ok u) :
    exec (.ingressSegment (some g) (some h)) s = .next u.afterEdge := by
  have hmate : laneMate g (some h) = some h := by simp [laneMate, he, hch]
  rw [ingressSegment_ready hr]
  simp only [State.edge, hmate, hs, ht]
  rfl

/-- With ingress not ready nothing is taken (02 R37). -/
theorem ingressSegment_not_ready {s : State} (h : s.inReady = false) (l0 l1 : Option Seg) :
    exec (.ingressSegment l0 l1) s = .next s := by
  change execIngressSegment l0 l1 s = _
  simp [execIngressSegment, h]

@[simp] theorem newFrame_atEdge (s : State) (ch : Nat) (saf : Bool) : s.atEdge.newFrame ch saf = s.newFrame ch saf := by
  simp [State.newFrame]

@[simp] theorem halfFrame_atEdge (s : State) (g : Seg) : s.atEdge.halfFrame g = s.halfFrame g := by simp [State.halfFrame]

@[simp] theorem wholePkt_atEdge (s : State) (f : OpenF) : s.atEdge.wholePkt f = s.wholePkt f := by simp [State.wholePkt]

/-- The metadata of a good frame that is stamped at this edge. -/
theorem wholePkt_stamped {s : State} {g : Seg} {saf : Bool} {f : OpenF} (hmd : f.md = s.stamp g.ch.toNat saf) (hlen : f.bytes ≤ 256) :
    let md := (s.wholePkt f).md
    let lane := s.laneOf g.ch.toNat
    md.inCh.toNat = g.ch.toNat ∧ md.lane = lane ∧ md.pip = tget 0 s.ing.lanePip lane.toNat ∧ md.verdict = 1 ∧
      md.len.toNat = f.bytes ∧ md.tail = noBuf ∧ md.attempt = 0 ∧ md.round = s.tb.cur ∧
      md.tsNs.toNat = s.copyNs % 1000000000 ∧ md.tsSec = BitVec.ofNat 48 (s.copyNs / 1000000000) := by
  unfold State.wholePkt
  dsimp only
  rw [hmd]
  refine ⟨Nat.mod_eq_of_lt g.ch.isLt, rfl, rfl, rfl, ?_, rfl, rfl, rfl, ?_, rfl⟩
  · rw [BitVec.toNat_ofNat]; omega
  · rw [State.stamp, BitVec.toNat_ofNat]; omega

/-- In MINIMAL a frame of one segment leaves its channel without a frame, and counts neither a truncation nor a protocol error. -/
theorem feedMin_one_keeps (s : State) {g : Seg} (he : g.eop = true) :
    let t := s.feedMin g.ch.toNat { OpenF.skip with discard := false } g
    t.opn g.ch.toNat = none ∧ t.ing.vq = s.ing.vq ∧ t.ctr (inA 0x420) = s.ctr (inA 0x420) ∧ t.ctr (inA 0x428) = s.ctr (inA 0x428) := by
  have hlen : ¬ 16384 ≤ OpenF.skip.bytes + Seg.count g := by
    have := Seg.count_le g
    have : OpenF.skip.bytes = 0 := rfl
    omega
  unfold State.feedMin
  simp only [he, if_neg hlen, Bool.not_true, Bool.false_eq_true, if_false]
  split_ifs
  · simp [count_ctr, inA]
  · simp [count_ctr, inA]
  · simp
  · exact ⟨opn_setOpn _ _ none, rfl, rfl, rfl⟩

/-- A SOP of one segment leaves its channel without a frame; beyond what it does to the frame it finds open, it issues no verdict and
counts neither a truncation nor a protocol error. -/
theorem segSop_one_keeps {s : State} {g : Seg} (he : g.eop = true) (hb : s.blk = 2 ∨ s.blk = 3)
    (ho : (s.sopClears g.ch.toNat).opn g.ch.toNat = none) :
    ∃ t, s.segSop g none = .ok t ∧ t.opn g.ch.toNat = none ∧ t.ing.vq = (s.sopClears g.ch.toNat).ing.vq ∧
      t.ctr (inA 0x420) = (s.sopClears g.ch.toNat).ctr (inA 0x420) ∧
      t.ctr (inA 0x428) = (s.sopClears g.ch.toNat).ctr (inA 0x428) := by
  cases hr : (s.sopClears g.ch.toNat).sopRefused g.ch.toNat g none with
  | some a =>
    obtain ⟨-, -, hvq⟩ := sopRefuse_keeps (s.sopClears g.ch.toNat) g a
    have hbr : Seg.broken g = false := Seg.broken_of_eop he
    refine ⟨_, segSop_refused hr, (opn_sopRefuse ho a).trans (if_pos he), hvq, ?_, ?_⟩
    · rw [ctr_sopRefuse, if_neg (sopRefused_ne_truncated he hr).symm]; simp [inA]
    · rw [ctr_sopRefuse, if_neg (sopRefused_ne_protocol hr).symm, hbr]; simp [b2n]
  | none =>
    rcases hb with hb | hb
    · refine ⟨_, (segSop_takes hb hr).trans (sopTake_one he hr), ?_, ?_, ?_, ?_⟩
      · simp
      · simp
      · simp [count_ctr, inA]
      · simp [count_ctr, inA]
    · exact ⟨_, segSop_minimal hb hr, feedMin_one_keeps _ he⟩

/-- What a bad end leaves is left after the edge. -/
theorem EndedBad.edge {s t : State} {f : OpenF} {len : Nat} (h : EndedBad s.atEdge t f len) : EndedBad s t.afterEdge f len := by
  obtain ⟨hv, hs, hb⟩ := h
  exact ⟨by simpa using hv, by simpa using hs, by simpa using hb⟩

section
variable {s : State} {g : Seg} (hr : s.inReady = true)
include hr

theorem blk_of_inReady : s.blk = 2 ∨ s.blk = 3 := by
  simp only [State.inReady, Bool.and_eq_true, Bool.or_eq_true, decide_eq_true_eq] at hr
  exact hr.1.1.2

/-! ### Segments outside a frame (02 R35, R40, R44) -/

theorem ingress_noFrame (hs : g.sop = false) (ho : s.opn g.ch.toNat = none) :
    ∃ t, exec (.ingressSegment (some g) none) s = .next t ∧ t.ctr (inA 0x428) = s.ctr (inA 0x428) + 1 ∧ t.links = s.links ∧
      t.ing.opn = s.ing.opn := by
  refine ⟨_, ingressSegment_one hr ((seg_cont hs none).trans (segCont_closed (by simpa using ho))), ?_⟩
  simp [count_ctr]

theorem ingress_lane1 : ∃ t, exec (.ingressSegment none (some g)) s = .next t ∧ t.ctr (inA 0x428) = s.ctr (inA 0x428) + 1 ∧
    t.links = s.links ∧ t.ing.opn = s.ing.opn := by
  have hedge : (s.atEdge.edge none (some g)).refreshPause = (s.atEdge.count (inA 0x428)).afterEdge := rfl
  refine ⟨_, ingressSegment_ready hr none (some g), ?_⟩
  rw [hedge]
  simp [count_ctr]

theorem ingress_discards {f : OpenF} (hs : g.sop = false) (ho : s.opn g.ch.toNat = some f) (hd : f.discard = true) :
    ∃ t, exec (.ingressSegment (some g) none) s = .next t ∧ t.links = s.links ∧ t.counters = s.counters ∧
      t.opn g.ch.toNat = (if g.eop then none else some f) := by
  refine ⟨_, ingressSegment_one hr ((seg_cont hs none).trans (segCont_discards (by simpa using ho) hd)), ?_⟩
  cases g.eop <;> simp [ho]

/-! ### A SOP (02 R42–R46) -/

theorem ingress_sopRefused {a : Nat} (hs : g.sop = true) (ho : s.opn g.ch.toNat = none)
    (ha : s.sopRefused g.ch.toNat g none = some a) :
    ∃ t, exec (.ingressSegment (some g) none) s = .next t ∧ t.ctr a = s.ctr a + 1 ∧ t.links = s.links ∧
      t.ctr (inA 0x428) = s.ctr (inA 0x428) + (if g.eop = false ∧ g.bytes ≠ 0 then 1 else 0) ∧
      t.ing.lanePip = s.ing.lanePip ∧ t.opn g.ch.toNat = (if g.eop then none else some .skip) := by
  have hclear : s.atEdge.sopClears g.ch.toNat = s.atEdge := sopClears_closed (by simpa using ho)
  have hseg := segSop_refused (s := s.atEdge) (g := g) (a := a) (by rw [hclear]; simpa using ha)
  have hne := sopRefused_ne_protocol ha
  have hbr : BitVec.ofNat 64 (b2n (Seg.broken g)) = if g.eop = false ∧ g.bytes ≠ 0 then 1 else 0 := by
    cases he : g.eop <;> by_cases hb : g.bytes = 0#6 <;> simp [Seg.broken, he, hb, b2n]
  obtain ⟨hlinks, hpip, -⟩ := sopRefuse_keeps s.atEdge g a
  refine ⟨_, ingressSegment_one hr ((seg_sop hs none).trans (hclear ▸ hseg)), ?_, ?_, ?_, ?_, ?_⟩
  · simp [ctr_sopRefuse, hne]
  · simp [hlinks]
  · simp [ctr_sopRefuse, hne.symm, hbr]
  · simp [hpip]
  · simp [opn_sopRefuse, ho]

/-- A good frame of one segment goes to rank 0 whole. -/
theorem ingress_whole (hb : s.blk = 2) (hs : g.sop = true) (ho : s.opn g.ch.toNat = none)
    (ha : s.sopRefused g.ch.toNat g none = none) (he : g.eop = true) :
    let lane := s.laneOf g.ch.toNat
    ∃ t p, exec (.ingressSegment (some g) none) s = .next t ∧ t.link 0 = s.link 0 ++ [.pkt p [] true] ∧
      p.head = fit 256 (Seg.payload g) ∧ p.md.inCh.toNat = g.ch.toNat ∧ p.md.lane = lane ∧
      p.md.pip = tget 0 s.ing.lanePip lane.toNat ∧
      p.md.verdict = 1 ∧ p.md.len.toNat = Seg.count g ∧ p.md.tail = noBuf ∧ p.md.attempt = 0 ∧ p.md.round = s.tb.cur ∧
      p.md.tsNs.toNat = s.copyNs % 1000000000 ∧ p.md.tsSec = BitVec.ofNat 48 (s.copyNs / 1000000000) ∧
      tget 0 t.ing.lanePip lane.toNat = tget 0 s.ing.lanePip lane.toNat + 1 ∧ t.ing.opn = tdel s.ing.opn g.ch.toNat ∧
      t.ctr (inA 0x400) = s.ctr (inA 0x400) + 1 ∧ t.ctr (inA 0x408) = s.ctr (inA 0x408) + BitVec.ofNat 64 (Seg.count g) := by
  have hclear : s.atEdge.sopClears g.ch.toNat = s.atEdge := sopClears_closed (by simpa using ho)
  have hr0 : s.atEdge.sopRefused g.ch.toNat g none = none := by simpa using ha
  have hseg := segSop_takes (s := s.atEdge) (nxt := none) (by simpa using hb) (by rwa [hclear])
  rw [hclear, sopTake_one he hr0] at hseg
  simp only [wholePkt_atEdge, newFrame_atEdge, fallBack_atEdge, laneOf_atEdge] at hseg
  have hle := Seg.count_le g
  have hbytes : ((s.newFrame g.ch.toNat (s.fallBack g.ch.toNat)).withHead g).bytes = Seg.count g := Nat.zero_add _
  obtain ⟨hin, hlane, hpip, hv, hlen, htail, hatt, hround, hns, hsec⟩ :=
    wholePkt_stamped (s := s) (g := g) (f := (s.newFrame g.ch.toNat (s.fallBack g.ch.toNat)).withHead g) rfl (by omega)
  refine ⟨_, _, ingressSegment_one hr ((seg_sop hs none).trans hseg), ?_, rfl, hin, hlane, hpip, hv, hlen.trans hbytes, htail, hatt,
    hround, hns, hsec, ?_, ?_, ?_, ?_⟩
  · simp
  · simp [takePip_lanePip]
  · simp
  · simp [count_ctr, inA]
  · simp [count_ctr, inA]

/-- A cut-through SOP takes the first handle of its pool and goes to rank 0 with its verdict pending. -/
theorem ingress_cutThrough {h : Handle} {hs : List Handle} (hb : s.blk = 2) (hsop : g.sop = true) (ho : s.opn g.ch.toNat = none)
    (ha : s.sopRefused g.ch.toNat g none = none) (he : g.eop = false) (hf : s.fallBack g.ch.toNat = false)
    (hh : s.unkeep.handles (s.poolOf g.ch.toNat) = h :: hs) :
    let lane := s.laneOf g.ch.toNat
    ∃ t p f, exec (.ingressSegment (some g) none) s = .next t ∧ t.link 0 = s.link 0 ++ [.pkt p [] false] ∧
      p.head = fit 256 (Seg.payload g) ∧ p.md.inCh.toNat = g.ch.toNat ∧ p.md.lane = lane ∧
      p.md.pip = tget 0 s.ing.lanePip lane.toNat ∧
      p.md.verdict = 0 ∧ p.md.tail = h ∧ t.handles (s.poolOf g.ch.toNat) = hs ∧ t.ctr (ldA 0x148) = s.ctr (ldA 0x148) + 1 ∧
      t.opn g.ch.toNat = some f ∧ f.dispatched = true ∧ f.bytes = 64 ∧ f.handles = [h] ∧
      tget 0 t.ing.lanePip lane.toNat = tget 0 s.ing.lanePip lane.toNat + 1 := by
  have hclear : s.atEdge.sopClears g.ch.toNat = s.atEdge := sopClears_closed (by simpa using ho)
  have hseg := segSop_takes (s := s.atEdge) (nxt := none) (by simpa using hb) (by rw [hclear]; simpa using ha)
  rw [hclear, sopTake_cut he (by simpa using hf) (by simpa using hh)] at hseg
  refine ⟨_, s.cutPkt g.ch.toNat g h, s.cutFrame g.ch.toNat g h, ingressSegment_one hr ((seg_sop hsop none).trans hseg), ?_, rfl,
    Nat.mod_eq_of_lt g.ch.isLt, rfl, rfl, rfl, rfl, ?_, ?_, ?_, rfl, rfl, rfl, ?_⟩
  · simp [State.cutPkt]
  · simp
  · simp [count_ctr, inA, ldA]
  · simp [State.cutFrame]
  · simp [takePip_lanePip]

/-- With neither a handle nor EMPTY ingress waits, and takes nothing. -/
theorem ingress_waits (hb : s.blk = 2) (hsop : g.sop = true) (ho : s.opn g.ch.toNat = none)
    (ha : s.sopRefused g.ch.toNat g none = none) (he : g.eop = false) (hf : s.fallBack g.ch.toNat = false)
    (hh : s.unkeep.handles (s.poolOf g.ch.toNat) = []) (hp : s.poolEmpty (s.poolOf g.ch.toNat) = false) :
    ∃ t, exec (.ingressSegment (some g) none) s = .next t ∧ t.ing.waitCh = some g.ch.toNat ∧ t.ing.opn = s.ing.opn ∧
      t.ing.lanePip = s.ing.lanePip ∧ { t with ing := s.ing, buf := s.buf } = s := by
  have hclear : s.atEdge.sopClears g.ch.toNat = s.atEdge := sopClears_closed (by simpa using ho)
  have hseg := segSop_takes (s := s.atEdge) (nxt := none) (by simpa using hb) (by rw [hclear]; simpa using ha)
  rw [hclear, sopTake_waits he (by simpa using hf) (by simpa using hh) (by simpa using hp)] at hseg
  have hwait : s.atEdge.edge (some g) none = { s.atEdge with ing := { s.atEdge.ing with waitCh := some g.ch.toNat } } := by
    simp only [State.edge, laneMate, (seg_sop hsop none).trans hseg]
    simp [State.waitFor, State.tookHandle]
  refine ⟨_, ingressSegment_ready hr _ _, ?_⟩
  rw [hwait]
  obtain ⟨p, r, b, h⟩ := atEdge_eq s
  rw [h]
  exact ⟨rfl, rfl, rfl, rfl⟩

/-! ### Further segments of a dispatched frame (02 R43, R44) -/

/-- Head bytes of a dispatched frame go on to rank 0. -/
theorem ingress_headSegment {f : OpenF} (hb : s.blk = 2) (hs : g.sop = false) (ho : s.opn g.ch.toNat = some f)
    (hd : f.discard = false) (hdisp : f.dispatched = true) (he : g.eop = false) (hbytes : g.bytes = 0) (h256 : f.bytes < 256) :
    ∃ t, exec (.ingressSegment (some g) none) s = .next t ∧
      t.link 0 = s.link 0 ++ [.headSeg f.md.lane f.md.pip (Seg.payload g) (decide (256 ≤ f.bytes + 64))] ∧
      t.opn g.ch.toNat = some { f with head := f.head ++ Seg.payload g, bytes := f.bytes + 64, errSeen := f.errSeen || g.err } := by
  have hfeed : s.atEdge.segCont g = _ := (segCont_feeds (by simpa using hb) (by simpa using ho) hd
    ((Seg.broken_of_not_eop he).trans (by simp [hbytes]))).trans (feed_head h256)
  refine ⟨_, ingressSegment_one hr ((seg_cont hs none).trans hfeed), ?_⟩
  simp [joined_open he, hdisp, he, OpenF.withHead, Seg.count_of_not_eop he]

/-- A good EOP of a dispatched frame of at most 256 bytes leaves a good verdict, and returns its handle. -/
theorem ingress_goodEnd {f : OpenF} (hb : s.blk = 2) (hs : g.sop = false) (ho : s.opn g.ch.toNat = some f)
    (hd : f.discard = false) (hdisp : f.dispatched = true) (he : g.eop = true) (herr : g.err = false) (hfcs : g.fcsOk = true)
    (hseen : f.errSeen = false) (h256 : f.bytes < 256) (h14 : 14 ≤ f.bytes + Seg.count g) (hlen : f.bytes + Seg.count g ≤ 256) :
    ∃ t, exec (.ingressSegment (some g) none) s = .next t ∧ t.opn g.ch.toNat = none ∧
      t.ing.vq = s.ing.vq ++ [⟨f.md.lane, f.md.pip, 1, BitVec.ofNat 14 (f.bytes + Seg.count g)⟩] ∧
      t.handles f.md.pool.toNat = s.unkeep.handles f.md.pool.toNat ++ f.handles.take 1 := by
  have hfeed : s.atEdge.segCont g = _ := (segCont_feeds (by simpa using hb) (by simpa using ho) hd
    (Seg.broken_of_eop he)).trans (feed_head h256)
  rw [joined_good he h14 hfcs (by simp [OpenF.withHead, hseen, herr]), endFrame_dispatched _ _ (f.withHead g) _ hdisp] at hfeed
  refine ⟨_, ingressSegment_one hr ((seg_cont hs none).trans hfeed), ?_, ?_, ?_⟩
  · simp [State.opn, tfind_tdel_same]
  · simp [hdisp, OpenF.withHead]
  · exact (handles_closeFrame _ g.ch.toNat (f.withHead g) hlen).trans (by simp [hdisp, OpenF.withHead])

/-! ### Two segments of one channel (02 R35) -/

/-- A good frame of two segments goes to rank 0 whole. -/
theorem ingress_twoWhole {h : Seg} (hb : s.blk = 2) (hch : h.ch = g.ch) (hhs : h.sop = false) (he : g.eop = false)
    (hs : g.sop = true) (hhe : h.eop = true) (ho : s.opn g.ch.toNat = none) (ha : s.sopRefused g.ch.toNat g (some h) = none) :
    let lane := s.laneOf g.ch.toNat
    let n := 64 + Seg.count h
    ∃ t p, exec (.ingressSegment (some g) (some h)) s = .next t ∧ t.link 0 = s.link 0 ++ [.pkt p [] true] ∧
      p.head = fit 256 (Seg.payload g ++ Seg.payload h) ∧ p.md.inCh.toNat = g.ch.toNat ∧ p.md.lane = lane ∧
      p.md.pip = tget 0 s.ing.lanePip lane.toNat ∧ p.md.verdict = 1 ∧ p.md.len.toNat = n ∧ p.md.tail = noBuf ∧
      t.opn g.ch.toNat = none ∧ tget 0 t.ing.lanePip lane.toNat = tget 0 s.ing.lanePip lane.toNat + 1 ∧
      t.ctr (inA 0x400) = s.ctr (inA 0x400) + 1 ∧ t.ctr (inA 0x408) = s.ctr (inA 0x408) + BitVec.ofNat 64 n := by
  have hclear : s.atEdge.sopClears g.ch.toNat = s.atEdge := sopClears_closed (by simpa using ho)
  have hseg := segSop_takes (s := s.atEdge) (nxt := some h) (by simpa using hb) (by rw [hclear]; simpa using ha)
  rw [hclear, sopTake_first he hhe] at hseg
  have hcont := seg_second (s := s.atEdge) (by simpa using hb) he hch hhs hhe (by simpa using ha)
  rw [wholePkt_atEdge, halfFrame_atEdge] at hcont
  have hle := Seg.count_le h
  have hbytes : ((s.halfFrame g).withHead h).bytes = 64 + Seg.count h := congrArg (· + Seg.count h) (bytes_halfFrame he)
  obtain ⟨hin, hlane, hpip, hv, hlen, htail, -⟩ :=
    wholePkt_stamped (s := s) (g := g) (f := (s.halfFrame g).withHead h) rfl (by omega)
  refine ⟨_, _, ingressSegment_two hr he hch ((seg_sop hs _).trans hseg) hcont, ?_, rfl, hin, hlane, hpip, hv, hlen.trans hbytes,
    htail, ?_, ?_, ?_, ?_⟩
  · simp [State.halfway]
  · simp
  · simp [State.halfway, takePip_lanePip]
  · simp [State.halfway, count_ctr, inA]
  · simp [State.halfway, count_ctr, inA]

/-- Two segments of head bytes go on to rank 0 in order. -/
theorem ingress_twoHead {h : Seg} {f : OpenF} (hb : s.blk = 2) (hch : h.ch = g.ch) (hhs : h.sop = false) (he : g.eop = false)
    (hs : g.sop = false) (hg0 : g.bytes = 0) (hhe : h.eop = false) (hh0 : h.bytes = 0) (ho : s.opn g.ch.toNat = some f)
    (hd : f.discard = false) (hdisp : f.dispatched = true) (hlen : f.bytes + 128 ≤ 256) :
    ∃ t, exec (.ingressSegment (some g) (some h)) s = .next t ∧
      t.link 0 = s.link 0 ++ [.headSeg f.md.lane f.md.pip (Seg.payload g) false,
        .headSeg f.md.lane f.md.pip (Seg.payload h) (decide (256 ≤ f.bytes + 128))] ∧
      t.opn g.ch.toNat = some
        { f with head := f.head ++ Seg.payload g ++ Seg.payload h, bytes := f.bytes + 128, errSeen := f.errSeen || g.err || h.err } := by
  have hcg := Seg.count_of_not_eop he
  have hch' := Seg.count_of_not_eop hhe
  have hfeed : s.atEdge.segCont g = _ := (segCont_feeds (by simpa using hb) (by simpa using ho) hd
    ((Seg.broken_of_not_eop he).trans (by simp [hg0]))).trans (feed_head (by omega))
  rw [joined_open he, if_pos hdisp] at hfeed
  have hcont : State.seg _ h none = _ := (seg_cont hhs none).trans ((segCont_feeds (s := (s.atEdge.launch 0
      (.headSeg f.md.lane f.md.pip (Seg.payload g) (g.eop || decide (256 ≤ f.bytes + Seg.count g)))).setOpn g.ch.toNat
        (some (f.withHead g))) (f := f.withHead g) (by simpa using hb) (by rw [hch]; exact opn_setOpn _ _ _) hd
      ((Seg.broken_of_not_eop hhe).trans (by simp [hh0]))).trans (feed_head (by simp only [OpenF.withHead]; omega)))
  rw [joined_open hhe, hch] at hcont
  refine ⟨_, ingressSegment_two hr he hch ((seg_cont hs _).trans hfeed) hcont, ?_, ?_⟩
  · have hfirst : ¬ 256 ≤ f.bytes + 64 := by omega
    simp [OpenF.withHead, hdisp, he, hhe, hcg, hch', hfirst]
  · simp [OpenF.withHead, hcg, hch']

/-! ### Frames that end badly (02 R40, R43–R46) -/

/-- A frame that grows beyond 16 383 bytes is truncated there, and the rest discarded. -/
theorem ingress_truncated {f : OpenF} (hb : s.blk = 2) (hs : g.sop = false) (ho : s.opn g.ch.toNat = some f) (hd : f.discard = false)
    (hbr : Seg.broken g = false) (hlen : 16384 ≤ f.bytes + Seg.count g) (h16 : f.bytes < 16384) (hroom : s.atEdge.HasRoom f) :
    ∃ t, exec (.ingressSegment (some g) none) s = .next t ∧ EndedBad s t f 16383 ∧ t.ctr (inA 0x420) = s.ctr (inA 0x420) + 1 ∧
      t.opn g.ch.toNat = (if g.eop then none else some .skip) := by
  obtain ⟨s1, f1, hg, hfeed⟩ := feed_truncates (ch := g.ch.toNat) hlen h16 hroom
  have hseg := (seg_cont hs none).trans ((segCont_feeds (by simpa using hb) (by simpa using ho) hd hbr).trans hfeed)
  have hbad := hg.endedBad (truncFrame_endedBad s1 g.ch.toNat f1)
  rw [Nat.add_sub_cancel' (by omega)] at hbad
  refine ⟨_, ingressSegment_one hr hseg, ?_, ?_, ?_⟩
  · split
    · exact hbad.edge
    · exact (hbad.setOpn _ _).edge
  · cases g.eop <;> simp [hg.ctr, inA]
  · cases g.eop <;> simp

/-- A short frame, a bad FCS and an error end it badly, each counted. -/
theorem ingress_badEnd {f : OpenF} (hb : s.blk = 2) (hs : g.sop = false) (ho : s.opn g.ch.toNat = some f) (hd : f.discard = false)
    (he : g.eop = true) (hlen : f.bytes + Seg.count g < 16384) (hroom : s.atEdge.HasRoom f)
    (hbad : f.bytes + Seg.count g < 14 ∨ g.fcsOk = false ∨ g.err = true ∨ f.errSeen = true) :
    ∃ t, exec (.ingressSegment (some g) none) s = .next t ∧ EndedBad s t f (f.bytes + Seg.count g) ∧ t.opn g.ch.toNat = none ∧
      t.ctr (inA 0x410) = s.ctr (inA 0x410) + (if f.bytes + Seg.count g < 14 then 1 else 0) ∧
      t.ctr (inA 0x418) = s.ctr (inA 0x418) + (if f.bytes + Seg.count g < 14 then 0 else 1) := by
  obtain ⟨s1, f1, hg, hfeed⟩ := feed_badEnd (ch := g.ch.toNat) hlen hroom he hbad
  have hseg := (seg_cont hs none).trans ((segCont_feeds (by simpa using hb) (by simpa using ho) hd (Seg.broken_of_eop he)).trans hfeed)
  have hend := (endFrame_endedBad (s1.count (inA (if f.bytes + Seg.count g < 14 then 0x410 else 0x418))) g.ch.toNat
    { f1 with errSeen := f1.errSeen || g.err }).of_count (by split <;> decide)
  refine ⟨_, ingressSegment_one hr hseg, (hg.endedBad ⟨hend.verdict, hend.skip, hend.bytes⟩).edge, ?_, ?_, ?_⟩
  · simp
  · split <;> simp [count_ctr, hg.ctr, inA]
  · split <;> simp [count_ctr, hg.ctr, inA]

/-- A segment that breaks R40 truncates its frame, and the rest is discarded. -/
theorem ingress_broken {f : OpenF} (hb : s.blk = 2) (hs : g.sop = false) (ho : s.opn g.ch.toNat = some f) (hd : f.discard = false)
    (he : g.eop = false) (hbytes : g.bytes ≠ 0) :
    ∃ t, exec (.ingressSegment (some g) none) s = .next t ∧ EndedBad s t f f.bytes ∧ t.opn g.ch.toNat = some .skip ∧
      t.ctr (inA 0x420) = s.ctr (inA 0x420) + 1 ∧ t.ctr (inA 0x428) = s.ctr (inA 0x428) + 1 := by
  have hseg := (seg_cont hs none).trans (segCont_broken (s := s.atEdge) (by simpa using hb) (by simpa using ho) hd
    ((Seg.broken_of_not_eop he).trans (by simpa using hbytes)))
  have hbad := (truncFrame_endedBad (s.atEdge.count (inA 0x428)) g.ch.toNat f).of_count (by decide)
  refine ⟨_, ingressSegment_one hr hseg, (hbad.setOpn _ _).edge, ?_, ?_, ?_⟩
  · simp
  · simp [count_ctr, inA]
  · simp [count_ctr, inA]

/-! ### A SOP over an open frame (02 R40) -/

/-- A SOP of one segment over a frame under discard only counts the protocol error, and ends the discard. -/
theorem ingress_sopOverDiscard {f : OpenF} (hs : g.sop = true) (he : g.eop = true) (ho : s.opn g.ch.toNat = some f)
    (hd : f.discard = true) :
    ∃ t, exec (.ingressSegment (some g) none) s = .next t ∧ t.opn g.ch.toNat = none ∧ t.ctr (inA 0x420) = s.ctr (inA 0x420) ∧
      t.ctr (inA 0x428) = s.ctr (inA 0x428) + 1 := by
  have hclear := sopClears_discard (s := s.atEdge) (ch := g.ch.toNat) (by simpa using ho) hd
  obtain ⟨t, hseg, hopn, -, htrunc, hproto⟩ := segSop_one_keeps (s := s.atEdge) he
    (by simpa using blk_of_inReady hr) (by rw [hclear]; exact opn_setOpn _ _ _)
  rw [hclear] at htrunc hproto
  refine ⟨_, ingressSegment_one hr ((seg_sop hs none).trans hseg), hopn, htrunc.trans ?_, hproto.trans ?_⟩
  · simp [count_ctr, inA]
  · simp [count_ctr]

/-- Over the open frame of a dispatched one it truncates that. -/
theorem ingress_sopOverFrame {f : OpenF} (hb : s.blk = 2) (hs : g.sop = true) (he : g.eop = true) (ho : s.opn g.ch.toNat = some f)
    (hd : f.discard = false) (hdisp : f.dispatched = true) :
    ∃ t, exec (.ingressSegment (some g) none) s = .next t ∧ t.opn g.ch.toNat = none ∧
      t.ing.vq = s.ing.vq ++ [⟨f.md.lane, f.md.pip, 2, BitVec.ofNat 14 f.bytes⟩] ∧
      t.ctr (inA 0x420) = s.ctr (inA 0x420) + 1 ∧ t.ctr (inA 0x428) = s.ctr (inA 0x428) + 1 := by
  have hclear := sopClears_truncates (s := s.atEdge) (ch := g.ch.toNat) (by simpa using hb) (by simpa using ho) hd
  obtain ⟨t, hseg, hopn, hvq, htrunc, hproto⟩ := segSop_one_keeps (s := s.atEdge) he
    (by simpa using blk_of_inReady hr) (by rw [hclear]; exact opn_truncFrame _ _ _)
  have hend := ((truncFrame_endedBad (s.atEdge.count (inA 0x428)) g.ch.toNat f).of_count (by decide)).edge
  rw [hclear] at hvq htrunc hproto
  refine ⟨_, ingressSegment_one hr ((seg_sop hs none).trans hseg), hopn, hvq.trans (hend.verdict hdisp), htrunc.trans ?_,
    hproto.trans ?_⟩
  · simp [count_ctr, inA]
  · simp [count_ctr, inA]

end

/-! ### Pause (02 R48–R51) -/

/-- PAUSE_EVENT reports the present level of the channel that is due. -/
theorem pauseEvent_due {s : State} {ch : Nat} (hr : s.runs dIn = true) (hd : s.refreshPause.pauseDue = some ch) :
    let on := tget true s.refreshPause.ing.pauseSt ch
    ∃ t, exec .pauseEvent s = .next t ∧ tget true t.ing.pauseLast ch = on ∧
      (∀ j, j ≠ ch → tget true t.ing.pauseLast j = tget true s.ing.pauseLast j) ∧
      (on = true → tfind t.ing.pauseAt ch = some s.now) ∧ { t with ing := s.ing } = s := by
  dsimp only
  have he : exec .pauseEvent s = execPauseEvent s := rfl
  rw [he]
  unfold execPauseEvent
  simp only [hr, hd]
  refine ⟨_, rfl, tget_tset_same _ _ _ _, fun j hj => tget_tset_ne _ _ _ _ _ hj, fun hon => ?_, rfl⟩
  rw [if_pos hon]
  exact tfind_tset_same _ _ _

/-- IN_PAUSE_NL_CHANGE makes the level that of the oldest change once it is due. -/
theorem inPauseNlChange_eq {s : State} {due : Nat} {lvl : Bool} {rest : List (Nat × Bool)} (hr : s.runs dIn = true)
    (hq : s.ing.nlq = (due, lvl) :: rest) :
    exec .inPauseNlChange s = .next (if s.now < due then s
      else { s with ing := { s.ing with nl := lvl, nlAt := if lvl then s.now else s.ing.nlAt, nlq := rest } }) := by
  change execInPauseNlChange s = _
  simp [execInPauseNlChange, hq, hr]

/-- There is room at the edge for a frame that the statement gives room. -/
theorem hasRoom_atEdge {s : State} {f : OpenF} (h : f.bytes < 256 ∨ (f.bytes - 256) % s.bufSize f.md.pool.toNat ≠ 0 ∨
    s.unkeep.handles f.md.pool.toNat ≠ []) : s.atEdge.HasRoom f := by
  simpa [State.HasRoom] using h

/-- Settles O42: each clause is one of the edges above. -/
theorem ingressFrames : Obligations.IngressFrames := by
  unfold Obligations.IngressFrames
  refine ⟨fun s l0 l1 h => ingressSegment_not_ready h l0 l1, fun s g hr => ?_, fun s ch hr hd => pauseEvent_due hr hd,
    fun s due lvl rest hr hq => ⟨fun hdue => ?_, fun hlate => ?_⟩⟩
  · dsimp only
    rw [← Seg.count_eq g]
    refine ⟨ingress_noFrame hr, fun a hs ho ha => ingress_sopRefused hr hs ho ha, fun hb hs ho ha => ⟨ingress_whole hr hb hs ho ha,
      fun h hs' he hf hh => ingress_cutThrough hr hb hs ho ha he hf hh, ingress_waits hr hb hs ho ha⟩,
      fun f hb hs ho hd hdisp => ⟨ingress_headSegment hr hb hs ho hd hdisp, ?_⟩, fun f hs ho hd => ingress_discards hr hs ho hd,
      ingress_lane1 hr, fun h hb hch hhs he => ⟨fun hs hhe ho ha => ?_, fun f hs hg0 hhe hh0 ho hd hdisp hlen => ?_⟩,
      fun f hb ho hd => ⟨?_, ?_, ?_, ?_⟩, fun f hs he ho hd => ingress_sopOverDiscard hr hs he ho hd⟩
    · exact fun he herr hfcs hseen h256 h14 hlen _ => ingress_goodEnd hr hb hs ho hd hdisp he herr hfcs hseen h256 h14 hlen
    · rw [show (if h.bytes = 0 then 64 else h.bytes.toNat) = Seg.count h by simp [Seg.count, hhe]]
      exact ingress_twoWhole hr hb hch hhs he hs hhe ho ha
    · rw [show (if h.bytes = 0 then 64 else h.bytes.toNat) = Seg.count h by simp [Seg.count, hhe, hh0]]
      exact ingress_twoHead hr hb hch hhs he hs hg0 hhe hh0 ho hd hdisp hlen
    · intro hs hend hlen h16 hroom
      have hbr : Seg.broken g = false := by
        rcases hend with he | h0
        · exact Seg.broken_of_eop he
        · simp [Seg.broken, h0]
      obtain ⟨t, hx, ⟨hv, hsk, hby⟩, htr, hopn⟩ := ingress_truncated hr hb hs ho hd hbr hlen h16 (hasRoom_atEdge hroom)
      exact ⟨t, hx, ⟨hv, hsk, hby⟩, htr, hopn⟩
    · intro hs he hlen hroom hbad
      obtain ⟨t, hx, ⟨hv, hsk, hby⟩, hend⟩ := ingress_badEnd hr hb hs ho hd he hlen (hasRoom_atEdge hroom) hbad
      exact ⟨t, hx, ⟨hv, hsk, hby⟩, hend⟩
    · intro hs he hbytes
      obtain ⟨t, hx, ⟨hv, hsk, hby⟩, hend⟩ := ingress_broken hr hb hs ho hd he hbytes
      exact ⟨t, hx, ⟨hv, hsk, hby⟩, hend⟩
    · exact fun hs he hdisp => ingress_sopOverFrame hr hb hs he ho hd hdisp
  · refine ⟨_, inPauseNlChange_eq hr hq, ?_⟩
    rw [if_neg (by omega)]
    exact ⟨rfl, rfl, fun h => if_pos h, rfl⟩
  · rw [inPauseNlChange_eq hr hq, if_pos hlate]

end Sys2Proof.Machine
end

section
/-! RANK_REINJ (03 R101–R103; 02 R48). -/

namespace Sys2Proof.Machine
open Sys2Proof.Claim

/-! ### The pause states at a RANK_REINJ write (03 R102; 02 R48) -/

/-- Steward 0 runs, rank 0 is ON with a core in every seat, and entry 0 of its exception queue is held with a good verdict. Channel 0 is
ATTACHED; its pause still stands, although no frame of its lane is in flight any more. -/
def State.pausedHolder : State :=
  { State.reset with
    dom := [(0, { PDom.init with st := .on }), (dStw, { PDom.init with st := .on })]
    stw := [(0, { Stw.init with started := true })]
    ranks := [(0, { RankSt.init with seats := List.range 13, exc := [(0, ⟨{ Meta.zero with verdict := 1 }, true, 0⟩)] })]
    chSt := [(0, 2)]
    ing := { State.reset.ing with pauseSt := [(0, true)] } }

theorem pausedHolder_mayWrite : MayWrite State.pausedHolder (.stw 0) (rkA 0 0x18) :=
  ⟨⟨by decide, by decide, by decide⟩, trivial⟩

theorem pausedHolder_accepted : State.pausedHolder.reinjReason 0 0 0 true = 0 := by decide

/-- A steward's RANK_REINJ write is the effect alone. -/
theorem rankReinjReinject_stw {s : State} {i : StwNo} {r : Rank} (idx : Fin 64) (target : Fin 16)
    (h : MayWrite s (.stw i) (rkA r.val 0x18)) :
    exec (.rankReinjReinject (.stw i) r idx target) s = .next (s.reinjWrite r.val idx.val target.val true) := by
  obtain ⟨⟨hreq, herr, hserves⟩, -⟩ := h
  exact congrArg Host.Outcome.next (onReach_ok _ _ _ _ _ hreq herr hserves)

/-- The reinjection ends the pause of channel 0: one frame of its lane is in flight. -/
theorem pausedHolder_pauseEnds : (State.pausedHolder.reinjWrite 0 0 0 true).ing.pauseSt = [(0, false)] := by decide

/-- Refutes O39: an accepted reinjection also brings the pause states up to date with R48 (the frame counts as in flight again), so that it
changes more than the registers and the ranks. -/
theorem not_reinjectCommands : ¬ Obligations.ReinjectCommands := by
  unfold Obligations.ReinjectCommands
  intro h
  obtain ⟨t, hexec, -, -, hframe⟩ := (h State.pausedHolder (.stw 0) 0 0 0 pausedHolder_mayWrite).1 pausedHolder_accepted
  rw [rankReinjReinject_stw 0 0 pausedHolder_mayWrite] at hexec
  cases hexec
  have hpause : (State.pausedHolder.reinjWrite 0 0 0 true).ing.pauseSt = [(0, true)] :=
    congrArg (fun u : State => u.ing.pauseSt) hframe
  rw [pausedHolder_pauseEnds] at hpause
  exact absurd hpause (by decide)

end Sys2Proof.Machine
end

section
/-! What a link delivers: packets, skip tokens and verdict tokens (03 R72, R73, R83, R91, R92; 04 R109). -/

namespace Sys2Proof.Machine
open Sys2Proof.Claim

/-! ### Links and entries -/

@[simp] theorem link_setLink_same (s : State) (k : Nat) (xs : List LinkItem) : (s.setLink k xs).link k = xs := tget_tset_same _ _ _ _
@[simp] theorem rank_setLink (s : State) (k : Nat) (xs : List LinkItem) (r : Nat) : (s.setLink k xs).rank r = s.rank r := rfl
@[simp] theorem link_setRank (s : State) (r : Nat) (x : RankSt) (k : Nat) : (s.setRank r x).link k = s.link k := rfl
@[simp] theorem ctr_setRank (s : State) (r : Nat) (x : RankSt) (a : Nat) : (s.setRank r x).ctr a = s.ctr a := rfl
@[simp] theorem rank_count (s : State) (a n r : Nat) : (s.count a n).rank r = s.rank r := by simp [State.rank]

/-- Changing entry `i` changes what the table lists there. -/
theorem tfind_entries_modEntry (s : State) (r i : Nat) (f : REntry → REntry) :
    tfind ((s.modEntry r i f).rank r).entries i = (tfind (s.rank r).entries i).map f := by
  unfold State.modEntry
  dsimp only
  split <;> next h => simp [h]

@[simp] theorem link_modEntry (s : State) (r i : Nat) (f : REntry → REntry) (k : Nat) : (s.modEntry r i f).link k = s.link k := by
  unfold State.modEntry
  dsimp only
  split <;> rfl

/-- A table of fewer than `n` values lists no value at some key below `n`. -/
theorem exists_tfind_none {α : Type} {t : Tab α} {n : Nat} (h : t.length < n) :
    (List.range n).filter (fun i => (tfind t i).isNone) ≠ [] := by
  intro hnil
  have hall : List.range n ⊆ t.map Prod.fst := by
    intro i hi
    cases hf : tfind t i with
    | none => exact absurd (hnil ▸ List.mem_filter.mpr ⟨hi, by simp [hf]⟩ : i ∈ []) List.not_mem_nil
    | some v => exact List.mem_map_of_mem (mem_of_tfind_eq_some hf)
  have hlen := (List.subperm_of_subset List.nodup_range hall).length_le
  simp only [List.length_range, List.length_map] at hlen
  omega

/-- The choice among `l` values that the manual leaves free is one of them. -/
theorem getD_pick_mem {l : List Nat} (s : State) (d : Nat) (hl : l ≠ []) : (l[(s.pick l.length).1]?).getD d ∈ l := by
  have hlt : (s.pick l.length).1 < l.length := Nat.mod_lt _ (List.length_pos_iff.mpr hl)
  simp [List.getElem?_eq_getElem hlt]

/-- The state after one of the choices that the manual leaves free. -/
def State.picked (s : State) : State := { s with freeCount := s.freeCount + 1 }

@[simp] theorem picked_eq_pick (s : State) (n : Nat) : (s.pick n).2 = s.picked := rfl
@[simp] theorem rank_picked (s : State) (r : Nat) : s.picked.rank r = s.rank r := rfl
@[simp] theorem link_picked (s : State) (k : Nat) : s.picked.link k = s.link k := rfl

/-- A rank with an entry to spare gives a packet one that was free. -/
theorem takeEntry_of_room {s : State} {r : Nat} (h : (s.rank r).entries.length < 128) :
    ∃ i, i < 128 ∧ tfind (s.rank r).entries i = none ∧ s.takeEntry r = some (i, s.picked) := by
  have hne := exists_tfind_none h
  unfold State.takeEntry
  dsimp only
  generalize hfree : (List.range 128).filter (fun i => (tfind (s.rank r).entries i).isNone) = free at hne
  match free, hne with
  | f :: rest, hne =>
    have hmem := getD_pick_mem s f hne
    rw [← hfree, List.mem_filter, List.mem_range, Option.isNone_iff_eq_none, hfree] at hmem
    exact ⟨_, hmem.1, hmem.2, rfl⟩

/-! ### HOP_TRANSFER (03 R72, R73, R83) -/

/-- With no verdict message under way, none has passed the unit. -/
theorem lateVerdict_none {s : State} (h : s.ing.vmsgs = []) (u : Nat) (lane : Lane) (pip : Pip) : s.lateVerdict u lane pip = s := by
  simp [State.lateVerdict, h]

/-- The entry of a packet that arrives at rank `r`: ATTEMPT is 0, and a packet at rank 0 whose head is not whole is not yet queued. -/
def arrivedEntry (r : Nat) (p : Pkt) (reps : List Replica) (whole : Bool) : REntry :=
  let md := { p.md with attempt := 0 }
  ⟨{ p with md := md }, md, if r = 0 && !whole then .filling else .queued, if md.ladder then 1 else 3, 0, false, reps, 64⟩

/-- A packet that arrives takes an entry that was free. -/
theorem arrive_of_room {s : State} {r : Nat} (p : Pkt) (reps : List Replica) (whole : Bool) (h : 2 ≤ s.freeReplay r) :
    ∃ i, i < 128 ∧ tfind (s.rank r).entries i = none ∧
      s.arrive r p reps whole = some (s.picked.putEntry r i (arrivedEntry r p reps whole)) := by
  obtain ⟨i, hi, hfree, htake⟩ := takeEntry_of_room (s := s) (r := r) (by unfold State.freeReplay at h; omega)
  refine ⟨i, hi, hfree, ?_⟩
  simp only [State.arrive, Nat.not_lt.mpr h, if_false, htake]
  rfl

theorem entries_putEntry (s : State) (r i : Nat) (e : REntry) :
    ((s.putEntry r i e).rank r).entries = tset (s.rank r).entries i { e with seq := (s.rank r).seqNo } := by
  simp [State.putEntry]

theorem rank_putEntry_ne (s : State) {r j : Nat} (i : Nat) (e : REntry) (h : j ≠ r) : (s.putEntry r i e).rank j = s.rank j :=
  State.rank_setRank_ne _ _ _ _ h

@[simp] theorem link_putEntry (s : State) (r i : Nat) (e : REntry) (k : Nat) : (s.putEntry r i e).link k = s.link k := rfl

/-- The frame of a packet that joins egress. -/
def State.newEgF (s : State) (p : Pkt) : EgF :=
  { md := p.md, head := p.head, ch := p.md.egCh.toNat, lane := p.md.lane, shared := none, st := 0, sent := 0, crc := 0xFFFFFFFF,
    fcs := none, tdata := [], tgot := 0, treq := 0, rdH := p.md.tail, rdBeat := 0, rdNext := none, rdErr := false,
    order := s.eg.seqNo, rep := false, gw := false, overrun := false }

/-- A packet without replicas for an attached channel becomes egress's newest frame. -/
theorem toEgress_attached {s : State} {p : Pkt} (h : s.chan p.md.egCh.toNat = 2) :
    s.toEgress p [] = { s with eg := { s.eg with frames := s.eg.frames ++ [s.newEgF p], seqNo := s.eg.seqNo + 1 } } :=
  if_neg (not_not_intro h)

section
variable {s : State} {l : Link} {rest : List LinkItem} {p : Pkt} {reps : List Replica} {whole : Bool}

theorem hopTransfer_arrives {t : State} (hruns : s.linkRuns (linkKey l) = true) (hfront : s.link (linkKey l) = .pkt p reps whole :: rest)
    (hby : s.bypassWaits (linkKey l) = false) (hr : linkTo (linkKey l) < 12)
    (harr : (s.setLink (linkKey l) rest).arrive (linkTo (linkKey l)) p reps whole = some t) (hmsg : t.ing.vmsgs = []) :
    exec (.hopTransfer l) s = .next t := by
  change execHopTransfer l s = _
  simp [execHopTransfer, hruns, hby, hfront, Nat.ne_of_lt hr, harr, lateVerdict_none hmsg]

theorem hopTransfer_rank (hruns : s.linkRuns (linkKey l) = true) (hfront : s.link (linkKey l) = .pkt p reps whole :: rest)
    (hby : s.bypassWaits (linkKey l) = false) (hmsg : s.ing.vmsgs = []) (hr : linkTo (linkKey l) < 12)
    (hroom : 2 ≤ s.freeReplay (linkTo (linkKey l))) :
    ∃ t i e, exec (.hopTransfer l) s = .next t ∧ t.link (linkKey l) = rest ∧ i < 128 ∧
      tfind (s.rank (linkTo (linkKey l))).entries i = none ∧ tfind (t.rank (linkTo (linkKey l))).entries i = some e ∧
      e.pkt.head = p.head ∧ e.md = { p.md with attempt := 0 } ∧ e.reps = reps ∧
      e.phase = (if linkTo (linkKey l) = 0 ∧ whole = false then .filling else .queued) ∧
      (∀ j, j ≠ i → tfind (t.rank (linkTo (linkKey l))).entries j = tfind (s.rank (linkTo (linkKey l))).entries j) ∧
      (∀ j, j ≠ linkTo (linkKey l) → t.rank j = s.rank j) := by
  obtain ⟨i, hi, hfree, harr⟩ := arrive_of_room (s := s.setLink (linkKey l) rest) (r := linkTo (linkKey l)) p reps whole hroom
  refine ⟨_, i, { arrivedEntry (linkTo (linkKey l)) p reps whole with seq := (s.rank (linkTo (linkKey l))).seqNo },
    hopTransfer_arrives hruns hfront hby hr harr hmsg, ?_, hi, hfree, ?_, rfl, rfl, rfl, ?_, fun j hj => ?_, fun j hj => ?_⟩
  · simp
  · simp [entries_putEntry]
  · cases whole <;> simp [arrivedEntry]
  · simp [entries_putEntry, tfind_tset_ne _ _ _ _ hj]
  · simp [rank_putEntry_ne _ _ _ hj]

theorem hopTransfer_egress (hruns : s.linkRuns (linkKey l) = true) (hfront : s.link (linkKey l) = .pkt p [] whole :: rest)
    (hby : s.bypassWaits (linkKey l) = false) (hmsg : s.ing.vmsgs = []) (hr : linkTo (linkKey l) = 12)
    (hch : s.chan p.md.egCh.toNat = 2) :
    exec (.hopTransfer l) s = .next ((s.setLink (linkKey l) rest).toEgress p []) := by
  have hvm : ((s.setLink (linkKey l) rest).toEgress p []).ing.vmsgs = [] := by
    rw [toEgress_attached (s := s.setLink (linkKey l) rest) hch]; exact hmsg
  change execHopTransfer l s = _
  simp [execHopTransfer, hruns, hby, hfront, hr, lateVerdict_none hvm]

end

/-! ### SKIP_TOKEN (03 R91, R92, R94) -/

/-- A token whose pip has not been passed is recorded as a mark where the store has room. -/
theorem addMark_token_of_room {s : State} {r : Nat} {m : Mark} (hpip : pipBefore m.pip ((s.rank r).nextOf m.lane) = false)
    (hroom : (s.rank r).storeFill < 256) :
    s.addMark r m false none = s.setRank r { s.rank r with marks := (s.rank r).marks ++ [{ m with held := none, seq := (s.rank r).seqNo }],
                                                           seqNo := (s.rank r).seqNo + 1 } := by
  have hfull : ¬ (m.pip ≠ (s.rank r).nextOf m.lane ∧ 256 ≤ (s.rank r).storeFill) := by omega
  simp only [State.addMark, hpip, Bool.or_self, Bool.false_eq_true, if_false, if_neg hfull]

theorem skipToken_eq {s : State} {l : Link} {rest : List LinkItem} {lane : Lane} {pip : Pip} (hruns : s.linkRuns (linkKey l) = true)
    (hfront : s.link (linkKey l) = .skip lane pip :: rest) (hr : linkTo (linkKey l) < 12)
    (hroom : (s.rank (linkTo (linkKey l))).storeFill < 256) :
    exec (.skipToken l) s = .next ((s.setLink (linkKey l) rest).addMark (linkTo (linkKey l)) ⟨lane, pip, 0, none, false, 0, 0⟩ false none) := by
  change execSkipToken l s = _
  simp [execSkipToken, hruns, hfront, Nat.ne_of_lt hr, Nat.not_le.mpr hroom]

/-! ### VERDICT_TOKEN (04 R108, R109) -/

/-- A verdict for the exception queue leaves the rank's entries and the links. -/
theorem verdictExc_keeps (s : State) (r : Nat) (lane : Lane) (pip : Pip) (v : BitVec 2) (len : BitVec 14) :
    ((s.verdictExc r lane pip v len).rank r).entries = (s.rank r).entries ∧ (s.verdictExc r lane pip v len).links = s.links := by
  unfold State.verdictExc
  dsimp only
  split
  · exact ⟨rfl, rfl⟩
  · split
    · simp only [rank_count, State.count_links]
      exact ⟨(congrArg RankSt.entries (State.rank_setRank_same s r _)).trans rfl, rfl⟩
    · exact ⟨(congrArg RankSt.entries (State.rank_setRank_same s r _)).trans rfl, rfl⟩

/-- The entry's copies of the metadata block with the verdict. -/
def REntry.judged (v : BitVec 2) (len : BitVec 14) (e : REntry) : REntry :=
  { e with md := e.md.judged v len, pkt := { e.pkt with md := e.pkt.md.judged v len } }

/-- A verdict that is not bad, of a queued packet whose verdict is pending, is written into its entry. -/
theorem verdictRank_queued {s : State} {r i : Nat} {lane : Lane} {pip : Pip} {v : BitVec 2} {e : REntry} (len : BitVec 14) (hv : v ≠ 2)
    (hfind : (s.rank r).find lane pip = some (i, e)) (hphase : e.phase = .queued) (hpend : e.md.verdict = 0) :
    tfind ((s.verdictRank r lane pip v len).rank r).entries i = (tfind (s.rank r).entries i).map (REntry.judged v len) ∧
      ∀ k, (s.verdictRank r lane pip v len).link k = s.link k := by
  unfold State.verdictRank
  dsimp only
  generalize hs1 : State.verdictExc _ r lane pip v len = s1
  obtain ⟨hent, hlinks⟩ : (s1.rank r).entries = (s.rank r).entries ∧ s1.links = s.links := by
    obtain ⟨he, hl⟩ := verdictExc_keeps _ r lane pip v len |> (hs1 ▸ ·)
    exact ⟨he.trans ((congrArg RankSt.entries (State.rank_setRank_same s r _)).trans rfl), hl⟩
  have hfind1 : (s1.rank r).find lane pip = some (i, e) := by
    rw [← hfind]; exact congrArg (List.find? _) hent
  rw [hfind1]
  simp only [hpend, ne_eq, not_true_eq_false, if_false, REntry.bound, hphase, hv]
  exact ⟨(tfind_entries_modEntry _ _ _ _).trans (by rw [hent]; rfl),
    fun k => (link_modEntry _ _ _ _ _).trans (congrArg (tget [] · k) hlinks)⟩

theorem verdictToken_eq {s : State} {l : Link} {rest : List LinkItem} {lane : Lane} {pip : Pip} {v : BitVec 2} {len : BitVec 14}
    (hruns : s.linkRuns (linkKey l) = true) (hfront : s.link (linkKey l) = .verdict lane pip v len :: rest)
    (hr : linkTo (linkKey l) < 12) :
    exec (.verdictToken l) s = .next ((s.setLink (linkKey l) rest).verdictRank (linkTo (linkKey l)) lane pip v len) := by
  change execVerdictToken l s = _
  simp [execVerdictToken, hruns, hfront, State.applyAt, Nat.ne_of_lt hr]

/-- Settles O37: each transfer leaves the front of its link and has the effect of `arrive`, `toEgress`, `addMark` or `verdictRank`. -/
theorem linkTransfers : Obligations.LinkTransfers := by
  unfold Obligations.LinkTransfers
  refine fun s l rest hruns => ⟨fun p reps whole hfront hby hmsg => ⟨hopTransfer_rank hruns hfront hby hmsg, ?_⟩, ?_, ?_⟩
  · rintro hr rfl hch
    refine ⟨_, s.newEgF p, hopTransfer_egress hruns hfront hby hmsg hr hch, ?_⟩
    rw [toEgress_attached (s := s.setLink (linkKey l) rest) hch]
    exact ⟨link_setLink_same _ _ _, rfl, rfl, rfl, rfl, rfl, rfl⟩
  · intro lane pip hfront hr hpip hroom
    refine ⟨_, ⟨lane, pip, (s.rank (linkTo (linkKey l))).seqNo, none, false, 0, 0⟩, skipToken_eq hruns hfront hr hroom, ?_⟩
    rw [addMark_token_of_room (s := s.setLink (linkKey l) rest) (m := ⟨lane, pip, 0, none, false, 0, 0⟩) hpip hroom]
    simp
  · intro lane pip v len i e hfront hr hv hfind hphase hpend
    obtain ⟨hent, hlink⟩ := verdictRank_queued (s := s.setLink (linkKey l) rest) len hv hfind hphase hpend
    refine ⟨_, REntry.judged v len ((tfind (s.rank (linkTo (linkKey l))).entries i).getD e), verdictToken_eq hruns hfront hr,
      (hlink _).trans (link_setLink_same _ _ _), hent.trans ?_, fun he => by rw [he]; rfl⟩
    rw [rank_setLink]
    cases tfind (s.rank (linkTo (linkKey l))).entries i <;> rfl

end Sys2Proof.Machine
end

section
/-! What work on a core's scratchpad can change: the stores that leave its buffer, the background test that they abort, the reads of
agents (07 R220; 11 R331, R341, R343–R345). -/

namespace Sys2Proof.Machine

/-- A counter of scratchpad errors or of background tests (11 R331, R341, R343). -/
def IsPadCtr (a : Nat) : Prop := a % 0x100000 ∈ [0x170, 0x178, 0x188]

theorem isPadCtr_rkA {r x : Nat} : IsPadCtr (rkA r x) ↔ x % 0x100000 ∈ [0x170, 0x178, 0x188] := by
  have hx : rkA r x % 0x100000 = x % 0x100000 := by simp only [rkA]; omega
  rw [IsPadCtr, hx]

/-- `t` is `s` but for the scratchpads, their errors and spare rows, the records kept of them, and registers of cores other than VBASE. -/
structure PadWork (s t : State) : Prop where
  frame : { t with sp := s.sp, spErr := s.spErr, spFull := s.spFull, ao := s.ao, logs := s.logs, counters := s.counters,
                   cores := s.cores, freeCount := s.freeCount } = s
  vbase : ∀ j, (t.core j).vbase = (s.core j).vbase
  ctr : ∀ a, ¬ IsPadCtr a → t.ctr a = s.ctr a

namespace PadWork

variable {s t u : State}

theorem refl (s : State) : PadWork s s := ⟨rfl, fun _ => rfl, fun _ _ => rfl⟩

theorem trans (h : PadWork s t) (h' : PadWork t u) : PadWork s u where
  frame := (congrArg (fun v : State => { v with
    sp := s.sp, spErr := s.spErr, spFull := s.spFull, ao := s.ao, logs := s.logs, counters := s.counters, cores := s.cores,
    freeCount := s.freeCount }) h'.frame).trans h.frame
  vbase := fun j => (h'.vbase j).trans (h.vbase j)
  ctr := fun a ha => (h'.ctr a ha).trans (h.ctr a ha)

theorem ctxs (h : PadWork s t) : t.ctxs = s.ctxs := (congrArg State.ctxs h.frame :)
theorem ranks (h : PadWork s t) : t.ranks = s.ranks := (congrArg State.ranks h.frame :)
theorem links (h : PadWork s t) : t.links = s.links := (congrArg State.links h.frame :)
theorem dom (h : PadWork s t) : t.dom = s.dom := (congrArg State.dom h.frame :)
theorem code (h : PadWork s t) : t.code = s.code := (congrArg State.code h.frame :)
theorem regs (h : PadWork s t) : t.regs = s.regs := (congrArg State.regs h.frame :)

theorem ctx (h : PadWork s t) (key : Nat) : t.ctx key = s.ctx key := congrArg (tget _ · key) h.ctxs
theorem rank (h : PadWork s t) (r : Nat) : t.rank r = s.rank r := congrArg (tget _ · r) h.ranks
theorem link (h : PadWork s t) (k : Nat) : t.link k = s.link k := congrArg (tget _ · k) h.links

theorem leaving (h : PadWork s t) (d : Nat) : t.leaving d = s.leaving d :=
  congrArg (fun x => (tget PDom.init x d).entering.isSome) h.dom

theorem count (s : State) {a : Nat} (n : Nat) (h : IsPadCtr a) : PadWork s (s.count a n) where
  frame := by unfold State.count; split <;> rfl
  vbase := fun j => by simp
  ctr := fun b hb => by rw [State.ctr_count, if_neg (fun hba : b = a => hb (hba ▸ h))]

theorem logAdd (s : State) (a cap e : Nat) : PadWork s (s.logAdd a cap e) := by
  unfold State.logAdd
  dsimp only
  split <;> exact ⟨rfl, fun _ => rfl, fun _ _ => rfl⟩

theorem setCore (s : State) (ck : Nat) {co : Core} (h : co.vbase = (s.core ck).vbase) : PadWork s (s.setCore ck co) where
  frame := rfl
  vbase := fun j => by
    by_cases hj : j = ck
    · rw [hj, State.core_setCore_same, h]
    · rw [State.core_setCore_ne _ _ _ _ hj]
  ctr := fun _ _ => rfl

theorem forEach {α : Type} (l : List α) (s : State) {f : α → State → State} (h : ∀ a s, PadWork s (f a s)) :
    PadWork s (Machine.forEach l s f) :=
  forEach_keeps (PadWork s) l f (fun a _ hs => hs.trans (h a _)) s (refl s)

theorem repairSp (s : State) (r seat bank row : Nat) : PadWork s (s.repairSp r seat bank row).2 := by
  unfold State.repairSp
  dsimp only
  split
  · exact refl s
  · split
    · exact ⟨rfl, fun _ => rfl, fun _ _ => rfl⟩
    · exact refl s

theorem faultyRow (s : State) (r t bank row : Nat) : PadWork s (s.faultyRow r t bank row) := by
  have hrepair := repairSp s r t bank row
  unfold State.faultyRow
  generalize s.repairSp r t bank row = p at hrepair ⊢
  obtain ⟨full, s0⟩ := p
  refine hrepair.trans (PadWork.trans ?_ (logAdd _ _ _ _))
  dsimp only
  split <;> exact ⟨rfl, fun _ => rfl, fun _ _ => rfl⟩

theorem findRows (s : State) (r t ck : Nat) (p : Nat → Nat → Bool) : PadWork s (s.findRows r t ck p) :=
  forEach _ _ fun e s => faultyRow s r t e.1 e.2

theorem bgtAbort (s : State) (ck x n : Nat) : PadWork s (s.bgtAbort ck x n) := by
  unfold State.bgtAbort
  dsimp only
  split
  · exact refl s
  · split
    · refine PadWork.trans ?_ (findRows _ _ _ _ _)
      refine PadWork.trans (t := s.picked.setCore ck _) ?_ (count _ _ ((isPadCtr_rkA (x := 0x188)).mpr (by decide)))
      exact PadWork.trans (t := s.picked) ⟨rfl, fun _ => rfl, fun _ _ => rfl⟩ (setCore _ _ rfl)
    · exact refl s

theorem spStore (s : State) (ck x : Nat) (bs : List Byte) : PadWork s (s.spStore ck x bs) := ⟨rfl, fun _ => rfl, fun _ _ => rfl⟩

theorem drainCore (s : State) (ck : Nat) : PadWork s (s.drainCore ck) := by
  unfold State.drainCore
  dsimp only
  split
  · exact refl s
  · exact (forEach _ s fun (e : SbEnt) s => (bgtAbort s ck _ _).trans (spStore _ ck e.addr e.bs)).trans (setCore _ _ rfl)

theorem retireStores (s : State) (key : Nat) : PadWork s (s.retireStores key) := by
  unfold State.retireStores
  split
  · exact refl s
  · exact drainCore s _

theorem spUe (s : State) (ck x agent : Nat) : PadWork s (s.spUe ck x agent) :=
  PadWork.trans (logAdd s _ _ _) (count _ 1 ((isPadCtr_rkA (x := 0x178)).mpr (by decide)))

theorem spTouch (s : State) (ck x agent : Nat) : PadWork s (s.spTouch ck x agent).2 := by
  unfold State.spTouch
  split
  · exact refl s
  · exact spUe s ck x agent
  · dsimp only
    refine PadWork.trans (setCore s ck ?_) (count _ 1 ((isPadCtr_rkA (x := 0x170)).mpr (by decide)))
    split <;> rfl

theorem spTouchN (s : State) (ck agent : Nat) (ws : List Nat) : PadWork s (s.spTouchN ck agent ws).2 := by
  induction ws generalizing s with
  | nil => exact refl s
  | cons w ws ih => exact (spTouch s ck (w * 8) agent).trans (ih _)

theorem slotRead (s : State) (r : Nat) (e : REntry) : PadWork s (s.slotRead r e) := by
  unfold State.slotRead
  split
  · next c k sl _ =>
    dsimp only
    split
    · exact (drainCore s _).trans (PadWork.trans (t := (s.drainCore (r * 13 + c)).picked) ⟨rfl, fun _ => rfl, fun _ _ => rfl⟩ (spTouchN _ _ _ _))
    · exact drainCore s _
  · exact refl s

end PadWork

end Sys2Proof.Machine
end

section
/-! The order gate: what it passes next, and what a release and a passed mark leave (03 R86–R94). -/

namespace Sys2Proof.Machine
open Sys2Proof.Claim

/-! ### What the gate passes next (03 R87, R88) -/

theorem gateFirst_mem {l : List GItem} {g : GItem} (h : gateFirst l = some g) : g ∈ l := by
  induction l generalizing g with
  | nil => cases h
  | cons a l ih =>
    unfold gateFirst at h
    split at h
    · cases h; exact List.mem_cons_self
    · next b hb =>
      have hor : g = a ∨ g = b := by
        split at h
        · exact .inl (Option.some.inj h).symm
        · split at h
          · exact .inr (Option.some.inj h).symm
          · split at h
            · exact .inr (Option.some.inj h).symm
            · exact .inl (Option.some.inj h).symm
      rcases hor with rfl | rfl
      · exact List.mem_cons_self
      · exact List.mem_cons_of_mem _ (ih hb)

/-- The gate passes an item only in a rank that serves and does not leave ON, and only one that it can pass. -/
theorem gateNext_spec {s : State} {r : Nat} {g : GItem} (h : s.gateNext r = some g) : s.leaving r = false ∧ g ∈ s.gateItems r := by
  unfold State.gateNext at h
  split at h
  · next hready => exact ⟨((ready_iff s r).mp hready).2, gateFirst_mem h⟩
  · cases h

/-- A packet that is ready is reinjected, or its pip is not after NEXT. -/
theorem ready_order {x : RankSt} {e : REntry} (h : x.ready e = true) :
    e.md.reinj = true ∨ pipBefore (x.nextOf e.md.lane) e.md.pip = false := by
  cases hphase : e.phase <;> simp only [RankSt.ready, RankSt.waiting, hphase, Bool.false_eq_true] at h
  simpa using h

/-- A packet the gate can pass is in an entry of the rank and needs no earlier pip. -/
theorem gateItems_packet {s : State} {r : Nat} {g : GItem} (h : g ∈ s.gateItems r) (hg : g.mark = false) :
    ∃ e, (g.idx, e) ∈ (s.rank r).entries ∧ (e.md.reinj = true ∨ pipBefore ((s.rank r).nextOf e.md.lane) e.md.pip = false) := by
  simp only [State.gateItems, List.mem_append, List.mem_map, List.mem_filter] at h
  rcases h with ⟨⟨i, e⟩, ⟨hmem, hpass⟩, rfl⟩ | ⟨m, -, rfl⟩
  · exact ⟨e, hmem, ready_order (Bool.and_eq_true_iff.mp hpass).1⟩
  · cases hg

/-- A mark the gate can pass is one of the rank's and stands at NEXT. -/
theorem gateItems_mark {s : State} {r : Nat} {g : GItem} (h : g ∈ s.gateItems r) (hg : g.mark = true) :
    ∃ m ∈ (s.rank r).marks, m.seq = g.idx ∧ m.pip = (s.rank r).nextOf m.lane := by
  simp only [State.gateItems, List.mem_append, List.mem_map, List.mem_filter, decide_eq_true_eq] at h
  rcases h with ⟨e, -, rfl⟩ | ⟨m, ⟨hmem, hnext⟩, rfl⟩
  · cases hg
  · exact ⟨m, hmem, rfl, hnext⟩

/-! ### Items that move into the mark store (03 R94) -/

/-- Mark `m` moves into the store, and the entry that held it is free. -/
def RankSt.markIn (x : RankSt) (m : Mark) : RankSt :=
  { x with marks := x.marks.map (fun y => if y.seq = m.seq then { y with held := none } else y),
           entries := match m.held with | some i => tdel x.entries i | none => x.entries }

/-- The waiting packet of entry `i` moves into the store. -/
def RankSt.packetIn (x : RankSt) (i : Nat) (e : REntry) : RankSt := { x with entries := tset x.entries i { e with spilled := false } }

/-- What each item that moves in keeps, `settle` keeps. -/
theorem settle_keeps {P : RankSt → Prop} (hm : ∀ x m, P x → P (x.markIn m))
    (hp : ∀ x i e, tfind x.entries i = some e → P x → P (x.packetIn i e)) (n : Nat) {x : RankSt} (h : P x) : P (x.settle n) := by
  induction n generalizing x with
  | zero => exact h
  | succ n ih =>
    unfold RankSt.settle
    split
    · exact h
    · extract_lets ms ws m1 w1 markFirst
      clear_value m1 w1 markFirst
      split
      · split
        · exact h
        · exact ih (hm _ _ h)
      · split
        · exact h
        · split
          · exact h
          · next he => exact ih (hp _ _ _ he h)

/-- `y` is `x` after items have moved into the mark store: no entry and no mark is new. -/
structure Settled (x y : RankSt) : Prop where
  out : y.out = x.out
  next : y.next = x.next
  entries : ∀ i, tfind x.entries i = none → tfind y.entries i = none
  marks : ∀ k, (∀ m ∈ x.marks, m.seq ≠ k) → ∀ m ∈ y.marks, m.seq ≠ k

theorem settle_settled (x : RankSt) (n : Nat) : Settled x (x.settle n) := by
  refine settle_keeps (P := Settled x) (fun y m h => ⟨h.out, h.next, fun i hi => ?_, fun k hk => ?_⟩)
    (fun y i e he h => ⟨h.out, h.next, fun j hj => ?_, h.marks⟩) n ⟨rfl, rfl, fun _ h => h, fun _ h => h⟩
  · have hnone := h.entries i hi
    unfold RankSt.markIn
    cases m.held with
    | none => exact hnone
    | some j =>
      by_cases hij : i = j
      · rw [hij]; exact tfind_tdel_same _ _
      · exact (tfind_tdel_ne _ _ _ hij).trans hnone
  · intro z hz
    obtain ⟨w, hw, rfl⟩ := List.mem_map.mp hz
    have hwk := h.marks k hk w hw
    split <;> exact hwk
  · have hnone := h.entries j hj
    have hji : j ≠ i := by rintro rfl; rw [he] at hnone; cases hnone
    exact (tfind_tset_ne _ _ _ _ hji).trans hnone

/-- NEXT of each lane is as it was. -/
theorem Settled.nextOf {x y : RankSt} (h : Settled x y) (lane : Lane) : y.nextOf lane = x.nextOf lane :=
  congrArg (tget 0 · lane.toNat) h.next

/-! ### Messages and NEXT (03 R87; 04 R120) -/

/-- A rank that does not leave ON sends its message. -/
theorem lmsg_sends {s : State} {r : Nat} (h : s.leaving r = false) (m : LMsg) :
    s.lmsg r m = s.setRank r { s.rank r with out := (s.rank r).out ++ [m] } := by
  simp [State.lmsg, h]

/-- A message changes the rank's link to the ledger alone. -/
theorem lmsg_keeps (s : State) (r : Nat) (m : LMsg) : (s.lmsg r m).links = s.links ∧ (s.lmsg r m).counters = s.counters ∧
    ∃ out, (s.lmsg r m).rank r = { s.rank r with out := out } := by
  unfold State.lmsg
  dsimp only
  split
  · exact ⟨rfl, rfl, _, rfl⟩
  · exact ⟨rfl, rfl, _, State.rank_setRank_same _ _ _⟩

@[simp] theorem nextOf_advance (x : RankSt) (lane : Lane) : (x.advance lane).nextOf lane = x.nextOf lane + 1 := tget_tset_same _ _ _ _
@[simp] theorem rank_launch (s : State) (k : Nat) (i : LinkItem) (r : Nat) : (s.launch k i).rank r = s.rank r := rfl
@[simp] theorem leaving_setRank (s : State) (r : Nat) (x : RankSt) (d : Nat) : (s.setRank r x).leaving d = s.leaving d := rfl
@[simp] theorem leaving_count (s : State) (a n d : Nat) : (s.count a n).leaving d = s.leaving d := by
  unfold State.count; split <;> rfl

/-! ### GATE_RELEASE (03 R87–R90) -/

/-- The rank after the packet `e` of entry `i` has passed: the entry is free, and NEXT advances where the packet stood at it. -/
def RankSt.passed (x : RankSt) (i : Nat) (e : REntry) : RankSt :=
  let x1 := { x with entries := tdel x.entries i }
  if !e.md.reinj && decide (e.md.pip = x.nextOf e.md.lane) then x1.advance e.md.lane else x1

@[simp] theorem passed_out (x : RankSt) (i : Nat) (e : REntry) : (x.passed i e).out = x.out := by
  unfold RankSt.passed; dsimp only; split <;> rfl

@[simp] theorem passed_entries (x : RankSt) (i : Nat) (e : REntry) : (x.passed i e).entries = tdel x.entries i := by
  unfold RankSt.passed; dsimp only; split <;> rfl

theorem nextOf_passed (x : RankSt) (i : Nat) (e : REntry) : (x.passed i e).nextOf e.md.lane =
    if e.md.reinj = false ∧ e.md.pip = x.nextOf e.md.lane then x.nextOf e.md.lane + 1 else x.nextOf e.md.lane := by
  unfold RankSt.passed
  by_cases h : e.md.reinj = false ∧ e.md.pip = x.nextOf e.md.lane
  · simp only [h, if_true, Bool.not_false, decide_true, Bool.and_self]
    exact nextOf_advance _ _
  · rw [if_neg h, if_neg (by simpa using h)]
    rfl

/-- The rank after the release of that packet. -/
def RankSt.released (x : RankSt) (i : Nat) (e : REntry) : RankSt :=
  { x.passed i e with out := x.out ++ [.release e.md.lane e.md.pip e.md.attempt e.md.verdict] }

/-- The state before items move into the mark store: the slot is read, the packet has passed and is on its link. -/
def State.gateLaunched (s : State) (r i : Nat) (e : REntry) : State :=
  ((((s.slotRead r e).setRank r ((s.rank r).passed i e)).sendRelease r e.md.lane e.md.pip e.md.attempt e.md.verdict).launch
    (outLink r e.md.lane) (.pkt (s.entryPkt r e) e.reps true)).count (rkA r 0x108)

theorem gateOut_eq {s : State} {r : Nat} (i : Nat) {e : REntry} (hp : gatePunt r (s.entryPkt r e) = none) :
    ∃ n, s.gateOut r i e = let u := (s.gateLaunched r i e).count (rkA r 0x140) n; u.setRank r ((u.rank r).settle 512) := by
  unfold State.gateOut
  simp only [hp]
  exact ⟨_, rfl⟩

/-- A packet that is not punted at the gate leaves for its link, and the ledger learns of it. -/
theorem gateLaunched_spec {s : State} {r : Nat} (i : Nat) (e : REntry) (hl : s.leaving r = false) :
    (s.gateLaunched r i e).rank r = (s.rank r).released i e ∧
    (s.gateLaunched r i e).link (outLink r e.md.lane) = s.link (outLink r e.md.lane) ++ [.pkt (s.entryPkt r e) e.reps true] ∧
    (s.gateLaunched r i e).ctr (rkA r 0x108) = s.ctr (rkA r 0x108) + 1 ∧ ∀ j, j ≠ r → (s.gateLaunched r i e).rank j = s.rank j := by
  have hpad := PadWork.slotRead s r e
  have hctr := hpad.ctr (rkA r 0x108) (by rw [isPadCtr_rkA]; decide)
  have hsend : ((s.slotRead r e).setRank r ((s.rank r).passed i e)).leaving r = false := (hpad.leaving r).trans hl
  unfold State.gateLaunched
  rw [State.sendRelease, lmsg_sends hsend]
  refine ⟨?_, ?_, ?_, fun j hj => ?_⟩
  · simp [RankSt.released]
  · simp [hpad.link]
  · simp [State.ctr_count, hctr]
  · simp [State.rank_setRank_ne _ _ _ _ hj, hpad.rank]

theorem gateRelease_eq {s : State} {r : Rank} {g : GItem} {e : REntry} (hg : s.gateNext r.val = some g) (hm : g.mark = false)
    (he : tfind (s.rank r.val).entries g.idx = some e) : exec (.gateRelease r) s = .next (s.gateOut r.val g.idx e) := by
  change execGateRelease r s = _
  simp [execGateRelease, hg, hm, he]

/-- GATE_RELEASE of a packet that the gate does not punt. -/
theorem gateRelease_launches {s : State} {r : Rank} {g : GItem} {e : REntry} (hg : s.gateNext r.val = some g) (hm : g.mark = false)
    (he : tfind (s.rank r.val).entries g.idx = some e) (hp : gatePunt r.val (s.entryPkt r.val e) = none) :
    ∃ t, exec (.gateRelease r) s = .next t ∧ tfind (t.rank r.val).entries g.idx = none ∧
      t.link (outLink r.val e.md.lane) = s.link (outLink r.val e.md.lane) ++ [.pkt (s.entryPkt r.val e) e.reps true] ∧
      (t.rank r.val).out = (s.rank r.val).out ++ [.release e.md.lane e.md.pip e.md.attempt e.md.verdict] ∧
      (t.rank r.val).nextOf e.md.lane = (if e.md.reinj = false ∧ e.md.pip = (s.rank r.val).nextOf e.md.lane
        then (s.rank r.val).nextOf e.md.lane + 1 else (s.rank r.val).nextOf e.md.lane) ∧
      t.ctr (rkA r.val 0x108) = s.ctr (rkA r.val 0x108) + 1 ∧ ∀ j, j ≠ r.val → t.rank j = s.rank j := by
  obtain ⟨n, hout⟩ := gateOut_eq g.idx hp
  obtain ⟨hrank, hlink, hctr, hother⟩ := gateLaunched_spec (s := s) (r := r.val) g.idx e (gateNext_spec hg).1
  have hset := settle_settled ((s.rank r.val).released g.idx e) 512
  have hne : rkA r.val 0x108 ≠ rkA r.val 0x140 := by simp [rkA]
  refine ⟨_, gateRelease_eq hg hm he, ?_⟩
  simp only [hout, State.rank_setRank_same, link_setRank, ctr_setRank, link_count, rank_count, hrank, State.ctr_count, hne, if_false]
  refine ⟨hset.entries _ ?_, hlink, hset.out, (hset.nextOf _).trans ?_, hctr, fun j hj => ?_⟩
  · exact (congrArg (tfind · g.idx) (passed_entries _ _ _)).trans (tfind_tdel_same _ _)
  · exact nextOf_passed _ _ _
  · simp [State.rank_setRank_ne _ _ _ _ hj, hother j hj]

/-! ### GATE_PASS_MARK (03 R91, R92) -/

/-- The rank after mark `m` has passed: the mark and the entry that held it are gone, and NEXT has advanced. -/
def RankSt.passMark (x : RankSt) (m : Mark) : RankSt :=
  RankSt.advance { x with marks := x.marks.filter (fun y => y.seq ≠ m.seq),
                          entries := match m.held with | some i => tdel x.entries i | none => x.entries } m.lane

/-- The state before items move into the mark store: a mark of the rank's own tells the ledger, and the skip token goes on. -/
def State.markGone (s : State) (r : Nat) (m : Mark) : State :=
  let s1 := (s.setRank r ((s.rank r).passMark m)).count (rkA r 0x110)
  let s2 := if m.own then s1.sendRelease r m.lane m.pip m.attempt m.v else s1
  if r ≠ 11 then s2.launch (outLink r m.lane) (.skip m.lane m.pip) else s2

theorem gatePassMark_eq {s : State} {r : Rank} {g : GItem} {m : Mark} (hg : s.gateNext r.val = some g) (hm : g.mark = true)
    (he : (s.rank r.val).marks.find? (fun m => m.seq = g.idx) = some m) :
    exec (.gatePassMark r) s =
      .next ((s.markGone r.val m).setRank r.val (((s.markGone r.val m).rank r.val).settle 512)) := by
  change execGatePassMark r s = _
  simp only [execGatePassMark, hg, hm, he]
  rfl

/-- The mark is gone from its rank, whose NEXT has advanced; the token is on its link in ranks 0 to 10. -/
theorem markGone_spec (s : State) (r : Nat) (m : Mark) :
    ((s.markGone r m).rank r).marks = (s.rank r).marks.filter (fun y => y.seq ≠ m.seq) ∧
    ((s.markGone r m).rank r).nextOf m.lane = (s.rank r).nextOf m.lane + 1 ∧
    (s.markGone r m).links = if r ≠ 11 then (s.launch (outLink r m.lane) (.skip m.lane m.pip)).links else s.links := by
  unfold State.markGone
  extract_lets s1 s2
  have hs1 : s1.rank r = (s.rank r).passMark m ∧ s1.links = s.links := by simp [s1]
  have hs2 : s2.links = s1.links ∧ (s2.rank r).marks = (s1.rank r).marks ∧ (s2.rank r).next = (s1.rank r).next := by
    simp only [s2]
    split
    · obtain ⟨hlinks, -, out, hrank⟩ := lmsg_keeps s1 r (.release m.lane m.pip m.attempt m.v)
      exact ⟨hlinks, (congrArg RankSt.marks hrank :), (congrArg RankSt.next hrank :)⟩
    · exact ⟨rfl, rfl, rfl⟩
  obtain ⟨hrank, hlinks1⟩ := hs1
  obtain ⟨hlinks2, hmarks, hnext⟩ := hs2
  rw [hrank] at hmarks hnext
  have hnextOf : (s2.rank r).nextOf m.lane = (s.rank r).nextOf m.lane + 1 :=
    (congrArg (tget 0 · m.lane.toNat) hnext).trans (nextOf_advance _ _)
  have hl : s2.links = s.links := hlinks2.trans hlinks1
  split
  · exact ⟨hmarks, hnextOf, by simp only [State.launch, State.setLink, State.link, hl]⟩
  · exact ⟨hmarks, hnextOf, hl⟩

/-- GATE_PASS_MARK of the mark that the gate passes next. -/
theorem gatePassMark_passes {s : State} {r : Rank} {g : GItem} {m : Mark} (hg : s.gateNext r.val = some g) (hm : g.mark = true)
    (he : (s.rank r.val).marks.find? (fun m => m.seq = g.idx) = some m) :
    ∃ t, exec (.gatePassMark r) s = .next t ∧ (∀ y ∈ (t.rank r.val).marks, y.seq ≠ g.idx) ∧
      (t.rank r.val).nextOf m.lane = (s.rank r.val).nextOf m.lane + 1 ∧
      (r.val ≠ 11 → t.link (outLink r.val m.lane) = s.link (outLink r.val m.lane) ++ [.skip m.lane m.pip]) ∧
      (r.val = 11 → t.links = s.links) := by
  obtain ⟨hmarks, hnext, hlinks⟩ := markGone_spec s r.val m
  have hseq : m.seq = g.idx := by simpa using List.find?_some he
  have hset := settle_settled ((s.markGone r.val m).rank r.val) 512
  refine ⟨_, gatePassMark_eq hg hm he, ?_, ?_, fun hr => ?_, fun hr => ?_⟩
  · rw [State.rank_setRank_same]
    refine hset.marks _ fun y hy => ?_
    rw [hmarks, List.mem_filter] at hy
    exact hseq ▸ of_decide_eq_true hy.2
  · rw [State.rank_setRank_same, hset.nextOf, hnext]
  · rw [if_pos hr] at hlinks
    exact (congrArg (tget [] · (outLink r.val m.lane)) hlinks).trans (link_launch _ _ _)
  · exact hlinks.trans (if_neg (not_not_intro hr))

/-- Settles O38: the item that passes is one of `gateItems`; what passing does besides `settle` keeps or says (`Settled`). -/
theorem orderGateResult : Obligations.OrderGateResult := by
  unfold Obligations.OrderGateResult
  intro s r g hg
  obtain ⟨-, hmem⟩ := gateNext_spec hg
  exact ⟨gateItems_packet hmem, gateItems_mark hmem, fun e hm he hp => gateRelease_launches hg hm he hp,
    fun m hm he => gatePassMark_passes hg hm he⟩

end Sys2Proof.Machine
end

section
/-! DONE, DROPPKT and PUNT, and the end of a packet (03 R93, R94, R100; 06 R189, R190; 08 R260; 09 R269). -/

namespace Sys2Proof.Machine
open Sys2Proof.Claim

/-! ### The issue of an instruction that is ready -/

theorem tset_tset_same {α : Type} (t : Tab α) (k : Nat) (v w : α) : tset (tset t k v) k w = tset t k w := by
  induction t with
  | nil => simp [tset]
  | cons e t ih =>
    obtain ⟨i, u⟩ := e
    by_cases h : k < i
    · simp [tset, h]
    · by_cases hi : i = k <;> simp [tset, h, hi, ih]

@[simp] theorem setCtx_setCtx_same (s : State) (key : Nat) (c d : Ctx) : (s.setCtx key c).setCtx key d = s.setCtx key d := by
  simp [State.setCtx, tset_tset_same]

/-- An instruction that is ready is executed: its body answers in the state that it enters. -/
theorem issue_of_Ready {s0 s : State} {x : Iss} {cls : Cls} {len : Nat} {body : State → Nat → Ctx → R} (h : Ready s0 s x len)
    (hi : clsIllegal (whoKey x.who) cls = false) (hc : clsRefused (whoKey x.who) cls = false)
    (hb : body s (whoKey x.who) (s.ctx (whoKey x.who)) ≠ .hold) :
    s0.issue x cls len true body = s.settleR (whoKey x.who) (guardLen x.guard + len)
      ((body s (whoKey x.who) (s.ctx (whoKey x.who))).back (whoKey x.who) (s0.ctx (whoKey x.who)).grp) := by
  obtain ⟨hissue, hs, hfetch, hmatch, hguard, -⟩ := h
  exact issue_body s0 s x cls len body hs hissue hfetch hmatch hguard hi hc hb

/-- A packet context may issue the packet instructions. -/
theorem packet_allowed (r : Rank) (c : CoreNo) (k : CtxNo) :
    clsIllegal (pk r.val c.val k.val) .packet = false ∧ clsRefused (pk r.val c.val k.val) .packet = false :=
  ⟨isStw_pkt r c k, isFlt_pkt r c k⟩

/-! ### Helper commands that still await words (09 R269) -/

/-- The command as it stands once the incomplete ones that `only` names are killed. -/
def HCmd.killedIf (only : HCmd → Bool) (h : HCmd) : HCmd :=
  if !h.fin && !h.killed && only h then { h with killed := true, res := [] } else h

theorem ctx_killHelpers (s : State) (key : Nat) (only : HCmd → Bool) :
    (s.killHelpers key only).ctx key = { s.ctx key with hs := (s.ctx key).hs.map (HCmd.killedIf only) } := by
  simp only [State.killHelpers, State.ctx_count, State.ctx_setCore, State.ctx_setRank, State.ctx_setCtx_same]
  rfl

@[simp] theorem killHelpers_tb (s : State) (key : Nat) (only : HCmd → Bool) : (s.killHelpers key only).tb = s.tb := by
  simp [State.killHelpers]

/-- Once those that await words are killed, every command left has its words. -/
theorem need_le_of_killHelpers {s : State} {key : Nat} {h : HCmd} (hmem : h ∈ ((s.killHelpers key HCmd.awaits).ctx key).hs)
    (hk : h.killed = false) (hf : h.fin = false) : h.need ≤ h.puts.length := by
  rw [ctx_killHelpers, List.mem_map] at hmem
  obtain ⟨g, -, rfl⟩ := hmem
  unfold HCmd.killedIf at hk hf ⊢
  split
  · next hkill => simp [hkill] at hk
  · next hkeep =>
    rw [if_neg hkeep] at hk hf
    simpa [hk, hf, HCmd.awaits] using hkeep

/-! ### DONE, DROPPKT and PUNT (06 R189, R190) -/

/-- Context `key` has entered ENDING with its way of ending, and its commands that await words are killed. -/
def State.ended (s : State) (key : Nat) (k : EndKind) : State :=
  let u := s.killHelpers key HCmd.awaits
  (u.setCtx key { u.ctx key with st := .ending, wait := .none, ending := some k }).issued key

theorem settleR_endWith (s u : State) (key len : Nat) (k : EndKind) (c : Ctx) (g : Grp) :
    s.settleR key len ((endWith k u key c).back key g) = u.ended key k := by
  simp [endWith, State.toEnding, R.back, Ctx.held, State.settleR, State.ended]

section
variable {s0 s : State} {r : Rank} {c : CoreNo} {k : CtxNo} {g : Guard}

/-- DONE and DROPPKT without a lock. -/
theorem issue_endUnlocked (h : Ready s0 s ⟨.pkt r c k, g⟩ 1) (hlock : s.holdsLock (pk r.val c.val k.val) = false) (e : EndKind) :
    s0.issue ⟨.pkt r c k, g⟩ .packet 1 true (endUnlocked e) = s.ended (pk r.val c.val k.val) e := by
  have hbody : endUnlocked e s (pk r.val c.val k.val) (s.ctx (pk r.val c.val k.val)) =
      endWith e s (pk r.val c.val k.val) (s.ctx (pk r.val c.val k.val)) := by simp [endUnlocked, hlock]
  rw [issue_of_Ready h (packet_allowed r c k).1 (packet_allowed r c k).2 (by rw [whoKey, hbody]; exact nofun)]
  exact (congrArg (fun b : R => s.settleR _ _ (b.back _ _)) hbody).trans (settleR_endWith _ _ _ _ _ _ _)

/-- With a lock they raise vector 12. -/
theorem issue_endLocked (h : Ready s0 s ⟨.pkt r c k, g⟩ 1) (hlock : s.holdsLock (pk r.val c.val k.val) = true) (e : EndKind) :
    s0.issue ⟨.pkt r c k, g⟩ .packet 1 true (endUnlocked e) =
      (s.excAt (pk r.val c.val k.val) 12 (tFault (s.lowLock (pk r.val c.val k.val)) 7)).issued (pk r.val c.val k.val) := by
  have hbody : endUnlocked e s (pk r.val c.val k.val) (s.ctx (pk r.val c.val k.val)) =
      .exc s 12 (tFault (s.lowLock (pk r.val c.val k.val)) 7) := by simp [endUnlocked, hlock]
  rw [issue_of_Ready h (packet_allowed r c k).1 (packet_allowed r c k).2 (by rw [whoKey, hbody]; exact nofun)]
  exact congrArg (fun b : R => s.settleR _ _ (b.back _ _)) hbody

/-- PUNT releases the context's locks before. -/
theorem punt_eq (h : Ready s0 s ⟨.pkt r c k, g⟩ 2) {b : Byte} (hb : b.toNat < 128) :
    exec (.punt ⟨.pkt r c k, g⟩ b) s0 = .next ((s.dropLocks (pk r.val c.val k.val)).ended (pk r.val c.val k.val) (.punt b)) := by
  change execPunt _ b s0 = _
  rw [execPunt, decide_eq_true hb, issue_of_Ready h (packet_allowed r c k).1 (packet_allowed r c k).2 (by unfold endWith; exact nofun)]
  exact congrArg Host.Outcome.next (settleR_endWith _ _ _ _ _ _ _)

end

theorem owner_of_mem_dropLocks {s : State} {key : Nat} {l : Lock} (h : l ∈ (s.dropLocks key).tb.locks) : l.owner ≠ key := by
  simpa using (List.mem_filter.mp h).2

end Sys2Proof.Machine
end

section
/-! PACKET_END: the context is freed, and its packet reaches the gate, is dropped or is punted (03 R93, R94, R100; 06 R189, R190). -/

namespace Sys2Proof.Machine
open Sys2Proof.Claim

/-! ### Contexts that wait for a helper condition (08 R256) -/

theorem wakeAgain_ctxs (s : State) (key : Nat) : ∃ x, s.wakeAgain key = { s with ctxs := x } := by
  unfold State.wakeAgain
  dsimp only
  split
  · split <;> exact ⟨_, rfl⟩
  · exact ⟨_, rfl⟩

/-- A context that does not sleep stays as it is. -/
theorem ctx_wakeAgain_awake {s : State} {key : Nat} (j : Nat) (h : (s.ctx key).st ≠ .sleep) : (s.wakeAgain j).ctx key = s.ctx key := by
  unfold State.wakeAgain
  dsimp only
  split
  · next hsleep _ =>
    split
    · rfl
    · exact State.ctx_setCtx_ne _ _ _ _ (fun he : key = j => h (he ▸ hsleep))
  · rfl

/-- Waking a core's contexts changes contexts alone, and of them none that does not sleep. -/
theorem wakeCore_keeps (s : State) (ck : Nat) : (∃ x, s.wakeCore ck = { s with ctxs := x }) ∧
    ∀ key, (s.ctx key).st ≠ .sleep → (s.wakeCore ck).ctx key = s.ctx key := by
  refine forEach_keeps (fun t : State => (∃ x, t = { s with ctxs := x }) ∧ ∀ key, (s.ctx key).st ≠ .sleep → t.ctx key = s.ctx key)
    _ _ (fun k t ht => ?_) s ⟨⟨_, rfl⟩, fun _ _ => rfl⟩
  obtain ⟨⟨x, hx⟩, hctx⟩ := ht
  obtain ⟨y, hy⟩ := wakeAgain_ctxs t (ck * 9 + k)
  refine ⟨⟨y, by rw [hy, hx]⟩, fun key hk => ?_⟩
  rw [ctx_wakeAgain_awake _ (by rw [hctx key hk]; exact hk), hctx key hk]

/-! ### What leaving a packet keeps of a rank -/

/-- The counters that a rank's bookkeeping of helper kills, passed marks and the mark store uses (03 R94; 09 R269). -/
def IsMarkCtr (a : Nat) : Prop := a % 0x100000 ∈ [0x110, 0x150, 0x1B0]

theorem isMarkCtr_rkA {r x : Nat} : IsMarkCtr (rkA r x) ↔ x % 0x100000 ∈ [0x110, 0x150, 0x1B0] := by
  have hx : rkA r x % 0x100000 = x % 0x100000 := by simp only [rkA]; omega
  rw [IsMarkCtr, hx]

theorem ctr_count_mark (s : State) {a b : Nat} (n : Nat) (ha : IsMarkCtr a) (hb : ¬ IsMarkCtr b) : (s.count a n).ctr b = s.ctr b := by
  rw [State.ctr_count, if_neg (fun h : b = a => hb (h ▸ ha))]

/-- `t` has the replay-buffer entries and the exception queue of `s`, and every counter but those. -/
structure SameHold (s t : State) : Prop where
  entries : ∀ r, (t.rank r).entries = (s.rank r).entries
  exc : ∀ r, (t.rank r).exc = (s.rank r).exc
  ctr : ∀ a, ¬ IsMarkCtr a → t.ctr a = s.ctr a

namespace SameHold

variable {s t u : State}

theorem trans (h : SameHold s t) (h' : SameHold t u) : SameHold s u :=
  ⟨fun r => (h'.entries r).trans (h.entries r), fun r => (h'.exc r).trans (h.exc r), fun a ha => (h'.ctr a ha).trans (h.ctr a ha)⟩

/-- An update of other parts of the state. -/
theorem of_eq (hr : t.ranks = s.ranks) (hc : t.counters = s.counters) : SameHold s t :=
  ⟨fun r => congrArg (fun x => (tget RankSt.init x r).entries) hr, fun r => congrArg (fun x => (tget RankSt.init x r).exc) hr,
    fun a _ => congrArg (tget 0 · a) hc⟩

theorem count (s : State) {a : Nat} (n : Nat) (h : IsMarkCtr a) : SameHold s (s.count a n) :=
  ⟨fun r => by simp, fun r => by simp, fun _ hb => ctr_count_mark s n h hb⟩

theorem setRank (s : State) (r : Nat) {x : RankSt} (he : x.entries = (s.rank r).entries) (hx : x.exc = (s.rank r).exc) :
    SameHold s (s.setRank r x) := by
  refine ⟨fun j => ?_, fun j => ?_, fun _ _ => rfl⟩ <;>
    by_cases hj : j = r
  · rw [hj, State.rank_setRank_same, he]
  · rw [State.rank_setRank_ne _ _ _ _ hj]
  · rw [hj, State.rank_setRank_same, hx]
  · rw [State.rank_setRank_ne _ _ _ _ hj]

theorem lmsg (s : State) (r : Nat) (m : LMsg) : SameHold s (s.lmsg r m) := by
  unfold State.lmsg
  dsimp only
  split
  · exact of_eq rfl rfl
  · exact setRank s r rfl rfl

theorem markPassed (s : State) (r : Nat) (m : Mark) : SameHold s (s.markPassed r m) := by
  refine SameHold.trans (count s 1 ((isMarkCtr_rkA (r := r) (x := 0x110)).mpr (by decide))) ?_
  unfold State.markPassed
  dsimp only
  split
  · exact lmsg _ _ _
  · exact of_eq rfl rfl

theorem killHelpers (s : State) (key : Nat) (only : HCmd → Bool) : SameHold s (s.killHelpers key only) := by
  unfold State.killHelpers
  extract_lets c r live x ck co isK kills hs s1 s2 s3
  refine SameHold.trans (t := s2) ?_ (SameHold.trans (t := s3) (of_eq rfl rfl)
    (count s3 _ ((isMarkCtr_rkA (x := 0x150)).mpr (by decide))))
  exact SameHold.trans (t := s1) (of_eq rfl rfl) (setRank s1 r rfl rfl)

theorem dropLocks (s : State) (key : Nat) : SameHold s (s.dropLocks key) := of_eq rfl rfl
theorem disownOps (s : State) (key : Nat) : SameHold s (s.disownOps key) := of_eq rfl rfl
theorem dropSlots (s : State) (key : Nat) (own : Bool) : SameHold s (s.dropSlots key own) := of_eq rfl rfl
theorem setCtx (s : State) (key : Nat) (c : Ctx) : SameHold s (s.setCtx key c) := of_eq rfl rfl

theorem freeCtx (s : State) (key : Nat) : SameHold s (s.freeCtx key) := by
  have hkill := killHelpers s key fun _ => true
  unfold State.freeCtx
  extract_lets s1 s2
  exact hkill.trans ((dropLocks _ key).trans ((disownOps _ key).trans ((dropSlots s1 key false).trans (setCtx s2 key _))))

theorem freeChain (owner : Nat) (m : Meta) (s : State) : SameHold s (freeChain owner m s) := by
  obtain ⟨q, n, h⟩ := freeChain_eq owner m s
  exact of_eq (by rw [h]) (by rw [h])

theorem wakeCore (s : State) (ck : Nat) : SameHold s (s.wakeCore ck) := by
  obtain ⟨⟨x, h⟩, -⟩ := wakeCore_keeps s ck
  exact of_eq (by rw [h]) (by rw [h])

end SameHold

/-! ### The mark that a packet leaves in its entry's place (03 R93, R94) -/

/-- A packet that leaves a mark is in its entry no more: the entry is free or holds the mark. The exception queue is as it was. -/
theorem addMark_entry (s : State) (r i : Nat) (m : Mark) (reinj : Bool) :
    (∀ e, tfind ((s.addMark r m reinj (some i)).rank r).entries i = some e → e.phase = .mark) ∧
    (∀ j, ((s.addMark r m reinj (some i)).rank j).exc = (s.rank j).exc) ∧
    ∀ a, ¬ IsMarkCtr a → (s.addMark r m reinj (some i)).ctr a = s.ctr a := by
  have hexc : ∀ (x : RankSt), x.exc = (s.rank r).exc → ∀ j, ((s.setRank r x).rank j).exc = (s.rank j).exc := by
    intro x hx j
    by_cases hj : j = r
    · rw [hj, State.rank_setRank_same, hx]
    · rw [State.rank_setRank_ne _ _ _ _ hj]
  unfold State.addMark
  dsimp only
  split
  · have hpass := SameHold.markPassed (s.setRank r { s.rank r with entries := tdel (s.rank r).entries i }) r m
    refine ⟨fun e he => ?_, fun j => (hpass.exc j).trans (hexc _ (by rfl) j), fun a ha => hpass.ctr a ha⟩
    rw [hpass.entries, State.rank_setRank_same, tfind_tdel_same] at he
    cases he
  · split
    · refine ⟨fun e he => ?_, fun j => by rw [rank_count]; exact hexc _ (by rfl) j, fun a ha => ?_⟩
      · rw [rank_count, State.rank_setRank_same] at he
        rw [← Option.some.inj ((tfind_tset_same _ _ _).symm.trans he)]
      · exact ctr_count_mark _ _ ((isMarkCtr_rkA (x := 0x1B0)).mpr (by decide)) ha
    · refine ⟨fun e he => ?_, hexc _ (by rfl), fun a _ => rfl⟩
      rw [State.rank_setRank_same] at he
      exact absurd ((tfind_tdel_same _ _).symm.trans he) nofun

/-! ### The end of a packet, by its way of ending -/

/-- What becomes of the packet of entry `i`, which context `k` of core `c` gives up. -/
def State.packetLeaves (s : State) (r c k i : Nat) (reps : List Replica) : Option EndKind → State
  | none => s
  | some .done => s.toGate r c k i reps
  | some .drop =>
    match tfind (s.rank r).entries i with
    | none => s
    | some e => ((freeChain (0x10 + r) e.md s).addMark r (markOf e.md) e.md.reinj (some i)).count (rkA r 0x128)
  | some (.punt b) => s.puntEntry r i b.toNat

theorem packetEnd_eq {s : State} {r : Rank} {c : CoreNo} {k : CtxNo} {i : Nat}
    (hst : (s.ctx (pk r.val c.val k.val)).st = .ending) (hruns : s.runs r.val = true) (hq : s.quiet (pk r.val c.val k.val) = true)
    (hent : (s.ctx (pk r.val c.val k.val)).entry = some i) :
    exec (.packetEnd r c k) s = .next ((((s.drainCore (r.val * 13 + c.val)).packetLeaves r.val c.val k.val i
      (s.ctx (pk r.val c.val k.val)).reps (s.ctx (pk r.val c.val k.val)).ending).freeCtx (pk r.val c.val k.val)).wakeCore
        (coreOf (pk r.val c.val k.val))) := by
  change execPacketEnd r c k s = _
  simp only [execPacketEnd, hst, hruns, hq, hent, ne_eq, not_true_eq_false, decide_false, Bool.not_true, Bool.or_self,
    Bool.false_eq_true, if_false]
  rcases (s.ctx (pk r.val c.val k.val)).ending with _ | _ | _ | b <;> simp only [State.packetLeaves]
  cases tfind ((s.drainCore (r.val * 13 + c.val)).rank r.val).entries i <;> rfl

/-- A freed context is FREE and holds no packet. -/
theorem ctx_freeCtx (s : State) (key : Nat) : ((s.freeCtx key).ctx key).st = .free ∧ ((s.freeCtx key).ctx key).entry = none := by
  simp only [State.freeCtx, State.ctx_setCtx_same]
  exact ⟨rfl, rfl⟩

/-- The entry of packet `e` once it is at the gate from context `k` of core `c`. -/
def RankSt.gateEntry (x : RankSt) (e : REntry) (c k : Nat) (reps : List Replica) : REntry :=
  let e1 := { e with phase := .gate c k (match e.phase with | .inCtx _ _ sl => sl | _ => 0), seq := x.seqNo, reps := reps }
  { e1 with spilled := x.waiting e1 && decide (256 ≤ x.storeFill) }

theorem entries_toGate {s : State} {r i : Nat} {e : REntry} (c k : Nat) (reps : List Replica) (h : tfind (s.rank r).entries i = some e) :
    ((s.toGate r c k i reps).rank r).entries = tset (s.rank r).entries i ((s.rank r).gateEntry e c k reps) := by
  unfold State.toGate
  simp only [h, apply_ite (fun u : State => (u.rank r).entries), rank_count, State.rank_setRank_same, ite_self]
  rfl

/-- After DONE the entry is at the gate from its context, with the metadata it had and the copies recorded. -/
theorem toGate_entry {s : State} {r i : Nat} {e : REntry} (c k : Nat) (reps : List Replica) (h : tfind (s.rank r).entries i = some e) :
    ∃ e', tfind ((s.toGate r c k i reps).rank r).entries i = some e' ∧ e'.md = e.md ∧ e'.reps = reps ∧ ∃ sl, e'.phase = .gate c k sl :=
  ⟨(s.rank r).gateEntry e c k reps, by rw [entries_toGate _ _ _ h]; exact tfind_tset_same _ _ _, rfl, rfl, _, rfl⟩

/-- A punted packet takes a free entry of the exception queue with its code, where there is one. -/
theorem toQueue_free {s : State} {r : Nat} (p : Pkt) (code : Nat) (h : ∃ j, j < 64 ∧ tfind (s.rank r).exc j = none) :
    ∃ j q, tfind (s.rank r).exc j = none ∧ tfind ((s.toQueue r p code).rank r).exc j = some q ∧ q.md.puntCode = BitVec.ofNat 8 code := by
  obtain ⟨j, hj, hnone⟩ := h
  have hne : (List.range 64).filter (fun i => (tfind (s.rank r).exc i).isNone) ≠ [] :=
    List.ne_nil_of_mem (List.mem_filter.mpr ⟨List.mem_range.mpr hj, by simp [hnone]⟩)
  unfold State.toQueue
  dsimp only
  generalize hfree : (List.range 64).filter (fun i => (tfind (s.rank r).exc i).isNone) = free at hne
  match free, hne with
  | f :: rest, hne =>
    have hmem := getD_pick_mem s f hne
    rw [← hfree, List.mem_filter, Option.isNone_iff_eq_none, hfree] at hmem
    refine ⟨_, ⟨{ p.md with puntCode := BitVec.ofNat 8 code }, false, (s.rank r).excSeq⟩, hmem.2, ?_, rfl⟩
    rw [rank_count, State.rank_setRank_same]
    exact tfind_tset_same _ _ _

/-- A packet that is punted is in its entry no more, and the queue gains it where it has a free entry. -/
theorem puntEntry_spec {s : State} {r i : Nat} {e : REntry} (code : Nat) (h : tfind (s.rank r).entries i = some e) :
    (∀ e', tfind ((s.puntEntry r i code).rank r).entries i = some e' → e'.phase = .mark) ∧
    ((∃ j, j < 64 ∧ tfind (s.rank r).exc j = none) → ∃ j q, tfind (s.rank r).exc j = none ∧
      tfind ((s.puntEntry r i code).rank r).exc j = some q ∧ q.md.puntCode = BitVec.ofNat 8 code) := by
  obtain ⟨hmark, hexc, -⟩ := addMark_entry ((s.slotRead r e).toQueue r (s.entryPkt r e) code) r i (markOf e.md) e.md.reinj
  have hpunt : s.puntEntry r i code = ((s.slotRead r e).toQueue r (s.entryPkt r e) code).addMark r (markOf e.md) e.md.reinj (some i) := by
    simp only [State.puntEntry, h]
  have hrank := (PadWork.slotRead s r e).rank r
  rw [hpunt, hexc r, ← hrank]
  exact ⟨hmark, toQueue_free _ _⟩

/-- A packet that is dropped counts in RANK_DROP and is in its entry no more. -/
theorem packetLeaves_drop {s : State} {r i : Nat} {e : REntry} (c k : Nat) (reps : List Replica) (h : tfind (s.rank r).entries i = some e) :
    (s.packetLeaves r c k i reps (some .drop)).ctr (rkA r 0x128) = s.ctr (rkA r 0x128) + 1 ∧
    ∀ e', tfind ((s.packetLeaves r c k i reps (some .drop)).rank r).entries i = some e' → e'.phase = .mark := by
  obtain ⟨hmark, -, hctr⟩ := addMark_entry (freeChain (0x10 + r) e.md s) r i (markOf e.md) e.md.reinj
  have hno : ¬ IsMarkCtr (rkA r 0x128) := by rw [isMarkCtr_rkA]; decide
  simp only [State.packetLeaves, h, rank_count, State.ctr_count, if_true, hctr _ hno, (SameHold.freeChain _ e.md s).ctr _ hno]
  exact ⟨rfl, hmark⟩

/-- Settles O21: the three instructions enter ENDING (`State.ended`); PACKET_END is `packetLeaves`, then the context's release, which keeps
what the rank holds (`SameHold`). -/
theorem packetEndInstructions : Obligations.PacketEndInstructions := by
  unfold Obligations.PacketEndInstructions
  refine ⟨fun s0 s r c k g => ⟨fun hready hlock => ⟨?_, ?_, fun h => need_le_of_killHelpers⟩, fun hready hlock => ⟨?_, ?_⟩,
    fun b hready hb => ⟨punt_eq hready hb, fun l hl => ?_⟩⟩, fun s r c k i e => ?_⟩
  · exact congrArg Host.Outcome.next (issue_endUnlocked hready hlock .done)
  · exact congrArg Host.Outcome.next (issue_endUnlocked hready hlock .drop)
  · exact congrArg Host.Outcome.next (issue_endLocked hready hlock .done)
  · exact congrArg Host.Outcome.next (issue_endLocked hready hlock .drop)
  · rw [killHelpers_tb] at hl
    exact owner_of_mem_dropLocks hl
  · intro key hst hruns hq hent he
    have hpad := PadWork.drainCore s (r.val * 13 + c.val)
    have he1 : tfind ((s.drainCore (r.val * 13 + c.val)).rank r.val).entries i = some e := by rw [hpad.rank]; exact he
    refine ⟨_, packetEnd_eq hst hruns hq hent, ?_⟩
    generalize hu : State.packetLeaves _ r.val c.val k.val i _ _ = u
    have hhold := (SameHold.freeCtx u key).trans (SameHold.wakeCore _ (coreOf key))
    obtain ⟨hfree, hentry⟩ := ctx_freeCtx u key
    have hctx := (wakeCore_keeps (u.freeCtx key) (coreOf key)).2 key (by rw [hfree]; exact nofun)
    rw [hctx, hhold.entries, hhold.exc, hhold.ctr _ (by rw [isMarkCtr_rkA]; decide)]
    refine ⟨hfree, hentry, fun hend => ?_, fun hend => ?_, fun b hend => ?_⟩ <;> rw [hend] at hu <;> subst hu
    · exact toGate_entry _ _ _ he1
    · rw [← hpad.ctr (rkA r.val 0x128) (by rw [isPadCtr_rkA]; decide)]
      exact packetLeaves_drop _ _ _ he1
    · obtain ⟨hmark, hqueue⟩ := puntEntry_spec b.toNat he1
      rw [hpad.rank, BitVec.ofNat_toNat, BitVec.setWidth_eq] at hqueue
      exact ⟨hmark, hqueue⟩

end Sys2Proof.Machine
end

section
/-! A context's life before and between its instructions: dispatch, start, the staged slot, WAIT and the lazy save (03 R74–R81; 05 R167;
06 R200; 08 R253; 11 R336). -/

namespace Sys2Proof.Machine
open Sys2Proof.Claim

/-! ### The control store and the domain of a packet core (11 R346; 16 R444) -/

/-- With the control store as released every sequence ends at once. -/
theorem sequence_of_clean {s : State} {key : Nat} (h : s.microClean (coreOf key) = true) (op : MOp) : s.sequence key op = (true, s) := by
  simp [State.sequence, State.microOp, h]

/-- A packet core lies in its rank's domain. -/
@[simp] theorem coreDom_pkt (r : Rank) (c : CoreNo) : coreDom (r.val * 13 + c.val) = r.val := by
  have hr := r.isLt
  have hc := c.isLt
  rw [coreDom, if_pos (by omega)]
  omega

/-! ### DISPATCH_SELECT (03 R74–R81) -/

/-- A dispatch to an eligible context fills a slot of it that is free. -/
theorem slotFor_free {s : State} {r c k : Nat} (h : s.eligible r c k = true) :
    s.slotFor r c k < 2 ∧ (s.rank r).slotBound c k (s.slotFor r c k) = false := by
  have hfree : (s.rank r).slotBound c k 0 = false ∨ (s.rank r).slotBound c k 1 = false := by
    simp only [State.eligible, Bool.and_eq_true, Bool.not_eq_true', Bool.and_eq_false_iff] at h
    exact h.2
  unfold State.slotFor
  dsimp only
  split
  · next h0 => exact ⟨by decide, hfree.resolve_left (by simp [h0])⟩
  · next h0 =>
    split
    · exact ⟨by decide, by simpa using h0⟩
    · next h1 =>
      split
      · exact ⟨by decide, by simpa using h1⟩
      · exact ⟨by decide, by simpa using h0⟩

/-- The seat selected has the core that the selection names. -/
theorem seatCore_of_wouldSelect {s : State} {r t c : Nat} {w : Sel} (h : s.wouldSelect r = some (w, t, c)) : s.seatCore r t = some c := by
  unfold State.wouldSelect at h
  split at h
  · cases h
  · split at h
    · obtain ⟨d, hd, heq⟩ := Option.map_eq_some_iff.mp h
      cases heq
      exact hd
    · cases h

/-- The contexts listed for a seat are eligible contexts of its core. -/
theorem eligible_of_mem_eligOf {s : State} {r t c k : Nat} (hc : s.seatCore r t = some c) (h : k ∈ s.eligOf r t) :
    s.eligible r c k = true := by
  simp only [State.eligOf, hc] at h
  split at h
  · exact (List.mem_filter.mp h).2
  · cases h

/-- The head mover's writes are work on the scratchpad alone. -/
theorem PadWork.moverW (s : State) (r c x : Nat) (bs : List Byte) : PadWork s (s.moverW r c x bs) :=
  PadWork.forEach _ s fun i s => by
    split
    · exact PadWork.spStore _ _ _ _
    · exact PadWork.refl s

/-- Rank `r` once entry `i`, which held `e`, is assigned to slot `sl` of context `k` of core `c` in seat `t`. -/
def RankSt.assigned (x : RankSt) (t c k sl i : Nat) (e : REntry) : RankSt :=
  { x with entries := tset x.entries i { e with phase := .inCtx c k sl }, lastSeat := t, staging := x.staging ++ [(c, k, sl)] }

theorem assign_eq {s : State} {r i : Nat} {e : REntry} (t c k : Nat) (h : tfind (s.rank r).entries i = some e) :
    ∃ u, PadWork ((s.setRank r ((s.rank r).assigned t c k (s.slotFor r c k) i e)).count (rkA r 0x100)) u ∧
      s.assign r t c k i = u.setCtx (pk r c k)
        { u.ctx (pk r c k) with st := .loading, entry := some i, slot := s.slotFor r c k, lastSlot := some (s.slotFor r c k) } := by
  refine ⟨_, PadWork.moverW _ r c (slotA k (s.slotFor r c k)) (fit 256 e.pkt.head ++ e.md.bytes ++ List.replicate 192 0), ?_⟩
  simp only [State.assign, h]
  rfl

theorem dispatchSelect_entry {s : State} {r : Rank} {i t c k : Nat} {ks : List Nat} (hsel : s.wouldSelect r.val = some (.entry i, t, c))
    (hst : (s.rank r.val).staged c < 2) (helig : s.eligOf r.val t = k :: ks) :
    exec (.dispatchSelect r) s = .next (s.assign r.val t c k i) := by
  change execDispatchSelect r s = _
  simp [execDispatchSelect, hsel, Nat.not_le.mpr hst, helig]

/-- The packet selected goes to the seat's lowest eligible context. -/
theorem dispatchSelect_assigns {s : State} {r : Rank} {i t c k : Nat} {e : REntry} {ks : List Nat}
    (hsel : s.wouldSelect r.val = some (.entry i, t, c)) (hst : (s.rank r.val).staged c < 2) (helig : s.eligOf r.val t = k :: ks)
    (he : tfind (s.rank r.val).entries i = some e) :
    ∃ u sl, exec (.dispatchSelect r) s = .next u ∧ sl < 2 ∧ (s.rank r.val).slotBound c k sl = false ∧
      (u.ctx (pk r.val c k)).st = .loading ∧ (u.ctx (pk r.val c k)).entry = some i ∧ (u.ctx (pk r.val c k)).slot = sl ∧
      tfind (u.rank r.val).entries i = some { e with phase := .inCtx c k sl } ∧ (u.rank r.val).lastSeat = t ∧
      (u.rank r.val).staging = (s.rank r.val).staging ++ [(c, k, sl)] ∧ u.ctr (rkA r.val 0x100) = s.ctr (rkA r.val 0x100) + 1 := by
  obtain ⟨hlt, hfree⟩ := slotFor_free (eligible_of_mem_eligOf (seatCore_of_wouldSelect hsel) (helig ▸ List.mem_cons_self))
  obtain ⟨u, hpad, hassign⟩ := assign_eq t c k he
  have hrank : u.rank r.val = (s.rank r.val).assigned t c k (s.slotFor r.val c k) i e := by
    rw [hpad.rank, rank_count, State.rank_setRank_same]
  have hctr : u.ctr (rkA r.val 0x100) = s.ctr (rkA r.val 0x100) + 1 := by
    rw [hpad.ctr _ (by rw [isPadCtr_rkA]; decide), State.ctr_count, if_pos rfl]
    rfl
  refine ⟨_, s.slotFor r.val c k, dispatchSelect_entry hsel hst helig, hlt, hfree, ?_⟩
  rw [hassign, State.ctx_setCtx_same]
  refine ⟨rfl, rfl, rfl, (congrArg (fun x : RankSt => tfind x.entries i) hrank).trans (tfind_tset_same _ _ _),
    (congrArg RankSt.lastSeat hrank :), (congrArg RankSt.staging hrank :), hctr⟩

/-! ### CONTEXT_START (05 R167) and HEAD_SLOT_WRITTEN (11 R336) -/

section
variable {s : State} {r : Rank} {cn : CoreNo} {k : CtxNo}

/-- A slot's address, as 06's memory map writes it. -/
theorem slotA_eq (k sl : Nat) : slotA k sl = 0x38000 + 0x400 * k + 0x200 * sl := by
  unfold slotA
  omega

/-- A LOADING context starts at entry 0 of the vector table, with A at its slot. -/
theorem contextStart_eq (hruns : s.runs r.val = true) (hst : (s.ctx (pk r.val cn.val k.val)).st = .loading)
    (hheld : s.heldEv (pk r.val cn.val k.val) = false) (hclean : s.microClean (coreOf (pk r.val cn.val k.val)) = true)
    (hown : ∀ b, b < 8 → s.bankOwner (coreOf (pk r.val cn.val k.val)) (slotA k.val (s.ctx (pk r.val cn.val k.val)).slot + 8 * b) = 0) :
    let key := pk r.val cn.val k.val
    let c := s.ctx key
    exec (.contextStart r cn k) s = .next (s.setCtx key
      { Ctx.init key with
        st := .run, pc := s.vectorOf key 0, a := BitVec.ofNat 32 (0x38000 + 0x400 * k.val + 0x200 * c.slot), entry := c.entry,
        slot := c.slot, lastSlot := c.lastSlot, lastEp := c.lastEp, hs := c.hs, seq := s.keySeq r.val (s.mdOf key) }) := by
  intro key c
  have hnone : (List.range 8).find? (fun b => decide (s.bankOwner (coreOf key) (slotA k.val c.slot + 8 * b) ≠ 0)) = none := by
    rw [List.find?_eq_none]
    intro b hb
    exact fun hne => of_decide_eq_true hne (hown b (List.mem_range.mp hb))
  rw [← slotA_eq]
  change execContextStart r cn k s = _
  simp only [execContextStart, hst, hruns, hheld, sequence_of_clean hclean, ne_eq, not_true_eq_false, decide_false, Bool.not_true,
    Bool.or_self, Bool.false_eq_true, if_false]
  split
  · rfl
  · next b hb => exact absurd (hb.symm.trans hnone) nofun

/-- Where neither the ledger nor the rank's link to it holds an entry of the key, SEQ begins at 0. -/
theorem keySeq_zero {r : Nat} {m : Meta} (hled : ∀ e ∈ s.led.ent, e.2.keyed m.lane m.pip r m.attempt = false)
    (hout : (s.rank r).out = []) : s.keySeq r m = 0 := by
  have hnil : s.led.ent.filter (fun f => f.2.keyed m.lane m.pip r m.attempt) = [] :=
    List.filter_eq_nil_iff.mpr fun e he => by simp [hled e he]
  simp [State.keySeq, hout, hnil]

theorem headSlotWritten_eq (hruns : s.runs r.val = true) (sl : Fin 2) :
    exec (.headSlotWritten r cn k sl) s =
      .next (s.setRank r.val { s.rank r.val with staging := (s.rank r.val).staging.erase (cn.val, k.val, sl.val) }) := by
  change execHeadSlotWritten r cn k sl s = _
  simp [execHeadSlotWritten, hruns]

/-! ### WAIT_EXPIRY (06 R200) and LAZY_SAVE (08 R253) -/

theorem waitExpiry_wakes (hruns : s.runs r.val = true) (hst : (s.ctx (pk r.val cn.val k.val)).st = .sleep)
    (hheld : s.heldEv (pk r.val cn.val k.val) = false) (hwait : (s.ctx (pk r.val cn.val k.val)).wait = .timer 0 false)
    (h11 : (s.ctx (pk r.val cn.val k.val)).v11pend = false) (htrig : (s.ctx (pk r.val cn.val k.val)).trig = false) :
    exec (.waitExpiry (.pkt r cn k)) s =
      .next (wakes s (pk r.val cn.val k.val) ((s.ctx (pk r.val cn.val k.val)).os.drop 1)) := by
  have hwake : exec (.waitExpiry (.pkt r cn k)) s = .next (s.complete (pk r.val cn.val k.val)
      { s.ctx (pk r.val cn.val k.val) with os := (s.ctx (pk r.val cn.val k.val)).os.drop 1 }
      ((s.ctx (pk r.val cn.val k.val)).pc + BitVec.ofNat 32 (s.ctx (pk r.val cn.val k.val)).wlen)) := by
    change execWaitExpiry (.pkt r cn k) s = _
    unfold execWaitExpiry
    refine congrArg Host.Outcome.next ((if_neg (by simp [whoKey, coreOf_pkt, hst, hruns, hheld])).trans ?_)
    split
    · next n forever hn =>
      cases hwait.symm.trans hn
      exact if_pos rfl
    · next hn => exact absurd hwait (hn 0 false)
  rw [hwake]
  exact congrArg Host.Outcome.next (State.complete_idle _ _ _ _ (by exact h11) (by exact htrig))

/-- The state once core `c` of rank `r` has written the save words of slot `sl` at context `key`'s MSP: SLOT_STATE, and INFO with
the slot's number. -/
def State.lazySaved (s : State) (r c key sl : Nat) : State :=
  let f := (s.ctx key).msp.toNat
  let s1 := s.portW key (f + 0x40) (wordBytes (s.slotState r (s.seatNo r c) sl))
  let info := (BitVec.ofNat 32 (leNat (s1.spR (coreOf key) (f + 0x18) 4)) &&& 0xFCFFFFFF) ||| BitVec.ofNat 32 (2 ^ 25 + (sl - 2) * 2 ^ 24)
  s1.portW key (f + 0x18) (leBytes 4 info.toNat)

/-- A lazy save whose words lie in the core's banks clears LAZY, and the instruction issues again. -/
theorem lazySave_eq {sl : Nat} (hruns : s.runs r.val = true) (hst : (s.ctx (pk r.val cn.val k.val)).st = .run)
    (hwait : (s.ctx (pk r.val cn.val k.val)).wait = .lazy sl)
    (hfin : ∀ h ∈ (s.ctx (pk r.val cn.val k.val)).cmds sl, h.fin = true)
    (hclean : s.microClean (coreOf (pk r.val cn.val k.val)) = true)
    (hport : s.portBad (pk r.val cn.val k.val) ((s.ctx (pk r.val cn.val k.val)).msp.toNat + 0x18) 0x68 = none) :
    let key := pk r.val cn.val k.val
    exec (.lazySave r cn k) s = .next (((s.lazySaved r.val cn.val key sl).setCtx key
      { s.ctx key with lazy := false, useq := none, wait := .none }).boundary key) := by
  intro key
  have hall : ¬(!s.runs r.val || ((s.ctx key).cmds sl).any (fun h => !h.fin)) = true := by
    simpa [hruns] using hfin
  change execLazySave r cn k s = _
  unfold execLazySave
  refine congrArg Host.Outcome.next ?_
  split
  · next sl' hst' hw =>
    cases hwait.symm.trans hw
    refine (if_neg hall).trans ?_
    rw [sequence_of_clean hclean]
    simp only [hport]
    rfl
  · next hn => exact absurd hwait (hn sl hst)

end

/-- Settles O36: each command is the update that the lemma about it states. -/
theorem contextLifeCycle : Obligations.ContextLifeCycle := by
  unfold Obligations.ContextLifeCycle
  refine fun s r cn k => ⟨fun i t k' e ks => dispatchSelect_assigns, fun hruns => ⟨contextStart_eq hruns, keySeq_zero, fun sl =>
    ⟨_, headSlotWritten_eq hruns sl, State.rank_setRank_same _ _ _, fun j hj => State.rank_setRank_ne _ _ _ _ hj, rfl⟩, ?_, ?_⟩⟩
  · rintro f hst hheld hwait rfl
    exact waitExpiry_wakes hruns hst hheld hwait
  · intro sl hst hwait hfin h11 htrig hclean hport
    refine ⟨_, lazySave_eq hruns hst hwait hfin hclean hport, ?_⟩
    rw [State.boundary_idle _ _ (by simpa using h11) (by simpa using htrig), State.ctx_setCtx_same]

end Sys2Proof.Machine
end

section
/-! The turn cap, the hard limit, and the fault context's service of a stopped context (03 R95, R96; 08 R242, R257–R259). -/

namespace Sys2Proof.Machine
open Sys2Proof.Claim

/-! ### The turn cap (03 R95, R96; 08 R242) -/

/-- A context stands within a group that has issued, and not at an instruction held for a lazy save. -/
theorem inGroup_unheld_iff (c : Ctx) :
    (c.inGroup && !c.held) = true ↔ c.grp.left ≠ 0 ∧ c.pc = c.grp.next ∧ ∀ sl, c.wait ≠ .lazy sl := by
  have hheld : c.held = false ↔ ∀ sl, c.wait ≠ .lazy sl := by
    unfold Ctx.held
    split
    · next sl h => simp [h]
    · next h => simpa using h
  simp only [Ctx.inGroup, Bool.and_eq_true, decide_eq_true_eq, Bool.not_eq_true', hheld, and_assoc]

@[simp] theorem mdOf_count (s : State) (a n key : Nat) : (s.count a n).mdOf key = s.mdOf key := by
  simp only [State.mdOf, State.ctx_count, rank_count]

@[simp] theorem capOf_count (s : State) (a n r : Nat) (md : Meta) : (s.count a n).capOf r md = s.capOf r md := by
  simp [State.capOf, State.fld]

/-- Vector 11 is taken once. -/
theorem turnCapExpiry_again {s : State} {r : Rank} {cn : CoreNo} {k : CtxNo} (hdone : (s.ctx (pk r.val cn.val k.val)).v11done = true) :
    exec (.turnCapExpiry r cn k) s = .next s := by
  change execTurnCapExpiry r cn k s = _
  exact congrArg Host.Outcome.next (if_pos (by simp [hdone]))

section
variable {s : State} {r : Rank} {cn : CoreNo} {k : CtxNo} {c : Ctx} (hc : s.ctx (pk r.val cn.val k.val) = c)
  (hruns : s.runs r.val = true) (hhalt : (s.core (r.val * 13 + cn.val)).halted = false)
include hc hruns hhalt

section
variable (hdone : c.v11done = false) (hcap : s.capOf r.val (s.mdOf (pk r.val cn.val k.val)) < c.turn.toNat)
include hdone hcap

/-- What the cap's expiry does to a context that has not yet taken vector 11. -/
theorem turnCapExpiry_eq :
    let key := pk r.val cn.val k.val
    let s0 := s.count (rkA r.val 0x130)
    let s1 := s0.setCtx key { c with v11done := true, v11pend := true }
    exec (.turnCapExpiry r cn k) s = .next (match c.st with
      | .run =>
        if c.elev = 2 || (c.inGroup && !c.held) then s1
        else (s0.setCtx key { c with v11done := true, wait := .none, grp := { c.grp with left := 0, next := c.pc } }).raise key
          ⟨11, BitVec.ofNat 32 (s.capOf r.val (s.mdOf key) + 1), c.pc, false, false⟩
      | .sleep => if c.elev = 2 || decide (c.wait = .engine) then s1 else s0.abandon key { c with v11done := true }
      | .entry | .ret => s1
      | _ => s) := by
  subst hc
  intro key s0 s1
  change execTurnCapExpiry r cn k s = _
  refine congrArg Host.Outcome.next ((if_neg ?_).trans rfl)
  simp [coreOf_pkt, hruns, hhalt, hdone, hcap]

/-- At an instruction outside its group the context takes vector 11. -/
theorem turnCapExpiry_raises (hst : c.st = .run) (helev : c.elev ≠ 2)
    (hgrp : c.grp.left = 0 ∨ c.pc ≠ c.grp.next ∨ ∃ sl, c.wait = .lazy sl) :
    let key := pk r.val cn.val k.val
    exec (.turnCapExpiry r cn k) s = .next (((s.count (rkA r.val 0x130)).setCtx key
      { c with v11done := true, wait := .none, grp := { c.grp with left := 0, next := c.pc } }).raise key
        ⟨11, BitVec.ofNat 32 (s.capOf r.val (s.mdOf key) + 1), c.pc, false, false⟩) := by
  intro key
  have houtside : ¬(c.inGroup && !c.held) = true := by
    rw [inGroup_unheld_iff]
    rintro ⟨hleft, hpc, hlazy⟩
    obtain h0 | hne | ⟨sl, hsl⟩ := hgrp
    · exact hleft h0
    · exact hne hpc
    · exact hlazy sl hsl
  rw [turnCapExpiry_eq hc hruns hhalt hdone hcap, hst]
  exact congrArg Host.Outcome.next (if_neg (by simpa using ⟨helev, by simpa using houtside⟩))

/-- Within its group, and at ELEV 2, vector 11 waits. -/
theorem turnCapExpiry_waits (hst : c.st = .run)
    (hgrp : c.elev = 2 ∨ (c.grp.left ≠ 0 ∧ c.pc = c.grp.next ∧ ∀ sl, c.wait ≠ .lazy sl)) :
    exec (.turnCapExpiry r cn k) s =
      .next ((s.count (rkA r.val 0x130)).setCtx (pk r.val cn.val k.val) { c with v11done := true, v11pend := true }) := by
  rw [← inGroup_unheld_iff] at hgrp
  rw [turnCapExpiry_eq hc hruns hhalt hdone hcap, hst]
  exact congrArg Host.Outcome.next (if_pos (by simpa using hgrp))

/-- A sleep outside the byte engine is abandoned. -/
theorem turnCapExpiry_abandons (hst : c.st = .sleep) (helev : c.elev ≠ 2) (hwait : c.wait ≠ .engine) :
    let key := pk r.val cn.val k.val
    exec (.turnCapExpiry r cn k) s = .next ((((s.count (rkA r.val 0x130)).orphanOps key).setCtx key
      { c with v11done := true, v11pend := false, wlen := 0 }).raise key
        ⟨11, BitVec.ofNat 32 (s.capOf r.val (s.mdOf key) + 1), c.pc, true, c.wait.sent⟩) := by
  intro key
  rw [turnCapExpiry_eq hc hruns hhalt hdone hcap, hst]
  refine congrArg Host.Outcome.next ((if_neg (by simpa using ⟨helev, hwait⟩)).trans ?_)
  simp only [State.abandon, rankOf_pkt, mdOf_count, capOf_count, key]

end

theorem turnHardLimit_stops (hst : c.st ∈ [CSt.run, .sleep, .entry, .ret])
    (hcap : s.capOf r.val (s.mdOf (pk r.val cn.val k.val)) + 128 ≤ c.turn.toNat) :
    let key := pk r.val cn.val k.val
    exec (.turnHardLimit r cn k) s =
      .next ((s.orphanOps key).stopCtx key 6 11 (BitVec.ofNat 32 (s.capOf r.val (s.mdOf key) + 1))) := by
  subst hc
  intro key
  change execTurnHardLimit r cn k s = _
  refine congrArg Host.Outcome.next ((if_neg (by simpa [coreOf_pkt, hruns, hhalt] using hcap)).trans ?_)
  split
  case h_5 => simp_all
  all_goals rfl

end

end Sys2Proof.Machine
end

section
/-! The fault context (08 R257–R259): what the service of a stopped context leaves as it is, the squash behind it included. -/

namespace Sys2Proof.Machine
open Sys2Proof.Claim

/-! ### The code space, the vector tables and the faults recorded -/

/-- `t` has the code and the vector bases of `s`, and each context's fault. -/
structure FaultKept (s t : State) : Prop where
  code : t.code = s.code
  vbase : ∀ j, (t.core j).vbase = (s.core j).vbase
  stop : ∀ j, (t.ctx j).stop = (s.ctx j).stop

namespace FaultKept

variable {s t u : State}

theorem refl (s : State) : FaultKept s s := ⟨rfl, fun _ => rfl, fun _ => rfl⟩

theorem trans (h : FaultKept s t) (h' : FaultKept t u) : FaultKept s u :=
  ⟨h'.code.trans h.code, fun j => (h'.vbase j).trans (h.vbase j), fun j => (h'.stop j).trans (h.stop j)⟩

/-- A change outside the code, the cores and the contexts keeps them. -/
theorem of_eq (hcode : t.code = s.code) (hcores : t.cores = s.cores) (hctxs : t.ctxs = s.ctxs) : FaultKept s t :=
  ⟨hcode, fun j => by simp [State.core, hcores], fun j => by simp [State.ctx, hctxs]⟩

theorem of_padWork (h : PadWork s t) : FaultKept s t := ⟨h.code, h.vbase, fun j => by rw [h.ctx]⟩

theorem count (s : State) (a n : Nat) : FaultKept s (s.count a n) := by
  unfold State.count
  split <;> exact of_eq rfl rfl rfl

theorem setCtx {key : Nat} {c : Ctx} (h : c.stop = (s.ctx key).stop) : FaultKept s (s.setCtx key c) where
  code := rfl
  vbase := fun _ => rfl
  stop := fun j => by
    by_cases hj : j = key
    · rw [hj, State.ctx_setCtx_same, h]
    · rw [State.ctx_setCtx_ne _ _ _ _ hj]

theorem setCore {ck : Nat} {co : Core} (h : co.vbase = (s.core ck).vbase) : FaultKept s (s.setCore ck co) :=
  of_padWork (PadWork.setCore s ck h)

theorem setRank (s : State) (r : Nat) (x : RankSt) : FaultKept s (s.setRank r x) := of_eq rfl rfl rfl

/-- A packet context's vector table is what the code and VBASE make it. -/
theorem vectorOf (h : FaultKept s t) {key : Nat} (hk : isStw key = false) (v : Nat) : t.vectorOf key v = s.vectorOf key v := by
  simp only [State.vectorOf, State.codeByte, hk, Bool.false_eq_true, if_false, h.code, h.vbase]

/-! ### Table requests -/

theorem orphanOps (s : State) (key : Nat) : FaultKept s (s.orphanOps key) := of_eq rfl rfl rfl
theorem spW (s : State) (ck x : Nat) (bs : List Byte) : FaultKept s (s.spW ck x bs) := of_eq rfl rfl rfl
theorem putOp (s : State) (o : TOp) : FaultKept s (s.putOp o) := of_eq rfl rfl rfl

/-- A lookup that is neither a copy nor orphaned ends in the list of operations. -/
theorem beginLook (s : State) {o : TOp} (hkind : o.kind = .look ∨ o.kind = .lookw) (horphan : o.orphan = false) :
    FaultKept s (s.beginOp o) := by
  have hfail : FaultKept s (s.failOp o) := by
    obtain h | h := hkind <;> simp only [State.failOp, State.finOp, h, horphan] <;> exact putOp s _
  unfold State.beginOp
  dsimp only
  split
  · exact hfail
  · obtain h | h := hkind <;> simp only [h] <;> split_ifs <;> exact putOp s _

/-- A lookup's request: it is discarded, or it begins. -/
theorem askLook (s : State) {o : TOp} (hkind : o.kind = .look ∨ o.kind = .lookw) (horphan : o.orphan = false) :
    FaultKept s (s.askOp o).2 := by
  obtain ⟨-, hask⟩ | ⟨-, hask⟩ := askOp_cases s o
  · rw [hask]
    exact FaultKept.trans (t := { s with tb := { s.tb with opNo := s.tb.opNo + 1 } }) (of_eq rfl rfl rfl) (beginLook _ hkind horphan)
  · rw [hask]
    exact of_eq rfl rfl rfl

theorem opKey (s : State) {key : Nat} (hk : isStw key = false) (t : Nat) (k : Word) : FaultKept s (s.opKey key t k).2.2 := by
  unfold State.opKey
  split
  · simp only [State.readMem, hk, Bool.false_eq_true, if_false]
    exact of_padWork ((PadWork.bgtAbort s _ _ _).trans (PadWork.spTouchN _ _ _ _))
  · exact refl s

/-- A LOOK or LOOKW that sleeps for its request has changed nothing of them. -/
theorem look_sleep {s s1 : State} {key : Nat} {g c : Ctx} {kd : TKind} {tb : Byte} (hk : isStw key = false)
    (hkd : kd = .look ∨ kd = .lookw) (h : look kd tb s key g = .sleep s1 c) : FaultKept s s1 := by
  unfold look at h
  dsimp only at h
  iterate 5
    split at h
    · cases h
  split at h
  · simp only [State.deadLook, hk, Bool.false_eq_true, if_false] at h
    cases h
  · cases h
    exact (opKey s hk _ _).trans (askLook _ hkd rfl)

/-! ### The squash (07 R222, R223) -/

/-- A command's way to its helper. -/
theorem toHelper (s : State) (key sl ep : Nat) : FaultKept s (s.toHelper key sl ep) := by
  unfold State.toHelper
  dsimp only
  split_ifs
  · exact setCore rfl
  · exact setCore rfl
  · exact of_eq rfl rfl rfl
  · exact refl s

/-- A helper command that issues has changed nothing of them. -/
theorem hcmd_ok {s s1 : State} {key sl : Nat} {cb : Byte} {g c : Ctx} (h : hcmd sl cb s key g = .ok s1 c) : FaultKept s s1 := by
  unfold hcmd at h
  dsimp only at h
  iterate 8
    split at h
    · cases h
  split at h
  · cases h
  · cases h
    split_ifs
    · exact of_eq rfl rfl rfl
    · exact toHelper s key sl _
    · exact refl s

theorem killHelpers (s : State) (key : Nat) (only : HCmd → Bool) : FaultKept s (s.killHelpers key only) := by
  unfold State.killHelpers
  dsimp only
  refine FaultKept.trans ?_ (count _ _ _)
  refine FaultKept.trans ?_ (setCore ?_)
  · refine FaultKept.trans ?_ (setRank _ _ _)
    exact setCtx rfl
  · rfl

theorem ghostSend (s : State) (w : Who) {key : Nat} (hk : isStw key = false) (g : Ctx) : FaultKept s (s.ghostSend w key g) := by
  have hlook : ∀ (kd : TKind) (tb : Byte), kd = .look ∨ kd = .lookw → ∀ cx : Ctx, FaultKept s (match look kd tb s key cx with
      | .sleep s1 c1 => (match c1.wait with
        | .top id => { s1 with tb := { s1.tb with ops := s1.tb.ops.map (fun o => if o.id = id then { o with src := nobody, orphan := true } else o) } }
        | _ => s)
      | _ => s) := by
    intro kd tb hkd cx
    split
    · next s1 c1 h =>
      split
      · exact (look_sleep hk hkd h).trans (of_eq rfl rfl rfl)
      · exact refl s
    · exact refl s
  unfold State.ghostSend
  dsimp only
  split
  · split
    · exact refl s
    · split
      · next s1 c1 h =>
        have h1 := hcmd_ok h
        exact h1.trans (setCtx (h1.stop key).symm)
      · exact refl s
  · split
    · exact hlook .look _ (.inl rfl) _
    · exact refl s
  · split
    · exact hlook .lookw _ (.inr rfl) _
    · exact refl s
  · exact refl s

theorem ghosts {w : Who} {key : Nat} (hk : isStw key = false) (n : Nat) (g : Ctx) (s : State) :
    FaultKept s (State.ghosts w key n g s).2 := by
  induction n generalizing g s with
  | zero => exact refl s
  | succ n ih =>
    have hsend : FaultKept s { s.ghostSend w key g with freeCount := (s.ghostSend w key g).freeCount + 8 } :=
      (ghostSend s w hk g).trans (of_eq rfl rfl rfl)
    unfold State.ghosts
    dsimp only
    split
    · exact refl s
    · split
      · exact hsend
      · split
        · exact hsend.trans (ih _ _)
        · exact hsend

theorem younger (s : State) (w : Who) {key : Nat} (hk : isStw key = false) (g : Option Ctx) : FaultKept s (s.younger w key g) := by
  cases g with
  | none => exact refl s
  | some g =>
    have hpick : FaultKept s (s.pick 2).2 := of_eq rfl rfl rfl
    simp only [State.younger]
    split
    · exact hpick
    · exact hpick.trans (ghosts hk _ _ _)

theorem squash (s : State) {w : Who} (hk : isStw (whoKey w) = false) (x : Exc) : FaultKept s (s.squash w x) := by
  have h1 : FaultKept s (s.setCtx (whoKey w) { s.ctx (whoKey w) with grp := { (s.ctx (whoKey w)).grp with left := 0 } }) := setCtx rfl
  unfold State.squash
  dsimp only
  generalize s.setCtx (whoKey w) _ = s1 at h1 ⊢
  split
  · exact h1
  · generalize hown : (if x.vec = 15 ∧ x.faultaddr = 0 then _ else _ : Option Ctx × State) = own
    have h2 : FaultKept s1 own.2 := by
      rw [← hown]
      split
      · exact ghosts hk _ _ _
      · split
        · exact refl s1
        · split
          · exact refl s1
          · split
            · exact FaultKept.trans (t := { s1 with freeCount := s1.freeCount + 8 }) (of_eq rfl rfl rfl) (ghosts hk _ _ _)
            · exact refl s1
    have h3 := (h1.trans h2).trans (younger own.2 w hk own.1)
    split
    · exact h3.trans (killHelpers _ _ _)
    · exact h3

theorem squashStopped (s : State) (r : Rank) (c : CoreNo) (k : CtxNo) : FaultKept s (s.squashStopped r c k) := by
  unfold State.squashStopped
  dsimp only
  split
  · split
    · exact refl s
    · exact squash s (w := .pkt r c k) (isStw_pkt r c k) _
  · exact refl s

/-- The record of a fault is in registers. -/
theorem recordFault (s : State) (r seat : Nat) (ws : List Word) : FaultKept s (s.recordFault r seat ws).2 := by
  have hset : ∀ (a : Nat) (x : Word) (u : State), FaultKept u (u.setReg a x) := fun a x u => of_eq rfl rfl rfl
  unfold State.recordFault
  dsimp only
  refine FaultKept.trans ?_ (hset _ _ _)
  split
  · exact forEach_keeps (FaultKept s) _ _ (fun i u hu => hu.trans (hset _ _ u)) s (refl s)
  · exact hset _ _ s

end FaultKept

/-! ### FAULT_CONTEXT_SERVICE (R258) -/

/-- The state once the stopped context `k` of core `c` is quiet: what is younger squashed, its commands killed, its requests orphaned,
the core's stores retired. -/
def State.faultQuiet (s : State) (r : Rank) (c : CoreNo) (k : CtxNo) : State :=
  (((s.squashStopped r c k).killHelpers (pk r.val c.val k.val) (fun _ => true)).orphanOps (pk r.val c.val k.val)).drainCore
    (r.val * 13 + c.val)

/-- That state with the record in the seat's registers. -/
def State.faultRecorded (s : State) (r : Rank) (c : CoreNo) (k : CtxNo) : Bool × State :=
  let s1 := s.faultQuiet r c k
  s1.recordFault r.val (s1.seatNo r.val c.val) (s1.faultRec (pk r.val c.val k.val))

/-- That state with the record before the fault program, and its core in the service of the context; `rest` waits. -/
def State.faultServed (s : State) (r : Rank) (c : CoreNo) (k : CtxNo) (rest : List Nat) : State :=
  let key := pk r.val c.val k.val
  let ck := r.val * 13 + c.val
  let (wrote, s2) := s.faultRecorded r c k
  let cx := s2.ctx key
  let s3 := s2.spW ck 0x3A000 (wordBytes ((s.faultQuiet r c k).faultRec key ++ [depthsOf cx, cx.predWord]))
  s3.setCore ck { s3.core ck with svc := some k.val, svcRec := wrote, stopq := rest }

theorem faultKept_recorded (s : State) (r : Rank) (c : CoreNo) (k : CtxNo) : FaultKept s (s.faultRecorded r c k).2 := by
  have hquiet : FaultKept s (s.faultQuiet r c k) := by
    refine FaultKept.trans ?_ (FaultKept.of_padWork (PadWork.drainCore _ _))
    refine FaultKept.trans ?_ (FaultKept.orphanOps _ _)
    exact (FaultKept.squashStopped s r c k).trans (FaultKept.killHelpers _ _ _)
  exact hquiet.trans (FaultKept.recordFault _ _ _ _)

theorem faultKept_faultServed (s : State) (r : Rank) (c : CoreNo) (k : CtxNo) (rest : List Nat) : FaultKept s (s.faultServed r c k rest) := by
  have hrec := faultKept_recorded s r c k
  unfold State.faultServed
  generalize s.faultRecorded r c k = p at hrec ⊢
  dsimp only
  refine FaultKept.trans (hrec.trans (FaultKept.spW p.2 _ _ _)) (FaultKept.setCore ?_)
  rfl

/-- The core serves that context; the others wait. -/
theorem core_faultServed (s : State) (r : Rank) (c : CoreNo) (k : CtxNo) (rest : List Nat) :
    ((s.faultServed r c k rest).core (r.val * 13 + c.val)).svc = some k.val ∧
      ((s.faultServed r c k rest).core (r.val * 13 + c.val)).stopq = rest := by
  unfold State.faultServed
  dsimp only
  rw [State.core_setCore_same]
  exact ⟨rfl, rfl⟩

section
variable {s : State} {r : Rank} {cn : CoreNo} {k : CtxNo} {rest : List Nat}

/-- The fault program starts in the fault context at entry 31, with the fault's vector and address. -/
theorem faultContextService_eq (hruns : s.runs r.val = true) (hhalt : (s.core (r.val * 13 + cn.val)).halted = false)
    (hsvc : (s.core (r.val * 13 + cn.val)).svc = none) (hq : (s.core (r.val * 13 + cn.val)).stopq = k.val :: rest)
    (hst : (s.ctx (pk r.val cn.val k.val)).st = .stopped) (hclean : s.microClean (r.val * 13 + cn.val) = true)
    (hops : (s.opsOut (pk r.val cn.val k.val)).all
      (fun o => decide (o.kind ≠ .upd) && decide (o.kind ≠ .cas) && decide (o.kind ≠ .unlock)) = true)
    (hvec : s.vectorOf (pk r.val cn.val k.val) 31 ≠ 0xFFFF) :
    let key := pk r.val cn.val k.val
    let fk := pk r.val cn.val 8
    let st := (s.ctx key).stop.getD ⟨0, 0, 0, 0, 0⟩
    exec (.faultContextService r cn) s = .next ((s.faultServed r cn k rest).setCtx fk
      { Ctx.init fk with st := .run, pc := s.vectorOf key 31, cause := BitVec.ofNat 5 st.vec, faultaddr := st.addr }) := by
  intro key fk st
  have hsettled : (s.opsOut key).any (fun o => o.kind = .upd || o.kind = .cas || o.kind = .unlock) = false := by
    rw [List.any_eq_false]
    intro o ho
    simpa [and_assoc] using List.all_eq_true.mp hops o ho
  have hk : Fin.ofNat 8 k.val = k := Fin.ofNat_val_eq_self k
  have hvec31 : (s.faultServed r cn k rest).vectorOf key 31 = s.vectorOf key 31 :=
    (faultKept_faultServed s r cn k rest).vectorOf (isStw_pkt r cn k) 31
  have hstop : ((s.faultRecorded r cn k).2.ctx key).stop = (s.ctx key).stop := (faultKept_recorded s r cn k).stop key
  have hstart : exec (.faultContextService r cn) s = .next
      (if (s.faultServed r cn k rest).vectorOf key 31 = 0xFFFF then (s.faultServed r cn k rest).faultEnd (r.val * 13 + cn.val) false
      else (s.faultServed r cn k rest).setCtx fk
        { Ctx.init fk with
          st := .run, pc := (s.faultServed r cn k rest).vectorOf key 31,
          cause := BitVec.ofNat 5 (((s.faultRecorded r cn k).2.ctx key).stop.getD ⟨0, 0, 0, 0, 0⟩).vec,
          faultaddr := (((s.faultRecorded r cn k).2.ctx key).stop.getD ⟨0, 0, 0, 0, 0⟩).addr }) := by
    change execFaultContextService r cn s = _
    unfold execFaultContextService
    dsimp only
    rw [hsvc, hq]
    dsimp only
    rw [if_neg (by simpa [hruns, hhalt, hst] using hsettled), sequence_of_clean (by rw [coreOf_pkt]; exact hclean), hk]
    rfl
  rw [hstart, hvec31, hstop, if_neg hvec]

/-- At its limit the fault program ends with NESTED. -/
theorem faultProgramLimit_ends (hruns : s.runs r.val = true) (hsvc : (s.core (r.val * 13 + cn.val)).svc.isSome = true)
    (hcyc : 256 ≤ (s.ctx (pk r.val cn.val 8)).fcycles) :
    exec (.faultProgramLimit r cn) s = .next (s.faultEnd (r.val * 13 + cn.val) true) := by
  change execFaultProgramLimit r cn s = _
  refine congrArg Host.Outcome.next (if_neg ?_)
  simpa [hruns, ← Option.isSome_iff_ne_none, hsvc] using hcyc

/-- Before its limit the fault program goes on. -/
theorem faultProgramLimit_early (hcyc : (s.ctx (pk r.val cn.val 8)).fcycles < 256) : exec (.faultProgramLimit r cn) s = .next s := by
  change execFaultProgramLimit r cn s = _
  exact congrArg Host.Outcome.next (if_pos (by simp [hcyc]))

end

/-- Settles O31: the cap's cases by the context's state, and the service with what the squash leaves as it is. -/
theorem turnCapAndFaultContext : Obligations.TurnCapAndFaultContext := by
  unfold Obligations.TurnCapAndFaultContext
  intro s r cn k key ck fk c cap sent hruns hhalt
  have hsent : sent = c.wait.sent := by
    simp only [sent]
    cases c.wait <;> rfl
  refine ⟨fun hst helev hgrp hdone hcap => turnCapExpiry_raises rfl hruns hhalt hdone hcap hst helev hgrp,
    fun hst hgrp hdone hcap => turnCapExpiry_waits rfl hruns hhalt hdone hcap hst hgrp, fun hst helev hwait hdone hcap => ?_,
    turnCapExpiry_again, turnHardLimit_stops rfl hruns hhalt, fun rest hsvc hq hst hclean hops hvec => ?_,
    faultProgramLimit_ends hruns, faultProgramLimit_early⟩
  · rw [hsent]
    exact turnCapExpiry_abandons rfl hruns hhalt hdone hcap hst helev hwait
  · refine ⟨_, faultContextService_eq hruns hhalt hsvc hq hst hclean hops hvec, ?_⟩
    obtain ⟨hsvc', hq'⟩ := core_faultServed s r cn k rest
    rw [State.core_setCtx, State.ctx_setCtx_same]
    refine ⟨hsvc', hq', rfl, rfl, fun st hstop => ?_⟩
    rw [hstop]
    exact ⟨rfl, rfl⟩

end Sys2Proof.Machine
end

section
/-! The table instructions at issue: a request on its way to the tiles, an entry on the rank's ledger link (04 R113, R119, R120, R127;
06 R194–R198). -/

namespace Sys2Proof.Machine
open Sys2Proof.Claim

/-! ### What the issue of a table instruction leaves -/

/-- A packet context may issue the table instructions. -/
theorem table_allowed (r : Rank) (c : CoreNo) (k : CtxNo) :
    clsIllegal (pk r.val c.val k.val) .table = false ∧ clsRefused (pk r.val c.val k.val) .table = false :=
  ⟨rfl, isFlt_pkt r c k⟩

/-- An instruction whose operands are there and whose results have room raises no stack error. -/
theorem stkErr_none {key n m : Nat} {c : Ctx} (hfloor : (stkFloors c).1 + n ≤ c.os.length)
    (hlimit : c.os.length + m ≤ (stkLimits key c).1 + n) : stkErr key c n m = none := by
  rw [stkErr, if_neg (by omega), if_neg (by omega)]

section
variable {s0 s u : State} {r : Rank} {cn : CoreNo} {k : CtxNo} {g : Guard} {body : State → Nat → Ctx → R}

theorem issue_table (h : Ready s0 s ⟨.pkt r cn k, g⟩ 2) {a : R} (ha : body s (pk r.val cn.val k.val) (s.ctx (pk r.val cn.val k.val)) = a)
    (hne : a ≠ .hold) : s0.issue ⟨.pkt r cn k, g⟩ .table 2 true body = s.settleR (pk r.val cn.val k.val) (guardLen g + 2)
      (a.back (pk r.val cn.val k.val) (s0.ctx (pk r.val cn.val k.val)).grp) := by
  subst ha
  exact issue_of_Ready h (table_allowed r cn k).1 (table_allowed r cn k).2 hne

/-- A body that sleeps. -/
theorem issue_table_sleep (h : Ready s0 s ⟨.pkt r cn k, g⟩ 2) {w : Wait}
    (hb : body s (pk r.val cn.val k.val) (s.ctx (pk r.val cn.val k.val)) = .sleep u { s.ctx (pk r.val cn.val k.val) with wait := w }) :
    s0.issue ⟨.pkt r cn k, g⟩ .table 2 true body =
      (u.setCtx (pk r.val cn.val k.val) (asleep (s.ctx (pk r.val cn.val k.val)) w (guardLen g + 2))).issued (pk r.val cn.val k.val) := by
  obtain ⟨-, -, -, -, -, h11, -⟩ := id h
  rw [issue_table h hb nofun]
  exact congrArg (State.issued · _) (State.toSleep_idle _ _ _ h11)

/-- A body that completes. -/
theorem issue_table_ok (h : Ready s0 s ⟨.pkt r cn k, g⟩ 2) {c : Ctx}
    (hb : body s (pk r.val cn.val k.val) (s.ctx (pk r.val cn.val k.val)) = .ok u c)
    (h11 : c.v11pend = (s.ctx (pk r.val cn.val k.val)).v11pend) (htrig : c.trig = (s.ctx (pk r.val cn.val k.val)).trig) :
    s0.issue ⟨.pkt r cn k, g⟩ .table 2 true body =
      retire u (pk r.val cn.val k.val) c (after s ⟨.pkt r cn k, g⟩ 2) := by
  obtain ⟨-, -, -, -, -, hv11, hvtrig, -⟩ := id h
  rw [issue_table h hb nofun]
  exact congrArg (State.issued · _) (State.complete_idle _ _ _ _ (h11.trans hv11) (htrig.trans hvtrig))

/-- A body that raises an exception. -/
theorem issue_table_exc (h : Ready s0 s ⟨.pkt r cn k, g⟩ 2) {v : Nat} {fa : Word}
    (hb : body s (pk r.val cn.val k.val) (s.ctx (pk r.val cn.val k.val)) = .exc u v fa) :
    s0.issue ⟨.pkt r cn k, g⟩ .table 2 true body = (u.excAt (pk r.val cn.val k.val) v fa).issued (pk r.val cn.val k.val) :=
  issue_table h hb nofun

end

/-! ### Requests to table memory (10 R298–R307) -/

/-- The kinds of a packet's requests for which a context sleeps. -/
abbrev TKind.isAwaited (kd : TKind) : Prop := kd ∈ [TKind.look, .lookw, .mtr, .upd, .cas, .unlock]

/-- A packet's request to a bank that serves is listed with its first accesses. -/
theorem beginOp_lists {s : State} {o : TOp} (hkind : o.kind.isAwaited) (hsrc : o.src < 1404)
    (hdead : s.tDead o.table (o.bank = 1) = false) : ∃ acc, s.beginOp o = s.putOp { o with acc := acc } := by
  have hop : s.opDead o = false := by
    simp only [TKind.isAwaited, List.mem_cons, List.not_mem_nil, or_false] at hkind
    rcases hkind with h | h | h | h | h | h <;> simp [State.opDead, TOp.onRows, h, hdead]
  have hpkt : ¬ 1404 ≤ o.src := by omega
  simp only [State.beginOp, hop, Bool.false_eq_true, if_false, hsrc, if_true, hpkt]
  simp only [TKind.isAwaited, List.mem_cons, List.not_mem_nil, or_false] at hkind
  rcases hkind with h | h | h | h | h | h <;> simp only [h] <;> repeat' split
  all_goals exact ⟨_, rfl⟩

/-- Table memory with the request `o` listed under its new number. -/
def State.listed (s : State) (o : TOp) : Tables :=
  { s.tb with opNo := s.tb.opNo + 1, ops := s.tb.ops.filter (fun p => p.id ≠ o.id) ++ [o] }

/-- Where the sender does not leave ON, it is listed under a new number. -/
theorem askOp_lists {s : State} {o : TOp} (hkind : o.kind.isAwaited) (hsrc : o.src < 1404)
    (hdead : s.tDead o.table (o.bank = 1) = false) (hleave : s.leaving (coreDom (coreOf o.src)) = false) :
    ∃ acc, s.askOp o = (s.tb.opNo, { s with tb := s.listed { o with id := s.tb.opNo, acc := acc } }) := by
  obtain ⟨-, hask⟩ | ⟨h, -⟩ := askOp_cases s o
  · obtain ⟨acc, h⟩ := beginOp_lists (s := { s with tb := { s.tb with opNo := s.tb.opNo + 1 } })
      (o := { o with id := s.tb.opNo }) hkind hsrc hdead
    exact ⟨acc, by rw [hask, State.startOp, h]; rfl⟩
  · rw [hleave] at h
    cases h

/-- A context's change and the record of its issue leave everything but contexts, cores and table memory. -/
theorem issued_setCtx_tb_frame (s : State) (x : Tables) (key : Nat) (c : Ctx) :
    { ((({ s with tb := x } : State).setCtx key c).issued key) with ctxs := s.ctxs, cores := s.cores, tb := s.tb } = s := rfl

/-- A request as a packet context makes it, before it has a number and accesses. -/
structure IsRequest (s : State) (key : Nat) (kd : TKind) (t : Byte) (o : TOp) : Prop where
  src : o.src = key
  kind : o.kind = kd
  table : o.table = t.toNat
  bank : o.bank = b2n (s.bankFor key t.toNat)
  fin : o.fin = false

section
variable {s0 s : State} {r : Rank} {cn : CoreNo} {k : CtxNo} {g : Guard} {body : State → Nat → Ctx → R} {kd : TKind} {t : Byte}

/-- A body that sends a request to a table that serves: the context sleeps for its number. -/
theorem issue_table_sends (h : Ready s0 s ⟨.pkt r cn k, g⟩ 2) {o : TOp} {p : TOp → Prop}
    (hb : body s (pk r.val cn.val k.val) (s.ctx (pk r.val cn.val k.val)) = s.sendOp (s.ctx (pk r.val cn.val k.val)) o)
    (ho : IsRequest s (pk r.val cn.val k.val) kd t o) (hkind : kd.isAwaited)
    (hdead : s.tDead t.toNat (s.bankFor (pk r.val cn.val k.val) t.toNat) = false) (hleave : s.leaving r.val = false)
    (hp : ∀ acc, p { o with id := s.tb.opNo, acc := acc }) :
    ∃ u, s0.issue ⟨.pkt r cn k, g⟩ .table 2 true body = u ∧ Sent s u (pk r.val cn.val k.val) (guardLen g + 2) kd t p := by
  obtain ⟨hsrc, hk, htable, hbank, hfin⟩ := ho
  have hb1 : decide (o.bank = 1) = s.bankFor (pk r.val cn.val k.val) t.toNat := by
    rw [hbank]
    cases s.bankFor (pk r.val cn.val k.val) t.toNat <;> rfl
  obtain ⟨acc, hask⟩ := askOp_lists (s := s) (o := o) (hk ▸ hkind) (hsrc ▸ pk_lt r cn k.val (by omega))
    (by rw [htable, hb1]; exact hdead) (by rw [hsrc, coreOf_pkt, coreDom_pkt]; exact hleave)
  rw [State.sendOp, hask] at hb
  refine ⟨_, issue_table_sleep h hb, ⟨{ o with id := s.tb.opNo, acc := acc }, ?_, rfl, hsrc, hk, htable, hfin, hp acc⟩, ?_, fun j hj => ?_,
    issued_setCtx_tb_frame s _ _ _⟩
  · exact List.mem_append_right (s.tb.ops.filter _) (List.mem_singleton_self _)
  · rw [State.ctx_issued, State.ctx_setCtx_same]
  · rw [State.ctx_issued, State.ctx_setCtx_ne _ _ _ _ hj]
    rfl

/-- A settling operation of a packet with a good verdict is sent. -/
theorem settleOp_good {key : Nat} (c : Ctx) (o : TOp) (h : (s.mdOf key).verdict = 1) : s.settleOp key c o = s.sendOp c o := by
  simp [State.settleOp, h]

/-- One of a packet whose verdict is pending waits for it. -/
theorem settleOp_pending {key : Nat} (c : Ctx) (o : TOp) (hk : isStw key = false) (h : (s.mdOf key).verdict ≠ 1) :
    s.settleOp key c o = .sleep s { c with wait := .verdict (some o) } := by
  have hwaits : (isStw key || decide ((s.mdOf key).verdict = 1)) = false := by simp only [hk, h, decide_false, Bool.or_self]
  rw [State.settleOp, if_neg (by rw [hwaits]; decide)]

end

/-! ### The instructions, their operands legal -/

section
variable {s : State} {key : Nat} {c : Ctx} {t : Byte} {w0 w1 w2 : Word} {rest : List Word} {kb db : List Byte}

theorem look_sends (kd : TKind) (hos : c.os = w0 :: w1 :: rest) (hstk : stkErr key c 2 1 = none)
    (hcheck : s.tCheck kd t.toNat = none) (hidx : s.badIdx t.toNat w1 = false) (hkey : s.opKey key t.toNat w1 = (false, kb, s))
    (hrng : s.rngErr key c (s.keyRng t.toNat w1 ++ [⟨w0, s.tW t.toNat, 8⟩]) = none)
    (hdead : s.tDead t.toNat (s.bankFor key t.toNat) = false) :
    look kd t s key c = s.sendOp c { TOp.new key kd t.toNat (s.bankFor key t.toNat) with
      idx := w1.toNat, key := kb, raddr := w0, lvl := c.elev.toNat } := by
  have h0 : opnd c 0 = w0 := by simp [opnd, hos]
  have h1 : opnd c 1 = w1 := by simp [opnd, hos]
  simp [look, hstk, hcheck, h0, h1, hrng, hkey, hidx, hdead]

theorem mtr_sends (hos : c.os = w0 :: w1 :: rest) (hstk : stkErr key c 2 1 = none) (hcheck : s.tCheck .mtr t.toNat = none)
    (hidx : s.badIdx t.toNat w1 = false) (hseq : c.seq < 16) (hdead : s.tDead t.toNat (s.bankFor key t.toNat) = false) :
    mtr t s key c = s.sendOp c { TOp.new key .mtr t.toNat (s.bankFor key t.toNat) with
      idx := w1.toNat, w0 := w0 &&& 0xFFFF, w1 := s.tick32, lvl := c.elev.toNat } := by
  have h0 : opnd c 0 = w0 := by simp [opnd, hos]
  have h1 : opnd c 1 = w1 := by simp [opnd, hos]
  simp [mtr, hstk, hcheck, h0, h1, hidx, hdead, seqFull, hseq]

theorem upd_settles (hos : c.os = w0 :: w1 :: rest) (hstk : stkErr key c 2 1 = none) (hcheck : s.tCheck .upd t.toNat = none)
    (hidx : s.badIdx t.toNat w1 = false) (hkey : s.opKey key t.toNat w1 = (false, kb, s))
    (hdata : s.readMem key w0.toNat (s.updLen t.toNat) = (false, db, s))
    (hrng : s.rngErr key c (s.keyRng t.toNat w1 ++ [⟨w0, s.updLen t.toNat, 8⟩]) = none) :
    upd t s key c = s.settleOp key c { TOp.new key .upd t.toNat (s.bankFor key t.toNat) with
      idx := w1.toNat, key := kb, data := db, lvl := c.elev.toNat } := by
  have h0 : opnd c 0 = w0 := by simp [opnd, hos]
  have h1 : opnd c 1 = w1 := by simp [opnd, hos]
  simp [upd, hstk, hcheck, h0, h1, hrng, hkey, hdata, hidx]

theorem cas_settles (hos : c.os = w0 :: w1 :: w2 :: rest) (hstk : stkErr key c 3 1 = none) (hcheck : s.tCheck .cas t.toNat = none)
    (hidx : s.badIdx t.toNat w2 = false) (hkey : s.opKey key t.toNat w2 = (false, kb, s))
    (hrng : s.rngErr key c (s.keyRng t.toNat w2) = none) (hwindow : s.tKind t.toNat = 5 → w0 = 0)
    (hlocks : s.tKind t.toNat ≠ 5 → (s.locksOf key).length < 4 ∧ ∀ l ∈ s.locksOf key, l.table < t.toNat) :
    cas t s key c = s.settleOp key c { TOp.new key .cas t.toNat (s.bankFor key t.toNat) with
      idx := w2.toNat, key := kb, w0 := w1, w1 := w0, lvl := c.elev.toNat } := by
  have h0 : opnd c 0 = w0 := by simp [opnd, hos]
  have h1 : opnd c 1 = w1 := by simp [opnd, hos]
  have h2 : opnd c 2 = w2 := by simp [opnd, hos]
  have hnew : (decide (s.tKind t.toNat = 5) && decide (w0 ≠ 0)) = false := by simpa using hwindow
  have hroom : (decide (s.tKind t.toNat ≠ 5) &&
      (decide (4 ≤ (s.locksOf key).length) || (s.locksOf key).any (fun l => decide (t.toNat ≤ l.table)))) = false := by
    simpa [Classical.or_iff_not_imp_left] using hlocks
  simp only [cas, hstk, hcheck, h0, h1, h2, hrng, hkey, hidx, hnew, hroom, Bool.false_eq_true, if_false]

theorem unlock_sends {i : Nat} (hos : c.os = w0 :: rest) (hstk : stkErr key c 1 0 = none) (hcheck : s.tCheck .unlock t.toNat = none)
    (hidx : s.badIdx t.toNat w0 = false) (hkey : s.opKey key t.toNat w0 = (false, kb, s))
    (hrng : s.rngErr key c (s.keyRng t.toNat w0) = none)
    (hentry : s.unlockIdx t.toNat (s.bankFor key t.toNat) w0 kb = some i) (hbroken : c.broken.contains (t.toNat, i) = false)
    (hlock : (s.locksOf key).any (fun l => l.table = t.toNat && l.idx = i) = true) :
    unlock t s key c = s.sendOp c { TOp.new key .unlock t.toNat (s.bankFor key t.toNat) with
      idx := i, key := kb, lvl := c.elev.toNat } := by
  have h0 : opnd c 0 = w0 := by simp [opnd, hos]
  simp only [unlock, hstk, hcheck, h0, hrng, hkey, hidx, hentry, hbroken, hlock, Bool.false_eq_true, if_false, if_true]

end

/-- Settles O23: each instruction's body is one `sendOp`, or one `settleOp` that sends or waits by the verdict. -/
theorem tableRequestIsSent : Obligations.TableRequestIsSent := by
  unfold Obligations.TableRequestIsSent
  intro s0 s r cn k g t w0 w1 w2 rest kb db x key c len hready hdead hleave hfloor hlimit
  have hstk : ∀ n m : Nat, c.os.length = rest.length + n → m ≤ 1 → stkErr key c n m = none := fun n m hn hm =>
    stkErr_none (by omega) (by omega)
  have hnext : ∀ {kd : TKind} {p : TOp → Prop} {v : State}, (∃ u, v = u ∧ Sent s u key len kd t p) →
      ∃ u, Host.Outcome.next (φ := Fault) (ρ := Refusal) v = .next u ∧ Sent s u key len kd t p :=
    fun ⟨u, hu, hsent⟩ => ⟨u, congrArg _ hu, hsent⟩
  refine ⟨fun hos hcheck hidx hkey hrng => ⟨?_, ?_⟩, fun hos hcheck hidx hseq => ?_, fun hos hcheck hidx hkey hdata hrng => ?_,
    fun hos hcheck hidx hkey hrng hwindow hlocks => ?_, fun hos hcheck hidx hkey hrng i hentry hbroken hlock => ?_⟩
  · have hbody := look_sends .look hos (hstk 2 1 (by simp [hos]) le_rfl) hcheck hidx hkey hrng hdead
    exact hnext (issue_table_sends hready hbody ⟨rfl, rfl, rfl, rfl, rfl⟩ (by decide) hdead hleave fun _ => ⟨rfl, rfl, rfl⟩)
  · have hbody := look_sends .lookw hos (hstk 2 1 (by simp [hos]) le_rfl) hcheck hidx hkey hrng hdead
    exact hnext (issue_table_sends hready hbody ⟨rfl, rfl, rfl, rfl, rfl⟩ (by decide) hdead hleave fun _ => ⟨rfl, rfl, rfl⟩)
  · have hbody := mtr_sends hos (hstk 2 1 (by simp [hos]) le_rfl) hcheck hidx hseq hdead
    have hbytes : (w0 &&& 0xFFFF).toNat = w0.toNat % 65536 := by
      rw [BitVec.toNat_and]
      exact Nat.and_two_pow_sub_one_eq_mod _ 16
    exact hnext (issue_table_sends hready hbody ⟨rfl, rfl, rfl, rfl, rfl⟩ (by decide) hdead hleave fun _ => ⟨rfl, hbytes⟩)
  · have hbody := upd_settles hos (hstk 2 1 (by simp [hos]) le_rfl) hcheck hidx hkey hdata hrng
    refine ⟨fun hgood => ?_, fun hpend => ⟨_, ?_, ?_, ?_, congrArg Host.Outcome.next
      (issue_table_sleep hready (hbody.trans (settleOp_pending _ _ (isStw_pkt r cn k) hpend)))⟩⟩
    · exact hnext (issue_table_sends hready (hbody.trans (settleOp_good _ _ hgood)) ⟨rfl, rfl, rfl, rfl, rfl⟩ (by decide) hdead hleave
        fun _ => ⟨rfl, rfl, rfl⟩)
    all_goals rfl
  · have hbody := cas_settles hos (hstk 3 1 (by simp [hos]) le_rfl) hcheck hidx hkey hrng hwindow hlocks
    refine ⟨fun hgood => ?_, fun hpend => ⟨_, ?_, ?_, ?_, ?_, congrArg Host.Outcome.next
      (issue_table_sleep hready (hbody.trans (settleOp_pending _ _ (isStw_pkt r cn k) hpend)))⟩⟩
    · exact hnext (issue_table_sends hready (hbody.trans (settleOp_good _ _ hgood)) ⟨rfl, rfl, rfl, rfl, rfl⟩ (by decide) hdead hleave
        fun _ => ⟨rfl, rfl, rfl, rfl⟩)
    all_goals rfl
  · have hbody := unlock_sends hos (hstk 1 0 (by simp [hos]) (by decide)) hcheck hidx hkey hrng hentry hbroken hlock
    exact hnext (issue_table_sends hready hbody ⟨rfl, rfl, rfl, rfl, rfl⟩ (by decide) hdead hleave fun _ => rfl)

/-! ### Deferred operations (04 R118–R120, R127; 06 R196) -/

/-- The ledger entry of a deferred operation `op` on table `t` of the packet of context `key`. -/
def State.entryOf (s : State) (key : Nat) (op : BitVec 2) (t : Nat) (payload : List Byte) : LEntry :=
  let md := s.mdOf key
  { lane := md.lane, pip := md.pip, rank := rankOf key, attempt := md.attempt, used := true, vgood := decide (md.verdict = 1),
    rel := false, com := false, op := op, table := BitVec.ofNat 8 t, round := md.round, seq := (s.ctx key).seq, payload := fit 24 payload }

/-- With room the entry leaves and the instruction completes. -/
theorem defer_room {s : State} {key : Nat} (c' : Ctx) (op : BitVec 2) (t : Nat) (pl : List Byte)
    (h : s.ledgerFull (rankOf key) = false) : s.defer key (s.ctx key) c' op t pl =
      .ok (s.lmsg (rankOf key) (.entry (s.entryOf key op t pl))) { c' with seq := (s.ctx key).seq + 1 } := by
  rw [State.defer, h]
  rfl

/-- Without room the context sleeps with it. -/
theorem defer_full {s : State} {key : Nat} (c' : Ctx) (op : BitVec 2) (t : Nat) (pl : List Byte)
    (h : s.ledgerFull (rankOf key) = true) : s.defer key (s.ctx key) c' op t pl =
      .sleep (s.count (ldA 0x140)) { s.ctx key with wait := .ledger (s.entryOf key op t pl) } := by
  rw [State.defer, h]
  rfl

section
variable {s0 s : State} {r : Rank} {cn : CoreNo} {k : CtxNo} {g : Guard} {body : State → Nat → Ctx → R}

/-- A body that defers its operation and pops its operands: the entry leaves at retire, or the context sleeps with it. -/
theorem issue_table_defers (h : Ready s0 s ⟨.pkt r cn k, g⟩ 2) (hleave : s.leaving r.val = false) {os : List Word} {op : BitVec 2} {t : Nat}
    {pl : List Byte} (hb : body s (pk r.val cn.val k.val) (s.ctx (pk r.val cn.val k.val)) =
      s.defer (pk r.val cn.val k.val) (s.ctx (pk r.val cn.val k.val)) { s.ctx (pk r.val cn.val k.val) with os := os } op t pl) :
    let key := pk r.val cn.val k.val
    s0.issue ⟨.pkt r cn k, g⟩ .table 2 true body =
      if s.ledgerFull r.val then ((s.count (ldA 0x140)).setCtx key
        (asleep (s.ctx key) (.ledger (s.entryOf key op t pl)) (guardLen g + 2))).issued key
      else retire (s.setRank r.val { s.rank r.val with out := (s.rank r.val).out ++ [.entry (s.entryOf key op t pl)] }) key
        { s.ctx key with os := os, seq := (s.ctx key).seq + 1 } (after s ⟨.pkt r cn k, g⟩ 2) := by
  intro key
  cases hfull : s.ledgerFull r.val with
  | true => exact issue_table_sleep h (hb.trans (defer_full _ _ _ _ (by rw [rankOf_pkt]; exact hfull)))
  | false =>
    have hb' := hb.trans (defer_room _ _ _ _ (by rw [rankOf_pkt]; exact hfull))
    rw [State.lmsg, rankOf_pkt, hleave] at hb'
    exact issue_table_ok h hb' rfl rfl

end

section
variable {s : State} {key : Nat} {c : Ctx} {t : Byte} {w0 w1 w2 : Word} {rest : List Word} {kb : List Byte}

/-- The limit of sixteen entries of a packet (R119). -/
theorem seqFull_pkt (hk : isStw key = false) : seqFull key c = decide (16 ≤ c.seq) := by simp [seqFull, hk]

theorem cnt_defers (hk : isStw key = false) (hos : c.os = w0 :: w1 :: w2 :: rest) (hstk : stkErr key c 3 0 = none)
    (hcheck : s.tCheck .cnt t.toNat = none) (hidx : s.badIdx t.toNat w2 = false) :
    cnt t s key c = if 16 ≤ c.seq then .exc s 12 (tFault t.toNat 4)
      else s.defer key c { c with os := rest } 0 t.toNat (leBytes 4 w2.toNat ++ leBytes 4 w1.toNat ++ leBytes 4 w0.toNat) := by
  have h0 : opnd c 0 = w0 := by simp [opnd, hos]
  have h1 : opnd c 1 = w1 := by simp [opnd, hos]
  have h2 : opnd c 2 = w2 := by simp [opnd, hos]
  have hdrop : c.os.drop 3 = rest := by simp [hos]
  simp only [cnt, hstk, hcheck, h0, h1, h2, hdrop, hidx, seqFull_pkt hk, hk, Bool.false_eq_true, if_false, decide_eq_true_eq]

theorem lrn_defers (hk : isStw key = false) (hos : c.os = w0 :: w1 :: rest) (hstk : stkErr key c 2 0 = none)
    (hcheck : s.tCheck .lrn t.toNat = none) (hrng : s.rngErr key c (s.keyRng t.toNat w1) = none)
    (hkey : s.opKey key t.toNat w1 = (false, kb, s)) :
    lrn t s key c = if 16 ≤ c.seq then .exc s 12 (tFault t.toNat 4)
      else s.defer key c { c with os := rest } 2 t.toNat (fit 16 kb ++ leBytes 4 w0.toNat) := by
  have h0 : opnd c 0 = w0 := by simp [opnd, hos]
  have h1 : opnd c 1 = w1 := by simp [opnd, hos]
  have hdrop : c.os.drop 2 = rest := by simp [hos]
  simp only [lrn, hstk, hcheck, h0, h1, hdrop, hrng, hkey, seqFull_pkt hk, hk, Bool.false_eq_true, if_false, decide_eq_true_eq]

theorem logOp_defers (hk : isStw key = false) (hos : c.os = w0 :: rest) (hstk : stkErr key c 1 0 = none)
    (hcheck : s.tCheck .log t.toNat = none) (hrng : s.rngErr key c [⟨w0, 20, 4⟩] = none)
    (hdata : s.readMem key w0.toNat 20 = (false, kb, s)) :
    logOp t s key c = if 16 ≤ c.seq then .exc s 12 (tFault t.toNat 4)
      else s.defer key c { c with os := rest } 3 t.toNat (kb ++ leBytes 4 s.tick32.toNat) := by
  have h0 : opnd c 0 = w0 := by simp [opnd, hos]
  have hdrop : c.os.drop 1 = rest := by simp [hos]
  simp only [logOp, hstk, hcheck, h0, hdrop, hrng, hdata, seqFull_pkt hk, hk, Bool.false_eq_true, if_false, decide_eq_true_eq]

end

/-- FAULTADDR of vector 12 holds the table's number whole. -/
theorem tFault_byte (t : Byte) (n : Nat) : tFault t.toNat n = BitVec.ofNat 32 (t.toNat + 256 * n) := by
  rw [tFault, Nat.mod_eq_of_lt t.isLt]

/-- Settles O24: below the limit each instruction's body is one `defer`, at it one exception. -/
theorem deferredOperationsResult : Obligations.DeferredOperationsResult := by
  unfold Obligations.DeferredOperationsResult
  intro s0 s r cn k g t w0 w1 w2 rest kb x key c md ent go hready hfloor hlimit hleave
  have hk : isStw key = false := isStw_pkt r cn k
  have hstk : ∀ n : Nat, c.os.length = rest.length + n → stkErr key c n 0 = none := fun n hn => stkErr_none (by omega) (by omega)
  have hent : ∀ op pl, s.entryOf key op t.toNat pl = ent op pl := fun op pl => by
    simp only [State.entryOf, BitVec.ofNat_toNat, BitVec.setWidth_eq, rankOf_pkt, key, ent, md, c]
  have hgo : ∀ {body : State → Nat → Ctx → R} {op : BitVec 2} {pl : List Byte},
      (body s key c = if 16 ≤ c.seq then .exc s 12 (tFault t.toNat 4) else s.defer key c { c with os := rest } op t.toNat pl) →
      (c.seq < 16 → Host.Outcome.next (φ := Fault) (ρ := Refusal) (s0.issue x .table 2 true body) = .next (go op pl)) ∧
      (16 ≤ c.seq → Host.Outcome.next (φ := Fault) (ρ := Refusal) (s0.issue x .table 2 true body) =
        .next ((s.excAt key 12 (BitVec.ofNat 32 (t.toNat + 256 * 4))).issued key)) := by
    intro body op pl hb
    refine ⟨fun hseq => ?_, fun hseq => ?_⟩
    · rw [if_neg (by omega)] at hb
      rw [issue_table_defers hready hleave hb, hent]
    · rw [if_pos hseq, tFault_byte] at hb
      rw [issue_table_exc hready hb]
  exact ⟨fun hos hcheck hidx => hgo (cnt_defers hk hos (hstk 3 (by simp [hos])) hcheck hidx),
    fun hos hcheck hrng hkey => hgo (lrn_defers hk hos (hstk 2 (by simp [hos])) hcheck hrng hkey),
    fun hos hcheck hrng hdata => hgo (logOp_defers hk hos (hstk 1 (by simp [hos])) hcheck hrng hdata)⟩

end Sys2Proof.Machine
end

section
/-! LOOKUP_RESULT and TABLE_ACK: the result of a request reaches the context that sleeps for it (06 R194–R198; 10 R318). -/

namespace Sys2Proof.Machine
open Sys2Proof.Claim

/-- A packet context's store to its scratchpad, after its core's buffered stores. -/
theorem PadWork.writeMem (s : State) {key : Nat} (hk : isStw key = false) (a : Nat) (bs : List Byte) : PadWork s (s.writeMem key a bs) := by
  rw [State.writeMem, hk]
  exact (bgtAbort s _ _ _).trans ((drainCore _ _).trans (spStore _ _ _ _))

/-- Where nothing waits for the boundary, a context that wakes goes on after its instruction. -/
theorem wake_idle {s : State} {key : Nat} (os : List Word) (h11 : (s.ctx key).v11pend = false) (htrig : (s.ctx key).trig = false) :
    s.wake key os = wakes s key os := State.complete_idle _ _ _ _ h11 htrig

section
variable {s : State} {r : Rank} {cn : CoreNo} {k : CtxNo} {o : TOp} (hdone : s.doneOp (pk r.val cn.val k.val) = some o)
include hdone

/-- LOOKUP_RESULT of a LOOK or LOOKW. -/
theorem lookupResult_look (hkind : o.kind = .look ∨ o.kind = .lookw) :
    let key := pk r.val cn.val k.val
    let u := s.dropOp o
    exec (.lookupResult (.pkt r cn k)) s = .next (if o.ue then u.endPunt key 0x83
      else (if o.res = 1 then u.writeMem key o.raddr.toNat o.out else u).wake key (o.res :: (s.ctx key).os.drop 2)) := by
  intro key u
  change execLookupResult (.pkt r cn k) s = _
  simp only [execLookupResult, whoKey, hdone]
  rcases hkind with h | h <;> simp only [h, isStw_pkt, Bool.false_eq_true, if_false] <;> rfl

/-- LOOKUP_RESULT of an MTR. -/
theorem lookupResult_mtr (hkind : o.kind = .mtr) :
    let key := pk r.val cn.val k.val
    exec (.lookupResult (.pkt r cn k)) s = .next (if o.ue then (s.dropOp o).endPunt key 0x83 else s.retireMtr key o) := by
  intro key
  change execLookupResult (.pkt r cn k) s = _
  simp only [execLookupResult, whoKey, hdone, hkind, isStw_pkt, Bool.false_eq_true, if_false]
  rfl

/-- TABLE_ACK: the instruction's operands give way to the result cell, if it has one. -/
theorem tableAck_eq :
    let key := pk r.val cn.val k.val
    let os := (s.ctx key).os
    (o.kind = .upd → exec (.tableAck (.pkt r cn k)) s = .next ((s.dropOp o).wake key (o.res :: os.drop 2))) ∧
    (o.kind = .cas → exec (.tableAck (.pkt r cn k)) s = .next ((s.dropOp o).wake key (o.res :: os.drop 3))) ∧
    (o.kind = .unlock → exec (.tableAck (.pkt r cn k)) s = .next ((s.dropOp o).wake key (os.drop 1))) := by
  intro key os
  change (_ → execTableAck (.pkt r cn k) s = _) ∧ (_ → execTableAck (.pkt r cn k) s = _) ∧ (_ → execTableAck (.pkt r cn k) s = _)
  simp only [execTableAck, whoKey, hdone]
  refine ⟨fun h => ?_, fun h => ?_, fun h => ?_⟩ <;> simp only [h] <;> rfl

end

/-! ### The charge of a meter (04 R120; 06 R196) -/

/-- The payload of a meter's charge: index, bytes, time. -/
def TOp.charge (o : TOp) : List Byte := leBytes 4 o.idx ++ leBytes 2 o.w0.toNat ++ [0, 0] ++ leBytes 4 o.w1.toNat

section
variable {s : State} {key : Nat}

/-- With room the charge leaves and the context goes on with the colour. -/
theorem retireMtr_room (o : TOp) (h : s.ledgerFull (rankOf key) = false) (h11 : (s.ctx key).v11pend = false)
    (htrig : (s.ctx key).trig = false) : s.retireMtr key o =
      ((s.lmsg (rankOf key) (.entry (s.entryOf key 1 o.table o.charge))).dropOp o).setCtx key
        (Ctx.goto
          { s.ctx key with
            os := o.res :: (s.ctx key).os.drop 2, seq := (s.ctx key).seq + 1, st := .run, wait := .none, wlen := 0, skip := false,
            brkSkip := false }
          ((s.ctx key).pc + BitVec.ofNat 32 (s.ctx key).wlen)) := by
  simp only [State.retireMtr, defer_room _ _ _ _ h]
  exact State.complete_idle _ _ _ _ h11 htrig

/-- Without room the context goes on sleeping for it. -/
theorem retireMtr_full (o : TOp) (h : s.ledgerFull (rankOf key) = true) : s.retireMtr key o =
      (s.count (ldA 0x140)).setCtx key { s.ctx key with wait := .ledger (s.entryOf key 1 o.table o.charge) } := by
  simp only [State.retireMtr, defer_full _ _ _ _ h]
  rfl

end

/-- Settles O25: a lookup ends in `endPunt` or `wake`, a meter's round in `retireMtr`, the other operations in `wake`. -/
theorem tableResultsReachTheContext : Obligations.TableResultsReachTheContext := by
  unfold Obligations.TableResultsReachTheContext
  intro s r cn k o key c u hdone h11 htrig hleave
  have hwake : ∀ {v : State} (os : List Word), v.ctx key = c → v.wake key os = wakes v key os := fun os hv =>
    wake_idle os (by rw [hv]; exact h11) (by rw [hv]; exact htrig)
  have hctx : u.ctx key = c := rfl
  have hrank : rankOf key = r.val := rankOf_pkt r cn k
  obtain ⟨hupd, hcas, hunlock⟩ := tableAck_eq hdone
  refine ⟨fun hkind => ⟨fun hue hres => ?_, fun hue hres => ?_, fun hue => ?_⟩, fun hkind hue => ?_, fun hkind hue => ?_,
    fun hkind => ?_, fun hkind => ?_, fun hkind => ?_⟩
  · rw [lookupResult_look hdone hkind, hue, if_neg (by decide), if_neg hres]
    exact congrArg Host.Outcome.next (hwake _ hctx)
  · rw [lookupResult_look hdone hkind, hue, if_neg (by decide), if_pos hres, hres]
    exact congrArg Host.Outcome.next (hwake _ (((PadWork.writeMem u (isStw_pkt r cn k) _ _).ctx key).trans hctx))
  · rw [lookupResult_look hdone hkind, hue]
    rfl
  · rw [lookupResult_mtr hdone hkind, hue]
    rfl
  · refine ⟨_, s.entryOf key 1 o.table o.charge, by rw [lookupResult_mtr hdone hkind, hue]; rfl, rfl, BitVec.toNat_ofNat _ _, rfl, rfl,
      fun hfull => ?_, fun hfull => retireMtr_full o (hrank ▸ hfull)⟩
    rw [retireMtr_room o (hrank ▸ hfull) h11 htrig, State.lmsg, hrank, hleave, State.ctx_setCtx_same]
    refine ⟨?_, Ctx.goto_st _ _, Ctx.goto_os _ _, by rw [Ctx.goto_frame]⟩
    exact congrArg RankSt.out (State.rank_setRank_same s r.val _)
  · exact (hupd hkind).trans (congrArg Host.Outcome.next (hwake _ hctx))
  · exact (hcas hkind).trans (congrArg Host.Outcome.next (hwake _ hctx))
  · exact (hunlock hkind).trans (congrArg Host.Outcome.next (hwake _ hctx))

end Sys2Proof.Machine
end

section
/-! The ledger's messages: entries taken, released, discarded, forfeited, flushed, judged (04 R110, R120, R121, R127, R130, R132; 17 R483). -/

namespace Sys2Proof.Machine
open Sys2Proof.Claim

/-! ### Entries of the ledger -/

@[simp] theorem thresholds_ent (s : State) : s.thresholds.led.ent = s.led.ent := rfl
@[simp] theorem ctr_thresholds (s : State) (a : Nat) : s.thresholds.ctr a = s.ctr a := rfl
@[simp] theorem ledPut_ent (s : State) (idx : Nat) (e : LEntry) : (s.ledPut idx e).led.ent = tset s.led.ent idx e := rfl
@[simp] theorem ctr_ledPut (s : State) (idx : Nat) (e : LEntry) (a : Nat) : (s.ledPut idx e).ctr a = s.ctr a := rfl
@[simp] theorem ctx_ledPut (s : State) (idx : Nat) (e : LEntry) (key : Nat) : (s.ledPut idx e).ctx key = s.ctx key := rfl
@[simp] theorem rank_ledPut (s : State) (idx : Nat) (e : LEntry) (r : Nat) : (s.ledPut idx e).rank r = s.rank r := rfl
@[simp] theorem dropMsg_led (s : State) (r : Nat) : (s.dropMsg r).led = s.led := rfl
@[simp] theorem ctr_dropMsg (s : State) (r a : Nat) : (s.dropMsg r).ctr a = s.ctr a := rfl

theorem out_dropMsg (s : State) (r : Nat) : ((s.dropMsg r).rank r).out = eraseFirst (fun m => !m.isMark) (s.rank r).out :=
  congrArg RankSt.out (State.rank_setRank_same s r _)

@[simp] theorem ing_ledDrop (s : State) (a : Nat) (p : LEntry → Bool) : (s.ledDrop a p).ing = s.ing := State.count_ing _ _ _

@[simp] theorem rank_ledDrop (s : State) (a : Nat) (p : LEntry → Bool) (r : Nat) : (s.ledDrop a p).rank r = s.rank r :=
  State.rank_count _ _ _ _

/-- What a discard leaves: of the entries that it names, those that are committed. -/
theorem mem_ledDrop (s : State) (a : Nat) (p : LEntry → Bool) (x : Nat × LEntry) :
    x ∈ (s.ledDrop a p).led.ent ↔ x ∈ s.led.ent ∧ ¬ ((x.2.used = true ∧ x.2.com = false) ∧ p x.2 = true) := by
  simp only [State.ledDrop, thresholds_ent, State.count_led, List.mem_filter, Bool.not_eq_true', Bool.and_eq_false_iff, Bool.not_eq_false',
    not_and, Bool.not_eq_true, and_congr_right_iff, and_imp]
  intro _
  cases x.2.used <;> cases x.2.com <;> simp

theorem keyed_iff (e : LEntry) (lane : Lane) (pip : Pip) (r : Nat) (a : BitVec 4) :
    e.keyed lane pip r a = true ↔ e.lane = lane ∧ e.pip = pip ∧ e.rank = r ∧ e.attempt = a := by
  simp [LEntry.keyed, and_assoc]

theorem ofFrame_iff (e : LEntry) (lane : Lane) (pip : Pip) : e.ofFrame lane pip = true ↔ e.lane = lane ∧ e.pip = pip := by
  simp [LEntry.ofFrame]

/-- What a change leaves: the entries in their places, changed where it names them. -/
theorem ledMod_ent (s : State) {p : LEntry → Bool} {q : LEntry → Prop} [DecidablePred q] (f : LEntry → LEntry)
    (h : ∀ e, p e = true ↔ q e) : (s.ledMod p f).led.ent = s.led.ent.map (fun x => (x.1, if q x.2 then f x.2 else x.2)) := by
  refine List.map_congr_left fun x _ => ?_
  simp only [h x.2]

/-! ### LEDGER_ENTRY (R120, R127) -/

section
variable {s : State} {r : Rank} {idx : Fin 16384} {e : LEntry} (hon : s.ledOn = true) (hfree : tfind s.led.ent idx.val = none)
include hon hfree

theorem ledgerEntry_message (hfront : s.front r.val = some (.entry e)) :
    exec (.ledgerEntry r idx) s = .next (((s.dropMsg r.val).ledPut idx.val e).count (ldA 0x100)) := by
  change execLedgerEntry r idx s = _
  simp only [execLedgerEntry, hon, hfree, hfront, Option.isSome_none, Bool.not_true, Bool.or_self, Bool.false_eq_true, if_false]

theorem ledgerEntry_sleeper {key : Nat} (hfront : s.front r.val = none) (hready : s.ready r.val = true)
    (hroom : s.ledgerFull r.val = false) (hsleeps : s.ledSleeper r.val = some (key, e)) :
    exec (.ledgerEntry r idx) s = .next
      (((s.ledPut idx.val { e with vgood := decide ((s.mdOf key).verdict = 1) }).count (ldA 0x100)).wakeDeferred key e) := by
  change execLedgerEntry r idx s = _
  simp only [execLedgerEntry, hon, hfree, hfront, hready, hroom, hsleeps, Option.isSome_none, Bool.not_true, Bool.or_self,
    Bool.false_eq_true, if_false]

end

/-- A sleeper for room is a packet context of its rank. -/
theorem ledSleeper_pkt {s : State} {r : Rank} {key : Nat} {e : LEntry} (h : s.ledSleeper r.val = some (key, e)) :
    ∃ (c : CoreNo) (k : CtxNo), key = pk r.val c.val k.val := by
  obtain ⟨i, hi, hfound⟩ := List.exists_of_findSome?_eq_some h
  have hcore : i / 8 < 13 := by have := List.mem_range.mp hi; omega
  refine ⟨⟨i / 8, hcore⟩, ⟨i % 8, Nat.mod_lt _ (by decide)⟩, ?_⟩
  dsimp only at hfound
  split at hfound
  · split at hfound
    · cases hfound
    · exact (congrArg Prod.fst (Option.some.inj hfound)).symm
  · cases hfound

/-- A packet context below ELEV 2 enters an exception that is no stack error. -/
theorem raise_enters (s : State) {key : Nat} {x : Exc} (hflt : isFlt key = false) (hstw : isStw key = false) (hx : stackVec x.vec = false)
    (helev : (s.ctx key).elev ≠ 2) : s.raise key x =
      s.setCtx key { s.ctx key with st := .entry, wait := .none, skip := false, brkSkip := false, exc := some x } := by
  simp only [State.raise, hflt, hstw, hx, helev, Bool.false_and, Bool.false_eq_true, if_false]

/-- What waits for the boundary of a packet context that waits for nothing: the ledger and the context's sequence number stay. -/
theorem takePend_keeps (s : State) {key : Nat} (g : Grp) (hflt : isFlt key = false) (hstw : isStw key = false)
    (hwait : (s.ctx key).wait = .none) : (s.takePend key g).led = s.led ∧ ((s.takePend key g).ctx key).wait = .none ∧
      ((s.takePend key g).ctx key).seq = (s.ctx key).seq := by
  have hraise : ∀ (c : Ctx) (x : Exc), stackVec x.vec = false → c.elev ≠ 2 → c.seq = (s.ctx key).seq →
      ((s.setCtx key c).raise key x).led = s.led ∧ (((s.setCtx key c).raise key x).ctx key).wait = .none ∧
        (((s.setCtx key c).raise key x).ctx key).seq = (s.ctx key).seq := by
    intro c x hx helev hseq
    rw [raise_enters _ hflt hstw hx (by rw [State.ctx_setCtx_same]; exact helev), State.ctx_setCtx_same, State.ctx_setCtx_same]
    exact ⟨rfl, rfl, hseq⟩
  unfold State.takePend
  dsimp only
  split
  · next h => exact hraise _ _ rfl (by simp_all) rfl
  · split
    · next h => exact hraise _ _ rfl (by simp_all) rfl
    · exact ⟨rfl, hwait, rfl⟩

theorem complete_keeps (s : State) {key : Nat} (c : Ctx) (t : Word) (hflt : isFlt key = false) (hstw : isStw key = false) :
    (s.complete key c t).led = s.led ∧ ((s.complete key c t).ctx key).wait = .none ∧ ((s.complete key c t).ctx key).seq = c.seq := by
  unfold State.complete State.boundary
  generalize hd : Ctx.goto _ t = d
  have hwait : d.wait = .none := by rw [← hd, Ctx.goto_frame]
  have hseq : d.seq = c.seq := by rw [← hd, Ctx.goto_frame]
  dsimp only
  split
  · rw [State.ctx_setCtx_same]
    exact ⟨rfl, hwait, hseq⟩
  · obtain ⟨hled, hw, hs⟩ := takePend_keeps (s.setCtx key d) { ((s.setCtx key d).ctx key).grp with
      left := 0, next := ((s.setCtx key d).ctx key).pc } hflt hstw (by rw [State.ctx_setCtx_same]; exact hwait)
    exact ⟨hled, hw, hs.trans (by rw [State.ctx_setCtx_same]; exact hseq)⟩

/-- A deferred operation that slept for room completes. -/
theorem wakeDeferred_keeps (s : State) {key : Nat} (e : LEntry) (hflt : isFlt key = false) (hstw : isStw key = false) :
    (s.wakeDeferred key e).led = s.led ∧ ((s.wakeDeferred key e).ctx key).wait = .none ∧
      ((s.wakeDeferred key e).ctx key).seq = (s.ctx key).seq + 1 := by
  unfold State.wakeDeferred
  dsimp only
  split_ifs
  · exact complete_keeps s _ _ hflt hstw
  · split
    · exact complete_keeps (s.dropOp _) _ _ hflt hstw
    · exact complete_keeps s _ _ hflt hstw
  · exact complete_keeps s _ _ hflt hstw
  · exact complete_keeps s _ _ hflt hstw

/-! ### LEDGER_RELEASE, LEDGER_DISCARD, LEDGER_FORFEIT (R121, R130, R132) -/

section
variable {s : State} {r : Rank} {lane : Lane} {pip : Pip} {a : BitVec 4} (hon : s.ledOn = true)
include hon

theorem ledgerRelease_eq {v : BitVec 2} (hfront : s.front r.val = some (.release lane pip a v)) :
    exec (.ledgerRelease r) s = .next (if v = 2 then (s.dropMsg r.val).ledDrop (ldA 0x110) (fun e => e.keyed lane pip r.val a)
      else (s.dropMsg r.val).ledMod (fun e => e.keyed lane pip r.val a)
        (fun e => { e with rel := true, vgood := e.vgood || decide (v = 1) })) := by
  change execLedgerRelease r s = _
  simp only [execLedgerRelease, hfront, hon, Bool.not_true, Bool.false_eq_true, if_false]

theorem ledgerDiscard_eq (hfront : s.front r.val = some (.discard lane pip a)) :
    exec (.ledgerDiscard r) s = .next ((s.dropMsg r.val).ledDrop (ldA 0x118) (fun e => e.keyed lane pip r.val a)) := by
  change execLedgerDiscard r s = _
  simp only [execLedgerDiscard, hfront, hon, Bool.not_true, Bool.false_eq_true, if_false]

theorem ledgerForfeit_eq (hfront : s.front r.val = some (.forfeit lane pip)) :
    exec (.ledgerForfeit r) s =
      .next ((s.dropMsg r.val).ledDrop (ldA 0x110) (fun e => e.ofFrame lane pip && decide (e.rank = r.val))) := by
  change execLedgerForfeit r s = _
  simp only [execLedgerForfeit, hfront, hon, Bool.not_true, Bool.false_eq_true, if_false]

end

/-! ### LEDGER_FLUSH (R110; 17 R483) -/

theorem mapFirst_append {α : Type} {p : α → Bool} (f : α → α) {pre : List α} {m : α} (post : List α) (hpre : ∀ y ∈ pre, p y = false)
    (hm : p m = true) : mapFirst p f (pre ++ m :: post) = pre ++ f m :: post := by
  induction pre with
  | nil => simp [mapFirst, hm]
  | cons y pre ih =>
    simp only [List.mem_cons, forall_eq_or_imp] at hpre
    simp [mapFirst, hpre.1, ih hpre.2]

theorem find?_append_cons {α : Type} {p : α → Bool} {pre : List α} {m : α} (post : List α) (hpre : ∀ y ∈ pre, p y = false)
    (hm : p m = true) : (pre ++ m :: post).find? p = some m := by
  rw [List.find?_append, List.find?_eq_none.mpr (fun y hy => by rw [hpre y hy]; decide), Option.none_or, List.find?_cons_of_pos hm]

/-- The state with the flush `fs` under way and its marks taken off the ranks' links. -/
def State.flushed (s : State) (fs : List VMsg) : State :=
  { s with ing := { s.ing with flush := fs }, ranks := tmap s.ranks (fun _ x => { x with out := eraseFirst (· == LMsg.fmark) x.out }) }

theorem out_flushed (s : State) (fs : List VMsg) (j : Nat) :
    ((s.flushed fs).rank j).out = eraseFirst (· == LMsg.fmark) (s.rank j).out := by
  simp only [State.flushed, State.rank, tget, tfind_tmap]
  cases tfind s.ranks j <;> rfl

section
variable {s : State} {pre post : List VMsg} {m : VMsg} (hflush : s.ing.flush = pre ++ m :: post) (hpre : ∀ y ∈ pre, y.ledger = false)
  (hm : m.ledger = true)
include hflush hpre hm

/-- The flush may reach the ledger by its first message that has still to. -/
theorem flushMay_eq : s.flushMay = (m.ranks.isEmpty && !s.ing.vmsgs.any (fun m => m.ledger) &&
    (List.range 12).all (fun r => flushLeads (s.rank r).out)) := by
  rw [State.flushMay, hflush, find?_append_cons post hpre hm]

theorem ledgerFlush_drops (hon : s.ledOn = true) (hranks : m.ranks = []) (hmsgs : s.ing.vmsgs.any (fun m => m.ledger) = false)
    (hleads : ∀ j, j < 12 → flushLeads (s.rank j).out = true) :
    exec .ledgerFlush s = .next ((s.flushed ((pre ++ { m with ledger := false } :: post).filter (fun m => !m.done))).ledDrop (ldA 0x110)
      (fun e => !e.vgood)) := by
  have hmay : s.flushMay = true := by
    rw [flushMay_eq hflush hpre hm, hranks, hmsgs, List.all_eq_true.mpr (fun j hj => hleads j (List.mem_range.mp hj))]
    rfl
  change execLedgerFlush s = _
  rw [execLedgerFlush, hon, hmay, hflush, mapFirst_append _ _ hpre hm]
  rfl

theorem ledgerFlush_waits (h : m.ranks ≠ [] ∨ s.ing.vmsgs.any (fun m => m.ledger) = true) : exec .ledgerFlush s = .next s := by
  have hmay : s.flushMay = false := by
    rw [flushMay_eq hflush hpre hm]
    rcases h with h | h <;> simp [h]
  change execLedgerFlush s = _
  rw [execLedgerFlush, hmay, Bool.not_false, Bool.or_true, if_pos rfl]

end

/-! ### LEDGER_VERDICT (R110, R120) -/

/-- The verdict discards the frame's entries or sets VGOOD on them, once its message and its marks are taken. -/
theorem ledgerVerdict_eq {s : State} {m : VMsg} (hon : s.ledOn = true) (hmsg : s.ledMsg = some m) :
    ∃ u : State, u.led = s.led ∧ exec .ledgerVerdict s = .next (if m.v = 2 then u.ledDrop (ldA 0x110) (fun e => e.ofFrame m.lane m.pip)
      else u.ledMod (fun e => e.ofFrame m.lane m.pip) (fun e => { e with vgood := true })) := by
  change ∃ u : State, _ ∧ execLedgerVerdict s = _
  rw [execLedgerVerdict, hmsg]
  dsimp only
  rw [hon, if_neg (by decide)]
  refine ⟨_, ?_, rfl⟩
  rfl

end Sys2Proof.Machine
end

section
/-! Reads of tile rows by the commit engine: what they return and what they leave (10 R293, R317–R319; 04 R122). -/

namespace Sys2Proof.Machine
open Sys2Proof.Claim

/-! ### What the commit engine's grants and reads can change -/

/-- The register that shows a tile's errors (10 R318, R319). -/
def IsTileReg (a : Nat) : Prop := ∃ x, x < 32 ∧ a = tbA (0x100 + 4 * x)

/-- The counters of errors that reads of tiles find (10 R318). -/
def IsTileCtr (a : Nat) : Prop := a = tbA 0x800 ∨ a = tbA 0x808

/-- `t` is `s` but for the records of errors in tiles, the arbiters' grants, and turn hints. -/
structure TileWork (s t : State) : Prop where
  frame : { t with counters := s.counters, logs := s.logs, regs := s.regs, ao := s.ao, ledErr := s.ledErr,
                   tb := { t.tb with arb := s.tb.arb, ops := s.tb.ops } } = s
  failed : t.failedTile = s.failedTile
  reg : ∀ a, ¬ IsTileReg a → t.reg a = s.reg a
  ctr : ∀ a, ¬ IsTileCtr a → t.ctr a = s.ctr a

namespace TileWork

variable {s t u : State}

theorem refl (s : State) : TileWork s s := ⟨rfl, rfl, fun _ _ => rfl, fun _ _ => rfl⟩

theorem trans (h : TileWork s t) (h' : TileWork t u) : TileWork s u where
  frame := (congrArg (fun v : State => { v with
    counters := s.counters, logs := s.logs, regs := s.regs, ao := s.ao, ledErr := s.ledErr,
    tb := { v.tb with arb := s.tb.arb, ops := s.tb.ops } }) h'.frame).trans h.frame
  failed := h'.failed.trans h.failed
  reg := fun a ha => (h'.reg a ha).trans (h.reg a ha)
  ctr := fun a ha => (h'.ctr a ha).trans (h.ctr a ha)

theorem tile (h : TileWork s t) : t.tile = s.tile := (congrArg State.tile h.frame :)
theorem tileErr (h : TileWork s t) : t.tileErr = s.tileErr := (congrArg State.tileErr h.frame :)
theorem led (h : TileWork s t) : t.led = s.led := (congrArg State.led h.frame :)
theorem cur (h : TileWork s t) : t.tb.cur = s.tb.cur := (congrArg (fun v : State => v.tb.cur) h.frame :)
theorem prev (h : TileWork s t) : t.tb.prev = s.tb.prev := (congrArg (fun v : State => v.tb.prev) h.frame :)
theorem plive (h : TileWork s t) : t.tb.plive = s.tb.plive := (congrArg (fun v : State => v.tb.plive) h.frame :)
theorem abanks (h : TileWork s t) : t.tb.abank = s.tb.abank := (congrArg (fun v : State => v.tb.abank) h.frame :)
theorem pbanks (h : TileWork s t) : t.tb.pbank = s.tb.pbank := (congrArg (fun v : State => v.tb.pbank) h.frame :)
theorem rnext (h : TileWork s t) : t.tb.rnext = s.tb.rnext := (congrArg (fun v : State => v.tb.rnext) h.frame :)

/-! ### The steps of such work -/

theorem count (s : State) {a : Nat} (n : Nat) (h : IsTileCtr a) : TileWork s (s.count a n) where
  frame := by unfold State.count; split <;> rfl
  failed := by funext x; simp only [State.failedTile, State.arb, State.count_tb]
  reg := fun b _ => State.reg_count s a n b
  ctr := fun b hb => by rw [State.ctr_count, if_neg (fun hba : b = a => hb (hba ▸ h))]

theorem logAdd (s : State) (a cap e : Nat) : TileWork s (s.logAdd a cap e) := by
  unfold State.logAdd
  dsimp only
  split <;> exact ⟨rfl, rfl, fun _ _ => rfl, fun _ _ => rfl⟩

theorem orReg (s : State) {a : Nat} (n : Nat) (h : IsTileReg a) : TileWork s (s.orReg a n) where
  frame := rfl
  failed := rfl
  reg := fun b hb => State.reg_setReg_ne s a b _ (fun hba : b = a => hb (hba ▸ h))
  ctr := fun _ _ => rfl

theorem setArb (s : State) (x : Nat) {a : Arb} (h : a.failed = (s.arb x).failed) : TileWork s (s.setArb x a) where
  frame := rfl
  failed := by
    funext y
    simp only [State.failedTile, State.arb, State.setArb, tget_tset]
    split
    · next hy => rw [hy, h]; rfl
    · rfl
  reg := fun _ _ => rfl
  ctr := fun _ _ => rfl

theorem repairTile (s : State) (x row : Nat) : TileWork s (s.repairTile x row) := by
  unfold State.repairTile
  dsimp only
  split
  · exact refl s
  · split <;> exact ⟨rfl, rfl, fun _ _ => rfl, fun _ _ => rfl⟩

theorem hints (s : State) (x q : Nat) (qs : List Nat) : TileWork s (s.hints x q qs) := ⟨rfl, rfl, fun _ _ => rfl, fun _ _ => rfl⟩

theorem grant (s : State) (x q : Nat) : TileWork s (s.grant x q) := (hints s x q _).trans (setArb _ x rfl)

theorem grants (s : State) (xs : List Nat) (q : Nat) : TileWork s (forEach xs s (fun x s => s.grant x q)) :=
  forEach_keeps (TileWork s) xs _ (fun x _ hs => hs.trans (grant _ x q)) s (refl s)

theorem tileUe (s : State) {x : Nat} (row : Nat) (hx : x < 32) : TileWork s (s.tileUe x row) := by
  have hfound : TileWork s
      (((s.count (tbA 0x808)).logAdd (tbA 0x80) 8 (2 ^ 31 + at_ x 16 + row)).orReg (tbA (0x100 + 4 * x)) 1) :=
    (count s 1 (.inr rfl)).trans ((logAdd _ _ _ _).trans (orReg _ 1 ⟨x, hx, rfl⟩))
  unfold State.tileUe
  dsimp only
  split
  · exact hfound
  · refine hfound.trans (TileWork.trans (setArb _ x ?_) (repairTile _ x row))
    rfl

theorem rowTouch (s : State) {x : Nat} (row : Nat) (hx : x < 32) : TileWork s (s.rowTouch x row).2 := by
  unfold State.rowTouch
  dsimp only
  split
  · exact (count s _ (.inl rfl)).trans (tileUe _ row hx)
  · exact count s _ (.inl rfl)

/-! ### What it leaves of the tables' placement (R295, R296, R312, R317, R319, R320) -/

section
variable (h : TileWork s t)
include h

theorem td : t.td = s.td := by
  funext i w
  refine h.reg _ ?_
  rintro ⟨x, hx, he⟩
  simp only [tbA] at he
  omega

theorem reloc : t.reloc = s.reloc := by
  have hreg : ∀ i, t.reg (tbA (0x300 + 4 * i)) = s.reg (tbA (0x300 + 4 * i)) := fun i => h.reg _ (by
    rintro ⟨x, hx, he⟩
    simp only [tbA] at he
    omega)
  funext i
  simp only [State.reloc, hreg]

theorem tKind : t.tKind = s.tKind := by funext i; simp only [State.tKind, h.td]
theorem tW : t.tW = s.tW := by funext i; simp only [State.tW, h.td]
theorem tLen : t.tLen = s.tLen := by funext i; simp only [State.tLen, h.td]
theorem tParam : t.tParam = s.tParam := by funext i; simp only [State.tParam, h.td]
theorem tMirror : t.tMirror = s.tMirror := by funext i; simp only [State.tMirror, h.td]
theorem tDual : t.tDual = s.tDual := by funext i; simp only [State.tDual, h.td]
theorem tRows : t.tRows = s.tRows := by funext i; simp only [State.tRows, h.tW]
theorem dataLen : t.dataLen = s.dataLen := by funext i; simp only [State.dataLen, h.tW, h.tParam]
theorem cands : t.cands = s.cands := by funext i key; simp only [State.cands, h.td, h.tLen]
theorem hValid : t.hValid = s.hValid := by funext i c; simp only [State.hValid, h.tW]
theorem hHit : t.hHit = s.hHit := by funext i key c; simp only [State.hHit, h.hValid, h.dataLen, h.tParam]

theorem bankOf : t.bankOf = s.bankOf := by
  funext i round
  simp only [State.bankOf, State.abank, State.pbank, h.tDual, h.cur, h.prev, h.plive, h.abanks, h.pbanks]

theorem tPlace : t.tPlace = s.tPlace := by funext i b; simp only [State.tPlace, h.td, h.reloc]
theorem entryAt : t.entryAt = s.entryAt := by funext i b e; simp only [State.entryAt, h.tPlace, h.tW, h.tRows]

theorem bankRows : t.bankRows = s.bankRows := by
  funext i b x
  simp only [State.bankRows, State.bankUnits, h.tPlace, h.tW, h.tLen, h.tRows]

theorem nodeRows : t.nodeRows = s.nodeRows := by
  funext i b x
  simp only [State.nodeRows, State.bankNodes, State.nBase, h.tPlace, h.tKind, h.td, h.tParam]

theorem bankTiles : t.bankTiles = s.bankTiles := by
  funext i b
  unfold State.bankTiles
  rw [h.tPlace, h.bankRows, h.nodeRows]

theorem copyDead : t.copyDead = s.copyDead := by funext i b; simp only [State.copyDead, h.bankTiles, h.tDual, h.failed]

theorem altOk : t.altOk = s.altOk := by funext i x; simp only [State.altOk, State.inSecond, h.tMirror, h.copyDead, h.tPlace]

theorem wrTile : t.wrTile = s.wrTile := by funext i x; simp only [State.wrTile, h.tMirror, h.copyDead]

theorem tDead : t.tDead = s.tDead := by
  funext i b
  simp only [State.tDead, State.tFailed, State.bankFailed, h.reloc, h.tMirror, h.copyDead, h.bankTiles, h.failed]

theorem rows : Claim.rows t = Claim.rows s := by funext x row n; simp only [Claim.rows, h.tile]
theorem badRows : Claim.badRows t = Claim.badRows s := by funext x row n; simp only [Claim.badRows, h.tileErr]
theorem readOf : Claim.readOf t = Claim.readOf s := by funext alt x row n; simp only [Claim.readOf, h.rows, h.badRows]

theorem cell : Claim.cell t = Claim.cell s := by
  funext i b e
  simp only [Claim.cell, h.entryAt, h.wrTile, h.altOk, h.readOf, h.tRows, h.tW]

end

end TileWork

/-! ### What a read returns -/

theorem rows_succ (s : State) (x row n : Nat) : rows s x row (n + 1) = mread 0 s.tile (tlA x row 0) 32 ++ rows s x (row + 1) n := by
  simp only [rows, List.range_succ_eq_map, List.map_cons, List.map_map, List.flatten_cons, Nat.add_zero]
  congr 4
  funext i
  simp only [Function.comp_apply, Nat.succ_eq_add_one, Nat.add_right_comm, Nat.add_assoc]

theorem badRows_succ (s : State) (x row n : Nat) : badRows s x row (n + 1) = (badRows s x row 1 || badRows s x (row + 1) n) := by
  simp only [badRows, List.range_succ_eq_map, List.any_cons, List.any_map, List.range_zero, List.map_nil, List.any_nil, Bool.or_false,
    Nat.add_zero]
  congr 2
  funext i
  simp only [Function.comp_apply, Nat.succ_eq_add_one, Nat.add_right_comm, Nat.add_assoc]

theorem rowTouch_bad (s : State) (x row : Nat) : (s.rowTouch x row).1 = badRows s x row 1 := by
  have hmarked : ((List.range 4).filterMap (fun l => tfind s.tileErr (laneKey x row l))).contains true = badRows s x row 1 := by
    rw [Bool.eq_iff_iff, List.contains_iff_mem, List.mem_filterMap]
    simp [badRows]
  rw [← hmarked]
  unfold State.rowTouch
  dsimp only
  split <;> simp_all

theorem readRows_spec (s : State) {x : Nat} (hx : x < 32) (row n : Nat) :
    (s.readRows x row n).1 = badRows s x row n ∧ (s.readRows x row n).2.1 = rows s x row n ∧ TileWork s (s.readRows x row n).2.2 := by
  induction n generalizing s row with
  | zero => exact ⟨rfl, rfl, TileWork.refl s⟩
  | succ n ih =>
    have hwork := TileWork.rowTouch s row hx
    obtain ⟨hbad, hrows, hrest⟩ := ih (s.rowTouch x row).2 (row + 1)
    refine ⟨?_, ?_, hwork.trans hrest⟩
    · rw [badRows_succ, ← rowTouch_bad, ← hwork.badRows, ← hbad]
      rfl
    · rw [rows_succ, ← hwork.rows, ← hrows]
      rfl

theorem otherTile_lt {x : Nat} (hx : x < 32) : otherTile x < 32 := by unfold otherTile; split <;> omega

/-- A read fails where `readOf` gives nothing, and returns its bytes else. -/
theorem readAt_spec (s : State) (alt : Bool) {x : Nat} (hx : x < 32) (row n : Nat) :
    ∃ b bs v, s.readAt alt x row n = (b, bs, v) ∧ TileWork s v ∧ readOf s alt x row n = if b then none else some bs := by
  obtain ⟨hbad, hrows, hwork⟩ := readRows_spec s hx row n
  have hdef : s.readAt alt x row n = if badRows s x row n && alt then (s.readRows x row n).2.2.readRows (otherTile x) row n
      else (badRows s x row n, rows s x row n, (s.readRows x row n).2.2) := by
    rw [← hbad, ← hrows]
    rfl
  rw [hdef]
  split
  · next h =>
    obtain ⟨hbad1, halt⟩ := Bool.and_eq_true_iff.mp h
    obtain ⟨hbad2, hrows2, hwork2⟩ := readRows_spec (s.readRows x row n).2.2 (otherTile_lt hx) row n
    rw [hwork.badRows] at hbad2
    rw [hwork.rows] at hrows2
    refine ⟨_, _, _, rfl, hwork.trans hwork2, ?_⟩
    rw [hbad2, hrows2, readOf, hbad1, halt]
    cases badRows s (otherTile x) row n <;> rfl
  · next h =>
    refine ⟨_, _, _, rfl, hwork, ?_⟩
    rw [readOf]
    cases hb : badRows s x row n with
    | false => rfl
    | true =>
      have halt : alt = false := by simpa [hb] using h
      rw [halt]
      rfl

end Sys2Proof.Machine
end

section
/-! LEDGER_COMMIT: what the commit of an entry leaves in its table and in the ledger (04 R122–R126; 10 R302, R306, R307, R317, R318). -/

namespace Sys2Proof.Machine
open Sys2Proof.Claim

/-! ### The end of a commit -/

@[simp] theorem ledFree_tile (s : State) (idx : Nat) : (s.ledFree idx).tile = s.tile := rfl
@[simp] theorem ctr_ledFree (s : State) (idx a : Nat) : (s.ledFree idx).ctr a = s.ctr a := rfl

theorem tfind_ledFree (s : State) (idx : Nat) : tfind (s.ledFree idx).led.ent idx = none := tfind_tdel_same _ _

/-- After the commit on table `t` entry `idx` is free, or its table is mirrored and it is held as committed. -/
def CommitEnds (s u : State) (idx t : Nat) : Prop :=
  ∀ e', tfind u.led.ent idx = some e' → s.tMirror t = true ∧ ∃ e, tfind s.led.ent idx = some e ∧ e' = { e with com := true }

theorem commitEnds_of_free {s u : State} {idx t : Nat} (h : tfind u.led.ent idx = none) : CommitEnds s u idx t := fun e' he => by
  rw [h] at he
  cases he

theorem CommitEnds.of_work {s v u : State} {idx t : Nat} (h : TileWork s v) (hend : CommitEnds v u idx t) : CommitEnds s u idx t := by
  simpa only [CommitEnds, h.tMirror, h.led] using hend

/-- The write of a commit has been made: the memory stays, and the entry is free or waits for its second copy. -/
theorem committed_spec (s : State) (idx t : Nat) (a : Acc) : (s.committed idx t a).tile = s.tile ∧
    (s.committed idx t a).tb.rnext = s.tb.rnext ∧ CommitEnds s (s.committed idx t a) idx t := by
  unfold State.committed
  split
  · next halt =>
    refine ⟨rfl, rfl, fun e' he => ⟨(Bool.and_eq_true_iff.mp halt).1, ?_⟩⟩
    replace he : tfind (tmap s.led.ent (fun k e => if k = idx then { e with com := true } else e)) idx = some e' := he
    rw [tfind_tmap, Option.map_eq_some_iff] at he
    obtain ⟨e, hfind, rfl⟩ := he
    exact ⟨e, hfind, if_pos rfl⟩
  · exact ⟨State.count_tile s _ _, congrArg Tables.rnext (State.count_tb s _ _), commitEnds_of_free (tfind_ledFree _ _)⟩

/-- A commit that is lost counts, and frees its entry. -/
theorem commitLost_spec {s v : State} (h : TileWork s v) (idx : Nat) : (v.commitLost idx).tile = s.tile ∧
    (v.commitLost idx).ctr (tbA 0x810) = s.ctr (tbA 0x810) + 1 ∧ tfind (v.commitLost idx).led.ent idx = none := by
  refine ⟨(State.count_tile v _ _).trans h.tile, ?_, tfind_ledFree _ _⟩
  rw [State.commitLost, ctr_ledFree, State.ctr_count, if_pos rfl, h.ctr _ (by simp [IsTileCtr, tbA])]
  rfl

/-- An insert that finds its key counts so, and frees its entry. -/
theorem present_spec {s v : State} (h : TileWork s v) (idx : Nat) :
    let u := ((v.count (ldA 0x130)).count (ldA 0x108)).ledFree idx
    u.tile = s.tile ∧ u.ctr (ldA 0x130) = s.ctr (ldA 0x130) + 1 := by
  have hctr := h.ctr (ldA 0x130) (by simp [IsTileCtr, tbA, ldA])
  intro u
  simp only [u, ledFree_tile, State.count_tile, h.tile, ctr_ledFree, State.ctr_count, hctr]
  exact ⟨trivial, rfl⟩

/-- One that finds no way free counts so in the ledger and in table memory, and frees its entry. -/
theorem full_spec {s v : State} (h : TileWork s v) (idx : Nat) :
    let u := (((v.count (ldA 0x138)).count (tbA 0x818)).count (ldA 0x108)).ledFree idx
    u.tile = s.tile ∧ u.ctr (ldA 0x138) = s.ctr (ldA 0x138) + 1 ∧ u.ctr (tbA 0x818) = s.ctr (tbA 0x818) + 1 := by
  have hled := h.ctr (ldA 0x138) (by simp [IsTileCtr, tbA, ldA])
  have htab := h.ctr (tbA 0x818) (by simp [IsTileCtr, tbA])
  intro u
  simp only [u, ledFree_tile, State.count_tile, h.tile, ctr_ledFree, State.ctr_count, hled, htab]
  exact ⟨trivial, rfl, rfl⟩

/-! ### The write of an entry -/

/-- The write of `bs` at entry `i` of a bank, in the copy that writes act on. -/
def State.entryAcc (s : State) (t : Nat) (bank : Bool) (i : Nat) (bs : List Byte) : Acc :=
  let p := s.entryAt t bank i
  ⟨s.wrTile t p.1, p.2.1, s.tRows t, 1, p.2.2, bs⟩

/-- Such a write changes its own bytes of the tiles and no other. -/
theorem cellWrote_of_tileW {s v u : State} (h : TileWork s v) (hwf : s.tile.wf 0 = true) {t : Nat} {bank : Bool} {i : Nat} {bs : List Byte}
    (hu : u.tile = (v.tileW (s.entryAcc t bank i bs).tile (s.entryAcc t bank i bs).row (s.entryAcc t bank i bs).tag bs).tile) :
    cellWrote s u t bank i bs := by
  intro x
  rw [hu, State.tileW, h.tile]
  simp only [State.entryAcc]
  split
  · next hin =>
    obtain ⟨j, rfl⟩ := Nat.exists_eq_add_of_le hin.1
    rw [mget_mwrite_in _ _ _ _ _ hwf (by omega), Nat.add_sub_cancel_left]
  · next hout => exact mget_mwrite_out _ _ _ _ _ (by omega)

/-! ### Read-modify-writes: the two counters and the meter (R124; 10 R306) -/

/-- A read-modify-write finds its entry's bytes and writes them changed, or finds no copy that can be read. -/
theorem rmwCommit_spec (s : State) (t : Nat) (bank : Bool) (i : Nat) (f : List Byte → List Byte)
    (hx : s.wrTile t (s.entryAt t bank i).1 < 32) : ∃ v, TileWork s v ∧
      (∀ c, cell s t bank i = some c → s.rmwCommit t bank i f = (some (s.entryAcc t bank i (f c)),
        v.tileW (s.entryAcc t bank i (f c)).tile (s.entryAcc t bank i (f c)).row (s.entryAcc t bank i (f c)).tag (f c))) ∧
      (cell s t bank i = none → s.rmwCommit t bank i f = (none, v)) := by
  obtain ⟨b, bs, v, hread, hwork, hof⟩ := readAt_spec s (s.altOk t (s.wrTile t (s.entryAt t bank i).1)) hx (s.entryAt t bank i).2.1 (s.tRows t)
  refine ⟨v, hwork, fun c hc => ?_, fun hc => ?_⟩ <;> rw [cell, hof] at hc <;> cases b
  · cases hc
    simp only [State.rmwCommit, hread]
    rfl
  · cases hc
  · cases hc
  · simp only [State.rmwCommit, hread]
    rfl

/-- The end of a read-modify-write's commit. -/
def endUpdate (idx t : Nat) (x : Option Acc × State) : State :=
  match x.1 with
  | some a => x.2.committed idx t a
  | none => x.2.commitLost idx

section
variable {s : State} {idx : Nat} {e : LEntry}

theorem endUpdate_spec {t : Nat} {bank : Bool} {i : Nat} {f : List Byte → List Byte} (hwf : s.tile.wf 0 = true)
    (hx : s.wrTile t (s.entryAt t bank i).1 < 32) :
    let u := endUpdate idx t (s.rmwCommit t bank i f)
    (match cell s t bank i with
      | some c => cellWrote s u t bank i (f c)
      | none => u.tile = s.tile ∧ u.ctr (tbA 0x810) = s.ctr (tbA 0x810) + 1) ∧ CommitEnds s u idx t := by
  intro u
  obtain ⟨v, hwork, hsome, hnone⟩ := rmwCommit_spec s t bank i f hx
  cases hc : cell s t bank i with
  | some c =>
    have hu : u = (v.tileW _ _ _ (f c)).committed idx t (s.entryAcc t bank i (f c)) := congrArg (endUpdate idx t) (hsome c hc)
    obtain ⟨htile, -, hend⟩ := committed_spec (v.tileW (s.entryAcc t bank i (f c)).tile (s.entryAcc t bank i (f c)).row
      (s.entryAcc t bank i (f c)).tag (f c)) idx t (s.entryAcc t bank i (f c))
    rw [hu]
    exact ⟨cellWrote_of_tileW hwork hwf htile, CommitEnds.of_work hwork hend⟩
  | none =>
    have hu : u = v.commitLost idx := congrArg (endUpdate idx t) (hnone hc)
    obtain ⟨htile, hctr, hfree⟩ := commitLost_spec hwork idx
    rw [hu]
    exact ⟨⟨htile, hctr⟩, commitEnds_of_free hfree⟩

/-- The number in the entry's payload at byte `i`. -/
def LEntry.num (e : LEntry) (i n : Nat) : Nat := leNat ((e.payload.drop i).take n)

/-- The two counters with the entry's amounts added. -/
def LEntry.counted (e : LEntry) (c : List Byte) : List Byte :=
  leBytes 8 (leNat (c.take 8) + e.num 4 4) ++ leBytes 8 (leNat ((c.drop 8).take 8) + e.num 8 4) ++ c.drop 16

/-- The meter refilled and charged with the entry's bytes. -/
def LEntry.charged (e : LEntry) (c : List Byte) : List Byte :=
  (((Meter.ofBytes c).refill (BitVec.ofNat 32 (e.num 8 4))).charge (e.num 4 2)).put c

variable (hdead : s.tDead e.table.toNat (s.bankOf e.table.toNat e.round) = false)
include hdead

theorem commit_cnt (hop : e.op = 0) : s.commit idx e =
    endUpdate idx e.table.toNat (s.rmwCommit e.table.toNat (s.bankOf e.table.toNat e.round) (e.num 0 4) e.counted) := by
  unfold State.commit
  dsimp only
  rw [hdead, if_neg (by decide), if_pos hop]
  rfl

theorem commit_mtr (hop : e.op = 1) : s.commit idx e =
    endUpdate idx e.table.toNat (s.rmwCommit e.table.toNat (s.bankOf e.table.toNat e.round) (e.num 0 4) e.charged) := by
  unfold State.commit
  dsimp only
  rw [hdead, if_neg (by decide), if_neg (by rw [hop]; decide), if_pos hop]
  rfl

end

/-! ### Inserts (10 R302) -/

/-- The scan of candidates fails where one of them cannot be read, and returns the bytes of each else. -/
theorem scan_spec (s : State) (t : Nat) (bank : Bool) (es : List Nat) (hx : ∀ e ∈ es, s.wrTile t (s.entryAt t bank e).1 < 32) :
    ∃ b xs v, s.scan t bank es = (b, xs, v) ∧ TileWork s v ∧
      if b then ∃ e ∈ es, cell s t bank e = none else es.map (fun e => (e, cell s t bank e)) = xs.map (fun x => (x.1, some x.2)) := by
  induction es generalizing s with
  | nil => exact ⟨false, [], s, rfl, TileWork.refl s, rfl⟩
  | cons e es ih =>
    obtain ⟨b1, bs, v1, hread, hwork1, hof⟩ := readAt_spec s (s.altOk t (s.wrTile t (s.entryAt t bank e).1))
      (hx e List.mem_cons_self) (s.entryAt t bank e).2.1 (s.tRows t)
    obtain ⟨b2, xs, v2, hscan, hwork2, hrest⟩ := ih v1 (fun e' he' => by
      rw [hwork1.wrTile, hwork1.entryAt]
      exact hx e' (List.mem_cons_of_mem _ he'))
    rw [hwork1.cell] at hrest
    have hcell : cell s t bank e = if b1 then none else some ((bs.drop (s.entryAt t bank e).2.2).take (s.tW t)) := by
      rw [cell, hof]
      cases b1 <;> rfl
    refine ⟨b1 || b2, (e, (bs.drop (s.entryAt t bank e).2.2).take (s.tW t)) :: xs, v2, ?_, hwork1.trans hwork2, ?_⟩
    · simp only [State.scan, hread, hscan]
    · cases b1 with
      | true => exact ⟨e, List.mem_cons_self, hcell⟩
      | false =>
        cases b2 with
        | true => exact hrest.imp fun e' he' => ⟨List.mem_cons_of_mem _ he'.1, he'.2⟩
        | false =>
          simp only [Bool.or_self, Bool.false_eq_true, if_false, List.map_cons, List.cons.injEq] at hrest hcell ⊢
          exact ⟨by rw [hcell], hrest⟩

/-- What an insert of `key` finds in its four ways, and does. -/
theorem insert_spec (s : State) (t : Nat) (bank : Bool) (key data : List Byte)
    (hx : ∀ e ∈ s.cands t key, s.wrTile t (s.entryAt t bank e).1 < 32) :
    let xs := (s.cands t key).map (fun w => (w, cell s t bank w))
    let acc := fun w => s.entryAcc t bank w (s.hEntry t data key)
    ∃ v, TileWork s v ∧ ((∃ x ∈ xs, x.2 = none) → s.insert t bank key data = (.ue, v)) ∧
      ((∀ x ∈ xs, x.2 ≠ none) →
        ((∃ x ∈ xs, x.2.any (s.hHit t key) = true) → ∃ e, s.insert t bank key data = (.present e, v)) ∧
        ((∀ x ∈ xs, x.2.any (s.hHit t key) = false) →
          (∀ w c, xs.find? (fun x => x.2.any (fun c => !s.hValid t c)) = some (w, c) →
            s.insert t bank key data = (.written (acc w), v.tileW (acc w).tile (acc w).row (acc w).tag (acc w).data)) ∧
          ((∀ x ∈ xs, x.2.any (s.hValid t) = true) → s.insert t bank key data = (.full, v)))) := by
  intro xs acc
  obtain ⟨b, ys, v, hscan, hwork, hfound⟩ := scan_spec s t bank _ hx
  refine ⟨v, hwork, ?_⟩
  cases b with
  | true =>
    obtain ⟨w, hw, hnone⟩ := hfound
    refine ⟨fun _ => by simp only [State.insert, hscan, if_true], fun hall => absurd hnone (hall (w, _) (List.mem_map.mpr ⟨w, hw, rfl⟩))⟩
  | false =>
    have hxs : xs = ys.map (fun x => (x.1, some x.2)) := hfound
    have hpresent : ∀ x, ys.find? (fun x => s.hHit t key x.2) = some x → s.insert t bank key data = (.present x.1, v) := fun x h => by
      simp only [State.insert, hscan, h, Bool.false_eq_true, if_false]
    have hwritten : ∀ x, ys.find? (fun x => s.hHit t key x.2) = none → ys.find? (fun x => !s.hValid t x.2) = some x →
        s.insert t bank key data = (.written (acc x.1), v.tileW (acc x.1).tile (acc x.1).row (acc x.1).tag (acc x.1).data) := fun x h h' => by
      simp only [State.insert, hscan, h, h', Bool.false_eq_true, if_false, hwork.entryAt, hwork.wrTile, acc, State.entryAcc]
    have hfull : ys.find? (fun x => s.hHit t key x.2) = none → ys.find? (fun x => !s.hValid t x.2) = none →
        s.insert t bank key data = (.full, v) := fun h h' => by
      simp only [State.insert, hscan, h, h', Bool.false_eq_true, if_false]
    generalize s.hHit t key = hit at hpresent hwritten hfull ⊢
    generalize s.hValid t = valid at hwritten hfull ⊢
    have hmem : ∀ p : Nat × Option (List Byte) → Prop, (∀ x ∈ xs, p x) ↔ ∀ x ∈ ys, p (x.1, some x.2) := fun p => by
      rw [hxs, List.forall_mem_map]
    refine ⟨fun hnone => ?_, fun _ => ⟨fun hhit => ?_, fun hmiss => ?_⟩⟩
    · rw [hxs] at hnone
      obtain ⟨x, hx, hxn⟩ := hnone
      obtain ⟨y, -, rfl⟩ := List.mem_map.mp hx
      cases hxn
    · rw [hxs] at hhit
      obtain ⟨x, hx, hxh⟩ := hhit
      obtain ⟨y, hy, rfl⟩ := List.mem_map.mp hx
      obtain ⟨z, hz⟩ := Option.isSome_iff_exists.mp (List.find?_isSome (p := fun x : Nat × List Byte => hit x.2).mpr ⟨y, hy, hxh⟩)
      exact ⟨z.1, hpresent z hz⟩
    · rw [hmem] at hmiss
      have hnohit : ys.find? (fun x => hit x.2) = none := List.find?_eq_none.mpr fun y hy => Bool.eq_false_iff.mp (hmiss y hy)
      refine ⟨fun w c hfree => ?_, fun hvalid => hfull hnohit ?_⟩
      · rw [hxs, List.find?_map, Option.map_eq_some_iff] at hfree
        obtain ⟨y, hy, hyw⟩ := hfree
        cases hyw
        exact hwritten y hnohit hy
      · rw [hmem] at hvalid
        exact List.find?_eq_none.mpr fun y hy => by simpa using hvalid y hy

/-- The end of an insert's commit. -/
def endInsert (idx t : Nat) : Ins × State → State
  | (.ue, v) => v.commitLost idx
  | (.present _, v) => ((v.count (ldA 0x130)).count (ldA 0x108)).ledFree idx
  | (.written a, v) => v.committed idx t a
  | (.full, v) => (((v.count (ldA 0x138)).count (tbA 0x818)).count (ldA 0x108)).ledFree idx

theorem endInsert_ends (s : State) (t : Nat) (bank : Bool) (key data : List Byte)
    (hx : ∀ e ∈ s.cands t key, s.wrTile t (s.entryAt t bank e).1 < 32) (idx : Nat) :
    CommitEnds s (endInsert idx t (s.insert t bank key data)) idx t := by
  obtain ⟨b, ys, v, hscan, hwork, -⟩ := scan_spec s t bank _ hx
  simp only [State.insert, hscan]
  repeat' split
  · exact commitEnds_of_free (tfind_ledFree _ _)
  · exact commitEnds_of_free (tfind_ledFree _ _)
  · exact commitEnds_of_free (tfind_ledFree _ _)
  · exact CommitEnds.of_work hwork (committed_spec (v.tileW _ _ _ _) idx t _).2.2

/-! ### The commit of an entry, by its operation -/

section
variable {s : State} {idx : Nat} {e : LEntry} (hdead : s.tDead e.table.toNat (s.bankOf e.table.toNat e.round) = false)
include hdead

theorem commit_lrn (hop : e.op = 2) : s.commit idx e = endInsert idx e.table.toNat (s.insert e.table.toNat
    (s.bankOf e.table.toNat e.round) (e.payload.take (s.tParam e.table.toNat)) ((e.payload.drop 16).take 4)) := by
  unfold State.commit
  dsimp only
  rw [hdead, if_neg (by decide), if_neg (by rw [hop]; decide), if_neg (by rw [hop]; decide), if_pos hop]
  rfl

/-- The bytes of a log record (R124). -/
def LEntry.record (e : LEntry) : List Byte :=
  logRecord (e.payload.take 20) e.lane e.pip e.rank e.attempt.toNat (e.payload.drop 20)

theorem commit_log (hop : e.op = 3) :
    let a := s.entryAcc e.table.toNat (s.bankOf e.table.toNat e.round) (tget 0 s.tb.rnext e.table.toNat) e.record
    s.commit idx e = ((s.tileW a.tile a.row a.tag a.data).ringNext e.table.toNat).committed idx e.table.toNat a := by
  unfold State.commit
  dsimp only
  rw [hdead, if_neg (by decide), if_neg (by rw [hop]; decide), if_neg (by rw [hop]; decide), if_neg (by rw [hop]; decide)]
  rfl

variable (hwf : s.tile.wf 0 = true) (hx : ∀ x ∈ s.commitTiles e, x < 32)
include hwf hx

omit hdead hwf in
/-- The tile of the entry that a CNT or MTR names. -/
theorem home_lt (h2 : e.op ≠ 2) (h3 : e.op ≠ 3) :
    s.wrTile e.table.toNat (s.entryAt e.table.toNat (s.bankOf e.table.toNat e.round) (e.num 0 4)).1 < 32 := by
  refine hx _ ?_
  rw [State.commitTiles, if_neg h2, if_neg h3]
  exact List.mem_singleton_self _

theorem commit_cnt_spec (hop : e.op = 0) : commits s (s.commit idx e) e ∧ CommitEnds s (s.commit idx e) idx e.table.toNat := by
  have hne : ∀ b : BitVec 2, b ≠ 0 → e.op ≠ b := fun b hb h => hb (h ▸ hop)
  obtain ⟨hwrote, hend⟩ := endUpdate_spec (idx := idx) (f := e.counted) hwf (home_lt hx (hne 2 (by decide)) (hne 3 (by decide)))
  rw [commit_cnt hdead hop]
  exact ⟨⟨fun _ => hwrote, fun h => absurd h (hne 1 (by decide)), fun h => absurd h (hne 2 (by decide)),
    fun h => absurd h (hne 3 (by decide))⟩, hend⟩

theorem commit_mtr_spec (hop : e.op = 1) : commits s (s.commit idx e) e ∧ CommitEnds s (s.commit idx e) idx e.table.toNat := by
  have hne : ∀ b : BitVec 2, b ≠ 1 → e.op ≠ b := fun b hb h => hb (h ▸ hop)
  obtain ⟨hwrote, hend⟩ := endUpdate_spec (idx := idx) (f := e.charged) hwf (home_lt hx (hne 2 (by decide)) (hne 3 (by decide)))
  rw [commit_mtr hdead hop]
  exact ⟨⟨fun h => absurd h (hne 0 (by decide)), fun _ => hwrote, fun h => absurd h (hne 2 (by decide)),
    fun h => absurd h (hne 3 (by decide))⟩, hend⟩

theorem commit_lrn_spec (hop : e.op = 2) : commits s (s.commit idx e) e ∧ CommitEnds s (s.commit idx e) idx e.table.toNat := by
  have hne : ∀ b : BitVec 2, b ≠ 2 → e.op ≠ b := fun b hb h => hb (h ▸ hop)
  have hhome : ∀ w ∈ s.cands e.table.toNat (e.payload.take (s.tParam e.table.toNat)),
      s.wrTile e.table.toNat (s.entryAt e.table.toNat (s.bankOf e.table.toNat e.round) w).1 < 32 := fun w hw => hx _ (by
    rw [State.commitTiles, if_pos hop]
    exact List.mem_eraseDups.mpr (List.mem_map.mpr ⟨w, hw, rfl⟩))
  have hend := endInsert_ends s e.table.toNat (s.bankOf e.table.toNat e.round) (e.payload.take (s.tParam e.table.toNat))
    ((e.payload.drop 16).take 4) hhome idx
  obtain ⟨v, hwork, hue, hread⟩ := insert_spec s e.table.toNat (s.bankOf e.table.toNat e.round) (e.payload.take (s.tParam e.table.toNat))
    ((e.payload.drop 16).take 4) hhome
  rw [commit_lrn hdead hop]
  refine ⟨⟨fun h => absurd h (hne 0 (by decide)), fun h => absurd h (hne 1 (by decide)), fun _ => ⟨fun hnone => ?_, fun hall =>
    ⟨fun hhit => ?_, fun hmiss => ⟨fun w c hfree => ?_, fun hfull => ?_⟩⟩⟩, fun h => absurd h (hne 3 (by decide))⟩, hend⟩
  · rw [hue hnone]
    obtain ⟨htile, hctr, -⟩ := commitLost_spec hwork idx
    exact ⟨htile, hctr⟩
  · obtain ⟨w, hins⟩ := (hread hall).1 hhit
    rw [hins]
    exact present_spec hwork idx
  · rw [((hread hall).2 hmiss).1 w c hfree]
    exact cellWrote_of_tileW hwork hwf (committed_spec _ _ _ _).1
  · rw [((hread hall).2 hmiss).2 hfull]
    exact full_spec hwork idx

omit hx in
theorem commit_log_spec (hop : e.op = 3) : commits s (s.commit idx e) e ∧ CommitEnds s (s.commit idx e) idx e.table.toNat := by
  have hne : ∀ b : BitVec 2, b ≠ 3 → e.op ≠ b := fun b hb h => hb (h ▸ hop)
  obtain ⟨a, ha⟩ : ∃ a, a = s.entryAcc e.table.toNat (s.bankOf e.table.toNat e.round) (tget 0 s.tb.rnext e.table.toNat) e.record := ⟨_, rfl⟩
  have hcommit : s.commit idx e = ((s.tileW a.tile a.row a.tag a.data).ringNext e.table.toNat).committed idx e.table.toNat a := by
    rw [ha]
    exact commit_log hdead hop
  obtain ⟨htile, hnext, hend⟩ := committed_spec ((s.tileW a.tile a.row a.tag a.data).ringNext e.table.toNat) idx e.table.toNat a
  rw [hcommit]
  refine ⟨⟨fun h => absurd h (hne 0 (by decide)), fun h => absurd h (hne 1 (by decide)), fun h => absurd h (hne 2 (by decide)),
    fun _ => ⟨cellWrote_of_tileW (TileWork.refl s) hwf (by rw [htile, ha]; rfl), ?_⟩⟩, hend⟩
  rw [hnext]
  exact tget_tset_same _ _ _ _

theorem commit_spec : commits s (s.commit idx e) e ∧ CommitEnds s (s.commit idx e) idx e.table.toNat := by
  have hop : ∀ b : BitVec 2, b = 0 ∨ b = 1 ∨ b = 2 ∨ b = 3 := by decide
  obtain h | h | h | h := hop e.op
  · exact commit_cnt_spec hdead hwf hx h
  · exact commit_mtr_spec hdead hwf hx h
  · exact commit_lrn_spec hdead hwf hx h
  · exact commit_log_spec hdead hwf h

end

/-! ### LEDGER_COMMIT (R122–R125) -/

/-- The grants before a commit change nothing of what it leaves. -/
theorem TileWork.commits {s v u : State} {e : LEntry} (h : TileWork s v) (hc : Claim.commits v u e) : Claim.commits s u e := by
  have hlost := h.ctr (tbA 0x810) (by simp [IsTileCtr, tbA])
  have hpresent := h.ctr (ldA 0x130) (by simp [IsTileCtr, tbA, ldA])
  have hfull := h.ctr (ldA 0x138) (by simp [IsTileCtr, tbA, ldA])
  have hnone := h.ctr (tbA 0x818) (by simp [IsTileCtr, tbA])
  simpa only [Claim.commits, cellWrote, wrote, h.bankOf, h.cell, h.tile, h.entryAt, h.wrTile, h.cands, h.tParam, h.tW, h.dataLen, h.tLen,
    h.rnext, hlost, hpresent, hfull, hnone] using hc

theorem TileWork.commitTiles {s v : State} (h : TileWork s v) : v.commitTiles = s.commitTiles := by
  funext e
  simp only [State.commitTiles, h.bankOf, h.entryAt, h.wrTile, h.cands, h.tParam, h.rnext]

section
variable {s : State} {idx : Fin 16384} {e : LEntry} (hfind : tfind s.led.ent idx.val = some e)
include hfind

/-- An entry that is not due, or not the first of its key, is not committed. -/
theorem ledgerCommit_waits (h : e.due = false ∨ s.notFirst e = true) : exec (.ledgerCommit idx) s = .next s := by
  change execLedgerCommit idx s = _
  simp only [execLedgerCommit, hfind]
  rw [if_pos (by rcases h with h | h <;> simp [h])]

variable (hon : s.ledOn = true) (hdue : e.due = true) (hfirst : s.notFirst e = false)
include hon hdue hfirst

theorem ledgerCommit_error (herr : tfind s.ledErr idx.val = some true) :
    exec (.ledgerCommit idx) s = .next (s.ledLost idx.val e) := by
  change execLedgerCommit idx s = _
  rw [execLedgerCommit, hfind]
  exact congrArg Host.Outcome.next ((if_neg (by simp [hon, hdue, hfirst])).trans (if_pos herr))

theorem ledgerCommit_dead (herr : tfind s.ledErr idx.val = none)
    (hdead : s.tDead e.table.toNat (s.bankOf e.table.toNat e.round) = true) :
    exec (.ledgerCommit idx) s = .next (State.commitLost { s with ledErr := tdel s.ledErr idx.val } idx.val) := by
  change execLedgerCommit idx s = _
  rw [execLedgerCommit, hfind]
  exact congrArg Host.Outcome.next ((if_neg (by simp [hon, hdue, hfirst])).trans ((if_neg (by simp [herr])).trans (if_pos hdead)))

/-- An entry whose table serves is committed once it wins its tiles, and for an insert finds their sequencers free. -/
theorem ledgerCommit_commits (herr : tfind s.ledErr idx.val = none)
    (hdead : s.tDead e.table.toNat (s.bankOf e.table.toNat e.round) = false) (hwins : s.winsAll 14 (s.commitTiles e) = true)
    (hseq : e.op = 2 → s.seqBusy e.table.toNat (s.bankOf e.table.toNat e.round) = false) :
    ∃ v, TileWork s v ∧ exec (.ledgerCommit idx) s = .next (v.commit idx.val e) := by
  have hgranted : TileWork s (forEach (s.commitTiles e) { s with ledErr := tdel s.ledErr idx.val } (fun x s => s.grant x 14)) :=
    TileWork.trans (t := { s with ledErr := tdel s.ledErr idx.val }) ⟨rfl, rfl, fun _ _ => rfl, fun _ _ => rfl⟩ (TileWork.grants _ _ _)
  have hfree : (!s.winsAll 14 (s.commitTiles e) ||
      (decide (e.op = 2) && s.seqBusy e.table.toNat (s.bankOf e.table.toNat e.round))) = false := by
    simpa [hwins] using hseq
  refine ⟨_, hgranted, ?_⟩
  change execLedgerCommit idx s = _
  rw [execLedgerCommit, hfind]
  exact congrArg Host.Outcome.next ((if_neg (by simp [hon, hdue, hfirst])).trans ((if_neg (by simp [herr])).trans
    ((if_neg (Bool.eq_false_iff.mp hdead)).trans (if_neg (Bool.eq_false_iff.mp hfree)))))

end

theorem ledLost_spec (s : State) (idx : Nat) (e : LEntry) :
    tfind (s.ledLost idx e).led.ent idx = none ∧ (s.ledLost idx e).ctr (ldA 0x128) = s.ctr (ldA 0x128) + 1 := by
  refine ⟨?_, ?_⟩
  · simp only [State.ledLost, State.logLast, State.count_led]
    exact tfind_ledFree _ _
  · exact (State.ctr_count _ _ _ _).trans (if_pos rfl)

/-- Settles O41: the messages' clauses by what `ledPut`, `ledMod` and `ledDrop` leave, LEDGER_COMMIT by what `commit` does after the
grants. -/
theorem ledgerResult : Obligations.LedgerResult := by
  unfold Obligations.LedgerResult
  intro s r hon front held keyed
  refine ⟨fun idx e hfree hfront => ?_, fun idx key e hfree hfront hruns hleave hroom hsleeps => ?_, fun lane pip a v hfront => ?_,
    fun lane pip a hfront => ?_, fun lane pip hfront => ?_, fun pre m post hflush hpre hm => ⟨fun hranks hmsgs hleads => ?_, fun h => ?_⟩,
    fun m hmsg => ?_, fun idx e hfind => ⟨fun h => ?_, fun hdue hfirst herr => ?_, fun hdue hfirst herr hdead => ?_,
      fun hdue hfirst herr hdead hwins hseq hwf hx => ?_⟩⟩
  · refine ⟨_, ledgerEntry_message hon hfree hfront, ?_, ?_, ?_, fun j hj => ?_⟩
    · rw [State.count_led, ledPut_ent, tfind_tset_same]
    · rw [State.ctr_count, if_pos rfl, ctr_ledPut, ctr_dropMsg]
      rfl
    · rw [State.rank_count, rank_ledPut, out_dropMsg]
    · rw [State.count_led, ledPut_ent, tfind_tset_ne _ _ _ _ hj]
      rfl
  · obtain ⟨c, k, rfl⟩ := ledSleeper_pkt hsleeps
    refine ⟨_, ledgerEntry_sleeper hon hfree hfront ((ready_iff s r.val).mpr ⟨hruns, hleave⟩) hroom hsleeps, ?_⟩
    obtain ⟨hled, hwait, hseq⟩ := wakeDeferred_keeps _ e (isFlt_pkt r c k) (isStw_pkt r c k)
    refine ⟨?_, hwait, hseq.trans ?_⟩
    · rw [hled, State.count_led, ledPut_ent, tfind_tset_same]
    · rw [State.ctx_count, ctx_ledPut]
  · refine ⟨_, ledgerRelease_eq hon hfront, fun hv => ?_, fun hv p => ?_⟩
    · rw [if_neg hv, ledMod_ent _ _ (fun e => keyed_iff e lane pip r.val a)]
      rfl
    · rw [if_pos hv, mem_ledDrop, keyed_iff]
      rfl
  · refine ⟨_, ledgerDiscard_eq hon hfront, fun p => ?_⟩
    rw [mem_ledDrop, keyed_iff]
    rfl
  · refine ⟨_, ledgerForfeit_eq hon hfront, fun p => ?_⟩
    rw [mem_ledDrop, Bool.and_eq_true, ofFrame_iff, decide_eq_true_eq, and_assoc (c := p.2.rank = r.val)]
    rfl
  · refine ⟨_, ledgerFlush_drops hflush hpre hm hon hranks hmsgs hleads, fun p => ?_, ?_, fun j => ?_⟩
    · rw [mem_ledDrop, Bool.not_eq_true']
      rfl
    · rw [ing_ledDrop]
      rfl
    · rw [rank_ledDrop, out_flushed]
  · exact ledgerFlush_waits hflush hpre hm h
  · obtain ⟨u, hled, hexec⟩ := ledgerVerdict_eq hon hmsg
    refine ⟨_, hexec, fun hv p => ?_, fun hv => ?_⟩
    · rw [if_pos hv, mem_ledDrop, ofFrame_iff, hled]
    · rw [if_neg hv, ledMod_ent _ _ (fun e => ofFrame_iff e m.lane m.pip), hled]
  · exact ledgerCommit_waits hfind h
  · exact ⟨_, ledgerCommit_error hfind hon hdue hfirst herr, ledLost_spec s idx.val e⟩
  · obtain ⟨-, hctr, hfree⟩ := commitLost_spec (TileWork.refl { s with ledErr := tdel s.ledErr idx.val }) idx.val
    exact ⟨_, ledgerCommit_dead hfind hon hdue hfirst herr hdead, hfree, hctr⟩
  · obtain ⟨v, hwork, hexec⟩ := ledgerCommit_commits hfind hon hdue hfirst herr hdead hwins hseq
    obtain ⟨hcommits, hend⟩ := commit_spec (s := v) (idx := idx.val) (by rw [hwork.tDead, hwork.bankOf]; exact hdead)
      (by rw [hwork.tile]; exact hwf) (by rw [hwork.commitTiles]; exact hx)
    refine ⟨_, hexec, hwork.commits hcommits, fun e' he' => ?_⟩
    obtain ⟨hmirror, e1, he1, rfl⟩ := (CommitEnds.of_work hwork hend) e' he'
    rw [hfind] at he1
    cases he1
    exact ⟨rfl, hmirror⟩

end Sys2Proof.Machine
end

section
/-! The issue of an instruction that is ready, by what its body answers: it completes, goes on elsewhere, sleeps, raises an exception or
traps (05 R157, R160; 07 R215; 08 R239). -/

namespace Sys2Proof.Machine
open Sys2Proof.Claim

/-- Context `key` may issue the instructions of class `cls` (05 R171, 08 R259). -/
def Issues (key : Nat) (cls : Cls) : Prop := clsIllegal key cls = false ∧ clsRefused key cls = false

theorem issues_plain (key : Nat) : Issues key .plain := ⟨rfl, rfl⟩

theorem issues_packet (r : Rank) (c : CoreNo) (k : CtxNo) : Issues (pk r.val c.val k.val) .packet := packet_allowed r c k

theorem issues_helper (r : Rank) (c : CoreNo) (k : CtxNo) : Issues (pk r.val c.val k.val) .helper :=
  ⟨rfl, by rw [clsRefused, isStw_pkt, isFlt_pkt]; rfl⟩

theorem issues_hcap (r : Rank) (c : CoreNo) (k : CtxNo) : Issues (pk r.val c.val k.val) .hcap := ⟨rfl, isStw_pkt r c k⟩

section
variable {s0 s u : State} {x : Iss} {cls : Cls} {len : Nat} {body : State → Nat → Ctx → R}
  (h : Ready s0 s x len)
include h

/-- A context that nothing waits for completes at `t`. -/
theorem complete_of_Ready {c : Ctx} (t : Word) (h11 : c.v11pend = (s.ctx (whoKey x.who)).v11pend)
    (htrig : c.trig = (s.ctx (whoKey x.who)).trig) : (u.complete (whoKey x.who) c t).issued (whoKey x.who) = retire u (whoKey x.who) c t := by
  obtain ⟨-, -, -, -, -, hv11, hvtrig, -⟩ := h
  exact congrArg (State.issued · _) (State.complete_idle _ _ _ _ (h11.trans hv11) (htrig.trans hvtrig))

variable (ha : Issues (whoKey x.who) cls)
include ha

theorem issue_answers {a : R} (hb : body s (whoKey x.who) (s.ctx (whoKey x.who)) = a) (hne : a ≠ .hold) :
    s0.issue x cls len true body =
      s.settleR (whoKey x.who) (guardLen x.guard + len) (a.back (whoKey x.who) (s0.ctx (whoKey x.who)).grp) := by
  subst hb
  exact issue_of_Ready h ha.1 ha.2 hne

/-- A body that completes. -/
theorem issue_ok {c : Ctx} (hb : body s (whoKey x.who) (s.ctx (whoKey x.who)) = .ok u c)
    (h11 : c.v11pend = (s.ctx (whoKey x.who)).v11pend) (htrig : c.trig = (s.ctx (whoKey x.who)).trig) :
    s0.issue x cls len true body = retire u (whoKey x.who) c (after s x len) :=
  (issue_answers h ha hb nofun).trans (complete_of_Ready h _ h11 htrig)

/-- A body that goes on at `t`. -/
theorem issue_jump {c : Ctx} {t : Word} (hb : body s (whoKey x.who) (s.ctx (whoKey x.who)) = .jump u c t)
    (h11 : c.v11pend = (s.ctx (whoKey x.who)).v11pend) (htrig : c.trig = (s.ctx (whoKey x.who)).trig) :
    s0.issue x cls len true body = retire u (whoKey x.who) c t :=
  (issue_answers h ha hb nofun).trans (complete_of_Ready h _ h11 htrig)

/-- A body that sleeps. -/
theorem issue_sleep {w : Wait} (hb : body s (whoKey x.who) (s.ctx (whoKey x.who)) = .sleep u { s.ctx (whoKey x.who) with wait := w }) :
    s0.issue x cls len true body =
      (u.setCtx (whoKey x.who) (asleep (s.ctx (whoKey x.who)) w (guardLen x.guard + len))).issued (whoKey x.who) := by
  obtain ⟨-, -, -, -, -, hv11, -⟩ := id h
  rw [issue_answers h ha hb nofun]
  exact congrArg (State.issued · _) (State.toSleep_idle _ _ _ hv11)

/-- A body that raises an exception. -/
theorem issue_exc {v : Nat} {fa : Word} (hb : body s (whoKey x.who) (s.ctx (whoKey x.who)) = .exc u v fa) :
    s0.issue x cls len true body = (u.excAt (whoKey x.who) v fa).issued (whoKey x.who) :=
  issue_answers h ha hb nofun

end

/-! ### Operands by their place on the stack -/

section
variable {c : Ctx} {v0 v1 v2 : Word} {rest : List Word}

theorem opnd_zero (hos : c.os = v0 :: rest) : opnd c 0 = v0 := by
  rw [opnd, hos]
  rfl

theorem opnd_one (hos : c.os = v0 :: v1 :: rest) : opnd c 1 = v1 := by
  rw [opnd, hos]
  rfl

theorem opnd_two (hos : c.os = v0 :: v1 :: v2 :: rest) : opnd c 2 = v2 := by
  rw [opnd, hos]
  rfl

end

end Sys2Proof.Machine
end

section
/-! PICK, PUT and DEPTH (06 R179). -/

namespace Sys2Proof.Machine
open Sys2Proof.Claim

theorem lset_eq_set {α : Type} (l : List α) (n : Nat) (v : α) : lset l n v = l.set n v := by
  induction l generalizing n with
  | nil => rfl
  | cons a l ih => cases n with
    | zero => rfl
    | succ n => exact congrArg (a :: ·) (ih n)

/-- An instruction that takes no operand and pushes one cell, with room for it. -/
theorem stackOp_push {key : Nat} {c : Ctx} (hroom : c.os.length < (stkLimits key c).1) (hfloor : (stkFloors c).1 ≤ c.os.length)
    (w : Word) (s : State) : stackOp 0 1 (fun _ => [w]) s key c = .ok s { c with os := w :: c.os } := by
  rw [stackOp, stkErr_none (by omega) (by omega)]
  rfl

section
variable {s0 s : State} {x : Iss} {n : Byte} (hn : n.toNat < 32)
include hn

theorem exec_pick : exec (.pick x n) s0 = .next (s0.issue x .plain 2 true (pick n.toNat)) := by
  change execPick x n s0 = _
  rw [execPick, imm5, decide_eq_true hn]

theorem exec_put : exec (.put x n) s0 = .next (s0.issue x .plain 2 true (put n.toNat)) := by
  change execPut x n s0 = _
  rw [execPut, imm5, decide_eq_true hn]

end

section
variable {key n : Nat} {c : Ctx} {v : Word} {rest : List Word} (s : State)

theorem pick_ok (hn : n < c.os.length) (hroom : c.os.length < (stkLimits key c).1) (hfloor : (stkFloors c).1 ≤ c.os.length) :
    pick n s key c = .ok s { c with os := c.os.getD n 0 :: c.os } := by
  rw [pick, if_neg (by omega), stkErr_none (by omega) (by omega)]

theorem pick_exc (hn : c.os.length ≤ n) : pick n s key c = .exc s 7 c.pc := if_pos hn

theorem put_ok (hos : c.os = v :: rest) (hfloor : (stkFloors c).1 ≤ rest.length) (hroom : rest.length ≤ (stkLimits key c).1)
    (hn : n < rest.length) : put n s key c = .ok s { c with os := rest.take n ++ v :: rest.drop (n + 1) } := by
  have hlen : c.os.length = rest.length + 1 := congrArg List.length hos
  rw [put, stkErr_none (by omega) (by omega), ← List.set_eq_take_cons_drop v hn, ← lset_eq_set]
  exact (if_neg (by omega)).trans (by rw [hos]; rfl)

theorem put_exc (hos : c.os = v :: rest) (hfloor : (stkFloors c).1 ≤ rest.length) (hroom : rest.length ≤ (stkLimits key c).1)
    (hn : rest.length ≤ n) : put n s key c = .exc s 7 c.pc := by
  have hlen : c.os.length = rest.length + 1 := congrArg List.length hos
  rw [put, stkErr_none (by omega) (by omega)]
  exact if_pos (by omega)

end

/-- Settles O5: the floor is checked by PUT's pop alone, PICK's depth before its push. -/
theorem pickPutResult : Obligations.PickPutResult := by
  unfold Obligations.PickPutResult
  intro s0 s x n hn key c
  rw [exec_pick hn, exec_put hn]
  refine ⟨fun h => ⟨fun hlt hroom hfloor => ?_, fun hle => ?_, fun v rest hos hfloor hroom => ⟨fun hlt => ?_, fun hle => ?_⟩⟩,
    fun h hroom hfloor => ?_⟩
  · exact congrArg _ (issue_ok h (issues_plain _) (pick_ok s hlt hroom hfloor) rfl rfl)
  · exact congrArg _ (issue_exc h (issues_plain _) (pick_exc s hle))
  · exact congrArg _ (issue_ok h (issues_plain _) (put_ok s hos hfloor hroom hlt) rfl rfl)
  · exact congrArg _ (issue_exc h (issues_plain _) (put_exc s hos hfloor hroom hle))
  · exact congrArg _ (issue_ok (body := depth) h (issues_plain _) (stackOp_push hroom hfloor _ s) rfl rfl)

end Sys2Proof.Machine
end

section
/-! BR, BR.T, JMPI, CALL, CALLI and RET, and the fetch of any instruction (05 R148; 06 R185–R187). -/

namespace Sys2Proof.Machine
open Sys2Proof.Claim

/-! ### Fetches that are not allowed (05 R148) -/

/-- A Gilin instruction is issued with its length. -/
theorem issue_of_gilin {i : Instr} {x : Iss} {len : Nat} (h : gilin i = some (x, len)) :
    0 < len ∧ ∃ cls enc body, ∀ s, exec i s = .next (s.issue x cls len enc body) := by
  cases i
  case br x d => cases d <;> cases h <;> exact ⟨by decide, _, _, _, fun _ => rfl⟩
  case brT x d => cases d <;> cases h <;> exact ⟨by decide, _, _, _, fun _ => rfl⟩
  all_goals cases h
  all_goals exact ⟨by decide, _, _, _, fun _ => rfl⟩

/-- The first byte of an instruction may not be fetched. -/
theorem badFetch_first {s : State} {key a n : Nat} (hn : 0 < n) (h : s.mayFetch key a = false) : s.badFetch key a n = some a := by
  obtain ⟨m, rfl⟩ := Nat.exists_eq_succ_of_ne_zero hn.ne'
  exact if_neg (by rw [h]; decide)

/-! ### Targets -/

/-- A displacement is added as a signed number. -/
theorem add_signExtend {n : Nat} (a : Word) (d : BitVec n) : a + d.signExtend 32 = BitVec.ofInt 32 (a.toNat + d.toInt) := by
  rw [BitVec.ofInt_add, BitVec.ofInt_natCast, BitVec.ofNat_toNat, BitVec.setWidth_eq]
  rfl

section
variable {key : Nat} {c : Ctx} (s : State)

theorem jumpTo_inside {t : Word} (h : t.toNat < codeTop key) : jumpTo t s key c = .jump s c t := if_neg (Nat.not_le.mpr h)

theorem jumpTo_beyond {t : Word} (h : codeTop key ≤ t.toNat) : jumpTo t s key c = .exc s 3 t := if_pos h

/-- A return stack above its floor and below its limit. -/
theorem retErr_none {k m : Nat} (hfloor : (stkFloors c).2 + k ≤ c.rs.length) (hlimit : c.rs.length + m ≤ (stkLimits key c).2 + k) :
    retErr key c k m = none := by
  rw [retErr, if_neg (by omega), if_neg (by omega)]

theorem retErr_full (hfloor : (stkFloors c).2 ≤ c.rs.length) (hfull : c.rs.length = (stkLimits key c).2) : retErr key c 0 1 = some 8 := by
  rw [retErr, if_neg (by omega), if_pos (by omega)]

theorem retErr_empty (h : c.rs = [] ∨ c.rs.length ≤ (stkFloors c).2) : retErr key c 1 0 = some 9 := by
  have hlen : c.rs.length ≤ (stkFloors c).2 := h.elim (fun h => by rw [h]; exact Nat.zero_le _) id
  rw [retErr, if_pos (by omega)]

variable {g : Guard} {len pops : Nat} {t : Word}

theorem call_inside (h : t.toNat < codeTop key) (hret : retErr key c 0 1 = none) : call g len t pops s key c =
    .jump s { c with os := c.os.drop pops, rs := BitVec.ofNat 32 ((nextPc g len c).toNat % codeTop key) :: c.rs } t := by
  rw [call, if_neg (Nat.not_le.mpr h), hret]

theorem call_full (h : t.toNat < codeTop key) (hret : retErr key c 0 1 = some 8) : call g len t pops s key c = .exc s 8 c.pc := by
  rw [call, if_neg (Nat.not_le.mpr h), hret]

theorem call_beyond (h : codeTop key ≤ t.toNat) : call g len t pops s key c = .exc s 3 t := if_pos h

theorem calli_eq {rest : List Word} (hos : c.os = t :: rest) (hfloor : (stkFloors c).1 ≤ rest.length)
    (hlimit : rest.length ≤ (stkLimits key c).1) : calli g s key c = call g 1 t 1 s key c := by
  have hlen : c.os.length = rest.length + 1 := congrArg List.length hos
  rw [calli, stkErr_none (by omega) (by omega), opnd_zero hos]

theorem jmpi_eq {rest : List Word} (hos : c.os = t :: rest) (hfloor : (stkFloors c).1 ≤ rest.length)
    (hlimit : rest.length ≤ (stkLimits key c).1) : jmpi s key c = jumpTo t s key { c with os := rest } := by
  have hlen : c.os.length = rest.length + 1 := congrArg List.length hos
  rw [jmpi, stkErr_none (by omega) (by omega), opnd_zero hos, hos]
  rfl

theorem ret_ok {rest : List Word} (hrs : c.rs = t :: rest) (hfloor : (stkFloors c).2 ≤ rest.length)
    (hlimit : rest.length ≤ (stkLimits key c).2) : ret s key c = .jump s { c with rs := rest } t := by
  have hlen : c.rs.length = rest.length + 1 := congrArg List.length hrs
  rw [ret, retErr_none (by omega) (by omega), hrs]
  rfl

theorem ret_exc (h : c.rs = [] ∨ c.rs.length ≤ (stkFloors c).2) : ret s key c = .exc s 9 c.pc := by
  rw [ret, retErr_empty h]

end

/-! ### BR, BR.T, JMPI, CALL and CALLI (06 R185–R187) -/

/-- The answer of a transfer to `t` in a context that becomes `c`: execution goes on there, or vector 3 beyond the code space. -/
def GoesTo (s : State) (key : Nat) (a : R) (c : Ctx) (t : Word) : Prop :=
  (t.toNat < codeTop key → a = .jump s c t) ∧ (codeTop key ≤ t.toNat → a = .exc s 3 t)

theorem jumpTo_goes (t : Word) (s : State) (key : Nat) (c : Ctx) : GoesTo s key (jumpTo t s key c) c t :=
  ⟨jumpTo_inside s, jumpTo_beyond s⟩

theorem branch_goes {g : Guard} {d : Disp} {c : Ctx} {t : Word} (h : nextPc g (dispOf d).2 c + (dispOf d).1 = t) (s : State) (key : Nat) :
    GoesTo s key (branch g d s key c) c t := h ▸ jumpTo_goes _ s key c

/-- Each control transfer goes to the target of its table row, with the stacks there. -/
theorem body_of_jumpFx {i : Instr} {key len : Nat} {c : Ctx} {x : Iss} {t : Word} {os rs : List Word} {ls : List Lvl}
    (h : jumpFx i key c = some (x, len, t, os, rs, ls)) : ∃ body, (∀ s, exec i s = .next (s.issue x .plain len true body)) ∧
      ∀ s, GoesTo s key (body s key c) { c with os := os, rs := rs, ls := ls } t := by
  unfold jumpFx at h
  dsimp only at h
  split at h
  case h_5 hos =>
    obtain ⟨⟨hfloor, hlimit⟩, heq⟩ := Option.ite_none_right_eq_some.mp h
    cases heq
    refine ⟨jmpi, fun _ => rfl, fun s => ?_⟩
    rw [jmpi_eq s hos hfloor hlimit]
    exact jumpTo_goes _ _ _ _
  case h_6 a =>
    obtain ⟨⟨hfloor, hlimit⟩, heq⟩ := Option.ite_none_right_eq_some.mp h
    cases heq
    rw [BitVec.ofNat_toNat]
    exact ⟨call x.guard 4 (a.setWidth 32) 0, fun _ => rfl, fun s =>
      ⟨fun hin => call_inside s hin (retErr_none hfloor hlimit), call_beyond s⟩⟩
  case h_7 hos =>
    obtain ⟨⟨hfloor, hlimit, hrfloor, hrlimit⟩, heq⟩ := Option.ite_none_right_eq_some.mp h
    cases heq
    refine ⟨calli x.guard, fun _ => rfl, fun s => ?_⟩
    rw [calli_eq s hos hfloor hlimit]
    refine ⟨fun hin => ?_, call_beyond s⟩
    rw [call_inside s hin (retErr_none hrfloor hrlimit), hos]
    rfl
  case h_8 => cases h
  all_goals
    cases h
    exact ⟨branch x.guard _, fun _ => rfl, branch_goes (add_signExtend _ _) (key := key)⟩

/-- Settles O19: each transfer by what its body answers, a fetch that is not allowed by its first byte. -/
theorem branchAndCallResult : Obligations.BranchAndCallResult := by
  unfold Obligations.BranchAndCallResult
  refine ⟨⟨?_, ?_⟩, ?_⟩
  · intro i s0 s x len t os rs ls key c hfx h
    obtain ⟨body, hexec, hgoes⟩ := body_of_jumpFx hfx
    rw [hexec]
    exact ⟨fun hin => congrArg _ (issue_jump h (issues_plain _) ((hgoes s).1 hin) rfl rfl),
      fun hout => congrArg _ (issue_exc h (issues_plain _) ((hgoes s).2 hout))⟩
  · intro i s0 s x len hi hissue hs hmatch hfetch
    obtain ⟨hlen, cls, enc, body, hexec⟩ := issue_of_gilin hi
    subst hs
    rw [hexec]
    exact congrArg _ (issue_badFetch s0 x cls len _ enc body hissue hmatch (badFetch_first (by omega) hfetch))
  · intro s0 s x key c
    have htarget : ∀ a : BitVec 24, a.toNat < codeTop key → (a.setWidth 32).toNat < codeTop key := fun a hin => by
      rwa [BitVec.toNat_setWidth_of_le (by decide)]
    refine ⟨fun h t rest hrs hfloor hlimit => ?_, fun h hrs => ?_, fun a h hin hfull hfloor => ?_,
      fun a rest h hos hofloor holimit hin hfull hfloor => ?_, fun a h hin hroom hfloor => ?_⟩
    · exact congrArg _ (issue_jump h (issues_plain _) (ret_ok s hrs hfloor hlimit) rfl rfl)
    · exact congrArg _ (issue_exc h (issues_plain _) (ret_exc s hrs))
    · exact congrArg _ (issue_exc h (issues_plain _) (call_full s (htarget a hin) (retErr_full hfloor hfull)))
    · exact congrArg _ (issue_exc h (issues_plain _) ((calli_eq s hos hofloor holimit).trans (call_full s hin (retErr_full hfloor hfull))))
    · exact congrArg _ (issue_jump h (issues_plain _) (call_inside s (htarget a hin) (retErr_none hfloor hroom)) rfl rfl)

end Sys2Proof.Machine
end

section
/-! EMIT, SETLANE and SKIPTO (06 R192, R193), and the instructions that the control store sequences (11 R346, R348). -/

namespace Sys2Proof.Machine
open Sys2Proof.Claim

/-! ### EMIT and SETLANE (06 R192) -/

section
variable {key : Nat} {c : Ctx} {a b : Word} {rest : List Word} (s : State)

theorem emit_refused (hrank : rankOf key ≠ 11) : emit s key c = .exc s 1 c.pc := if_pos hrank

theorem setlane_refused (hrank : rankOf key ≠ 11) : setlane s key c = .exc s 1 c.pc := if_pos hrank

theorem emit_records (hrank : rankOf key = 11) (hos : c.os = b :: a :: rest) (hstk : stkErr key c 2 0 = none) (hroom : c.reps.length < 7) :
    emit s key c = .ok s { c with os := rest, reps := c.reps ++ [⟨BitVec.ofNat 10 a.toNat, BitVec.ofNat 3 b.toNat,
      c.setLane.getD (s.mdOf key).lane⟩] } := by
  rw [emit, if_neg (not_not_intro hrank), hstk, BitVec.ofNat_toNat, BitVec.ofNat_toNat]
  refine (if_neg (by omega)).trans ?_
  rw [opnd_zero hos, opnd_one hos, hos]
  rfl

theorem emit_full (hrank : rankOf key = 11) (hstk : stkErr key c 2 0 = none) (hfull : 7 ≤ c.reps.length) :
    emit s key c = .exc s 12 (tFault 0 8) := by
  rw [emit, if_neg (not_not_intro hrank), hstk]
  exact if_pos hfull

theorem setlane_records (hrank : rankOf key = 11) (hos : c.os = a :: rest) (hstk : stkErr key c 1 0 = none) :
    setlane s key c = .ok s { c with os := rest, setLane := some (BitVec.ofNat 8 a.toNat) } := by
  rw [setlane, if_neg (not_not_intro hrank), hstk, BitVec.ofNat_toNat, opnd_zero hos, hos]
  rfl

end

/-! ### Instructions that the control store sequences (11 R346, R348) -/

/-- With the control store as released the instruction's effect follows at once. -/
theorem seqd_of_clean {s : State} {key : Nat} {c : Ctx} (h : s.microClean (coreOf key) = true) (huseq : c.useq = none) (op : MOp)
    (body : State → Nat → Ctx → R) : seqd op body s key c = body s key c := by
  rw [seqd, sequence_of_clean h]
  change body s key { c with useq := none } = _
  rw [← huseq]

/-- An operation that joins the byte engine of a packet core puts its context to sleep. -/
theorem issue_engine {s0 s : State} {r : Rank} {cn : CoreNo} {k : CtxNo} {g : Guard} {cls : Cls} {len : Nat}
    {body : State → Nat → Ctx → R} {b : BeOp} (h : Ready s0 s ⟨.pkt r cn k, g⟩ len) (ha : Issues (pk r.val cn.val k.val) cls)
    (hb : body s (pk r.val cn.val k.val) (s.ctx (pk r.val cn.val k.val)) =
      s.toEngine (pk r.val cn.val k.val) (s.ctx (pk r.val cn.val k.val)) b) :
    let key := pk r.val cn.val k.val
    s0.issue ⟨.pkt r cn k, g⟩ cls len true body = (((s.setCore (coreOf key) { s.core (coreOf key) with
      beq := (s.core (coreOf key)).beq ++ [b] }).setCtx key (asleep (s.ctx key) .engine (guardLen g + len))).issued key) :=
  issue_sleep h ha hb

/-! ### SKIPTO (06 R193) -/

section
variable {key : Nat} {c : Ctx} {s : State}

theorem skipto_range (hstk : stkErr key c 1 0 = none) (hd : (opnd c 0).toInt < -64 ∨ 192 < (opnd c 0).toInt) :
    skipto s key c = .exc s 12 (tFault 0 9) := by
  rw [skipto, hstk]
  exact if_pos hd

variable (hstk : stkErr key c 1 0 = none) (hlo : -64 ≤ (opnd c 0).toInt) (hhi : (opnd c 0).toInt ≤ 192)
include hstk hlo hhi

theorem skipto_waits (hv : (s.mdOf key).verdict ≠ 1) : skipto s key c = .sleep s { c with wait := .verdict none } := by
  rw [skipto, hstk]
  exact (if_neg (by omega)).trans (if_pos hv)

theorem skipto_illegal (hv : (s.mdOf key).verdict = 1) (hbad : skipBad (s.mdOf key) (opnd c 0).toInt = true) :
    skipto s key c = .exc s 12 (tFault 0 9) := by
  rw [skipto, hstk]
  exact (if_neg (by omega)).trans ((if_neg (not_not_intro hv)).trans (if_pos hbad))

theorem skipto_joins (hv : (s.mdOf key).verdict = 1) (hbad : skipBad (s.mdOf key) (opnd c 0).toInt = false)
    (hport : s.portBad key (slotA (ctxNoOf key) c.slot) 0x108 = none) :
    skipto s key c = s.toEngine key c ⟨ctxNoOf key, 4, opnd c 0, 0, 0⟩ := by
  rw [skipto, hstk]
  refine (if_neg (by omega)).trans ((if_neg (not_not_intro hv)).trans ((if_neg (by rw [hbad]; decide)).trans ?_))
  rw [hport]

theorem skipto_foreign {y : Nat} (hv : (s.mdOf key).verdict = 1) (hbad : skipBad (s.mdOf key) (opnd c 0).toInt = false)
    (hport : s.portBad key (slotA (ctxNoOf key) c.slot) 0x108 = some y) : skipto s key c = .exc s 5 (BitVec.ofNat 32 y) := by
  rw [skipto, hstk]
  refine (if_neg (by omega)).trans ((if_neg (not_not_intro hv)).trans ((if_neg (by rw [hbad]; decide)).trans ?_))
  rw [hport]

end

/-- Settles O22: each clause is one branch of the instruction's body. -/
theorem emitSetlaneSkiptoResult : Obligations.EmitSetlaneSkiptoResult := by
  unfold Obligations.EmitSetlaneSkiptoResult
  intro s0 s r cn k g a b rest x key c h hfloor hlimit
  have hpkt := issues_packet r cn k
  have hrank : rankOf key = r.val := rankOf_pkt r cn k
  have hstk : ∀ n, c.os.length = rest.length + n → stkErr key c n 0 = none := fun n hn => stkErr_none (by omega) (by omega)
  refine ⟨fun h11 hos hroom => ?_, fun h11 hos hfull => ?_, fun h11 hos => ?_, fun hne => ⟨?_, ?_⟩, fun hos hclean => ?_⟩
  · exact congrArg _ (issue_ok h hpkt (emit_records s (hrank.trans h11) hos (hstk 2 (by simp [hos])) hroom) rfl rfl)
  · exact congrArg _ (issue_exc h hpkt (emit_full s (hrank.trans h11) (hstk 2 (by simp [hos])) hfull))
  · exact congrArg _ (issue_ok h hpkt (setlane_records s (hrank.trans h11) hos (hstk 1 (by simp [hos]))) rfl rfl)
  · exact congrArg _ (issue_exc h hpkt (emit_refused s (hrank ▸ hne)))
  · exact congrArg _ (issue_exc h hpkt (setlane_refused s (hrank ▸ hne)))
  · obtain ⟨-, -, -, -, -, -, -, huseq⟩ := id h
    have hseq : seqd .skipto skipto s key c = skipto s key c := seqd_of_clean hclean huseq _ _
    have hstk1 := hstk 1 (by simp [hos])
    rw [← slotA_eq, ← ctxNoOf_pkt r cn k, ← opnd_zero hos]
    refine ⟨fun hd => ?_, fun hlo hhi hv => ?_, fun hlo hhi hv hbad => ?_, fun hlo hhi hv hbad hport => ?_,
      fun y hlo hhi hv hbad hport => ?_⟩
    · exact congrArg _ (issue_exc h hpkt (hseq.trans (skipto_range hstk1 hd)))
    · exact congrArg _ (issue_sleep h hpkt (hseq.trans (skipto_waits hstk1 hlo hhi hv)))
    · exact congrArg _ (issue_exc h hpkt (hseq.trans (skipto_illegal hstk1 hlo hhi hv hbad)))
    · exact congrArg _ (issue_engine h hpkt (hseq.trans (skipto_joins hstk1 hlo hhi hv hbad hport)))
    · exact congrArg _ (issue_exc h hpkt (hseq.trans (skipto_foreign hstk1 hlo hhi hv hbad hport)))

end Sys2Proof.Machine
end

section
/-! BRK issued again at ELEV 2 (06 R205; 08 R257; 18 R504): the double fault stops the context with the mark of its first BRK gone. -/

namespace Sys2Proof.Machine
open Sys2Proof.Claim

/-- Context 0 of core 0 of rank 0 stands at ELEV 2 before a BRK for which its core has halted already. -/
def haltedAtBrk : State :=
  ((State.reset.setDom 0 { PDom.init with st := .on }).setRank 0 { RankSt.init with nx := 1 }).setCtx 0
    { Ctx.init 0 with st := .run, pc := 0, elev := 2, brkSkip := true }

/-- The state in which that BRK executes. -/
def brkEntered : State := haltedAtBrk.entered 0 1

theorem haltedAtBrk_ready : Ready haltedAtBrk brkEntered ⟨.pkt 0 0 0, .always⟩ 1 := by
  unfold Ready
  decide

/-- The model's BRK clears the mark before it traps, so the stopped context does not keep it. -/
theorem brk_again_clears_mark : ∃ t, exec (.brk ⟨.pkt 0 0 0, .always⟩) haltedAtBrk = .next t ∧ (t.ctx 0).brkSkip = false := by
  refine ⟨_, rfl, ?_⟩
  decide

/-- Refutes O26: BRK issued again at ELEV 2 after BRKHALT's halt. Its vector 15 is a double fault, which stops the context without
clearing `brkSkip`; BRK has cleared it before, and the state that the statement names has not. -/
theorem not_systemInstructionsResult : ¬ Obligations.SystemInstructionsResult := by
  unfold Obligations.SystemInstructionsResult
  intro h
  obtain ⟨-, -, -, -, -, -, hbrk, -⟩ := (h haltedAtBrk brkEntered 0 0 0 .always).1 haltedAtBrk_ready
  obtain ⟨t, hexec, hclear⟩ := brk_again_clears_mark
  have heq := Host.Outcome.next.inj (hexec.symm.trans (hbrk (.inr (by decide))))
  rw [heq] at hclear
  exact absurd hclear (by decide)

end Sys2Proof.Machine
end

section
/-! CSUM16, MOVB, FILLB and CMPB join the byte engine (06 R207–R209; 07 R218). -/

namespace Sys2Proof.Machine
open Sys2Proof.Claim

/-! ### Joining the engine -/

section
variable {key kind n m : Nat} {ranges : Word → Word → Word → List (Word × Word)} {c : Ctx} {s : State}

/-- Of a packet core's context, an operation whose ranges are accessible joins the engine. -/
theorem engineOp_joins (hk : isStw key = false) (hstk : stkErr key c n m = none)
    (hrng : ∀ p ∈ ranges (opnd c 2) (opnd c 1) (opnd c 0), s.lenBad key c p.1 p.2 = none) :
    engineOp kind n m ranges s key c = s.toEngine key c ⟨ctxNoOf key, kind, opnd c 2, opnd c 1, opnd c 0⟩ := by
  rw [engineOp, hstk]
  dsimp only
  rw [List.findSome?_eq_none_iff.mpr hrng, hk]
  rfl

/-- The first range that is not accessible raises vector 5 with its first such byte. -/
theorem engineOp_exc {p : Word × Word} {ps : List (Word × Word)} {fa : Word} (hstk : stkErr key c n m = none)
    (hrng : ranges (opnd c 2) (opnd c 1) (opnd c 0) = p :: ps) (hbad : s.lenBad key c p.1 p.2 = some fa) :
    engineOp kind n m ranges s key c = .exc s 5 fa := by
  rw [engineOp, hstk]
  dsimp only
  rw [hrng, List.findSome?_cons, hbad]

end

theorem lenBad_one {s : State} {key : Nat} {c : Ctx} {a n : Word} (ha : s.lenBad key c a n = none) :
    ∀ p ∈ [(a, n)], s.lenBad key c p.1 p.2 = none := by
  simp [ha]

theorem lenBad_both {s : State} {key : Nat} {c : Ctx} {a b n : Word} (ha : s.lenBad key c a n = none) (hb : s.lenBad key c b n = none) :
    ∀ p ∈ [(a, n), (b, n)], s.lenBad key c p.1 p.2 = none := by
  simp [ha, hb]

end Sys2Proof.Machine
end

section
/-! BYTE_ENGINE_COMPLETE: the engine's oldest operation ends and its context goes on (06 R208, R209; 07 R218). -/

namespace Sys2Proof.Machine
open Sys2Proof.Claim

/-! ### Reads without an error and outside a test (11 R331, R341) -/

theorem spTouchN_clean {s : State} (h : s.spErr = []) (ck agent : Nat) (ws : List Nat) : s.spTouchN ck agent ws = (false, s) := by
  induction ws with
  | nil => rfl
  | cons w ws ih => simp [State.spTouchN, State.spTouch, h, tfind, ih]

theorem bgtAbort_idle {s : State} {ck : Nat} (h : (s.core ck).bgt = none) (x n : Nat) : s.bgtAbort ck x n = s := by
  rw [State.bgtAbort, h]

/-- With no error recorded and no region of the core under test, a read finds the bytes as the context sees them. -/
theorem readMem_clean {s : State} {key : Nat} (hk : isStw key = false) (herr : s.spErr = []) (hbgt : (s.core (coreOf key)).bgt = none)
    (a n : Nat) : s.readMem key a n = (false, s.seen key a n, s) := by
  rw [State.readMem, hk]
  simp only [bgtAbort_idle hbgt, spTouchN_clean herr]
  rfl

/-! ### What the engine's operations leave -/

section
variable {s : State} {key : Nat} {c : Ctx} {b : BeOp}

theorem beRun_fillb (hkind : b.kind = 2) : s.beRun key c b =
    (none, s.writeMem key b.x.toNat (List.replicate b.y.toNat (BitVec.ofNat 8 b.z.toNat)), { c with os := c.os.drop 3 }) := by
  simp only [State.beRun, hkind, BitVec.ofNat_toNat]

variable (hk : isStw key = false) (herr : s.spErr = []) (hbgt : (s.core (coreOf key)).bgt = none)
include hk herr hbgt

theorem beRun_csum16 (hkind : b.kind = 0) : s.beRun key c b = (none, s, { c with
    os := (if b.y = 0 then b.z else BitVec.ofNat 32 (foldCarry (sumPairs (s.seen key b.x.toNat b.y.toNat) (b.z.toNat % 65536)))) ::
      c.os.drop 3 }) := by
  simp only [State.beRun, hkind, readMem_clean hk herr hbgt]
  simp [bits]

theorem beRun_movb (hkind : b.kind = 1) : s.beRun key c b =
    (none, s.writeMem key b.y.toNat (s.seen key b.x.toNat b.z.toNat), { c with os := c.os.drop 3 }) := by
  simp only [State.beRun, hkind, readMem_clean hk herr hbgt]
  rfl

theorem beRun_cmpb (hkind : b.kind = 3) : s.beRun key c b = (none, s, { c with
    os := BitVec.ofNat 32 (firstDiff (s.seen key b.x.toNat b.z.toNat) (s.seen key b.y.toNat b.z.toNat) 0) :: c.os.drop 3 }) := by
  simp only [State.beRun, hkind, readMem_clean hk herr hbgt]
  rfl

theorem beRun_skipto (hkind : b.kind = 4) : s.beRun key c b = (none, s.skipDo key c b.x.toInt) := by
  simp only [State.beRun, hkind, readMem_clean hk herr hbgt]
  rfl

end

/-- An entry that is there is changed. -/
theorem modEntry_of_some {s : State} {r i : Nat} {e : REntry} (h : tfind (s.rank r).entries i = some e) (f : REntry → REntry) :
    s.modEntry r i f = s.setRank r { s.rank r with entries := tset (s.rank r).entries i (f e) } := by
  rw [State.modEntry, h]

/-- SKIPTO's effect: the slot's bytes are work on the scratchpad, LEN of the packet's entry changes by the displacement. -/
theorem skipDo_spec {s : State} {key i : Nat} {c : Ctx} {e : REntry} (hc : c.entry = some i) (hx : (s.ctx key).entry = some i)
    (he : tfind (s.rank (rankOf key)).entries i = some e) (d : Int) :
    ∃ u e', PadWork s u ∧ e'.md.len = BitVec.ofInt 14 ((e.md.len.toNat : Int) - d) ∧
      s.skipDo key c d = (u.setRank (rankOf key) { u.rank (rankOf key) with entries := tset (u.rank (rankOf key)).entries i e' },
        { c with os := c.os.drop 1 }) := by
  have hmd : s.mdOf key = e.md := by rw [State.mdOf, hx]; dsimp only; rw [he]
  have hdo : ∃ u, PadWork s u ∧ s.skipDo key c d = (u.modEntry (rankOf key) i
      (fun e' => { e' with md := { e.md with len := BitVec.ofInt 14 ((e.md.len.toNat : Int) - d), strip := e.md.strip + d } }),
      { c with os := c.os.drop 1 }) := by
    rw [State.skipDo, hc, hmd]
    refine ⟨_, ?_, rfl⟩
    refine PadWork.trans ?_ (PadWork.spStore _ _ _ _)
    refine PadWork.trans ?_ (PadWork.bgtAbort _ _ _ _)
    refine PadWork.trans ?_ (PadWork.spStore _ _ _ _)
    exact (PadWork.drainCore s (coreOf key)).trans ⟨rfl, fun _ => rfl, fun _ _ => rfl⟩
  obtain ⟨u, hpad, hdo⟩ := hdo
  refine ⟨u, _, hpad, ?_, hdo.trans (congrArg (·, _) (modEntry_of_some (by rw [hpad.rank, he]) _))⟩
  rfl

/-! ### BYTE_ENGINE_COMPLETE -/

section
variable {s u : State} {r : Rank} {cn : CoreNo} {k : CtxNo} {b : BeOp} {more : List BeOp}

/-- The engine of a core with the rest `more` of its operations. -/
def State.engineNext (s : State) (ck : Nat) (more : List BeOp) : State := s.setCore ck { s.core ck with beq := more }

variable (hruns : s.runs r.val = true) (hbeq : (s.core (coreOf (pk r.val cn.val k.val))).beq = b :: more) (hctx : b.ctx = k.val)
  (hst : (s.ctx (pk r.val cn.val k.val)).st = .sleep) (hwait : (s.ctx (pk r.val cn.val k.val)).wait = .engine)
include hruns hbeq hctx hst hwait

theorem byteEngineComplete_eq {c : Ctx}
    (hrun : (s.engineNext (coreOf (pk r.val cn.val k.val)) more).beRun (pk r.val cn.val k.val) (s.ctx (pk r.val cn.val k.val)) b =
      (none, u, c)) :
    exec (.byteEngineComplete r cn) s = .next (u.complete (pk r.val cn.val k.val) c
      ((s.ctx (pk r.val cn.val k.val)).pc + BitVec.ofNat 32 (s.ctx (pk r.val cn.val k.val)).wlen)) := by
  rw [coreOf_pkt] at hbeq hrun
  change execByteEngineComplete r cn s = _
  simp only [execByteEngineComplete, hruns, hbeq, hctx, State.ctx_setCore, hst, hwait, ne_eq, not_true_eq_false, decide_false,
    Bool.not_true, Bool.or_self, Bool.false_eq_true, if_false]
  rw [State.engineNext] at hrun
  rw [hrun]

/-- The operation leaves the operands `os`, and the context goes on. -/
theorem byteEngineComplete_wakes {os : List Word} (hpad : u.ctx (pk r.val cn.val k.val) = s.ctx (pk r.val cn.val k.val))
    (h11 : (s.ctx (pk r.val cn.val k.val)).v11pend = false) (htrig : (s.ctx (pk r.val cn.val k.val)).trig = false)
    (hrun : (s.engineNext (coreOf (pk r.val cn.val k.val)) more).beRun (pk r.val cn.val k.val) (s.ctx (pk r.val cn.val k.val)) b =
      (none, u, { s.ctx (pk r.val cn.val k.val) with os := os })) :
    exec (.byteEngineComplete r cn) s = .next (wakes u (pk r.val cn.val k.val) os) := by
  rw [byteEngineComplete_eq hruns hbeq hctx hst hwait hrun, ← hpad]
  exact congrArg _ (State.complete_idle _ _ _ _ (by rw [hpad]; exact h11) (by rw [hpad]; exact htrig))

end

/-- Settles O32: at issue the ranges decide; at the end the engine's operation is the one that `beRun` names. -/
theorem byteEngineResult : Obligations.ByteEngineResult := by
  unfold Obligations.ByteEngineResult
  intro s0 s r cn k g w0 w1 w2 rest x key ck c co join
  have hk : isStw key = false := isStw_pkt r cn k
  refine ⟨?_, ?_⟩
  · intro h hclean hos hfloor hlimit
    obtain ⟨-, -, -, -, -, -, -, huseq⟩ := id h
    have hseq : ∀ op body, seqd op body s key c = body s key c := seqd_of_clean hclean huseq
    have hlen : c.os.length = rest.length + 3 := congrArg List.length hos
    have hstk : ∀ m, m ≤ 1 → stkErr key c 3 m = none := fun m hm => stkErr_none (by omega) (by omega)
    have h0 := opnd_zero hos
    have h1 := opnd_one hos
    have h2 := opnd_two hos
    have hjoins : ∀ {kind m : Nat} {ranges : Word → Word → Word → List (Word × Word)}, m ≤ 1 →
        (∀ p ∈ ranges w2 w1 w0, s.lenBad key c p.1 p.2 = none) →
        engineOp kind 3 m ranges s key c = s.toEngine key c ⟨k.val, kind, w2, w1, w0⟩ := fun hm hrng => by
      rw [engineOp_joins hk (hstk _ hm) (by rw [h0, h1, h2]; exact hrng), ctxNoOf_pkt, h0, h1, h2]
    refine ⟨fun hrng => ⟨?_, ?_⟩, fun hsrc hdst => ⟨?_, ?_⟩, fun fa hbad => ?_⟩
    · exact congrArg _ (issue_engine h (issues_plain _) ((hseq _ _).trans (hjoins le_rfl (lenBad_one hrng))))
    · exact congrArg _ (issue_engine h (issues_plain _) ((hseq _ _).trans (hjoins (by decide) (lenBad_one hrng))))
    · exact congrArg _ (issue_engine h (issues_plain _) ((hseq _ _).trans (hjoins (by decide) (lenBad_both hsrc hdst))))
    · exact congrArg _ (issue_engine h (issues_plain _) ((hseq _ _).trans (hjoins le_rfl (lenBad_both hsrc hdst))))
    · exact congrArg _ (issue_exc h (issues_plain _) ((hseq _ _).trans (engineOp_exc (hstk 0 (by decide)) (by rw [h1, h2]) hbad)))
  · intro b more hruns hbeq hctx hst hwait h11 htrig hbgt herr u rd
    have hbgt' : (u.core (coreOf key)).bgt = none := by rw [State.core_setCore_same]; exact hbgt
    refine ⟨fun hkind hy => ?_, fun hkind hy => ?_, fun hkind => ?_, fun hkind => ?_, fun hkind => ?_, fun hkind i e hentry he => ?_⟩
    · have hrun := beRun_csum16 (s := u) (c := c) hk herr hbgt' hkind
      rw [if_neg hy] at hrun
      exact byteEngineComplete_wakes hruns hbeq hctx hst hwait rfl h11 htrig hrun
    · have hrun := beRun_csum16 (s := u) (c := c) hk herr hbgt' hkind
      rw [if_pos hy] at hrun
      exact byteEngineComplete_wakes hruns hbeq hctx hst hwait rfl h11 htrig hrun
    · exact byteEngineComplete_wakes hruns hbeq hctx hst hwait ((PadWork.writeMem u hk _ _).ctx _) h11 htrig
        (beRun_movb hk herr hbgt' hkind)
    · exact byteEngineComplete_wakes hruns hbeq hctx hst hwait ((PadWork.writeMem u hk _ _).ctx _) h11 htrig
        (beRun_fillb hkind)
    · exact byteEngineComplete_wakes hruns hbeq hctx hst hwait rfl h11 htrig (beRun_cmpb hk herr hbgt' hkind)
    · obtain ⟨v, e', -, hlen, hdo⟩ := skipDo_spec (s := u) (key := key) hentry hentry ((rankOf_pkt r cn k).symm ▸ he) b.x.toInt
      have hrun := (beRun_skipto (s := u) (c := c) hk herr hbgt' hkind).trans (congrArg _ hdo)
      refine ⟨_, (byteEngineComplete_eq hruns hbeq hctx hst hwait hrun).trans
        (congrArg _ (State.complete_idle _ _ _ _ (by exact h11) (by exact htrig))), ?_⟩
      rw [State.ctx_setCtx_same, rankOf_pkt]
      refine ⟨?_, ?_, e', ?_, hlen⟩
      · exact Ctx.goto_st _ _
      · exact Ctx.goto_os _ _
      · rw [State.rank_setCtx, State.rank_setRank_same]
        exact tfind_tset_same _ _ _

end Sys2Proof.Machine
end

section
/-! The helper instructions HCMD, HPUT, HGET, HWAIT and HSYNC: what their bodies answer (06 R206; 09 R264–R272). -/

namespace Sys2Proof.Machine
open Sys2Proof.Claim

/-! ### Owners (08 R252; 09 R266) -/

section
variable {s : State} {key sl : Nat}

theorem notOwner_of_mine (h : sl < 2 ∨ (s.core (coreOf key)).own sl = some (ctxNoOf key)) : s.notOwner key sl = false := by
  rcases h with h | h
  · simp [State.notOwner, Nat.not_le.mpr h]
  · simp [State.notOwner, h]

theorem notOwner_of_other (hsl : 2 ≤ sl) (h : (s.core (coreOf key)).own sl ≠ some (ctxNoOf key)) : s.notOwner key sl = true := by
  simp [State.notOwner, hsl, h]

end

/-! ### HCMD (09 R264, R267, R271) -/

/-- The command that HCMD adds under epoch `ep`. -/
def State.newCmd (s : State) (key sl : Nat) (cb : Byte) (c : Ctx) (ep : Nat) : HCmd :=
  { slot := sl, c := cb, a := opnd c 1, b := opnd c 0, need := putsOf sl cb, puts := [], ep := ep, lvl := c.elev.toNat,
    spec := s.specOf (rankOf key) sl c, committed := false, accepted := false, killed := false, res := [], cnt := 0, last := false,
    err := none, rdy := [], fin := false, inp := s.helperInput key sl c, sq := false, tag := s.tagOf key c }

/-- The command has left its core: toward the guest bay, or toward its helper where it awaits no words. -/
def State.cmdSent (s : State) (key sl : Nat) (h : HCmd) : State :=
  if sl = 3 then
    ({ s with freeCount := s.freeCount + 1 } : State).setRank (rankOf key)
      { s.rank (rankOf key) with gq := (s.rank (rankOf key)).gq ++ [.cmd key h.ep h.tag] }
  else if h.need = 0 then s.toHelper key sl h.ep else s

section
variable {s : State} {key sl ep : Nat} {cb : Byte} {c : Ctx}

theorem hcmd_notOwner (hown : s.notOwner key sl = true) : hcmd sl cb s key c = .exc s 17 (BitVec.ofNat 32 sl) := if_pos hown

section
variable (hown : s.notOwner key sl = false) (hstk : stkErr key c 2 0 = none) (hcode : s.cmdCode (rankOf key) sl cb = none)
  (hcmds : c.cmds sl = []) (hkill : ∀ h ∈ c.hs, h.slot = sl → s.killWaits key h = false) (hlazy : c.lazy = false)
  (hep : c.nextEp = some ep)
include hown hstk hcode hcmds hkill hlazy hep

theorem hcmd_sends (hbank : s.helperBank key sl cb c = none) : hcmd sl cb s key c =
    .ok (s.cmdSent key sl (s.newCmd key sl cb c ep))
      { c with os := c.os.drop 2, hs := c.hs ++ [s.newCmd key sl cb c ep], lastEp := ep } := by
  have hkw : c.hs.any (fun h => decide (h.slot = sl) && s.killWaits key h) = false := by simpa using hkill
  simp only [hcmd, hown, hstk, hcode, hcmds, hkw, State.lazyDue, hlazy, hep, hbank]
  rfl

theorem hcmd_foreignBank {y : Nat} (hbank : s.helperBank key sl cb c = some y) : hcmd sl cb s key c = .exc s 5 (BitVec.ofNat 32 y) := by
  have hkw : c.hs.any (fun h => decide (h.slot = sl) && s.killWaits key h) = false := by simpa using hkill
  simp only [hcmd, hown, hstk, hcode, hcmds, hkw, State.lazyDue, hlazy, hep, hbank]
  rfl

end

/-- The slot of a packet context, as 06's memory map writes its address. -/
theorem hslot_pkt (r : Rank) (cn : CoreNo) (k : CtxNo) (c : Ctx) :
    hslot (pk r.val cn.val k.val) c = 0x38000 + 0x400 * k.val + 0x200 * c.slot := by
  rw [hslot, isStw_pkt, isFlt_pkt, ctxNoOf_pkt]
  exact slotA_eq _ _

/-- A parse command keeps its slot's head bytes. -/
theorem helperInput_parse : s.helperInput key 0 c = some (s.seen key (hslot key c) 256) := rfl

theorem helperInput_hash (hlen : (opnd c 0).toNat ≤ 2048) : s.helperInput key 1 c =
    if s.mayRange key c (opnd c 1).toNat (opnd c 0).toNat then some (s.seen key (opnd c 1).toNat (opnd c 0).toNat) else none := by
  simp [State.helperInput, hlen]

theorem gq_cmdSent (h : HCmd) : ((s.cmdSent key 3 h).rank (rankOf key)).gq = (s.rank (rankOf key)).gq ++ [.cmd key h.ep h.tag] := by
  rw [State.cmdSent, if_pos rfl, State.rank_setRank_same]

theorem sealQ_cmdSent {h : HCmd} (hneed : h.need = 0) :
    ((s.cmdSent key 2 h).rank (rankOf key)).sealQ = (s.rank (rankOf key)).sealQ ++ [⟨key, h.ep⟩] := by
  rw [State.cmdSent, if_neg (by decide), if_pos hneed]
  simp [State.toHelper]

/-! ### HPUT (09 R264) -/

theorem mem_mapFirst_const {α : Type} {p : α → Bool} {l : List α} {a : α} (v : α) (ha : a ∈ l) (hp : p a = true) :
    v ∈ mapFirst p (fun _ => v) l := by
  induction l with
  | nil => cases ha
  | cons b l ih =>
    by_cases hb : p b = true
    · simp [mapFirst, hb]
    · obtain rfl | ha := List.mem_cons.mp ha
      · exact absurd hp hb
      · simp [mapFirst, hb, ih ha]

/-- A command listed alone is one of the context's, of its slot, and not killed. -/
theorem mem_of_cmds {h : HCmd} (hcmds : h ∈ c.cmds sl) : h ∈ c.hs ∧ h.slot = sl ∧ h.killed = false := by
  simpa [Ctx.cmds] using hcmds

/-- HPUT appends its word to the command. -/
theorem hput_appends {h : HCmd} (hown : s.notOwner key sl = false) (hstk : stkErr key c 1 0 = none)
    (hpres : sl = 3 → s.present3 (rankOf key) = true) (hcmds : c.cmds sl = [h]) (hneed : h.puts.length < h.need) (hfin : h.fin = false) :
    ∃ u hs, hput sl s key c = .ok u { c with os := c.os.drop 1, hs := hs } ∧ { h with puts := h.puts ++ [opnd c 0] } ∈ hs := by
  obtain ⟨hmem, hslot, hkilled⟩ := mem_of_cmds (hcmds ▸ List.mem_singleton_self h)
  have hgone : (decide (sl = 3) && !s.present3 (rankOf key)) = false := by simpa using hpres
  simp only [hput, hown, hstk, hgone, hcmds, List.getLast?_singleton, Nat.not_le.mpr hneed, Bool.false_eq_true, if_false]
  exact ⟨_, _, rfl, mem_mapFirst_const _ hmem (by simp [hslot, hkilled, hfin])⟩

/-! ### HGET (09 R270) -/

section
variable {h : HCmd} (hown : s.notOwner key sl = false) (hstk : stkErr key c 0 1 = none)
  (hfind : (c.cmds sl).find? (fun h => h.lvl = c.elev.toNat) = some h)
include hown hstk hfind

theorem hget_word {w : Word} {more : List Word} (hrdy : h.rdy = w :: more) (hmore : h.fin = false ∨ more ≠ []) :
    hget sl s key c = .ok s { c with
      os := w :: c.os, hs := mapFirst (fun p => p = h) (fun p => { p with rdy := more }) c.hs } := by
  have hlast : (h.fin && more.isEmpty) = false := by rcases hmore with h | h <;> simp [h]
  simp only [hget, hown, hstk, hfind, hrdy, hlast]
  rfl

theorem hget_last {w : Word} (hrdy : h.rdy = [w]) (hfin : h.fin = true) (herr : h.err = none) :
    hget sl s key c = .ok s { c with os := w :: c.os, hs := c.hs.erase h } := by
  simp only [hget, hown, hstk, hfind, hrdy, hfin, herr]
  rfl

theorem hget_waits (hrdy : h.rdy = []) : hget sl s key c = .sleep s { c with wait := .again true } := by
  simp only [hget, hown, hstk, hfind, hrdy]
  rfl

end

/-! ### HWAIT and HSYNC (06 R206) -/

theorem hwait_done (hown : s.notOwner key sl = false) (hdone : ∀ h ∈ c.cmds sl, h.fin = true ∧ h.err = none) :
    hwait sl s key c = .ok s c := by
  have hfin : (c.cmds sl).any (fun h => !h.fin) = false := by simpa using fun h hh => (hdone h hh).1
  have herr : (c.cmds sl).find? (fun h => h.err.isSome) = none := List.find?_eq_none.mpr fun h hh => by simp [(hdone h hh).2]
  simp only [hwait, hown, hfin, herr]
  rfl

theorem hwait_waits (hown : s.notOwner key sl = false) (hopen : ∃ h ∈ c.cmds sl, h.fin = false) :
    hwait sl s key c = .sleep s { c with wait := .again false } := by
  have hfin : (c.cmds sl).any (fun h => !h.fin) = true := by simpa using hopen
  simp only [hwait, hown, hfin]
  rfl

end

end Sys2Proof.Machine
end

section
/-! HSAVE and HREST (08 R256). -/

namespace Sys2Proof.Machine
open Sys2Proof.Claim

@[simp] theorem own_setOwn (co : Core) (sl : Nat) (o r : Option Nat) : (co.setOwn sl o r).own sl = o := by
  unfold Core.setOwn Core.own
  split <;> rfl

@[simp] theorem res_setOwn (co : Core) (sl : Nat) (o r : Option Nat) : (co.setOwn sl o r).res sl = r := by
  unfold Core.setOwn Core.res
  split <;> rfl

@[simp] theorem core_wakeCore (s : State) (ck j : Nat) : (s.wakeCore ck).core j = s.core j := by
  obtain ⟨⟨x, hx⟩, -⟩ := wakeCore_keeps s ck
  rw [hx]
  rfl

section
variable {s : State} {key sl : Nat} {c : Ctx}

theorem hsave_packetLevel (h : privOf key c = false) : hsave sl s key c = .exc s 2 c.pc := if_pos (by rw [h]; rfl)

theorem hrest_packetLevel (h : privOf key c = false) : hrest sl s key c = .exc s 2 c.pc := if_pos (by rw [h]; rfl)

variable (hpriv : privOf key c = true) (hstk : stkErr key c 1 0 = none) (haddr : s.saveErr key sl c (opnd c 0) = none)
include hpriv hstk haddr

/-- Slots 0 and 1 have no state. -/
theorem hsave_low (hsl : sl < 2) : hsave sl s key c = .ok s { c with os := c.os.drop 1 } := by
  simp only [hsave, hpriv, hstk, haddr, hsl, Bool.not_true, Bool.false_eq_true, if_false, if_true]

theorem hrest_low (hsl : sl < 2) : hrest sl s key c = .ok s { c with os := c.os.drop 1 } := by
  simp only [hrest, hpriv, hstk, haddr, hsl, Bool.not_true, Bool.false_eq_true, if_false, if_true]

theorem hsave_reserves (hsl : 2 ≤ sl) (hown : (s.core (coreOf key)).own sl = none)
    (hres : (s.core (coreOf key)).res sl = none ∨ (s.core (coreOf key)).res sl = some (ctxNoOf key)) : hsave sl s key c =
    .ok (s.setCore (coreOf key) ((s.core (coreOf key)).setOwn sl none (some (ctxNoOf key)))) { c with os := c.os.drop 1 } := by
  have hfree : ((s.core (coreOf key)).res sl).any (fun j => decide (j ≠ ctxNoOf key)) = false := by rcases hres with h | h <;> simp [h]
  simp only [hsave, hpriv, hstk, haddr, hfree, hown, Nat.not_lt.mpr hsl, Bool.not_true, Bool.false_eq_true, if_false]

/-- HREST makes the context the slot's owner and ends its reservation. -/
theorem hrest_takes (hk : isStw key = false) (herr : s.spErr = []) (hbgt : (s.core (coreOf key)).bgt = none) (hsl : 2 ≤ sl)
    (hown : (s.core (coreOf key)).res sl = some (ctxNoOf key) ∨ (s.core (coreOf key)).own sl = none ∨
      (s.core (coreOf key)).own sl = some (ctxNoOf key)) :
    ∃ u, hrest sl s key c = .ok u { c with os := c.os.drop 1 } ∧ (u.core (coreOf key)).own sl = some (ctxNoOf key) ∧
      (u.core (coreOf key)).res sl = none := by
  have hmay : (decide ((s.core (coreOf key)).res sl ≠ some (ctxNoOf key)) &&
      ((s.core (coreOf key)).own sl).any (fun o => decide (o ≠ ctxNoOf key))) = false := by
    rcases hown with h | h | h <;> simp [h]
  simp only [hrest, hpriv, hstk, haddr, hmay, readMem_clean hk herr hbgt, Nat.not_lt.mpr hsl, Bool.not_true, Bool.false_eq_true, if_false]
  refine ⟨_, rfl, ?_⟩
  rw [core_wakeCore, State.core_setCore_same, own_setOwn, res_setOwn]
  exact ⟨rfl, rfl⟩

end

end Sys2Proof.Machine
end

section
/-! The helper instructions of a packet context (06 R206; 08 R256; 09 R264–R272). -/

namespace Sys2Proof.Machine
open Sys2Proof.Claim

@[simp] theorem Ctx.goto_hs (c : Ctx) (t : Word) : (c.goto t).hs = c.hs := by rw [Ctx.goto_frame]

theorem ctx_retire (s : State) (key : Nat) (c : Ctx) (t : Word) : (retire s key c t).ctx key =
    Ctx.goto { c with st := .run, wait := .none, wlen := 0, skip := false, brkSkip := false } t := by
  rw [retire, State.ctx_issued, State.ctx_setCtx_same]

theorem rank_retire (s : State) (key r : Nat) (c : Ctx) (t : Word) : (retire s key c t).rank r = s.rank r := rfl

/-- Only the record of the issue changes in the core. -/
theorem own_retire (s : State) (key sl : Nat) (c : Ctx) (t : Word) :
    ((retire s key c t).core (coreOf key)).own sl = (s.core (coreOf key)).own sl ∧
      ((retire s key c t).core (coreOf key)).res sl = (s.core (coreOf key)).res sl := by
  rw [retire, State.issued, State.core_setCore_same]
  exact ⟨rfl, rfl⟩

/-- Settles O33: each clause is one branch of the instruction's body. -/
theorem helperInstructionsResult : Obligations.HelperInstructionsResult := by
  unfold Obligations.HelperInstructionsResult
  intro s0 s r cn k g sl rest key x ck c co go mine
  have hhelper := issues_helper r cn k
  have hk : isStw key = false := isStw_pkt r cn k
  have hkno : ctxNoOf key = k.val := ctxNoOf_pkt r cn k
  have hnot : mine → s.notOwner key sl.val = false := fun hmine => notOwner_of_mine (by rw [hkno]; exact hmine)
  have hclean : ∀ {n op body}, Ready s0 s x n → s.microClean ck = true → seqd op body s key c = body s key c :=
    fun h hclean => by
      obtain ⟨-, -, -, -, -, -, -, huseq⟩ := h
      exact seqd_of_clean hclean huseq _ _
  refine ⟨?_, ?_, ?_, ?_, ?_, ?_, ?_, ?_, ?_⟩
  · intro cb a b ep h hmine hos hfloor hlimit hcode hcmds hlazy hep hkill hbank
    have hlen : c.os.length = rest.length + 2 := congrArg List.length hos
    have h0 := opnd_zero hos
    have h1 := opnd_one hos
    have hbody := hcmd_sends (s := s) (key := key) (hnot hmine) (stkErr_none (by omega) (by omega)) (by rw [rankOf_pkt]; exact hcode)
      hcmds hkill hlazy hep hbank
    rw [hos] at hbody
    refine ⟨_, s.newCmd key sl.val cb c ep, congrArg Host.Outcome.next (issue_ok h hhelper hbody rfl rfl), ctx_retire _ _ _ _,
      rfl, rfl, h1, h0, rfl, rfl, rfl, rfl, ?_, rfl, fun hsl => ?_, fun hsl hle hmay => ?_, fun hsl hle hmay => ?_, fun hsl => ?_,
      fun hsl => ?_⟩
    · exact congrArg (fun j => s.specOf j sl.val c) (rankOf_pkt r cn k)
    · rw [State.newCmd, hsl, helperInput_parse, hslot_pkt]
    · rw [State.newCmd, hsl, helperInput_hash (h0 ▸ hle), h0, h1, if_pos hmay]
    · rw [State.newCmd, hsl, helperInput_hash (h0 ▸ hle), h0, h1, if_neg (by rw [hmay]; decide)]
    · rw [rank_retire, hsl, ← rankOf_pkt r cn k]
      exact gq_cmdSent _
    · rw [rank_retire, hsl, ← rankOf_pkt r cn k]
      exact sealQ_cmdSent rfl
  · intro v h hready hmine hos hfloor hlimit hpres hcmds hneed hfin
    have hlen : c.os.length = rest.length + 1 := congrArg List.length hos
    obtain ⟨u, hs, hbody, hmem⟩ := hput_appends (s := s) (key := key) (hnot hmine) (stkErr_none (by omega) (by omega))
      (by rw [rankOf_pkt]; exact hpres) hcmds hneed hfin
    rw [hos] at hbody
    refine ⟨_, congrArg Host.Outcome.next (issue_ok hready hhelper hbody rfl rfl), ?_⟩
    rw [whoKey, ctx_retire, Ctx.goto_os, Ctx.goto_st, Ctx.goto_hs, ← opnd_zero hos]
    exact ⟨rfl, rfl, _, hmem, rfl⟩
  · intro h w more hready hmine hfloor hlimit hfind
    have hstk : stkErr key c 0 1 = none := stkErr_none (by omega) (by omega)
    refine ⟨fun hrdy hmore => ?_, fun hrdy hfin herr => ?_, fun hrdy => ?_⟩
    · exact congrArg Host.Outcome.next (issue_ok hready hhelper (hget_word (hnot hmine) hstk hfind hrdy hmore) rfl rfl)
    · exact congrArg Host.Outcome.next (issue_ok hready hhelper (hget_last (hnot hmine) hstk hfind hrdy hfin herr) rfl rfl)
    · exact congrArg Host.Outcome.next (issue_sleep hready hhelper (hget_waits (hnot hmine) hstk hfind hrdy))
  · intro h hmine
    refine ⟨fun hdone => ⟨?_, ?_⟩, fun hopen => ⟨?_, ?_⟩⟩
    · exact congrArg Host.Outcome.next (issue_ok h hhelper (hwait_done (hnot hmine) hdone) rfl rfl)
    · exact congrArg Host.Outcome.next (issue_ok h hhelper (hwait_done (hnot hmine) hdone) rfl rfl)
    · exact congrArg Host.Outcome.next (issue_sleep h hhelper (hwait_waits (hnot hmine) hopen))
    · exact congrArg Host.Outcome.next (issue_sleep h hhelper (hwait_waits (hnot hmine) hopen))
  · intro h hfloor hlimit
    have hbody : hcapOp sl.val s key c = .ok s { c with os := s.hcap r.val sl.val :: c.os } := by
      rw [hcapOp, hk, rankOf_pkt]
      exact stackOp_push hlimit hfloor _ s
    exact congrArg Host.Outcome.next (issue_ok h (issues_hcap r cn k) hbody rfl rfl)
  · intro a h hmicro helev hos hfloor hlimit haddr
    have hlen : c.os.length = rest.length + 1 := congrArg List.length hos
    have hstk : stkErr key c 1 0 = none := stkErr_none (by omega) (by omega)
    have hpriv : privOf key c = true := by rw [privOf, decide_eq_true helev, Bool.or_true]
    rw [← opnd_zero hos] at haddr
    have hdrop : c.os.drop 1 = rest := by rw [hos]; rfl
    rw [← hdrop]
    refine ⟨fun hsl => ⟨?_, ?_⟩, fun hsl hown hres => ?_, fun hsl hown hbgt herr => ?_⟩
    · exact congrArg Host.Outcome.next (issue_ok h hhelper ((hclean h hmicro).trans (hsave_low hpriv hstk haddr hsl)) rfl rfl)
    · exact congrArg Host.Outcome.next (issue_ok h hhelper ((hclean h hmicro).trans (hrest_low hpriv hstk haddr hsl)) rfl rfl)
    · rw [← hkno] at hres ⊢
      exact congrArg Host.Outcome.next
        (issue_ok h hhelper ((hclean h hmicro).trans (hsave_reserves hpriv hstk haddr hsl hown hres)) rfl rfl)
    · rw [← hkno] at hown ⊢
      obtain ⟨u, hbody, htaken, hfreed⟩ := hrest_takes hpriv hstk haddr hk herr hbgt hsl hown
      refine ⟨_, congrArg Host.Outcome.next (issue_ok h hhelper ((hclean h hmicro).trans hbody) rfl rfl), ?_⟩
      obtain ⟨hown', hres'⟩ := own_retire u key sl.val { c with os := c.os.drop 1 } (after s x 1)
      exact ⟨hown'.trans htaken, hres'.trans hfreed, by rw [whoKey, ctx_retire, Ctx.goto_os]⟩
  · intro h hmicro helev
    have hpriv : privOf key c = false := by rw [privOf, hk, isFlt_pkt, helev]; rfl
    exact ⟨congrArg Host.Outcome.next (issue_exc h hhelper ((hclean h hmicro).trans (hsave_packetLevel hpriv))),
      congrArg Host.Outcome.next (issue_exc h hhelper ((hclean h hmicro).trans (hrest_packetLevel hpriv)))⟩
  · intro cb a b y h hmine hos hfloor hlimit hcode hcmds hlazy hkill hep hbank
    have hlen : c.os.length = rest.length + 2 := congrArg List.length hos
    obtain ⟨ep, hep⟩ := Option.ne_none_iff_exists'.mp hep
    exact congrArg Host.Outcome.next (issue_exc h hhelper (hcmd_foreignBank (s := s) (key := key) (hnot hmine)
      (stkErr_none (by omega) (by omega)) (by rw [rankOf_pkt]; exact hcode) hcmds hkill hlazy hep hbank))
  · intro cb h hsl hown
    exact congrArg Host.Outcome.next (issue_exc h hhelper (hcmd_notOwner (notOwner_of_other (key := key) hsl (by rw [hkno]; exact hown))))

end Sys2Proof.Machine
end

section
/-! EXCEPTION_ENTRY of a packet context: the squash behind the exception, the frame, and the context that the handler finds (07 R222,
R223; 08 R244, R245, R247). -/

namespace Sys2Proof.Machine

/-! ### The squash where nothing is in flight behind the exception (07 R223; log entry 17) -/

theorem alone_iff {c : Ctx} {x : Exc} : c.alone x = true ↔
    c.wlen ≠ 0 ∨ x.abandoned = true ∨ x.vec = 11 ∨ x.vec = 17 ∨ (x.vec = 15 ∧ c.grp.next = c.pc) := by
  simp only [Ctx.alone, Bool.or_eq_true, Bool.and_eq_true, decide_eq_true_eq, or_assoc]
  exact or_left_comm

/-- A younger group that did not issue in the next cycle leaves the state as it is but for the free value that says so. -/
theorem younger_unissued {s : State} (w : Who) (key : Nat) (g : Ctx) (h : Config.freePick s.freeCount % 2 = 0) :
    s.younger w key (some g) = { s with freeCount := s.freeCount + 1 } := if_pos h

section
variable {s : State} {w : Who} {x : Exc} {c : Ctx} (hc : s.ctx (whoKey w) = c)
include hc

/-- With nothing in flight behind the exception, only the place in the group goes. -/
theorem squash_alone (h : c.alone x = true) : s.squash w x = s.setCtx (whoKey w) { c with grp := { c.grp with left := 0 } } := by
  subst hc
  exact if_pos h

/-- At the last instruction of its group, with no younger group issued and no command of a squashed instruction open, the squash
moves only the count of free values. -/
theorem squash_endOfGroup (halone : c.alone x = false) (hvec : x.vec ≠ 15) (hret : x.ret = c.pc) (hleft : c.grp.left = 0)
    (hhs : ∀ h ∈ c.hs, h.sq = true → h.killed = true ∨ h.fin = true)
    (hpick : Config.freePick s.freeCount % 2 = 0) (hpick8 : Config.freePick (s.freeCount + 8) % 2 = 0) :
    ∃ n, s.squash w x =
      { s.setCtx (whoKey w) { c with grp := { c.grp with left := 0 } } with freeCount := s.freeCount + n } := by
  subst hc
  generalize hs1 : s.setCtx (whoKey w) { s.ctx (whoKey w) with grp := { (s.ctx (whoKey w)).grp with left := 0 } } = s1
  have hfree : s1.freeCount = s.freeCount := by rw [← hs1]; rfl
  have hclosed : (s1.ctx (whoKey w)).hs.any (fun h => h.sq && !h.killed && !h.fin) = false := by
    rw [← hs1, State.ctx_setCtx_same, List.any_eq_false]
    rintro h hh
    cases hsq : h.sq
    · simp
    · rcases hhs h hh hsq with hend | hend <;> simp [hend]
  have hkeeps : ∀ n, (({ s1 with freeCount := n } : State).ctx (whoKey w)).hs.any (fun h => h.sq && !h.killed && !h.fin) = false :=
    fun _ => hclosed
  simp only [State.squash, hs1, halone, hvec, hret, hleft, ne_eq, not_true_eq_false, false_and, Bool.false_eq_true, if_false]
  cases s1.ghostNext w (whoKey w) (s.ctx (whoKey w)) with
  | none => exact ⟨0, by simp only [State.younger, hclosed, Bool.false_eq_true, if_false]; rw [Nat.add_zero, ← hfree]⟩
  | some g =>
    by_cases hnext : g.pc = (s.ctx (whoKey w)).grp.next
    · refine ⟨9, ?_⟩
      simp only [hnext, if_true, State.ghosts]
      rw [younger_unissued _ _ _ (by rw [hfree]; exact hpick8)]
      simp only [hkeeps, Bool.false_eq_true, if_false, hfree]
    · refine ⟨1, ?_⟩
      simp only [hnext, if_false]
      rw [younger_unissued _ _ _ (by rw [hfree]; exact hpick)]
      simp only [hkeeps, Bool.false_eq_true, if_false, hfree]

end

/-! ### The frame of a packet context (R244, R245) -/

section
variable {r : Rank} {cn : CoreNo} {k : CtxNo}

theorem dblFault_pkt (s : State) (kind vec : Nat) (fa : Word) :
    s.dblFault (pk r.val cn.val k.val) kind vec fa = s.stopCtx (pk r.val cn.val k.val) kind vec fa := by
  rw [State.dblFault, isStw_pkt]
  rfl

theorem pushOk_pkt_iff {msp : Word} : pushOk (pk r.val cn.val k.val) msp = true ↔ msp.toNat % 64 = 0 ∧
    msp.toNat ≤ 0x30000 + 0x800 * k.val + 0x800 ∧ 0x30000 + 0x800 * k.val + 0x80 ≤ msp.toNat := by
  simp only [pushOk, stackBase, stackSize, isStw_pkt, ctxNoOf_pkt, Bool.false_eq_true, if_false, Bool.and_eq_true, decide_eq_true_eq,
    and_assoc, Nat.mul_comm k.val]

theorem lvlWords_none {ls : List Lvl} {l : Nat} (h : ls.reverse[l]? = none) : lvlWords ls l = [0, 0] := by rw [lvlWords, h]

theorem lvlWords_some {ls : List Lvl} {l : Nat} {v : Lvl} (h : ls.reverse[l]? = some v) :
    lvlWords ls l = [BitVec.ofNat 32 (v.start.toNat % 65536 + 65536 * (v.fin.toNat % 65536)), v.cnt] := by
  have hfin : at_ (v.fin.toNat % 65536) 16 = 65536 * (v.fin.toNat % 65536) := Nat.mul_comm _ _
  simp only [lvlWords, h, hfin]

theorem privOf_pkt (c : Ctx) : privOf (pk r.val cn.val k.val) c = decide (c.elev ≠ 0) := by
  rw [privOf, isStw_pkt, isFlt_pkt]
  rfl

theorem cswOf_pkt (c : Ctx) : cswOf (pk r.val cn.val k.val) c =
    BitVec.ofNat 32 (c.ls.length * 512 + c.elev.toNat * 128 + (if c.lazy then 4 else 0) + (if c.elev = 0 then 0 else 1)) := by
  rw [cswOf, privOf_pkt, isStw_pkt]
  cases c.lazy <;> by_cases h : c.elev = 0 <;> simp [at_, b2n, h]

theorem frameWords_pkt (c : Ctx) (x : Exc) : frameWords (pk r.val cn.val k.val) c x =
    [BitVec.ofNat 32 (x.ret.toNat % 65536),
     BitVec.ofNat 32 (c.ls.length * 512 + c.elev.toNat * 128 + (if c.lazy then 4 else 0) + (if c.elev = 0 then 0 else 1)),
     BitVec.setWidth 32 (c.pred ||| 1), c.a, c.b, c.faultaddr,
     BitVec.ofNat 32 (x.vec + 256 * c.cause.toNat + (if x.abandoned then 2 ^ 16 else 0) + (if x.sent then 2 ^ 17 else 0)), 0] ++
    lvlWords c.ls 0 ++ lvlWords c.ls 1 ++ lvlWords c.ls 2 ++ lvlWords c.ls 3 := by
  have hlevels : ((List.range 4).map (lvlWords c.ls)).flatten =
      lvlWords c.ls 0 ++ lvlWords c.ls 1 ++ lvlWords c.ls 2 ++ lvlWords c.ls 3 := by
    simp [List.range_succ]
  have hmarks : ∀ b : Bool, ∀ n, at_ (b2n b) n = if b then 2 ^ n else 0 := by
    intro b n
    cases b <;> simp [at_, b2n]
  rw [frameWords, hlevels, cswOf_pkt, isStw_pkt, hmarks, hmarks, at_, Nat.mul_comm c.cause.toNat]
  simp only [Ctx.predWord, Bool.false_and, Bool.false_eq_true, if_false, List.append_assoc]
  rfl

end

/-! ### The handler's context (R247) -/

/-- The context in its handler for exception `x`, at address `pc`: one level up, with the depths of its stacks as that level's floors. -/
def Ctx.inHandler (c : Ctx) (x : Exc) (pc : Word) : Ctx :=
  { c with st := .run, exc := none, useq := none, wait := .none, wlen := 0, msp := c.msp - 128, ls := [],
           grp := { c.grp with left := 0, flow := 0 }, cause := BitVec.ofNat 5 x.vec, faultaddr := x.faultaddr, pc := pc, lazy := true,
           elev := c.elev + 1,
           h1 := (if c.elev = 0 then ⟨false, c.os.length, c.rs.length⟩ else c.h1),
           h2 := (if c.elev = 0 then c.h2 else ⟨true, c.os.length, c.rs.length⟩) }

section
variable {s : State} {r : Rank} {cn : CoreNo} {k : CtxNo} {c : Ctx} {x : Exc}

theorem enter_badPush (hpush : pushOk (pk r.val cn.val k.val) c.msp = false) :
    s.enter (pk r.val cn.val k.val) c x = s.stopCtx (pk r.val cn.val k.val) 1 x.vec x.faultaddr := by
  rw [State.enter, hpush, dblFault_pkt]
  rfl

variable (hpush : pushOk (pk r.val cn.val k.val) c.msp = true)
include hpush

theorem enter_foreignBank {y : Nat} (hbank : s.portBad (pk r.val cn.val k.val) (c.msp.toNat - 128) 64 = some y) :
    s.enter (pk r.val cn.val k.val) c x = s.stopCtx (pk r.val cn.val k.val) 1 5 (BitVec.ofNat 32 y) := by
  rw [State.enter, hpush, hbank]
  exact dblFault_pkt s 1 5 _

/-- A valid push writes the frame, and the handler's context takes the place of the context. -/
theorem enter_pushes (hbank : s.portBad (pk r.val cn.val k.val) (c.msp.toNat - 128) 64 = none) (helev : c.elev.toNat ≤ 1)
    (h11 : c.v11pend = false) (htrig : c.trig = false) :
    let key := pk r.val cn.val k.val
    let u := s.portW key (c.msp.toNat - 128) (wordBytes (frameWords key c x))
    s.enter key c x = u.setCtx key (c.inHandler x (u.vectorOf key x.vec)) := by
  intro key u
  obtain ⟨-, -, hroom⟩ := pushOk_pkt_iff.mp hpush
  have hmsp : BitVec.ofNat 32 (c.msp.toNat - 128) = c.msp - 128 := by bv_omega
  have hinto : s.enter key c x = (u.setCtx key (c.inHandler x (u.vectorOf key x.vec))).boundary key := by
    rw [State.enter, hpush, hbank]
    simp only [key, isStw_pkt, privOf_pkt, hmsp, Bool.false_and, Bool.not_true, Bool.false_eq_true, if_false]
    obtain h | h : c.elev = 0 ∨ c.elev = 1 := by bv_omega
    · simp only [h, Ctx.inHandler, if_true]
      rfl
    · simp only [h, Ctx.inHandler]
      rfl
  rw [hinto]
  exact State.boundary_idle _ _ (by rwa [State.ctx_setCtx_same]) (by rwa [State.ctx_setCtx_same])

end

/-- EXCEPTION_ENTRY squashes what is behind the exception and enters the handler. -/
theorem exceptionEntry_eq {s : State} {r : Rank} {cn : CoreNo} {k : CtxNo} {x : Exc} (hst : (s.ctx (pk r.val cn.val k.val)).st = .entry)
    (hruns : s.runs r.val = true) (hexc : (s.ctx (pk r.val cn.val k.val)).exc = some x)
    (hclean : s.microClean (coreOf (pk r.val cn.val k.val)) = true) :
    let t := s.squash (.pkt r cn k) x
    exec (.exceptionEntry (.pkt r cn k)) s = .next (t.enter (pk r.val cn.val k.val) (t.ctx (pk r.val cn.val k.val)) x) := by
  intro t
  change execExceptionEntry (.pkt r cn k) s = _
  simp only [execExceptionEntry, whoKey, hst, hexc, coreOf_pkt, coreDom_pkt, hruns, sequence_of_clean hclean, ne_eq, not_true_eq_false,
    decide_false, Bool.not_true, Bool.or_self, Bool.false_eq_true, if_false]
  rfl

theorem PadWork.portW (s : State) {key : Nat} (hk : isStw key = false) (a : Nat) (bs : List Byte) : PadWork s (s.portW key a bs) := by
  rw [State.portW, hk]
  exact (PadWork.retireStores s key).trans (PadWork.spStore _ _ _ _)

/-- Settles O29: after the squash the push's address and the frame's bank decide between the handler and a double fault. -/
theorem exceptionEntryResult : Obligations.ExceptionEntryResult := by
  unfold Obligations.ExceptionEntryResult
  intro s0 s r cn k x key c c0 lvl frame hst hruns hexc hs hclean h11 htrig helev
  have hentry : exec (.exceptionEntry (.pkt r cn k)) s0 = .next (s.enter key c x) := by
    rw [exceptionEntry_eq hst hruns hexc hclean, ← hs]
  have hlvl : ∀ l, lvlWords c.ls l = lvl l := by
    intro l
    cases h : c.ls.reverse[l]? with
    | none => simp only [lvl, h, lvlWords_none h]
    | some v => simp only [lvl, h, lvlWords_some h]
  have hframe : frameWords key c x = frame := by rw [frameWords_pkt, hlvl, hlvl, hlvl, hlvl]
  rw [hentry]
  refine ⟨fun hal htop hroom => ?_, fun hbad => ?_, fun h => ?_, fun hlen hab hvec hret hleft hhs hpick hpick8 => ?_⟩
  · have hpush : pushOk key c.msp = true := pushOk_pkt_iff.mpr ⟨hal, htop, hroom⟩
    refine ⟨fun hbank => ?_, fun y hbank => congrArg Host.Outcome.next (enter_foreignBank hpush hbank)⟩
    have hpad : PadWork s (s.portW key (c.msp.toNat - 128) (wordBytes frame)) := PadWork.portW s (isStw_pkt r cn k) _ _
    refine ⟨_, _, rfl, congrArg Host.Outcome.next (enter_pushes hpush hbank helev h11 htrig), ?_⟩
    rw [hframe]
    exact ⟨State.ctx_setCtx_same _ _ _, fun j hj => (State.ctx_setCtx_ne _ _ _ _ hj).trans (hpad.ctx j), rfl⟩
  · refine congrArg Host.Outcome.next (enter_badPush (Bool.eq_false_iff.mpr fun hpush => ?_))
    obtain ⟨hal, htop, hroom⟩ := pushOk_pkt_iff.mp hpush
    omega
  · rw [hs]
    exact squash_alone rfl (alone_iff.mpr h)
  · have hnot : x.vec ≠ 11 ∧ x.vec ≠ 15 ∧ x.vec ≠ 17 := by simpa using hvec
    have halone : c0.alone x = false := by simp [Ctx.alone, hlen, hab, hnot]
    rw [hs]
    exact squash_endOfGroup rfl halone hnot.2.1 hret hleft hhs hpick hpick8

end Sys2Proof.Machine
end

section
/-! EXCEPTION_RETURN of a packet context: the frame that it reads, the checks, and the context that it restores (08 R246, R250, R251,
R255; 11 R343). -/

namespace Sys2Proof.Machine

/-! ### Reads of the frame port (08 R246, 11 R343) -/

theorem mem_wordsOf_iff {x n w : Nat} : w ∈ wordsOf x n ↔ n ≠ 0 ∧ x / 8 ≤ w ∧ w ≤ (x + n - 1) / 8 := by
  unfold wordsOf
  split
  · next h => simp [h]
  · next h =>
    simp only [List.mem_map, List.mem_range]
    refine ⟨?_, fun ⟨_, hlo, hhi⟩ => ⟨w - x / 8, by omega, by omega⟩⟩
    rintro ⟨i, hi, rfl⟩
    omega

/-- The words of a part are words of the whole. -/
theorem wordsOf_subset {x n y m : Nat} (hlo : y ≤ x) (hhi : x + n ≤ y + m) : wordsOf x n ⊆ wordsOf y m := by
  intro w hw
  obtain ⟨hn, hx, hw⟩ := mem_wordsOf_iff.mp hw
  have hbelow : y / 8 ≤ x / 8 := Nat.div_le_div_right hlo
  have habove : (x + n - 1) / 8 ≤ (y + m - 1) / 8 := Nat.div_le_div_right (by omega)
  exact mem_wordsOf_iff.mpr ⟨by omega, hbelow.trans hx, hw.trans habove⟩

/-- A buffer that has been drained holds no store. -/
theorem drainCore_drainCore (s : State) (ck : Nat) : (s.drainCore ck).drainCore ck = s.drainCore ck := by
  have hempty : ((s.drainCore ck).core ck).sbuf.isEmpty = true := by
    rw [State.drainCore]
    dsimp only
    split
    · assumption
    · rw [State.core_setCore_same]
      rfl
  exact if_pos hempty

/-- Words without a recorded error are read as they are. -/
theorem spTouchN_unmarked {s : State} {ck : Nat} {ws : List Nat} (h : ∀ w ∈ ws, tfind s.spErr (spWord ck (8 * w)) = none) (agent : Nat) :
    s.spTouchN ck agent ws = (false, s) := by
  induction ws with
  | nil => rfl
  | cons w ws ih =>
    obtain ⟨hw, hws⟩ := List.forall_mem_cons.mp h
    rw [Nat.mul_comm] at hw
    simp only [State.spTouchN, State.spTouch, hw, ih hws, Bool.or_self]

/-- The frame port of a packet core reads the bytes once the core's stores have retired. -/
theorem portR_unmarked {s d : State} {key a n : Nat} (hk : isStw key = false) (hd : s.drainCore (coreOf key) = d)
    (h : ∀ w ∈ wordsOf a n, tfind d.spErr (spWord (coreOf key) (8 * w)) = none) :
    s.portR key a n = (none, d.spR (coreOf key) a n, d) := by
  subst hd
  have hfind : (wordsOf a n).find? (fun w => decide (tfind (s.drainCore (coreOf key)).spErr (spWord (coreOf key) (8 * w)) = some true)) =
      none := List.find?_eq_none.mpr fun w hw => by simp [h w hw]
  simp only [State.portR, State.retireStores, hk, Bool.false_eq_true, if_false, hfind, spTouchN_unmarked h, Option.map_none]

section
variable {s d : State} {key : Nat} {f : Nat} (hk : isStw key = false) (hd : s.drainCore (coreOf key) = d)
  (herr : ∀ w ∈ wordsOf f 128, tfind d.spErr (spWord (coreOf key) (8 * w)) = none)
include hk hd herr

/-- The port's read of the frame. -/
theorem portR_frame : s.portR key f 64 = (none, d.spR (coreOf key) f 64, d) :=
  portR_unmarked hk hd fun w hw => herr w (wordsOf_subset (Nat.le_refl _) (by omega) hw)

/-- Its read of the helper area above the frame, the core's stores having retired. -/
theorem portR_area : d.portR key (f + 64) 64 = (none, d.spR (coreOf key) (f + 64) 64, d) :=
  portR_unmarked hk (hd ▸ drainCore_drainCore s _) fun w hw => herr w (wordsOf_subset (by omega) (by omega) hw)

end

/-! ### The helper area (R255) -/

section
variable {s : State} {key : Nat} {area : List Byte} {ws : List Word}

theorem refill_unfilled (h : hfill key ws = false) : s.refill key area ws = s := by
  rw [State.refill, h]
  rfl

@[simp] theorem ctx_setSlotState (r seat sl j : Nat) : (s.setSlotState r seat sl ws).ctx j = s.ctx j := by
  rw [State.setSlotState]
  split <;> rfl

/-- The helper state goes to the slot or to the save area; the contexts stay. -/
theorem ctx_refill (hk : isStw key = false) (j : Nat) : (s.refill key area ws).ctx j = s.ctx j := by
  rw [State.refill]
  dsimp only
  split
  · rfl
  · split
    · exact ctx_setSlotState _ _ _ _
    · exact (PadWork.portW s hk _ _).ctx j

end

/-! ### The return (R250, R251) -/

@[simp] theorem frameLoops_length (key : Nat) (ws : List Word) (n : Nat) : (frameLoops key ws n).length = n := by
  simp [frameLoops]

section
variable {s d : State} {r : Rank} {cn : CoreNo} {k : CtxNo} {key : Nat} {c : Ctx} {ws : List Word}
  (hkey : pk r.val cn.val k.val = key) (hc : s.ctx key = c) (hst : c.st = .ret) (hruns : s.runs r.val = true)
  (hquiet : s.levelQuiet key c.elev.toNat = true) (hclean : s.microClean (coreOf key) = true)
include hkey hc hst hruns hquiet hclean

theorem exceptionReturn_badPop (hpop : popOk key c.msp = false) :
    exec (.exceptionReturn (.pkt r cn k)) s = .next (s.stopCtx key 5 18 0) := by
  subst hkey
  change execExceptionReturn (.pkt r cn k) s = _
  simp only [execExceptionReturn, whoKey, hc, hst, hruns, hquiet, hpop, coreOf_pkt, coreDom_pkt, sequence_of_clean hclean,
    dblFault_pkt, ne_eq, not_true_eq_false, decide_false, Bool.not_true, Bool.not_false, Bool.or_self, Bool.false_eq_true, if_false,
    if_true]

variable (hpop : popOk key c.msp = true)
include hpop

theorem exceptionReturn_foreignBank {y : Nat} (hbank : s.portBad key c.msp.toNat 64 = some y) :
    exec (.exceptionReturn (.pkt r cn k)) s = .next (s.raise key ⟨5, BitVec.ofNat 32 y, c.pc, false, false⟩) := by
  subst hkey
  change execExceptionReturn (.pkt r cn k) s = _
  simp only [execExceptionReturn, whoKey, hc, hst, hruns, hquiet, hpop, hbank, coreOf_pkt, coreDom_pkt, sequence_of_clean hclean,
    ne_eq, not_true_eq_false, decide_false, Bool.not_true, Bool.or_self, Bool.false_eq_true, if_false]

variable (hbank : s.portBad key c.msp.toNat 64 = none) (hd : s.drainCore (coreOf key) = d)
  (herr : ∀ w ∈ wordsOf c.msp.toNat 128, tfind d.spErr (spWord (coreOf key) (8 * w)) = none)
  (hws : bytesWords (d.spR (coreOf key) c.msp.toNat 64) = ws)
include hbank hd herr hws

/-- With the frame's words good, its checks decide between a double fault and the restored context. -/
theorem exceptionReturn_checks : exec (.exceptionReturn (.pkt r cn k)) s = .next (if frameOk key c ws false
    then ((d.refill key (d.spR (coreOf key) (c.msp.toNat + 64) 64) ws).setCtx key (Ctx.restored key c ws false)).boundary key
    else d.stopCtx key 4 18 0) := by
  subst hkey
  have hframe := portR_frame (isStw_pkt r cn k) hd herr
  have harea := portR_area (isStw_pkt r cn k) hd herr
  change execExceptionReturn (.pkt r cn k) s = _
  simp only [execExceptionReturn, whoKey, hc, hst, hruns, hquiet, hpop, hbank, coreOf_pkt, coreDom_pkt, sequence_of_clean hclean,
    ne_eq, not_true_eq_false, decide_false, Bool.not_true, Bool.or_self, Bool.false_eq_true, if_false]
  rw [hframe]
  simp only [hws, harea, isStw_pkt, dblFault_pkt, Bool.false_and, Bool.false_eq_true, if_false]
  cases frameOk (pk r.val cn.val k.val) c ws false with
  | false => rfl
  | true =>
    cases hfilled : hfill (pk r.val cn.val k.val) ws with
    | true => simp only [coreOf_pkt, Bool.not_true, Bool.false_eq_true, if_false, if_true]
    | false => simp only [refill_unfilled hfilled, Bool.not_true, Bool.false_eq_true, if_false, if_true]

end

/-- Settles O30: the pop, the frame's bank and the checks of R251 decide between a double fault, vector 5 and the restored context. -/
theorem exceptionReturnResult : Obligations.ExceptionReturnResult := by
  unfold Obligations.ExceptionReturnResult
  intro s d r cn k key ck c ws area fl hst hruns hquiet h11 htrig helev hclean hd
  have hk : isStw key = false := isStw_pkt r cn k
  refine ⟨exceptionReturn_badPop rfl rfl hst hruns hquiet hclean,
    fun y hpop hbank => exceptionReturn_foreignBank rfl rfl hst hruns hquiet hclean hpop hbank, fun hpop hbank herr => ?_⟩
  have hchecks := exceptionReturn_checks rfl rfl hst hruns hquiet hclean hpop hbank hd.symm herr rfl
  refine ⟨fun hok => hchecks.trans (congrArg Host.Outcome.next (if_neg (by rw [hok]; exact Bool.false_ne_true))), fun hok => ?_⟩
  have hctx : ∀ j, (d.refill key area ws).ctx j = s.ctx j := fun j => by rw [ctx_refill hk, hd, (PadWork.drainCore s ck).ctx]
  have hfl : (if c.elev = 2 then (c.h2.ofloor, c.h2.rfloor) else (c.h1.ofloor, c.h1.rfloor)) = (fl.ofloor, fl.rfloor) := by
    simp only [fl]
    split <;> rfl
  refine ⟨(d.refill key area ws).setCtx key (Ctx.restored key c ws false), d.refill key area ws, hchecks.trans ?_, ?_⟩
  · rw [if_pos hok, State.boundary_idle _ _ (by rw [State.ctx_setCtx_same]; exact h11) (by rw [State.ctx_setCtx_same]; exact htrig)]
  · rw [State.ctx_setCtx_same]
    refine ⟨rfl, rfl, rfl, rfl, ?_, ?_, rfl, rfl, rfl, rfl, rfl, frameLoops_length _ _ _, rfl, rfl, rfl,
      fun j hj => (State.ctx_setCtx_ne _ _ _ _ hj).trans (hctx j), rfl, rfl, fun hfilled => ?_⟩
    · exact congrArg (fun p : Nat × Nat => c.os.drop (c.os.length - p.1)) hfl
    · exact congrArg (fun p : Nat × Nat => c.rs.drop (c.rs.length - p.2)) hfl
    · exact refill_unfilled (by rw [hfill, hk, hfilled]; rfl)

end Sys2Proof.Machine
end

section
/-! The guest bay: transfers, notices, results, the mirror, late errors and the power-good of its guest (01 R18, R21; 09 R285–R291). -/

namespace Sys2Proof.Machine

/-! ### A command changed in its context -/

/-- What `modCmd` makes of the command that it finds. -/
theorem mem_hs_modCmd {s : State} {key : Nat} {p : HCmd → Bool} {h : HCmd} (f : HCmd → HCmd)
    (hfind : (s.ctx key).hs.find? p = some h) : f h ∈ ((s.modCmd key p f).ctx key).hs := by
  obtain ⟨hp, pre, post, hhs, hpre⟩ := List.find?_eq_some_iff_append.mp hfind
  rw [State.modCmd, State.ctx_setCtx_same, hhs, mapFirst_append f post (by simpa using hpre) hp]
  exact List.mem_append_right _ List.mem_cons_self

@[simp] theorem rank_modCmd (s : State) (key : Nat) (p : HCmd → Bool) (f : HCmd → HCmd) (r : Nat) :
    (s.modCmd key p f).rank r = s.rank r := rfl

/-! ### GUEST_ISSUE, GUEST_KILL_NOTICE, GUEST_COMMIT_NOTICE (09 R268, R285, R286) -/

/-- The command of epoch `ep` whose transfer is presented: not yet accepted, killed only while its KILL waits to be presented. -/
def State.presents (s : State) (key ep : Nat) (h : HCmd) : Bool :=
  h.slot = 3 && h.ep = ep && !h.fin && !h.accepted && (!h.killed || s.killWaits key h)

/-- The guest of rank `r` accepts the command of epoch `ep` that `is` finds; a speculative one that is not squashed then waits for its
COMMIT. -/
def State.accepts (s : State) (r key ep : Nat) (is : HCmd → Bool) : State :=
  let u := s.modCmd key is (fun h => { h with accepted := true })
  if (s.ctx key).hs.any (fun h => is h && h.spec && !h.sq)
  then u.setRank r { u.rank r with gcmt := (u.rank r).gcmt ++ [⟨key, ep⟩] } else u

section
variable {s : State} {r key ep : Nat} {is : HCmd → Bool}

theorem gq_accepts : ((s.accepts r key ep is).rank r).gq = (s.rank r).gq := by
  unfold State.accepts
  dsimp only
  split
  · rw [State.rank_setRank_same, rank_modCmd]
  · rfl

variable {h : HCmd} (hfind : (s.ctx key).hs.find? is = some h)
include hfind

theorem mem_hs_accepts : { h with accepted := true } ∈ ((s.accepts r key ep is).ctx key).hs := by
  have hmem := mem_hs_modCmd (fun h => { h with accepted := true }) hfind
  unfold State.accepts
  dsimp only
  split <;> exact hmem

/-- A speculative command that is not squashed waits for its commit notice. -/
theorem mem_gcmt_accepts (hspec : h.spec = true) (hsq : h.sq = false) : ⟨key, ep⟩ ∈ ((s.accepts r key ep is).rank r).gcmt := by
  have hany : (s.ctx key).hs.any (fun h => is h && h.spec && !h.sq) = true :=
    List.any_eq_true.mpr ⟨h, List.mem_of_find?_eq_some hfind, by rw [List.find?_some hfind, hspec, hsq]; rfl⟩
  unfold State.accepts
  dsimp only
  rw [if_pos hany, State.rank_setRank_same]
  exact List.mem_append_right _ List.mem_cons_self

end

/-- The transfer is the command that the kill notice names. -/
def GXfer.isCmdOf (q : HRef) : GXfer → Bool
  | .cmd k e _ => decide (k = q.ctx) && decide (e = q.ep)
  | _ => false

/-- The transfer is an HPUT word of that command. -/
def GXfer.isPutOf (q : HRef) : GXfer → Bool
  | .put k e _ _ => decide (k = q.ctx) && decide (e = q.ep)
  | _ => false

/-- The transfers that wait once the KILL of `q` has reached the bay (R286). -/
def withdraw (q : HRef) (gq : List GXfer) : List GXfer :=
  if gq.any (GXfer.isCmdOf q) then gq.filter (fun g => !g.isCmdOf q && !g.isPutOf q) else gq

theorem isCmdOf_iff {q : HRef} {g : GXfer} : g.isCmdOf q = true ↔ ∃ tag, g = .cmd q.ctx q.ep tag := by
  cases g <;> simp [GXfer.isCmdOf]

/-- A command that the guest has accepted takes no transfer with it. -/
theorem withdraw_of_absent {q : HRef} {gq : List GXfer} (h : ∀ tag, GXfer.cmd q.ctx q.ep tag ∉ gq) : withdraw q gq = gq := by
  refine if_neg fun hany => ?_
  obtain ⟨g, hg, hcmd⟩ := List.any_eq_true.mp hany
  obtain ⟨tag, rfl⟩ := isCmdOf_iff.mp hcmd
  exact h tag hg

/-- The killed command's transfer waits no more. -/
theorem cmd_notMem_withdraw (q : HRef) (gq : List GXfer) (tag : BitVec 16) : GXfer.cmd q.ctx q.ep tag ∉ withdraw q gq := by
  have hcmd : (GXfer.cmd q.ctx q.ep tag).isCmdOf q = true := isCmdOf_iff.mpr ⟨tag, rfl⟩
  intro hmem
  unfold withdraw at hmem
  split at hmem
  · simp [hcmd] at hmem
  · next hany => exact hany (List.any_eq_true.mpr ⟨_, hmem, hcmd⟩)

section
variable {s : State} {r : Rank} (hready : s.ready r.val = true)
include hready

theorem guestIssue_cmd {key ep : Nat} {tag : BitVec 16} {rest : List GXfer} (hgq : (s.rank r.val).gq = .cmd key ep tag :: rest) :
    exec (.guestIssue r) s =
      .next ((s.setRank r.val { s.rank r.val with gq := rest }).accepts r.val key ep (s.presents key ep)) := by
  change execGuestIssue r s = _
  simp only [execGuestIssue, hready, hgq, Bool.not_true, Bool.false_eq_true, if_false]
  rfl

/-- A word's transfer leaves the queue and changes nothing else. -/
theorem guestIssue_word {g : GXfer} {rest : List GXfer} (hgq : (s.rank r.val).gq = g :: rest)
    (hg : ∀ key ep tag, g ≠ .cmd key ep tag) :
    exec (.guestIssue r) s = .next (s.setRank r.val { s.rank r.val with gq := rest }) := by
  change execGuestIssue r s = _
  cases g with
  | cmd key ep tag => exact absurd rfl (hg key ep tag)
  | put | restore => simp only [execGuestIssue, hready, hgq, Bool.not_true, Bool.false_eq_true, if_false]

theorem guestKillNotice_takes {q : HRef} {rest : List HRef} (hq : (s.rank r.val).gkill = q :: rest) :
    exec (.guestKillNotice r) s =
      .next (s.setRank r.val { s.rank r.val with gkill := rest, gq := withdraw q (s.rank r.val).gq }) := by
  change execGuestKillNotice r s = _
  simp only [execGuestKillNotice, hready, hq, Bool.not_true, Bool.false_eq_true, if_false]
  rfl

theorem guestCommitNotice_takes {q : HRef} {rest : List HRef} (hq : (s.rank r.val).gcmt = q :: rest) :
    exec (.guestCommitNotice r) s = .next ((s.setRank r.val { s.rank r.val with gcmt := rest }).modCmd q.ctx
      (fun h => h.slot = 3 && !h.killed && h.ep = q.ep && !h.committed) (fun h => { h with committed := true })) := by
  change execGuestCommitNotice r s = _
  simp only [execGuestCommitNotice, hready, hq, Bool.not_true, Bool.false_eq_true, if_false]

end

/-! ### GUEST_RESULT (09 R288) -/

/-- The code that a result's last word passes to vector 13 (R288). -/
def guestErr (last err : Bool) (code : Byte) : Option Byte :=
  if last && err then some (if 0x10 ≤ code.toNat ∧ code.toNat ≤ 0xEF then code else 0xEF) else none

theorem isSome_guestErr (last err : Bool) (code : Byte) : (guestErr last err code).isSome = (last && err) := by
  unfold guestErr
  split
  · next h => exact h.symm
  · next h => exact (Bool.not_eq_true _ ▸ h).symm

/-- The command with one more result word. -/
def HCmd.withWord (h : HCmd) (d : Word) (last : Bool) (err : Option Byte) : HCmd :=
  { h with res := h.res ++ [d], cnt := h.cnt + 1, last := last, err := err }

theorem ctx_countIf (s : State) (b : Bool) (a j : Nat) : (if b then s.count a else s).ctx j = s.ctx j := by
  cases b with
  | true => exact State.ctx_count s a 1 j
  | false => rfl

theorem guestResult_appends {s : State} {r : Rank} {seat : Seat} {k : CtxNo} {ep : Fin 16} {d : Word} {last err : Bool} {code : Byte}
    {c : Nat} {h : HCmd} (hready : s.ready r.val = true) (hpg : s.pins.gstPg = true) (hc : s.seatCore r.val seat.val = some c)
    (hfind : (s.ctx (pk r.val c k.val)).hs.find?
      (fun h => h.slot = 3 && !h.killed && h.ep = ep.val && !h.fin && !h.last && h.accepted) = some h) (hcnt : h.cnt < 16) :
    ∃ t, exec (.guestResult r seat k ep d last err code) s = .next t ∧
      h.withWord d last (guestErr last err code) ∈ (t.ctx (pk r.val c k.val)).hs := by
  change ∃ t, execGuestResult r seat k ep d last err code s = .next t ∧ _
  simp only [execGuestResult, hready, hpg, hc, hfind, Nat.not_le.mpr hcnt, Bool.not_true, Bool.or_self, Bool.false_eq_true, if_false]
  refine ⟨_, rfl, ?_⟩
  exact mem_hs_modCmd (fun h => h.withWord d last (guestErr last err code)) (by rw [ctx_countIf, hfind])

/-! ### GUEST_MIRROR_SAVE (09 R290) -/

theorem guestMirrorSave_sets {s : State} {r : Rank} (hready : s.ready r.val = true) (hpg : s.pins.gstPg = true) (seat : Seat)
    (w : Fin 16) (d : Word) : exec (.guestMirrorSave r seat w d) s = .next (s.setRank r.val { s.rank r.val with
      mirror := tset (s.rank r.val).mirror seat.val
        (lset ((tget [] (s.rank r.val).mirror seat.val ++ List.replicate 16 0).take 16) w.val d) }) := by
  change execGuestMirrorSave r seat w d s = _
  simp only [execGuestMirrorSave, hready, hpg, Bool.not_true, Bool.or_self, Bool.false_eq_true, if_false]

/-- A word of a seat's mirror once it has been replaced. -/
theorem getD_lset_mirror (ws : List Word) (w : Fin 16) (d : Word) :
    (lset ((ws ++ List.replicate 16 0).take 16) w.val d).getD w.val 0 = d := by
  have hlen : w.val < ((ws ++ List.replicate 16 (0 : Word)).take 16).length := by simp
  rw [lset_eq_set, List.getD_eq_getElem?_getD, List.getElem?_set_self hlen, Option.getD_some]

/-! ### GUEST_LATE_ERROR (09 R289) -/

/-- TAINT changes the rank's entry and its packet's slot alone. -/
theorem taint_frame (s : State) (r i : Nat) : { s.taint r i with ranks := s.ranks, sp := s.sp } = s := by
  unfold State.taint
  cases he : tfind (s.rank r).entries i with
  | none => rfl
  | some e =>
    simp only [modEntry_of_some he]
    split <;> rfl

@[simp] theorem taint_logs (s : State) (r i : Nat) : (s.taint r i).logs = s.logs := (congrArg State.logs (taint_frame s r i) :)

@[simp] theorem taint_counters (s : State) (r i : Nat) : (s.taint r i).counters = s.counters :=
  (congrArg State.counters (taint_frame s r i) :)

theorem taint_entry {s : State} {r i : Nat} {e : REntry} (he : tfind (s.rank r).entries i = some e) :
    ∃ e', tfind ((s.taint r i).rank r).entries i = some e' ∧ e'.md.taint = true := by
  have hmod := fun f => tfind_entries_modEntry s r i f
  simp only [he, Option.map_some] at hmod
  unfold State.taint
  rw [he]
  dsimp only
  split <;> exact ⟨_, hmod _, rfl⟩

/-- The entry that a late error's TAG names still holds the packet of TAG's generation. -/
def RankSt.tagHit (x : RankSt) (tag : Half) : Bool :=
  (match tfind x.entries (tag.toNat % 128) with | some e => decide (e.phase ≠ .mark) | none => false) &&
    decide ((tget 0 x.gens (tag.toNat % 128)).toNat = tag.toNat / 128)

theorem tagHit_of_held {x : RankSt} {tag : Half} {e : REntry} (he : tfind x.entries (tag.toNat % 128) = some e) (hphase : e.phase ≠ .mark)
    (hgen : (tget 0 x.gens (tag.toNat % 128)).toNat = tag.toNat / 128) : x.tagHit tag = true := by
  rw [RankSt.tagHit, he, decide_eq_true hgen, Bool.and_true]
  exact decide_eq_true hphase

/-- An entry of RANK_GST_LATE: VALID, HIT, the code and TAG. -/
def lateEntry (hit : Bool) (code : Byte) (tag : Half) : Nat := 2 ^ 31 + b2n hit * 2 ^ 29 + code.toNat * 65536 + tag.toNat

theorem lateEntry_fields (hit : Bool) (code : Byte) (tag : Half) :
    (BitVec.ofNat 32 (lateEntry hit code tag)).toNat % 65536 = tag.toNat ∧
    (BitVec.ofNat 32 (lateEntry hit code tag)).toNat / 65536 % 256 = code.toNat := by
  have hhit : b2n hit ≤ 1 := by cases hit <;> decide
  have hcode : code.toNat < 256 := code.isLt
  have htag : tag.toNat < 65536 := tag.isLt
  have hval : (BitVec.ofNat 32 (lateEntry hit code tag)).toNat = lateEntry hit code tag := by
    rw [BitVec.toNat_ofNat, lateEntry]
    omega
  rw [hval, lateEntry]
  omega

/-- The late error is logged and counted. -/
def State.lateLogged (s : State) (r : Nat) (code : Byte) (tag : Half) : State :=
  (s.count (rkA r 0x160)).logAdd (rkA r 0x2090) 8 (lateEntry ((s.rank r).tagHit tag) code tag)

/-- Where the entry still holds the packet, the packet is tainted and counted. -/
def State.tainted (s : State) (r : Nat) (tag : Half) : State := (s.taint r (tag.toNat % 128)).count (rkA r 0x168)

theorem guestLateError_logs {s : State} {r : Rank} (hready : s.ready r.val = true) (hpg : s.pins.gstPg = true) (tag : Half) (code : Byte) :
    exec (.guestLateError r tag code) s = .next (if (s.rank r.val).tagHit tag then (s.lateLogged r.val code tag).tainted r.val tag
      else s.lateLogged r.val code tag) := by
  change execGuestLateError r tag code s = _
  simp only [execGuestLateError, hready, hpg, Bool.not_true, Bool.or_self, Bool.false_eq_true, if_false]
  rfl

section
variable (s : State) (r : Nat) (tag : Half)

theorem log_tainted (a : Nat) : (s.tainted r tag).log a = s.log a := by
  rw [State.log, State.tainted, State.count_logs, taint_logs, State.log]

theorem ctr_tainted {a : Nat} (ha : a ≠ rkA r 0x168) : (s.tainted r tag).ctr a = s.ctr a := by
  rw [State.tainted, State.ctr_count, if_neg ha, State.ctr, taint_counters, State.ctr]

theorem rank_lateLogged (code : Byte) (j : Nat) : (s.lateLogged r code tag).rank j = s.rank j := by
  rw [State.lateLogged, State.rank_logAdd, State.rank_count]

theorem ctr_lateLogged (code : Byte) : (s.lateLogged r code tag).ctr (rkA r 0x160) = s.ctr (rkA r 0x160) + 1 := by
  rw [State.lateLogged, State.ctr, State.logAdd_counters]
  exact (State.ctr_count _ _ _ _).trans (if_pos rfl)

theorem ents_lateLogged (code : Byte) (hroom : (s.log (rkA r 0x2090)).ents.length < 8) :
    ((s.lateLogged r code tag).log (rkA r 0x2090)).ents =
      (s.log (rkA r 0x2090)).ents ++ [BitVec.ofNat 32 (lateEntry ((s.rank r).tagHit tag) code tag)] := by
  have hlog : (s.count (rkA r 0x160)).log (rkA r 0x2090) = s.log (rkA r 0x2090) := by rw [State.log, State.count_logs, State.log]
  rw [State.lateLogged, logAdd_room _ _ _ _ (hlog.symm ▸ hroom), hlog]

end

/-! ### A rank whose domain leaves ON, and a guest without power (01 R18, R21; 16 R450) -/

theorem ready_of_leaving {s : State} {d : Nat} (h : s.leaving d = true) : s.ready d = false := by
  rw [State.ready, h, Bool.not_true, Bool.and_false]

/-- A bay that the rank's domain has left presents no transfer and no notice. -/
theorem guestBay_leaving {s : State} {r : Rank} (h : s.leaving r.val = true) :
    exec (.guestIssue r) s = .next s ∧ exec (.guestKillNotice r) s = .next s ∧ exec (.guestCommitNotice r) s = .next s := by
  have hready := ready_of_leaving h
  change execGuestIssue r s = _ ∧ execGuestKillNotice r s = _ ∧ execGuestCommitNotice r s = _
  refine ⟨?_, ?_, ?_⟩
  · simp only [execGuestIssue, hready, Bool.not_false, if_true]
  · simp only [execGuestKillNotice, hready, Bool.not_false, if_true]
  · simp only [execGuestCommitNotice, hready, Bool.not_false, if_true]

/-- What comes from a guest without power is discarded. -/
theorem guestInput_unpowered {s : State} (hpg : s.pins.gstPg = false) (r : Rank) (seat : Seat) (k : CtxNo) (ep w : Fin 16) (d : Word)
    (last err : Bool) (code : Byte) (tag : Half) :
    exec (.guestResult r seat k ep d last err code) s = .next s ∧ exec (.guestMirrorSave r seat w d) s = .next s ∧
      exec (.guestLateError r tag code) s = .next s := by
  change execGuestResult r seat k ep d last err code s = _ ∧ execGuestMirrorSave r seat w d s = _ ∧ execGuestLateError r tag code s = _
  refine ⟨?_, ?_, ?_⟩
  · simp only [execGuestResult, hpg, Bool.not_false, Bool.or_true, if_true]
  · simp only [execGuestMirrorSave, hpg, Bool.not_false, Bool.or_true, if_true]
  · simp only [execGuestLateError, hpg, Bool.not_false, Bool.or_true, if_true]

/-- A guest without power is not present (R291). -/
theorem present3_unpowered {s : State} (hpg : s.pins.gstPg = false) (r : Nat) : s.present3 r = false := by
  have hbit : ∀ w : Word, bit w 31 = w.getLsbD 31 := fun w => Nat.testBit_eq_decide_div_mod_eq.symm
  rw [State.present3, hbit, State.gstCapWord, hpg]
  simp

/-! ### The commands of a guest that is gone (09 R291; log entry 121) -/

/-- A property that element `a`'s turn brings about and every turn keeps holds after all the turns. -/
theorem forEach_makes {α σ : Type} {P : σ → Prop} {l : List α} {f : α → σ → σ} {a : α} (ha : a ∈ l)
    (hmakes : ∀ s, P (f a s)) (hkeeps : ∀ b s, P s → P (f b s)) (s : σ) : P (forEach l s f) := by
  obtain ⟨pre, post, rfl⟩ := List.append_of_mem ha
  rw [forEach, List.foldl_append]
  exact forEach_keeps P post f hkeeps _ (hmakes _)

/-- A command of slot 3 that is still open: neither killed nor complete. -/
def HCmd.open3 (h : HCmd) : Bool := h.slot = 3 && !h.killed && !h.fin

/-- Every open command of slot 3 has its last word, with the code 0xFE. -/
def Ctx.guestEnded (c : Ctx) : Prop := ∀ h ∈ c.hs, h.open3 = true → h.last = true ∧ h.err = some 0xFE

theorem gone_ended (h : HCmd) : h.gone.last = true ∧ h.gone.err = some 0xFE := by
  unfold HCmd.gone
  dsimp only
  split <;> exact ⟨rfl, rfl⟩

/-- One context's turn of `State.guestGone`. -/
def State.endGuestCmds (s : State) (r key : Nat) : State :=
  let c := s.ctx key
  if c.hs.any HCmd.open3 then
    (s.setCtx key { c with hs := c.hs.map (fun h => if h.open3 then h.gone else h) }).count (rkA r 0x158)
      (c.hs.filter (fun h => h.open3 && h.err.isNone)).length
  else s

theorem rank_endGuestCmds (s : State) (r key j : Nat) : (s.endGuestCmds r key).rank j = s.rank j := by
  unfold State.endGuestCmds
  dsimp only
  split
  · rw [State.rank_count, State.rank_setCtx]
  · rfl

/-- A context's turn ends its own open commands. -/
theorem guestEnded_endGuestCmds_same (s : State) (r key : Nat) : ((s.endGuestCmds r key).ctx key).guestEnded := by
  unfold State.endGuestCmds
  dsimp only
  split
  · rw [State.ctx_count, State.ctx_setCtx_same]
    intro h hmem hopen
    obtain ⟨g, -, rfl⟩ := List.mem_map.mp hmem
    by_cases hg : g.open3 = true
    · rw [if_pos hg]
      exact gone_ended g
    · rw [if_neg hg] at hopen
      exact absurd hopen hg
  · next hany => exact fun h hmem hopen => absurd (List.any_eq_true.mpr ⟨h, hmem, hopen⟩) hany

theorem ctx_endGuestCmds_ne (s : State) (r : Nat) {key j : Nat} (hj : j ≠ key) : (s.endGuestCmds r key).ctx j = s.ctx j := by
  unfold State.endGuestCmds
  dsimp only
  split
  · rw [State.ctx_count, State.ctx_setCtx_ne _ _ _ _ hj]
  · rfl

/-- No context's turn opens a command again. -/
theorem guestEnded_endGuestCmds {s : State} (r key : Nat) {j : Nat} (h : (s.ctx j).guestEnded) :
    ((s.endGuestCmds r key).ctx j).guestEnded := by
  by_cases hj : j = key
  · rw [hj]
    exact guestEnded_endGuestCmds_same s r key
  · rw [ctx_endGuestCmds_ne s r hj]
    exact h

/-- A rank that waits for nothing of its bay. -/
def RankSt.emptyBay (x : RankSt) : RankSt := { x with gq := [], gkill := [], gcmt := [] }

section
variable {s : State} {r : Nat}

theorem guestGone_absent (h : s.present3 r = false) : s.guestGone r = forEach ((List.range 117).map (fun j => r * 117 + j))
    (s.setRank r (s.rank r).emptyBay) (fun key s => s.endGuestCmds r key) := by
  rw [State.guestGone, h]
  rfl

theorem rank_guestGone (h : s.present3 r = false) (j : Nat) : (s.guestGone r).rank j = (s.setRank r (s.rank r).emptyBay).rank j := by
  rw [guestGone_absent h]
  exact forEach_keeps (fun t => t.rank j = (s.setRank r (s.rank r).emptyBay).rank j) _ _
    (fun key t ht => (rank_endGuestCmds t r key j).trans ht) _ rfl

theorem guestGone_pins : (s.guestGone r).pins = s.pins := (congrArg State.pins (guestGone_frame s r) :)

/-- Rank `r` has nothing waiting for the bay, and each of its open commands of slot 3 has its last word, with the code 0xFE. -/
def State.guestQuiet (s : State) (r : Nat) : Prop :=
  (s.rank r).emptyBay = s.rank r ∧ ∀ j < 117, (s.ctx (r * 117 + j)).guestEnded

/-- A rank that finds no guest has nothing open with it. -/
theorem guestQuiet_guestGone_same (h : s.present3 r = false) : (s.guestGone r).guestQuiet r := by
  refine ⟨?_, fun j hj => ?_⟩
  · rw [rank_guestGone h, State.rank_setRank_same]
    rfl
  · rw [guestGone_absent h]
    exact forEach_makes (P := fun t => (t.ctx (r * 117 + j)).guestEnded) (List.mem_map_of_mem (List.mem_range.mpr hj))
      (fun t => guestEnded_endGuestCmds_same t r _) (fun key t ht => guestEnded_endGuestCmds r key ht) _

/-- Another rank's loss of its guest opens nothing again. -/
theorem guestQuiet_guestGone {q : Nat} (hquiet : s.guestQuiet q) : (s.guestGone r).guestQuiet q := by
  obtain ⟨hbay, hended⟩ := hquiet
  cases h : s.present3 r with
  | true =>
    rw [guestGone_present s r h]
    exact ⟨hbay, hended⟩
  | false =>
    refine ⟨?_, fun j hj => ?_⟩
    · rw [rank_guestGone h]
      by_cases hq : q = r
      · rw [hq, State.rank_setRank_same]
        rfl
      · rw [State.rank_setRank_ne _ _ _ _ hq]
        exact hbay
    · rw [guestGone_absent h]
      exact forEach_keeps (fun t : State => (t.ctx (q * 117 + j)).guestEnded) _ _
        (fun key t ht => guestEnded_endGuestCmds r key ht) _ (hended j hj)

end

/-! ### GST_PG_CHANGE (09 R291; 19 R522) -/

/-- The state with the power-good pin of the guests at `pg`. -/
def State.pgSet (s : State) (pg : Bool) : State := { s with pins := { s.pins with gstPg := pg } }

/-- Every rank that is ON finds out whether it has its guest. -/
def State.pgSeen (s : State) : State := forEach ((List.range 12).filter s.isOn) s (fun r s => s.guestGone r)

theorem gstPgChange_eq (s : State) (pg : Bool) : exec (.gstPgChange pg) s = .next (s.pgSet pg).pgSeen := rfl

theorem pgSeen_pins (s : State) : s.pgSeen.pins = s.pins :=
  forEach_keeps (fun t => t.pins = s.pins) _ _ (fun _ _ ht => guestGone_pins.trans ht) s rfl

/-- At the fall of the pin a rank that is ON has nothing open with its guest. -/
theorem guestQuiet_pgSeen {s : State} (hpg : s.pins.gstPg = false) (r : Rank) (hon : s.isOn r.val = true) : s.pgSeen.guestQuiet r.val := by
  have hfall : s.pgSeen.pins.gstPg = false → s.pgSeen.guestQuiet r.val := by
    unfold State.pgSeen
    refine forEach_makes (P := fun t : State => t.pins.gstPg = false → t.guestQuiet r.val)
      (List.mem_filter.mpr ⟨List.mem_range.mpr r.isLt, hon⟩) (fun t ht => ?_) (fun q t hquiet ht => ?_) s
    · exact guestQuiet_guestGone_same (present3_unpowered (guestGone_pins ▸ ht) r.val)
    · exact guestQuiet_guestGone (hquiet (guestGone_pins ▸ ht))
  exact hfall (by rw [pgSeen_pins, hpg])

/-- Settles O35: the bay's clauses by what `accepts`, `withdraw` and `modCmd` do, a late error by `lateLogged` and `tainted`, the fall of
the guest's power-good by what every rank's `guestGone` brings about or keeps. -/
theorem guestPortResult : Obligations.GuestPortResult := by
  unfold Obligations.GuestPortResult
  intro s r x
  refine ⟨fun hruns hleave => ?_, fun hpg seat k ep w d last err code tag => guestInput_unpowered hpg r seat k ep w d last err code tag,
    guestBay_leaving, fun pg => ⟨_, gstPgChange_eq s pg, pgSeen_pins _, fun hpg hon => ?_⟩⟩
  · have hready : s.ready r.val = true := (ready_iff s r.val).mpr ⟨hruns, hleave⟩
    refine ⟨fun g rest hgq => ?_, fun q rest hq => ?_, fun q rest hq => ?_, fun seat k ep d last err code c h hpg hc hfind hcnt => ?_,
      fun seat w d hpg => ?_, fun tag code hpg hroom => ?_⟩
    · by_cases hg : ∃ key ep tag, g = .cmd key ep tag
      · obtain ⟨key, ep, tag, rfl⟩ := hg
        refine ⟨_, guestIssue_cmd hready hgq, ?_, ?_⟩
        · rw [gq_accepts, State.rank_setRank_same]
        · rintro _ _ _ h ⟨⟩ hfind
          exact ⟨mem_hs_accepts hfind, mem_gcmt_accepts hfind⟩
      · push Not at hg
        exact ⟨_, guestIssue_word hready hgq hg, by rw [State.rank_setRank_same], fun key ep tag _ h => absurd h (hg key ep tag)⟩
    · refine ⟨_, guestKillNotice_takes hready hq, ?_⟩
      rw [State.rank_setRank_same]
      exact ⟨rfl, withdraw_of_absent, cmd_notMem_withdraw q _⟩
    · refine ⟨_, guestCommitNotice_takes hready hq, ?_⟩
      rw [rank_modCmd, State.rank_setRank_same]
    · obtain ⟨t, ht, hmem⟩ := guestResult_appends (d := d) (last := last) (err := err) (code := code) hready hpg hc hfind hcnt
      exact ⟨t, _, ht, hmem, rfl, rfl, isSome_guestErr last err code⟩
    · refine ⟨_, guestMirrorSave_sets hready hpg seat w d, ?_, rfl⟩
      rw [State.rank_setRank_same, tget_tset_same]
      exact getD_lset_mirror _ w d
    · obtain ⟨htag, hcode⟩ := lateEntry_fields (x.tagHit tag) code tag
      refine ⟨_, _, guestLateError_logs hready hpg tag code, ?_, htag, hcode, ?_, fun en hen hphase hgen => ?_⟩
      · split
        · rw [log_tainted, ents_lateLogged _ _ _ _ hroom]
        · exact ents_lateLogged _ _ _ _ hroom
      · split
        · rw [ctr_tainted _ _ _ (by simp [rkA]), ctr_lateLogged]
        · exact ctr_lateLogged _ _ _ _
      · rw [if_pos (tagHit_of_held hen hphase hgen), State.tainted, State.rank_count]
        exact taint_entry (by rw [rank_lateLogged]; exact hen)
  · subst hpg
    obtain ⟨hbay, hended⟩ := guestQuiet_pgSeen (s := s.pgSet false) rfl r hon
    refine ⟨congrArg RankSt.gq hbay.symm, congrArg RankSt.gkill hbay.symm, congrArg RankSt.gcmt hbay.symm,
      fun j hj h hmem hslot hkilled hfin => hended j hj h hmem ?_⟩
    rw [HCmd.open3, hslot, hkilled, hfin]
    rfl

end Sys2Proof.Machine
end

section
/-! What the rows of table memory share: operations listed and ended, tiles that fail, registers written one after the other (10 R315,
R319). -/

namespace Sys2Proof.Machine
open Sys2Proof.Claim

/-! ### Operations listed, and ended -/

theorem mem_putOp (s : State) (o : TOp) : o ∈ (s.putOp o).tb.ops :=
  List.mem_append_right _ (List.mem_singleton_self _)

theorem putOp_frame (s : State) (o : TOp) (x : Tables) : { s.putOp o with tb := x } = { s with tb := x } := rfl

/-- An operation as it stands once it has ended. -/
def TOp.ended (o : TOp) (res : Nat) (out : List Byte) : TOp :=
  { o with fin := true, res := BitVec.ofNat 32 res, out := out, acc := [], seqHalf := none, hint := [] }

/-- An operation that somebody waits for ends listed, with its result. -/
theorem finOp_lists (s : State) {o : TOp} (hkind : o.kind ≠ .copy) (horphan : o.orphan = false) (res : Nat) (out : List Byte) :
    s.finOp o res out = s.putOp (o.ended res out) := by
  simp only [State.finOp, if_neg hkind, horphan, Bool.false_eq_true, if_false, TOp.ended]

/-! ### A tile that fails (R319) -/

section
variable {s : State} {x cause : Nat}

theorem failTile_of_not_failed (h : s.failedTile x = false) : s.failTile x cause =
    (State.setArb { s with tb := { s.tb with scrubReq := s.tb.scrubReq.filter (fun y => y.1 ≠ x) } } x
      { s.arb x with failed := true, failCause := cause }).orReg (tbA (0x100 + 4 * x)) 2 := by
  rw [State.failedTile] at h
  simp only [State.failTile, h, Bool.false_eq_true, if_false]

theorem failTile_failed : (s.failTile x cause).failedTile x = true := by
  cases h : s.failedTile x with
  | true =>
    rw [State.failTile, if_pos (show (s.arb x).failed = true from h)]
    exact h
  | false =>
    rw [failTile_of_not_failed h]
    exact congrArg Arb.failed (tget_tset_same _ _ _ _)

theorem failCause_failTile (h : s.failedTile x = false) : ((s.failTile x cause).arb x).failCause = cause := by
  rw [failTile_of_not_failed h]
  exact congrArg Arb.failCause (tget_tset_same _ _ _ _)

theorem reg_failTile (h : s.failedTile x = false) :
    (s.failTile x cause).reg (tbA (0x100 + 4 * x)) = (s.reg (tbA (0x100 + 4 * x)) ||| 2) := by
  rw [failTile_of_not_failed h]
  exact State.reg_setReg_same _ _ _

theorem failTile_dbg : (s.failTile x cause).dbg = s.dbg := by
  unfold State.failTile
  dsimp only
  split <;> rfl

end

/-! ### Words of table memory's registers, one after the other -/

/-- The words `v` written from offset `b` stand there, and nothing else changes. -/
theorem setRegs_spec (b : Nat) (v : Nat → Word) (s : State) (n : Nat) :
    let u := forEach (List.range n) s (fun i s => s.setReg (tbA (b + 4 * i)) (v i))
    { u with regs := s.regs } = s ∧ ∀ i, i < n → u.reg (tbA (b + 4 * i)) = v i := by
  induction n with
  | zero => exact ⟨rfl, fun i hi => absurd hi (Nat.not_lt_zero i)⟩
  | succ n ih =>
    obtain ⟨hframe, hwords⟩ := ih
    simp only [forEach, List.range_succ, List.foldl_append, List.foldl_cons, List.foldl_nil] at hframe hwords ⊢
    refine ⟨hframe, fun i hi => ?_⟩
    by_cases hin : i = n
    · subst hin
      exact State.reg_setReg_same _ _ _
    · rw [State.reg_setReg_ne _ _ _ _ (by simp only [tbA]; omega)]
      exact hwords i (by omega)

/-! ### The end of a write leaves table memory -/

@[simp] theorem tb_acked (q : Req) (a : Nat) (s : State) : (acked q a s).tb = s.tb := by cases q <;> rfl
@[simp] theorem arb_acked (q : Req) (a : Nat) (s : State) (t : Nat) : (acked q a s).arb t = s.arb t := by cases q <;> rfl
@[simp] theorem failedTile_acked (q : Req) (a : Nat) (s : State) (t : Nat) : (acked q a s).failedTile t = s.failedTile t := by
  cases q <;> rfl
@[simp] theorem abank_acked (q : Req) (a : Nat) (s : State) (t : Nat) : (acked q a s).abank t = s.abank t := by cases q <;> rfl
@[simp] theorem pbank_acked (q : Req) (a : Nat) (s : State) (t : Nat) : (acked q a s).pbank t = s.pbank t := by cases q <;> rfl

end Sys2Proof.Machine
end

section
/-! The TBL_CMD rows, TBL_CMD_COMPLETE and TBL_RELOC (10 R315, R320). -/

namespace Sys2Proof.Machine
open Sys2Proof.Claim

/-! ### How a command's operation begins (R315) -/

/-- The kinds of TBL_CMD's operations. -/
abbrev TKind.isCmd (kd : TKind) : Prop := kd = .cmdRead ∨ kd = .cmdWrite ∨ kd = .rowsRead ∨ kd = .rowsWrite

/-- An operation of TBL_CMD is listed as it begins, with its first access or with the error that it ends with. -/
theorem beginOp_cmd (s : State) {o : TOp} (hkind : o.kind.isCmd) (horphan : o.orphan = false) :
    ∃ p, s.beginOp o = s.putOp p ∧ ((∃ acc, p = { o with acc := acc }) ∨ p = o.ended 3 []) := by
  have hcopy : o.kind ≠ .copy := fun h => by simp [TKind.isCmd, h] at hkind
  by_cases hdead : s.opDead o = true
  · refine ⟨_, ?_, .inr rfl⟩
    rw [State.beginOp, if_pos hdead, ← finOp_lists s hcopy horphan]
    rcases hkind with h | h | h | h <;> simp only [State.failOp, h]
  · simp only [State.beginOp, if_neg hdead]
    rcases hkind with h | h | h | h <;> simp only [h] <;> exact ⟨_, rfl, .inl ⟨_, rfl⟩⟩

/-- A command that starts is BUSY, and its operation is listed under a new number. -/
theorem cmdStart_lists (s : State) {kd : TKind} (hkd : kd.isCmd) (t : Nat) (bank : Bool) (idx node : Nat) (data : List Byte) :
    ∃ p acc fin res, s.cmdStart (TOp.cmd kd t bank idx node data) =
        State.putOp { s with tb := { s.tb with busy := true, cmdDone := false, cmdReason := 0, opNo := s.tb.opNo + 1 } } p ∧
      p = { TOp.cmd kd t bank idx node data with id := s.tb.opNo, acc := acc, fin := fin, res := res } := by
  obtain ⟨p, hbegin, ⟨acc, hp⟩ | hp⟩ := beginOp_cmd
    { s with tb := { s.tb with busy := true, cmdDone := false, cmdReason := 0, opNo := s.tb.opNo + 1 } }
    (o := { TOp.cmd kd t bank idx node data with id := s.tb.opNo }) hkd rfl
  · exact ⟨p, _, _, _, hbegin, hp⟩
  · exact ⟨p, _, _, _, hbegin, hp⟩

section
variable {s : State} {q : Req}

theorem writeCmd_tblCmd (h : MayWrite s q (tbA 0)) {f : State → State} {u : State} (hf : f s = u) (hdbg : u.dbg = s.dbg) :
    s.writeCmd q (tbA 0) f = acked q (tbA 0) u := by
  subst hf
  exact writeCmd_of_MayWrite h f (congrArg Dbg.level hdbg)

/-- A command that its write starts. -/
theorem tblCmd_starts (h : MayWrite s q (tbA 0)) {i : Instr} {f : State → State} {kd : TKind} {t idx node : Nat} {bank : Bool}
    {data : List Byte} (hexec : exec i s = .next (s.writeCmd q (tbA 0) f)) (hkd : kd.isCmd)
    (hf : f s = s.cmdStart (TOp.cmd kd t bank idx node data)) {P : TOp → Prop}
    (hP : ∀ o : TOp, o.kind = kd → o.table = t → o.idx = idx → o.node = node → o.data = data → P o) :
    ∃ u o, exec i s = .next u ∧ u.tb.busy = true ∧ u.tb.cmdDone = false ∧ o ∈ u.tb.ops ∧ o.src = tblCmd ∧ o.id = s.tb.opNo ∧ P o := by
  obtain ⟨p, acc, fin, res, hstart, hp⟩ := cmdStart_lists s hkd t bank idx node data
  rw [writeCmd_tblCmd h (hf.trans hstart) rfl] at hexec
  refine ⟨_, p, hexec, ?_, ?_, ?_, ?_⟩
  · rw [tb_acked]
    rfl
  · rw [tb_acked]
    rfl
  · rw [tb_acked]
    exact mem_putOp _ _
  · subst hp
    exact ⟨rfl, rfl, hP _ rfl rfl rfl rfl rfl⟩

end

/-! ### What each OP does with its fields (R315) -/

section
variable {s : State}

theorem cmdEntry_busy (h : s.tb.busy = true) (write bank : Bool) (t : Nat) : s.cmdEntry write bank t = s := if_pos h

theorem cmdRows_busy (h : s.tb.busy = true) (write : Bool) (len : Nat) : s.cmdRows write len = s := if_pos h

theorem cmdFail_busy (h : s.tb.busy = true) : s.cmdFail = s := if_pos h

variable (hbusy : s.tb.busy = false)
include hbusy

/-- An entry that does not exist (REASON 2). -/
theorem cmdEntry_absent (write : Bool) {bank : Bool} {t : Nat}
    (h : ¬ (s.tKind t ≠ 0 ∧ s.fld (tbA 4) 23 0 < s.tLen t ∧ (bank = true → s.tDual t = true))) :
    s.cmdEntry write bank t = s.cmdEnd 2 := by
  have habsent : (s.tKind t = 0 || decide (s.tLen t ≤ s.fld (tbA 4) 23 0) || (bank && !s.tDual t)) = true := by
    by_contra hc
    apply h
    simpa [not_or, and_assoc] using hc
  simp only [State.cmdEntry, hbusy, Bool.false_eq_true, if_false, if_pos habsent]

section
variable {bank : Bool} {t : Nat}
  (hthere : s.tKind t ≠ 0 ∧ s.fld (tbA 4) 23 0 < s.tLen t ∧ (bank = true → s.tDual t = true))
include hthere

theorem cmdEntry_there (write : Bool) : s.cmdEntry write bank t =
    if write && s.tDual t && !s.idleBank t bank then s.cmdEnd 1
    else if write then s.cmdStart (TOp.cmd .cmdWrite t bank (s.fld (tbA 4) 23 0) 0 (s.tblData (s.tW t)))
    else s.cmdStart (TOp.cmd .cmdRead t bank (s.fld (tbA 4) 23 0) 0 []) := by
  obtain ⟨hkind, hlen, hbank⟩ := hthere
  have hpresent : (s.tKind t = 0 || decide (s.tLen t ≤ s.fld (tbA 4) 23 0) || (bank && !s.tDual t)) = false := by
    simpa [hkind, hlen, Nat.not_le] using hbank
  simp only [State.cmdEntry, hbusy, hpresent, Bool.false_eq_true, if_false]

theorem cmdEntry_read : s.cmdEntry false bank t = s.cmdStart (TOp.cmd .cmdRead t bank (s.fld (tbA 4) 23 0) 0 []) :=
  cmdEntry_there hbusy hthere false

/-- A live bank is not written (REASON 1). -/
theorem cmdEntry_live (hdual : s.tDual t = true) (hidle : s.idleBank t bank = false) : s.cmdEntry true bank t = s.cmdEnd 1 := by
  rw [cmdEntry_there hbusy hthere, if_pos (by simp [hdual, hidle])]

theorem cmdEntry_write (h : s.tDual t = false ∨ s.idleBank t bank = true) : s.cmdEntry true bank t =
    s.cmdStart (TOp.cmd .cmdWrite t bank (s.fld (tbA 4) 23 0) 0 (s.tblData (s.tW t))) := by
  rw [cmdEntry_there hbusy hthere, if_neg (by rcases h with h | h <;> simp [h]), if_pos rfl]

end

/-- Rows that do not exist, or none (REASON 2). -/
theorem cmdRows_absent (write : Bool) {len : Nat} (h : len = 0 ∨ 65536 < s.fld (tbA 4) 15 0 + len) :
    s.cmdRows write len = s.cmdEnd 2 := by
  simp only [State.cmdRows, hbusy, Bool.false_eq_true, if_false, if_pos h]

section
variable {len : Nat} (hlen : len ≠ 0) (hend : s.fld (tbA 4) 15 0 + len ≤ 65536)
include hlen hend

theorem cmdRows_there (write : Bool) : s.cmdRows write len =
    if write && (List.range len).any (fun i => s.liveRow (s.fld (tbA 4) 20 16) (s.fld (tbA 4) 15 0 + i)) then s.cmdEnd 1
    else if s.failedTile (s.fld (tbA 4) 20 16) then s.cmdEnd 3
    else if write then s.cmdStart (TOp.cmd .rowsWrite (s.fld (tbA 4) 20 16) false (s.fld (tbA 4) 15 0) len (s.tblData (32 * min len 16)))
    else s.cmdStart (TOp.cmd .rowsRead (s.fld (tbA 4) 20 16) false (s.fld (tbA 4) 15 0) len []) := by
  simp only [State.cmdRows, hbusy, Bool.false_eq_true, if_false, if_neg (not_or.mpr ⟨hlen, Nat.not_lt.mpr hend⟩)]

theorem cmdRows_read (hfailed : s.failedTile (s.fld (tbA 4) 20 16) = false) : s.cmdRows false len =
    s.cmdStart (TOp.cmd .rowsRead (s.fld (tbA 4) 20 16) false (s.fld (tbA 4) 15 0) len []) := by
  simp only [cmdRows_there hbusy hlen hend, Bool.false_and, hfailed, Bool.false_eq_true, if_false]

/-- A tile that has failed (REASON 3). -/
theorem cmdRows_failed (hfailed : s.failedTile (s.fld (tbA 4) 20 16) = true) : s.cmdRows false len = s.cmdEnd 3 := by
  simp only [cmdRows_there hbusy hlen hend, Bool.false_and, hfailed, Bool.false_eq_true, if_false, if_true]

/-- Rows of a live bank are not written (REASON 1). -/
theorem cmdRows_live
    (hlive : (List.range len).any (fun i => s.liveRow (s.fld (tbA 4) 20 16) (s.fld (tbA 4) 15 0 + i)) = true) :
    s.cmdRows true len = s.cmdEnd 1 := by
  simp only [cmdRows_there hbusy hlen hend, hlive, Bool.and_self, if_true]

theorem cmdRows_write
    (hlive : (List.range len).any (fun i => s.liveRow (s.fld (tbA 4) 20 16) (s.fld (tbA 4) 15 0 + i)) = false)
    (hfailed : s.failedTile (s.fld (tbA 4) 20 16) = false) : s.cmdRows true len =
    s.cmdStart (TOp.cmd .rowsWrite (s.fld (tbA 4) 20 16) false (s.fld (tbA 4) 15 0) len (s.tblData (32 * min len 16))) := by
  simp only [cmdRows_there hbusy hlen hend, hlive, hfailed, Bool.and_false, Bool.false_eq_true, if_false, if_true]

end

theorem cmdFail_eq : s.cmdFail = (s.failTile (s.fld (tbA 4) 20 16) 3).cmdEnd 0 := by
  simp only [State.cmdFail, hbusy, Bool.false_eq_true, if_false]

end

/-- TBL_CMD_COMPLETE ends the command that has finished: its data stand in TBL_DATA. -/
theorem tblCmdComplete_eq {s : State} {o : TOp} (h : s.tb.ops.find? (fun o => o.fin && o.src = tblCmd) = some o) :
    exec .tblCmdComplete s = .next ((forEach (List.range (o.out.length / 4))
      { s with tb := { s.tb with ops := s.tb.ops.filter (fun p => p.id ≠ o.id) } }
      (fun i s => s.setReg (tbA (0x400 + 4 * i)) (BitVec.ofNat 32 (leNat ((o.out.drop (4 * i)).take 4))))).cmdEnd o.res.toNat) := by
  change execTblCmdComplete s = _
  simp only [execTblCmdComplete, h]
  rfl

/-- TBL_RELOC keeps a write, but for VALID where the table is DUAL or mirrored (R320). -/
theorem writeReloc_eq (s : State) (k : Nat) (w : Word) : s.writeReloc k w = s.setReg (tbA (0x300 + 4 * k))
    (if s.tDual (bits w 23 16) || s.tMirror (bits w 23 16) then w &&& 0x5FFFFFFF else w &&& 0xDFFFFFFF) := by
  have hvalid : w &&& 0xDFFFFFFF &&& 0x7FFFFFFF = w &&& 0x5FFFFFFF := BitVec.and_assoc _ _ _
  simp only [State.writeReloc, hvalid]

/-- Settles O47: the commands by what `cmdEntry`, `cmdRows` and `cmdFail` make of their fields, their end by `setRegs_spec`. -/
theorem tableCommands : Obligations.TableCommands := by
  unfold Obligations.TableCommands
  refine ⟨?_, ?_, ?_⟩
  · intro s q hq ended same started
    have hnext : ∀ {f : State → State} {u : State}, f s = u → u.dbg = s.dbg →
        Host.Outcome.next (s.writeCmd q (tbA 0) f) = (.next (acked q (tbA 0) u) : Out) :=
      fun hf hdbg => congrArg Host.Outcome.next (writeCmd_tblCmd hq hf hdbg)
    refine ⟨fun hbusy bank tid len => ?_, fun hbusy => ⟨?_, ?_, ?_⟩⟩
    · exact ⟨hnext (cmdEntry_busy hbusy _ _ _) rfl, hnext (cmdEntry_busy hbusy _ _ _) rfl, hnext (cmdRows_busy hbusy _ _) rfl,
        hnext (cmdRows_busy hbusy _ _) rfl, hnext (cmdFail_busy hbusy) rfl⟩
    · intro bank tid t e there
      refine ⟨fun h => ⟨hnext (cmdEntry_absent hbusy _ h) rfl, hnext (cmdEntry_absent hbusy _ h) rfl⟩, fun h => ⟨?_, ?_, ?_⟩⟩
      · exact tblCmd_starts hq rfl (.inl rfl) (cmdEntry_read hbusy h) fun o hkind htable hidx _ _ => ⟨hkind, htable, hidx⟩
      · exact fun hdual hidle => hnext (cmdEntry_live hbusy h hdual hidle) rfl
      · exact fun hidle => tblCmd_starts hq rfl (.inr (.inl rfl)) (cmdEntry_write hbusy h hidle)
          fun o hkind htable hidx _ hdata => ⟨hkind, htable, hidx, hdata⟩
    · intro len tile row live
      refine ⟨fun h => ⟨hnext (cmdRows_absent hbusy _ h) rfl, hnext (cmdRows_absent hbusy _ h) rfl⟩, fun hlen hend => ⟨?_, ?_, ?_, ?_⟩⟩
      · exact fun hlive => hnext (cmdRows_live hbusy hlen hend hlive) rfl
      · exact fun hfailed => hnext (cmdRows_failed hbusy hlen hend hfailed) rfl
      · exact fun hfailed => tblCmd_starts hq rfl (.inr (.inr (.inl rfl))) (cmdRows_read hbusy hlen hend hfailed)
          fun o hkind htable hidx hnode _ => ⟨hkind, htable, hidx, hnode⟩
      · exact fun hlive hfailed => tblCmd_starts hq rfl (.inr (.inr (.inr rfl))) (cmdRows_write hbusy hlen hend hlive hfailed)
          fun o hkind htable hidx hnode hdata => ⟨hkind, htable, hidx, hnode, hdata⟩
    · refine ⟨_, hnext (cmdFail_eq hbusy) failTile_dbg, ?_, ?_, ?_, fun h => ?_⟩
      · rw [failedTile_acked]
        exact failTile_failed
      · rw [tb_acked]
        rfl
      · rw [tb_acked]
        rfl
      · rw [arb_acked]
        exact failCause_failTile h
  · intro s o hfind _
    obtain ⟨hframe, hwords⟩ := setRegs_spec 0x400 (fun i => BitVec.ofNat 32 (leNat ((o.out.drop (4 * i)).take 4)))
      { s with tb := { s.tb with ops := s.tb.ops.filter (fun p => p.id ≠ o.id) } } (o.out.length / 4)
    refine ⟨_, tblCmdComplete_eq hfind, ?_, hwords, ?_⟩
    · exact congrArg (fun v : State => { v.tb with busy := false, cmdDone := true, cmdReason := o.res.toNat }) hframe
    · exact congrArg (fun v : State => { v with tb := s.tb, regs := s.regs }) hframe
  · intro s q k w hq t
    refine congrArg Host.Outcome.next ((writeCmd_of_MayWrite hq _ ?_).trans (congrArg (acked q _) (writeReloc_eq s k.val w)))
    rw [writeReloc_eq]
    rfl

end Sys2Proof.Machine
end

section
/-! What reads of rows, grants and writes to tiles leave as it was (10 R317–R319, R323). -/

namespace Sys2Proof.Machine
open Sys2Proof.Claim

/-! ### Reads of rows keep the tiles and the grants (10 R318, R323) -/

/-- Tile memory, and where each arbiter parks, are as before. -/
structure TileRead (s t : State) : Prop where
  tile : t.tile = s.tile
  park : ∀ x, (t.arb x).park = (s.arb x).park
  freeCy : ∀ x, (t.arb x).freeCy = (s.arb x).freeCy

namespace TileRead

variable {s t u : State}

theorem of_tb (htile : t.tile = s.tile) (htb : t.tb = s.tb) : TileRead s t := by
  refine ⟨htile, fun x => ?_, fun x => ?_⟩ <;> rw [State.arb, htb] <;> rfl

theorem refl (s : State) : TileRead s s := of_tb rfl rfl

theorem trans (h : TileRead s t) (h' : TileRead t u) : TileRead s u :=
  ⟨h'.tile.trans h.tile, fun x => (h'.park x).trans (h.park x), fun x => (h'.freeCy x).trans (h.freeCy x)⟩

theorem repairTile (s : State) (x row : Nat) : TileRead s (s.repairTile x row) := by
  unfold State.repairTile
  dsimp only
  split
  · exact refl s
  · split <;> exact of_tb rfl rfl

theorem setArb (s : State) (x : Nat) (rows : List Nat) : TileRead s (s.setArb x { s.arb x with ueRows := rows }) := by
  refine ⟨rfl, fun y => ?_, fun y => ?_⟩ <;>
  · simp only [State.arb, State.setArb, tget_tset]
    split
    · next hy => rw [hy]
    · rfl

theorem logAdd (s : State) (a cap e : Nat) : TileRead s (s.logAdd a cap e) := by
  unfold State.logAdd
  dsimp only
  split <;> exact of_tb rfl rfl

theorem count (s : State) (a n : Nat) : TileRead s (s.count a n) := of_tb (State.count_tile s a n) (State.count_tb s a n)

theorem tileUe (s : State) (x row : Nat) : TileRead s (s.tileUe x row) := by
  have hlogged : TileRead s
      (((s.count (tbA 0x808)).logAdd (tbA 0x80) 8 (2 ^ 31 + at_ x 16 + row)).orReg (tbA (0x100 + 4 * x)) 1) :=
    (count s _ 1).trans ((logAdd _ _ _ _).trans (of_tb rfl rfl))
  unfold State.tileUe
  dsimp only
  split
  · exact hlogged
  · exact hlogged.trans ((setArb _ x _).trans (repairTile _ x row))

theorem rowTouch (s : State) (x row : Nat) : TileRead s (s.rowTouch x row).2 := by
  unfold State.rowTouch
  dsimp only
  split
  · exact (count s _ _).trans (tileUe _ x row)
  · exact count s _ _

theorem readRows (s : State) (x row n : Nat) : TileRead s (s.readRows x row n).2.2 := by
  induction n generalizing s row with
  | zero => exact refl s
  | succ n ih => exact (rowTouch s x row).trans (ih _ _)

theorem readAt (s : State) (alt : Bool) (x row n : Nat) : TileRead s (s.readAt alt x row n).2.2 := by
  unfold State.readAt
  dsimp only
  split
  · exact (readRows s x row n).trans (readRows _ _ row n)
  · exact readRows s x row n

theorem scan (s : State) (t : Nat) (bank : Bool) (es : List Nat) : TileRead s (s.scan t bank es).2.2 := by
  induction es generalizing s with
  | nil => exact refl s
  | cons e es ih => exact (readAt s _ _ _ _).trans (ih _)

end TileRead

/-- Rows without an error mark are read without a trace. -/
theorem readRows_clean {s : State} {x row n : Nat} (h : ∀ i l, i < n → l < 4 → tfind s.tileErr (laneKey x (row + i) l) = none) :
    (s.readRows x row n).1 = false ∧ (s.readRows x row n).2.2 = s := by
  induction n generalizing row with
  | zero => exact ⟨rfl, rfl⟩
  | succ n ih =>
    have hmarks : (List.range 4).filterMap (fun l => tfind s.tileErr (laneKey x row l)) = [] := by
      rw [List.filterMap_eq_nil_iff]
      exact fun l hl => h 0 l (Nat.succ_pos n) (List.mem_range.mp hl)
    have htouch : s.rowTouch x row = (false, s) := by
      simp only [State.rowTouch, hmarks]
      rfl
    obtain ⟨hbad, hstate⟩ := ih (row := row + 1) fun i l hi hl => by
      rw [Nat.add_right_comm]
      exact h (i + 1) l (by omega) hl
    simp only [State.readRows, htouch, hbad, hstate, Bool.or_self, and_self]

theorem readAt_clean {s : State} {x row n : Nat} (alt : Bool)
    (h : ∀ i l, i < n → l < 4 → tfind s.tileErr (laneKey x (row + i) l) = none) : (s.readAt alt x row n).2.2 = s := by
  obtain ⟨hbad, hstate⟩ := readRows_clean h
  simp only [State.readAt, hbad, hstate, Bool.false_and, Bool.false_eq_true, if_false]

/-! ### What work on tiles leaves of operations' tables and locks -/

namespace TileWork

variable {s t : State} (h : TileWork s t)
include h

theorem locks : t.tb.locks = s.tb.locks := (congrArg (fun v : State => v.tb.locks) h.frame :)
theorem scrubReq : t.tb.scrubReq = s.tb.scrubReq := (congrArg (fun v : State => v.tb.scrubReq) h.frame :)
theorem visited : t.tb.visited = s.tb.visited := (congrArg (fun v : State => v.tb.visited) h.frame :)
theorem tick32 : t.tick32 = s.tick32 := (congrArg State.tick32 h.frame :)
theorem opMd : t.opMd = s.opMd := (congrArg State.opMd h.frame :)

theorem lockFill : t.lockFill = s.lockFill := by funext x; simp only [State.lockFill, h.locks]

theorem inSecond : t.inSecond = s.inSecond := by funext i x; simp only [State.inSecond, h.tPlace]

theorem rdTile : t.rdTile = s.rdTile := by
  funext i r x
  simp only [State.rdTile, h.tMirror, h.td, h.copyDead, h.inSecond]

theorem slotAt : t.slotAt = s.slotAt := by funext i b n v; simp only [State.slotAt, State.nBase, h.tPlace, h.td]
theorem nodeAt : t.nodeAt = s.nodeAt := by funext i b l j; simp only [State.nodeAt, State.nBase, h.tPlace, h.td]

theorem tileIn : t.tileIn = s.tileIn := by funext i b x; simp only [State.tileIn, h.tPlace, h.tMirror]
theorem rowIn : t.rowIn = s.rowIn := by funext i b x row; simp only [State.rowIn, h.bankRows, h.nodeRows, h.tileIn]
theorem rowOwner : t.rowOwner = s.rowOwner := by funext x row; simp only [State.rowOwner, h.tKind, h.tDual, h.rowIn]

theorem looks (u : State) (o : TOp) (a : Acc) (bs : List Byte) : Claim.looks t u o a bs ↔ Claim.looks s u o a bs := by
  simp only [Claim.looks, h.tKind, h.tW, h.tParam, h.tLen, h.tRows, h.cands, h.entryAt, h.td, h.rdTile, h.slotAt, h.nodeAt]

theorem opWrote (u : State) (o : TOp) (tile row off n res : Nat) :
    Claim.opWrote t u o tile row off n res ↔ Claim.opWrote s u o tile row off n res := by
  simp only [Claim.opWrote, h.altOk]

end TileWork

theorem grant_frame (s : State) (t q : Nat) : { s.grant t q with tb := s.tb } = s := rfl

/-! ### Writes to a tile -/

theorem tile_tileW (s : State) (x row off : Nat) (bs : List Byte) :
    (s.tileW x row off bs).tile = mwrite 0 s.tile (tlA x row off) bs := rfl

theorem tileW_tb (s : State) (x row off : Nat) (bs : List Byte) : (s.tileW x row off bs).tb = s.tb := rfl

theorem ctr_tileW (s : State) (x row off : Nat) (bs : List Byte) (a : Nat) : (s.tileW x row off bs).ctr a = s.ctr a := rfl

end Sys2Proof.Machine
end

section
/-! The rounds of an operation, and LOOK's walk through them (10 R298–R304). -/

namespace Sys2Proof.Machine
open Sys2Proof.Claim

/-! ### How an operation goes on (10 R298–R304) -/

theorem opEnds_putOp (s : State) (o : TOp) (res : Nat) (out : List Byte) : opEnds (s.putOp (o.ended res out)) o res out :=
  ⟨_, mem_putOp _ _, rfl, rfl, rfl, rfl⟩

/-- The first way in which a hash search has found its key (R301). -/
def State.hitWay (s : State) (o : TOp) : Option Nat :=
  (List.range 4).find? (fun w => s.hHit o.table o.key (s.slice o ((s.cands o.table o.key).getD w 0) (tget [] o.got w)))

/-- The slot that an LPM walk has read (R303). -/
def lpmSlot (o : TOp) : Word := BitVec.ofNat 32 (leNat (((tget [] o.got 0).drop (4 * ((o.key.getD o.phase 0).toNat % 8))).take 4))

/-- The child that an interval walk takes (R304). -/
def ivlChild (o : TOp) : Option Nat :=
  ((List.range 8).reverse).find? (fun j => leNat (((tget [] o.got 0).drop (4 * j)).take 4) ≤ leNat o.key)

section
variable {s : State} {o : TOp}

/-- A second write that is done ends its operation with the result of the first (R317). -/
theorem nextRound_second (h : o.phase = 200) : s.nextRound o = s.finOp o o.res.toNat [] := by
  simp only [State.nextRound, if_pos h]

variable (hkind : o.kind = .look)
include hkind

theorem found_look (e : Nat) (bs : List Byte) : s.found o e bs = s.finOp o 1 bs := by simp only [State.found, hkind]

theorem missed_look : s.missed o = s.finOp o 0 [] := by simp only [State.missed, hkind]

/-- A LOOK that ends does so with its result. -/
theorem opEnds_of_finOp {u : State} {res : Nat} {out : List Byte} (horphan : o.orphan = false) (h : u = s.finOp o res out) :
    opEnds u o res out := by
  rw [h, finOp_lists s (by rw [hkind]; decide) horphan]
  exact opEnds_putOp s o res out

theorem nextRound_look_index (hphase : o.phase ≠ 200) (hk : s.tKind o.table = 1) :
    s.nextRound o = s.finOp o 1 (s.slice o o.idx (tget [] o.got 0)) := by
  rw [← found_look hkind o.idx]
  simp only [State.nextRound, if_neg hphase, hkind, hk, if_true, OfNat.one_ne_ofNat, if_false]

theorem nextRound_look_hash (hphase : o.phase = 0) (hk : s.tKind o.table = 2) : s.nextRound o =
    match s.hitWay o with
    | some w => s.finOp o 1 (s.slice o ((s.cands o.table o.key).getD w 0) (tget [] o.got w))
    | none => s.finOp o 0 [] := by
  simp only [State.nextRound, hphase, hkind, hk, if_true, OfNat.zero_ne_ofNat, if_false, List.find?_map, Function.comp_def]
  unfold State.hitWay
  cases (List.range 4).find? _ <;> simp only [Option.map_some, Option.map_none, found_look hkind, missed_look hkind]

theorem nextRound_look_lpm (hphase : o.phase < 100) (hk : s.tKind o.table = 3) : s.nextRound o =
    if bits (lpmSlot o) 31 30 = 2 ∧ bits (lpmSlot o) 23 0 < bits (s.td o.table 6) 23 0 then
      if o.phase + 1 < s.tParam o.table then
        s.putOp { o with node := bits (lpmSlot o) 23 0, phase := o.phase + 1,
                         acc := [s.nodeAcc { o with node := bits (lpmSlot o) 23 0, phase := o.phase + 1 }] }
      else s.finOp o 0 []
    else if bits (lpmSlot o) 31 30 = 1 ∧ bits (lpmSlot o) 23 0 < s.tLen o.table then
      s.putOp { o with idx := bits (lpmSlot o) 23 0, phase := 100, acc := [s.rdAcc o (bits (lpmSlot o) 23 0) 0] }
    else s.finOp o 0 [] := by
  have h200 : o.phase ≠ 200 := by omega
  have h101 : o.phase ≠ 101 := by omega
  have h100 : o.phase ≠ 100 := by omega
  rw [← missed_look hkind]
  simp only [State.nextRound, if_neg h200, hkind, hk, if_neg h101, if_neg h100]
  rfl

theorem nextRound_look_interval (hphase : o.phase < 100) (hk : s.tKind o.table = 4) : s.nextRound o =
    match ivlChild o with
    | none => s.finOp o 0 []
    | some j =>
      if o.phase + 1 < s.tParam o.table then
        s.putOp { o with node := 8 * o.node + j, phase := o.phase + 1,
                         acc := [s.nodeAcc { o with node := 8 * o.node + j, phase := o.phase + 1 }] }
      else s.putOp { o with idx := 8 * o.node + j, phase := 100, acc := [s.rdAcc o (8 * o.node + j) 0] } := by
  have h200 : o.phase ≠ 200 := by omega
  have h101 : o.phase ≠ 101 := by omega
  have h100 : o.phase ≠ 100 := by omega
  rw [← missed_look hkind]
  simp only [State.nextRound, if_neg h200, hkind, hk, if_neg h101, if_neg h100]
  rfl

/-- The entry to which a walk has led ends it: an interval's entry may be invalid (R304). -/
theorem nextRound_look_result (hphase : o.phase = 100) (hk : s.tKind o.table = 3 ∨ s.tKind o.table = 4) : s.nextRound o =
    if s.tKind o.table = 4 ∧ ((s.slice o o.idx (tget [] o.got 0)).getD (s.tW o.table - 1) 0).getLsbD 7 = false then s.finOp o 0 []
    else s.finOp o 1 (s.slice o o.idx (tget [] o.got 0)) := by
  rw [← missed_look hkind, ← found_look hkind o.idx]
  rcases hk with hk | hk <;> simp [State.nextRound, hphase, hkind, hk]

/-- A LOOK stays listed, whatever its next round is. -/
theorem nextRound_look_lists (horphan : o.orphan = false) (hphase : o.phase ≠ 200) : ∃ p, s.nextRound o = s.putOp p := by
  have hfin : ∀ res out, ∃ p, s.finOp o res out = s.putOp p := fun res out =>
    ⟨_, finOp_lists s (by rw [hkind]; decide) horphan res out⟩
  simp only [State.nextRound, if_neg hphase, hkind, found_look hkind, missed_look hkind]
  repeat' split
  any_goals exact hfin _ _
  all_goals exact ⟨_, rfl⟩

end

/-- The last element that `p` accepts, with none after it. -/
theorem find?_reverse_range {p : Nat → Bool} {n j : Nat} (hj : j < n) (hp : p j = true) (hafter : ∀ m, j < m → m < n → p m = false) :
    ((List.range n).reverse).find? p = some j := by
  induction n with
  | zero => omega
  | succ n ih =>
    rw [List.range_succ, List.reverse_append, List.reverse_singleton, List.singleton_append]
    by_cases hjn : j = n
    · rw [← hjn, List.find?_cons_of_pos hp]
    · rw [List.find?_cons_of_neg (by rw [hafter n (by omega) (by omega)]; decide)]
      exact ih (by omega) fun m hm hmn => hafter m hm (by omega)

/-! ### LOOK (R300–R304) -/

section
variable {s : State} {o : TOp} (hkind : o.kind = .look) (horphan : o.orphan = false) (hfin : o.fin = false)
include hkind horphan hfin

/-- The next round of a LOOK, whose last access has given the rows `bs`. -/
theorem looks_nextRound {a : Acc} {bs : List Byte} (hgot : tget [] o.got a.tag = bs) (hphase : o.phase ≠ 200) :
    looks s (s.nextRound o) o a bs := by
  have hrows : (fun w => if w = a.tag then bs else tget [] o.got w) = tget [] o.got := by
    funext w
    split
    · next h => rw [h, hgot]
    · rfl
  have hends : ∀ {res out}, s.nextRound o = s.finOp o res out → opEnds (s.nextRound o) o res out := opEnds_of_finOp hkind horphan
  unfold looks
  rw [hrows]
  intro bank got slice valid cand hit hits misses result k
  refine ⟨fun hk => ?_, fun hk h0 => ?_, fun hk hwalk => ?_, fun hk hwalk => ?_, fun hk h100 => ?_⟩
  · exact hends (nextRound_look_index hkind hphase hk)
  · have hround := nextRound_look_hash hkind h0 hk
    refine ⟨fun w hw => hends (hround.trans ?_), fun hmiss => hends (hround.trans ?_)⟩
    · rw [show s.hitWay o = some w from hw]
      rfl
    · rw [show s.hitWay o = none from List.find?_eq_none.mpr fun w hw => Bool.eq_false_iff.mp (hmiss w (List.mem_range.mp hw))]
  · have hround := nextRound_look_lpm hkind hwalk hk
    intro v slot ty i child p
    refine ⟨fun hchild hdeep => ?_, fun hchild hdeep => ?_, fun hty hi => ?_, fun hchild hres => ?_⟩
    · rw [hround.trans ((if_pos hchild).trans (if_pos hdeep))]
      refine ⟨_, mem_putOp _ _, rfl, hfin, rfl, rfl, ?_⟩
      simp only [State.nodeAcc]
      rw [if_pos hk]
      rfl
    · exact hends (hround.trans ((if_pos hchild).trans (if_neg (Nat.not_lt.mpr hdeep))))
    · have hleaf : ¬ child := fun hc => absurd (hc.1.symm.trans hty) (by decide)
      have hreads := hround.trans ((if_neg hleaf).trans (if_pos ⟨hty, hi⟩))
      change opReads _ _ _ _ _ _ _
      rw [hreads]
      exact ⟨_, mem_putOp _ _, rfl, hfin, rfl, rfl, rfl⟩
    · exact hends (hround.trans ((if_neg hchild).trans (if_neg hres)))
  · have hround := nextRound_look_interval hkind hwalk hk
    intro b
    refine ⟨fun hbelow => hends (hround.trans ?_), fun j hj hle hafter => ?_⟩
    · rw [show ivlChild o = none from List.find?_eq_none.mpr fun j hj => by
        simpa using hbelow j (by simpa using hj)]
    · rw [show ivlChild o = some j from find?_reverse_range hj (decide_eq_true hle)
        fun m hm hm8 => decide_eq_false (Nat.not_le.mpr (hafter m hm hm8))] at hround
      refine ⟨fun hdeep => ?_, fun hdeep => ?_⟩
      · rw [hround.trans (if_pos hdeep)]
        refine ⟨_, mem_putOp _ _, rfl, hfin, rfl, rfl, ?_⟩
        simp only [State.nodeAcc]
        rw [if_neg (show ¬ k = 3 by omega)]
      · change opReads _ _ _ _ _ _ _
        rw [hround.trans (if_neg (Nat.not_lt.mpr hdeep))]
        exact ⟨_, mem_putOp _ _, rfl, hfin, rfl, rfl, rfl⟩
  · have hround := nextRound_look_result hkind h100 hk
    intro e
    split
    · next h => exact hends (hround.trans (if_pos h))
    · next h => exact hends (hround.trans (if_neg h))

end

/-- What a LOOK finds does not depend on how its last rows are kept. -/
theorem looks_got (s u : State) (o : TOp) (a : Acc) (bs : List Byte) (acc : List Acc) (sec : Bool) (hint : Tab Nat) :
    looks s u { o with got := tset o.got a.tag bs, acc := acc, sec := sec, hint := hint } a bs = looks s u o a bs := by
  have hrows : (fun w => if w = a.tag then bs else tget [] (tset o.got a.tag bs) w) =
      fun w => if w = a.tag then bs else tget [] o.got w := by
    funext w
    split
    · rfl
    · next h => exact tget_tset_ne _ _ _ _ _ h
  unfold looks
  rw [hrows]
  rfl

end Sys2Proof.Machine
end

section
/-! What a tile does with an access: reads for LOOK, writes to one copy or two, CAS (10 R309, R310, R317–R319; 14 R418, R419). -/

namespace Sys2Proof.Machine
open Sys2Proof.Claim

/-! ### Accesses that write (R317) -/

/-- Bytes written to the rows of a tile stand there, and no other byte changes. -/
theorem wrote_of_mwrite {s u : State} (hwf : s.tile.wf 0 = true) {x row off : Nat} {bs : List Byte}
    (hu : u.tile = mwrite 0 s.tile (tlA x row off) bs) : wrote s u x row off bs := by
  intro y
  rw [hu]
  split
  · next hin =>
    obtain ⟨j, rfl⟩ := Nat.exists_eq_add_of_le hin.1
    rw [mget_mwrite_in _ _ _ _ _ hwf (by omega), Nat.add_sub_cancel_left]
  · next hout => exact mget_mwrite_out _ _ _ _ _ (by omega)

/-- An operation as it stands once all its writes are made. -/
def TOp.written (o : TOp) (a : Acc) (res : Nat) : TOp := ({ o with phase := 200, acc := o.acc.erase a } : TOp).ended res []

theorem nextRound_written (s : State) {o : TOp} (hkind : o.kind ≠ .copy) (horphan : o.orphan = false) (a : Acc) (res : Nat) :
    s.nextRound { o with phase := 200, res := BitVec.ofNat 32 res, acc := o.acc.erase a } = s.putOp (o.written a res) := by
  have hres : BitVec.ofNat 32 (BitVec.ofNat 32 res).toNat = BitVec.ofNat 32 res := by rw [BitVec.ofNat_toNat, BitVec.setWidth_eq]
  rw [nextRound_second rfl]
  refine (finOp_lists (o := { o with phase := 200, res := BitVec.ofNat 32 res, acc := o.acc.erase a }) s hkind horphan _ _).trans ?_
  simp only [TOp.ended, hres]
  rfl

/-- A second write that is done ends its operation with the result of the first. -/
theorem wrote_second (s : State) {o : TOp} (hkind : o.kind ≠ .copy) (horphan : o.orphan = false) (hphase : o.phase = 200)
    (a : Acc) (off : Nat) (bs : List Byte) (res : Nat) : s.wrote o a off bs res = s.putOp (o.written a res) := by
  rw [← nextRound_written s hkind horphan]
  simp [State.wrote, hphase]

section
variable {s : State} {o : TOp} (hkind : o.kind ≠ .copy) (horphan : o.orphan = false) (hrows : o.onRows = false)
  (hphase : o.phase ≠ 200)
include hkind horphan hrows hphase

/-- The first write of an operation that is done ends it, or the write to the other copy follows. -/
theorem wrote_first (a : Acc) (off : Nat) (bs : List Byte) (res : Nat) : s.wrote o a off bs res =
    if s.altOk o.table a.tile then
      s.putOp { o with phase := 200, res := BitVec.ofNat 32 res, acc := o.acc.erase a ++ [s.mirrored a off bs.length] }
    else s.putOp (o.written a res) := by
  rw [← nextRound_written s hkind horphan]
  simp only [State.wrote, hrows, hphase, ne_eq, not_false_eq_true, decide_true, Bool.not_false, Bool.true_and]

/-- The operation stays listed, with its result. -/
theorem wrote_lists (a : Acc) (off : Nat) (bs : List Byte) (res : Nat) :
    ∃ p, s.wrote o a off bs res = s.putOp p ∧ p.id = o.id ∧ p.res = BitVec.ofNat 32 res := by
  rw [wrote_first hkind horphan hrows hphase]
  split <;> exact ⟨_, rfl, rfl, rfl⟩

theorem opWrote_wrote (hfin : o.fin = false) (a : Acc) (off : Nat) (bs : List Byte) (res : Nat) :
    opWrote s (s.wrote o a off bs res) o a.tile a.row off bs.length res := by
  have hfirst := wrote_first (s := s) hkind horphan hrows hphase a off bs res
  refine ⟨fun halt => ?_, fun halt => ?_⟩
  · rw [hfirst, if_neg (by rw [halt]; decide)]
    exact opEnds_putOp s _ res []
  · rw [hfirst, if_pos halt]
    refine ⟨_, mem_putOp _ _, rfl, hfin, rfl, _, List.mem_append_right _ (List.mem_singleton_self _), rfl, rfl, rfl, rfl, ?_, rfl⟩
    simp only [State.mirrored]
    omega

end

/-! ### Accesses that read (R318) -/

section
variable {s : State} {o : TOp} {a : Acc} (hkind : o.kind = .look) (hread : a.kind = 0) (hsrc : o.src ≠ tblCmd)
  (hacc : o.acc = [a])
include hkind hread hsrc hacc

/-- The one access of a LOOK's round has been performed: the walk goes on with its rows, or ends with the error. -/
theorem performAcc_look {b : Bool} {bs : List Byte} {v : State}
    (hrows : s.readAt (s.altOk o.table a.tile) a.tile a.row a.n = (b, bs, v)) :
    ∃ sec, s.performAcc o a = if b then v.failOp o
      else v.nextRound { o with got := tset o.got a.tag bs, acc := [], sec := sec } := by
  have hone : o.onRows = false := by rw [TOp.onRows, hkind]; decide
  refine ⟨s.tMirror o.table && (s.inSecond o.table a.tile != (s.altOk o.table a.tile && (s.readRows a.tile a.row a.n).1)), ?_⟩
  simp only [State.performAcc, hread, hone, Bool.not_false, Bool.true_and, hrows, hsrc, ne_eq, not_false_eq_true, and_true, hacc,
    List.erase_cons_head]
  cases b <;> rfl

end

/-! ### CAS (R309, R310; 14 R418, R419) -/

theorem windowCas_eq (hlen tmo : Nat) (t : Word) (sq att : Nat) (e : List Byte) :
    windowCas hlen tmo t sq att e = window hlen tmo t sq att e := by
  have hvalid : ((!((e.getD 2 0).getLsbD 0 && !(decide (tmo ≠ 0) &&
      decide (tmo * 1000000 ≤ (t - BitVec.ofNat 32 (leNat ((e.drop 4).take 4))).toNat)))) = true) ↔
      ((e.getD 2 0).getLsbD 0 = false ∨ tmo ≠ 0 ∧ tmo * 1000000 ≤ (t - BitVec.ofNat 32 (leNat ((e.drop 4).take 4))).toNat) := by
    cases (e.getD 2 0).getLsbD 0 <;> simp
  have hahead : ∀ d, (1 ≤ d ∧ d < hlen) ↔ (d ≠ 0 ∧ d < hlen) := fun d => by omega
  unfold windowCas window
  simp only [hvalid, hahead]
  simp only [← Nat.not_lt, ite_not, ne_eq]

/-- The lock `l` is taken. -/
def State.takeLock (s : State) (l : Lock) : State := { s with tb := { s.tb with locks := s.tb.locks ++ [l] } }

section
variable {s v : State} {o : TOp} {a : Acc} {b : Bool} {rows : List Byte} (hkind : o.kind = .cas)
  (hread : s.readAt (s.altOk o.table a.tile) a.tile a.row a.n = (b, rows, v))
include hread

theorem rmw_unreadable (hb : b = true) : s.rmw o a = v.failOp o := by
  simp only [State.rmw, hread, hb, if_true]

variable (hb : b = false)
include hkind hb

theorem rmw_cas_window (hk : s.tKind o.table = 5) :
    let w := windowCas (bits (s.td o.table 6) 9 0) (bits (s.td o.table 6) 23 16) s.tick32 (bits o.w0 15 0) (s.opMd o).attempt.toNat
      ((rows.drop a.tag).take (s.tW o.table))
    s.rmw o a = (v.tileW a.tile a.row a.tag w.2).wrote o a a.tag w.2 w.1 := by
  simp only [State.rmw, hread, hb, Bool.false_eq_true, if_false, hkind, hk, if_true]

variable (hk : s.tKind o.table ≠ 5)
include hk

theorem rmw_cas_differs (hne : leNat (((rows.drop a.tag).take (s.tW o.table)).take 4) ≠ o.w0.toNat) : s.rmw o a = v.finOp o 0 [] := by
  simp only [State.rmw, hread, hb, Bool.false_eq_true, if_false, hkind, if_neg hk, if_pos hne]

variable (heq : leNat (((rows.drop a.tag).take (s.tW o.table)).take 4) = o.w0.toNat)
include heq

/-- A CAS whose entry's tile has no lock free waits for one. -/
theorem rmw_cas_waits (hfull : 64 ≤ s.lockFill (s.entryAt o.table (o.bank = 1) o.idx).1) :
    ∃ x, s.rmw o a = { v with counters := x, tb := { v.tb with
      ops := v.tb.ops.map (fun p => if p.id = o.id then { p with locked := true } else p) } } := by
  simp only [State.rmw, hread, hb, Bool.false_eq_true, if_false, hkind, if_neg hk, if_neg (not_not.mpr heq), if_pos hfull]
  cases o.locked
  · exact ⟨_, rfl⟩
  · exact ⟨_, rfl⟩

theorem rmw_cas_takes (hroom : s.lockFill (s.entryAt o.table (o.bank = 1) o.idx).1 < 64) (hsrc : o.src ≠ nobody) :
    s.rmw o a = ((v.tileW a.tile a.row a.tag (leBytes 4 o.w1.toNat)).takeLock
      ⟨(s.entryAt o.table (o.bank = 1) o.idx).1, o.table, o.idx, o.src⟩).wrote o a a.tag (leBytes 4 o.w1.toNat) 1 := by
  simp only [State.rmw, hread, hb, Bool.false_eq_true, if_false, hkind, if_neg hk, if_neg (not_not.mpr heq),
    if_neg (Nat.not_le.mpr hroom), if_neg hsrc, State.takeLock]

end

/-! ### What an access of the winner leaves (R323–R327) -/

/-- A LOOK that meets an uncorrectable error ends with it (R318). -/
theorem failOp_look {s : State} {o : TOp} (hkind : o.kind = .look) : s.failOp o = s.finOp { o with ue := true } 0 [] := by
  cases o
  cases hkind
  rfl

/-- A CAS that meets one ends with result 0, or 2 on a window. -/
theorem failOp_cas {s : State} {o : TOp} (hkind : o.kind = .cas) :
    s.failOp o = s.finOp o (if s.tKind o.table = 5 then 2 else 0) [] := by
  cases o
  cases hkind
  rfl

/-- A read for a LOOK, by the round that follows or the error that ends it. -/
theorem performAcc_looks {s g : State} {o : TOp} {a : Acc} (hg : TileWork s g) (hx : a.tile < 32) (hkind : o.kind = .look)
    (horphan : o.orphan = false) (hfin : o.fin = false) (hphase : o.phase ≠ 200) (hread : a.kind = 0) (hsrc : o.src ≠ tblCmd)
    (hacc : o.acc = [a]) :
    ∃ v p, g.performAcc o a = v.putOp p ∧ TileWork g v ∧ TileRead g v ∧
      ((∀ i l, i < a.n → l < 4 → tfind s.tileErr (laneKey a.tile (a.row + i) l) = none) → v = g) ∧
      match readOf s (s.altOk o.table a.tile) a.tile a.row a.n with
      | some bs => looks s (v.putOp p) o a bs
      | none => ∃ p' ∈ (v.putOp p).tb.ops, p'.id = o.id ∧ p'.fin = true ∧ p'.ue = true := by
  obtain ⟨b, bs, v, hrows, hwork, hof⟩ := readAt_spec g (g.altOk o.table a.tile) hx a.row a.n
  obtain ⟨sec, hperform⟩ := performAcc_look hkind hread hsrc hacc hrows
  have hkept : TileRead g v := by simpa only [hrows] using TileRead.readAt g (g.altOk o.table a.tile) a.tile a.row a.n
  have hclean : (∀ i l, i < a.n → l < 4 → tfind s.tileErr (laneKey a.tile (a.row + i) l) = none) → v = g := fun h => by
    rw [← hg.tileErr] at h
    simpa only [hrows] using readAt_clean (g.altOk o.table a.tile) h
  rw [hg.readOf, hg.altOk] at hof
  cases b with
  | true =>
    have hfail : g.performAcc o a = v.putOp (({ o with ue := true } : TOp).ended 0 []) := by
      rw [hperform, if_pos rfl, failOp_look hkind]
      exact finOp_lists (o := { o with ue := true }) v (by simp [hkind]) horphan 0 []
    rw [hof]
    exact ⟨v, _, hfail, hwork, hkept, hclean, _, mem_putOp _ _, rfl, rfl, rfl⟩
  | false =>
    obtain ⟨p, hlists⟩ := nextRound_look_lists (s := v) (o := { o with got := tset o.got a.tag bs, acc := [], sec := sec })
      hkind horphan hphase
    have hlooks := looks_nextRound (s := v) (o := { o with got := tset o.got a.tag bs, acc := [], sec := sec }) (a := a) (bs := bs)
      hkind horphan hfin (tget_tset_same _ _ _ _) hphase
    rw [hlists, hwork.looks, hg.looks] at hlooks
    rw [hof]
    exact ⟨v, p, hperform.trans hlists, hwork, hkept, hclean, (looks_got s _ o a bs [] sec o.hint).mp hlooks⟩

section
variable {s g : State} {o : TOp} {a : Acc} (hg : TileWork s g) (hwf : s.tile.wf 0 = true) (horphan : o.orphan = false)
include hg hwf horphan

omit hwf in
theorem opWrote_tileW (hkind : o.kind ≠ .copy) (hrows : o.onRows = false) (hphase : o.phase ≠ 200) (hfin : o.fin = false)
    {w : State} (hw : w.altOk = g.altOk) (off : Nat) (bs : List Byte) (res : Nat) :
    opWrote s (w.wrote o a off bs res) o a.tile a.row off bs.length res := by
  have h := opWrote_wrote (s := w) hkind horphan hrows hphase hfin a off bs res
  rwa [opWrote, hw, hg.altOk] at h

theorem performAcc_writes (hwrite : a.kind = 1) (hkind : o.kind = .upd ∨ o.kind = .cmdWrite) (hphase : o.phase ≠ 200)
    (hfin : o.fin = false) : wrote s (g.performAcc o a) a.tile a.row a.tag a.data ∧
      opWrote s (g.performAcc o a) o a.tile a.row a.tag a.data.length (if o.kind = .upd then 1 else 0) := by
  have hcopy : o.kind ≠ .copy := by rcases hkind with h | h <;> rw [h] <;> decide
  have hrows : o.onRows = false := by rcases hkind with h | h <;> rw [TOp.onRows, h] <;> decide
  have hperform : g.performAcc o a =
      (g.tileW a.tile a.row a.tag a.data).wrote o a a.tag a.data (if o.kind = .upd then 1 else 0) := by
    simp only [State.performAcc, hwrite, if_neg hphase]
  rw [hperform]
  refine ⟨wrote_of_mwrite hwf ?_,
    opWrote_tileW (w := g.tileW a.tile a.row a.tag a.data) hg horphan hcopy hrows hphase hfin rfl _ _ _⟩
  obtain ⟨p, hp, -⟩ := wrote_lists (s := g.tileW a.tile a.row a.tag a.data) hcopy horphan hrows hphase a a.tag a.data
    (if o.kind = .upd then 1 else 0)
  rw [hp, ← hg.tile]
  rfl

theorem performAcc_second (hwrite : a.kind = 1) (hkind : o.kind ≠ .copy) (hphase : o.phase = 200) :
    wrote s (g.performAcc o a) a.tile a.row a.tag a.data ∧ opEnds (g.performAcc o a) o o.res.toNat [] := by
  have hperform : g.performAcc o a = (g.tileW a.tile a.row a.tag a.data).putOp (o.written a o.res.toNat) := by
    rw [← wrote_second _ hkind horphan hphase a a.tag a.data]
    simp only [State.performAcc, hwrite, hphase, if_true]
  rw [hperform]
  refine ⟨wrote_of_mwrite hwf ?_, opEnds_putOp _ _ _ _⟩
  rw [← hg.tile]
  rfl

/-- The entry that a read-modify-write reads. -/
def rmwEntry (s : State) (o : TOp) (a : Acc) : Option (List Byte) :=
  (readOf s (s.altOk o.table a.tile) a.tile a.row a.n).map (fun b => (b.drop a.tag).take (s.tW o.table))

/-- What CAS makes of the entry it reads. -/
theorem performAcc_cas (hx : a.tile < 32) (hrmw : a.kind = 2) (hkind : o.kind = .cas) (hphase : o.phase ≠ 200) (hfin : o.fin = false) :
    let u := g.performAcc o a
    let home := (s.entryAt o.table (o.bank = 1) o.idx).1
    (rmwEntry s o a = none → u.tile = s.tile ∧ opEnds u o (if s.tKind o.table = 5 then 2 else 0) []) ∧
    ∀ e, rmwEntry s o a = some e →
      (s.tKind o.table = 5 →
        let aux := s.td o.table 6
        let w := window (bits aux 9 0) (bits aux 23 16) s.tick32 (bits o.w0 15 0) (s.opMd o).attempt.toNat e
        wrote s u a.tile a.row a.tag w.2 ∧ opWrote s u o a.tile a.row a.tag w.2.length w.1) ∧
      (s.tKind o.table ≠ 5 → leNat (e.take 4) ≠ o.w0.toNat → u.tile = s.tile ∧ u.tb.locks = s.tb.locks ∧ opEnds u o 0 []) ∧
      (s.tKind o.table ≠ 5 → leNat (e.take 4) = o.w0.toNat → s.lockFill home < 64 → o.src ≠ nobody →
        wrote s u a.tile a.row a.tag (leBytes 4 o.w1.toNat) ∧ u.tb.locks = s.tb.locks ++ [⟨home, o.table, o.idx, o.src⟩] ∧
          opWrote s u o a.tile a.row a.tag 4 1) ∧
      (s.tKind o.table ≠ 5 → leNat (e.take 4) = o.w0.toNat → 64 ≤ s.lockFill home →
        u.tile = s.tile ∧ u.tb.locks = s.tb.locks ∧ ∀ p ∈ u.tb.ops, p.id = o.id → p.fin = false → p.locked = true) := by
  intro u home
  have hcopy : o.kind ≠ .copy := by rw [hkind]; decide
  have hrows : o.onRows = false := by rw [TOp.onRows, hkind]; decide
  have hu : u = g.rmw o a := by simp only [u, State.performAcc, hrmw]
  obtain ⟨b, bs, v, hread, hgv, hof⟩ := readAt_spec g (g.altOk o.table a.tile) hx a.row a.n
  have hwork : TileWork s v := hg.trans hgv
  have hentry : rmwEntry s o a = if b then none else some ((bs.drop a.tag).take (s.tW o.table)) := by
    rw [rmwEntry, ← hg.readOf, ← hg.altOk, hof]
    cases b <;> rfl
  have hends : ∀ res out, opEnds (v.finOp o res out) o res out ∧ (v.finOp o res out).tile = s.tile ∧
      (v.finOp o res out).tb.locks = s.tb.locks := fun res out => by
    rw [finOp_lists v hcopy horphan, ← hwork.tile, ← hwork.locks]
    exact ⟨opEnds_putOp v o res out, rfl, rfl⟩
  refine ⟨fun hnone => ?_, fun e he => ?_⟩
  · cases b with
    | false =>
      rw [hentry] at hnone
      cases hnone
    | true =>
      obtain ⟨hend, htile, -⟩ := hends (if s.tKind o.table = 5 then 2 else 0) []
      rw [hu, rmw_unreadable hread rfl, failOp_cas hkind, hwork.tKind]
      exact ⟨htile, hend⟩
  cases b with
  | true =>
    rw [hentry] at he
    cases he
  | false =>
    obtain rfl : (bs.drop a.tag).take (s.tW o.table) = e := Option.some.inj (hentry.symm.trans he)
    refine ⟨fun hk => ?_, fun hk hne => ?_, fun hk heq hroom hsrc => ?_, fun hk heq hfull => ?_⟩
    · have hwindow := rmw_cas_window hkind hread rfl (by rw [hg.tKind]; exact hk)
      simp only [hg.td, hg.tick32, hg.opMd, hg.tW, windowCas_eq] at hwindow
      intro aux w
      rw [hu, hwindow]
      refine ⟨wrote_of_mwrite hwf ?_,
        opWrote_tileW (w := v.tileW a.tile a.row a.tag w.2) hg horphan hcopy hrows hphase hfin hgv.altOk _ _ _⟩
      obtain ⟨p, hp, -⟩ := wrote_lists (s := v.tileW a.tile a.row a.tag w.2) hcopy horphan hrows hphase a a.tag w.2 w.1
      rw [hp, ← hwork.tile]
      rfl
    · obtain ⟨hend, htile, hlocks⟩ := hends 0 []
      rw [hu, rmw_cas_differs hkind hread rfl (by rw [hg.tKind]; exact hk) (by rw [hg.tW]; exact hne)]
      exact ⟨htile, hlocks, hend⟩
    · have htakes := rmw_cas_takes hkind hread rfl (by rw [hg.tKind]; exact hk) (by rw [hg.tW]; exact heq)
        (by rw [hg.lockFill, hg.entryAt]; exact hroom) hsrc
      rw [hg.entryAt] at htakes
      have hwrote := opWrote_tileW (a := a)
        (w := (v.tileW a.tile a.row a.tag (leBytes 4 o.w1.toNat)).takeLock ⟨home, o.table, o.idx, o.src⟩)
        hg horphan hcopy hrows hphase hfin hgv.altOk a.tag (leBytes 4 o.w1.toNat) 1
      rw [leBytes_length, ← htakes, ← hu] at hwrote
      obtain ⟨p, hp, -⟩ := wrote_lists
        (s := (v.tileW a.tile a.row a.tag (leBytes 4 o.w1.toNat)).takeLock ⟨home, o.table, o.idx, o.src⟩)
        hcopy horphan hrows hphase a a.tag (leBytes 4 o.w1.toNat) 1
      rw [← htakes, ← hu] at hp
      refine ⟨wrote_of_mwrite hwf ?_, ?_, hwrote⟩
      · rw [hp, ← hwork.tile]
        rfl
      · rw [hp, ← hwork.locks]
        rfl
    · obtain ⟨x, hwaits⟩ := rmw_cas_waits hkind hread rfl (by rw [hg.tKind]; exact hk) (by rw [hg.tW]; exact heq)
        (by rw [hg.lockFill, hg.entryAt]; exact hfull)
      rw [hu, hwaits]
      refine ⟨hwork.tile, hwork.locks, fun p hp hid _ => ?_⟩
      obtain ⟨p', -, rfl⟩ := List.mem_map.mp hp
      by_cases hp' : p'.id = o.id
      · rw [if_pos hp']
      · rw [if_neg hp'] at hid
        exact absurd hid hp'

end

end Sys2Proof.Machine
end

section
/-! TILE_TRANSACTION, OVERHOLD and TILE_FAIL (10 R318, R319, R323–R327). -/

namespace Sys2Proof.Machine
open Sys2Proof.Claim

/-- The request that a requester presents at a tile names it, and its operation has not ended. -/
theorem presented_spec {s : State} {t q : Nat} {o : TOp} {a : Acc} (h : s.presented t q = some (o, a)) :
    a.tile = t ∧ o.fin = false := by
  obtain ⟨p, -, hp⟩ := List.mem_filterMap.mp (List.mem_of_head? h)
  split at hp
  · cases hp
  · next hwaits =>
    obtain ⟨b, hfind, heq⟩ := Option.map_eq_some_iff.mp hp
    cases heq
    refine ⟨by simpa using List.find?_some hfind, ?_⟩
    simp only [Bool.or_eq_true, not_or, Bool.not_eq_true] at hwaits
    exact hwaits.1.1

section
variable {s : State} {t : Fin 32} (hruns : s.runs (tileDom t.val) = true)
include hruns

theorem tileFail_parity : exec (.tileFail t true) s = .next (s.failTile t.val 1) := by
  change execTileFail t true s = _
  simp [execTileFail, hruns]

theorem tileFail_rows (h : 4 ≤ (s.arb t.val).ueRows.length) : exec (.tileFail t false) s = .next (s.failTile t.val 2) := by
  change execTileFail t false s = _
  simp [execTileFail, hruns, h]

theorem tileFail_fewRows (h : (s.arb t.val).ueRows.length < 4) : exec (.tileFail t false) s = .next s := by
  change execTileFail t false s = _
  simp [execTileFail, hruns, Nat.not_le.mpr h]

variable (hfailed : s.failedTile t.val = false)
include hfailed

theorem tileTransaction_idle (h : s.present t.val [] = []) : exec (.tileTransaction t) s =
    .next (s.setArb t.val { s.arb t.val with freeCy := min 2 ((s.arb t.val).freeCy + 1) }) := by
  change execTileTransaction t s = _
  simp [execTileTransaction, hruns, hfailed, h, State.winner]

variable {q : Nat} {o : TOp} {a : Acc} (hwin : s.winner t.val (s.present t.val []) = some q)
  (hpres : s.presented t.val q = some (o, a))
include hwin hpres

/-- The tile performs the access that the winner presents. -/
theorem tileTransaction_performs (hn : a.n ≤ 16) (hgone : s.copyGone o a = false) : exec (.tileTransaction t) s =
    .next ((s.grant t.val q).performAcc { o with hint := tdel o.hint t.val } a) := by
  change execTileTransaction t s = _
  simp [execTileTransaction, hruns, hfailed, hwin, hpres, Nat.not_lt.mpr hn, hgone]

theorem overhold_short (hn : a.n ≤ 16) : exec (.overhold t) s = .next s := by
  change execOverhold t s = _
  simp [execOverhold, hruns, hfailed, hwin, hpres, hn]

/-- A read that is too long ends after 16 beats, with an over-hold error of its requester. -/
theorem overhold_read (hn : 16 < a.n) (hread : a.kind = 0) : ∃ v : State, exec (.overhold t) s =
      .next (v.finOp o 4 (rows s t.val a.row 16)) ∧ v.reg (tbA 0x90) = (s.reg (tbA 0x90) ||| BitVec.ofNat 32 (2 ^ q)) := by
  have hgrant : TileWork s (s.grant t.val q) := TileWork.grant s t.val q
  obtain ⟨-, hrows, hwork⟩ := readRows_spec ((s.grant t.val q).orReg (tbA 0x90) (2 ^ q)) t.isLt a.row 16
  have hreg := hwork.reg (tbA 0x90) (by rintro ⟨x, -, hx⟩; simp only [tbA] at hx; omega)
  refine ⟨_, ?_, hreg.trans (State.reg_setReg_same _ _ _)⟩
  rw [show rows s t.val a.row 16 = rows ((s.grant t.val q).orReg (tbA 0x90) (2 ^ q)) t.val a.row 16 from rfl, ← hrows]
  change execOverhold t s = _
  simp [execOverhold, hruns, hfailed, hwin, hpres, Nat.not_le.mpr hn, hread]

end

/-- The transaction of a LOOK: the grant parks on the winner, and the lookup goes on with the rows read. -/
theorem tileTransaction_look {s : State} {t : Fin 32} (hruns : s.runs (tileDom t.val) = true) (hfailed : s.failedTile t.val = false)
    {q : Nat} {o : TOp} {a : Acc} (hwin : s.winner t.val (s.present t.val []) = some q)
    (hpres : s.presented t.val q = some (o, a)) (hread : a.kind = 0) (horphan : o.orphan = false) (hn : a.n ≤ 16) (hacc : o.acc = [a])
    (hkind : o.kind = .look) (hsrc : o.src ≠ tblCmd) (hphase : o.phase ≠ 200) (hgone : s.copyGone o a = false) :
    ∃ u, exec (.tileTransaction t) s = .next u ∧ (u.arb t.val).park = some q ∧ (u.arb t.val).freeCy = 0 ∧ u.tile = s.tile ∧
      (match readOf s (s.altOk o.table t.val) t.val a.row a.n with
       | some bs => looks s u o a bs
       | none => ∃ p ∈ u.tb.ops, p.id = o.id ∧ p.fin = true ∧ p.ue = true) ∧
      ((∀ i l, i < a.n → l < 4 → tfind s.tileErr (laneKey t.val (a.row + i) l) = none) → { u with tb := s.tb } = s) := by
  obtain ⟨htile, hfin⟩ := presented_spec hpres
  rw [← htile]
  obtain ⟨v, p, hperform, hwork, hkept, hclean, hlooks⟩ := performAcc_looks (o := { o with hint := tdel o.hint t.val })
    (TileWork.grant s t.val q) (htile ▸ t.isLt) hkind horphan hfin hphase hread hsrc hacc
  have hgrant : (s.grant t.val q).arb t.val = { s.arb t.val with park := some q, freeCy := 0, last := tset (s.arb t.val).last (s.reqCls t.val q) q } :=
    tget_tset_same _ _ _ _
  refine ⟨_, (tileTransaction_performs hruns hfailed hwin hpres hn hgone).trans (congrArg Host.Outcome.next hperform), ?_, ?_,
    hwork.tile, hlooks, fun h => ?_⟩
  · rw [htile]
    exact (hkept.park t.val).trans (congrArg Arb.park hgrant)
  · rw [htile]
    exact (hkept.freeCy t.val).trans (congrArg Arb.freeCy hgrant)
  · rw [hclean h]
    exact (putOp_frame _ _ _).trans (grant_frame s t.val q)

end Sys2Proof.Machine
end

section
/-! SCRUB_VISIT, INSERT_SEQUENCER, TBL_ROUND_OPEN and PLIVE_CLEAR (10 R302, R311–R314, R321, R324). -/

namespace Sys2Proof.Machine
open Sys2Proof.Claim

/-! ### SCRUB_VISIT (R321, R324) -/

/-- The scrub engine's request for a row is raised. -/
def State.scrubAsked (s : State) (x : Nat × Nat) : State :=
  { s with tb := { s.tb with scrubReq := if x ∈ s.tb.scrubReq then s.tb.scrubReq else s.tb.scrubReq ++ [x] } }

theorem mem_scrubAsked (s : State) (x : Nat × Nat) : x ∈ (s.scrubAsked x).tb.scrubReq := by
  simp only [State.scrubAsked]
  split
  · assumption
  · exact List.mem_append_right _ (List.mem_singleton_self _)

theorem mem_of_scrubAsked {s : State} {x y : Nat × Nat} (h : y ∈ (s.scrubAsked x).tb.scrubReq) : y ∈ s.tb.scrubReq ∨ y = x := by
  simp only [State.scrubAsked] at h
  split at h
  · exact .inl h
  · simpa using h

theorem scrubVisit_eq {s : State} {t : Fin 32} (row : Half) (hruns : s.runs (tileDom t.val) = true) (hfailed : s.failedTile t.val = false)
    (hscrub : s.ready dTblS = true) (hleave : s.leaving (tileDom t.val) = false) : exec (.scrubVisit t row) s =
      .next (if (s.scrubAsked (t.val, row.toNat)).winsAll 13 [t.val] then (s.scrubAsked (t.val, row.toNat)).scrubStep t.val
        else s.scrubAsked (t.val, row.toNat)) := by
  have hready : s.ready (tileDom t.val) = true := (ready_iff s _).mpr ⟨hruns, hleave⟩
  have hasked : (if (t.val, row.toNat) ∈ s.tb.scrubReq then s
      else { s with tb := { s.tb with scrubReq := s.tb.scrubReq ++ [(t.val, row.toNat)] } }) = s.scrubAsked (t.val, row.toNat) := by
    unfold State.scrubAsked
    split <;> rfl
  change execScrubVisit t row s = _
  simp [execScrubVisit, ((ready_iff s _).mp hscrub).1, hruns, hfailed, hscrub, hready, hasked]

/-- The one request raised at a tile is the one that is granted. -/
theorem scrubStep_eq {s : State} {t row : Nat} (hmem : (t, row) ∈ s.tb.scrubReq) (honly : ∀ y ∈ s.tb.scrubReq, y.1 = t → y = (t, row)) :
    s.scrubStep t = State.scrubRow { s.grant t 13 with
      tb := { (s.grant t 13).tb with scrubReq := s.tb.scrubReq.erase (t, row) } } t row := by
  obtain ⟨y, hy⟩ := Option.isSome_iff_exists.mp
    (List.find?_isSome (p := fun y : Nat × Nat => decide (y.1 = t)).mpr ⟨(t, row), hmem, decide_eq_true rfl⟩)
  obtain rfl := honly y (List.mem_of_find?_eq_some hy) (by simpa using List.find?_some hy)
  simp only [State.scrubStep, hy]
  rfl

theorem rows_one (s : State) (x row : Nat) : rows s x row 1 = mread 0 s.tile (tlA x row 0) 32 := by
  rw [rows_succ]
  exact List.append_nil _

/-- A row that no table owns and that can be read is written back as it is. -/
theorem scrubRow_unowned {s : State} {x row : Nat} (hx : x < 32) (hown : s.rowOwner x row = none)
    (hgood : ∀ l, l < 4 → tfind s.tileErr (laneKey x row l) ≠ some true) :
    ∃ v, TileWork s v ∧ s.scrubRow x row = (v.tileW x row 0 (rows s x row 1)).scrubNote x row := by
  obtain ⟨b, bs, v, hread, hwork, hof⟩ := readAt_spec s false hx row 1
  have hbad : badRows s x row 1 = false := by simpa [badRows] using hgood
  rw [readOf, if_pos hbad] at hof
  cases b with
  | true => cases hof
  | false =>
    cases hof
    refine ⟨v, hwork, ?_⟩
    simp only [State.scrubRow, hown, hread, State.scrubbed, hwork.rowOwner, Bool.false_eq_true, if_false]

/-- A write of a whole row makes its four lanes good. -/
theorem tileErr_tileW_row (s : State) {x row l : Nat} (hl : l < 4) {bs : List Byte} (hlen : bs.length = 32) :
    tfind (s.tileW x row 0 bs).tileErr (laneKey x row l) = none := by
  have hlane : (laneKey x row l - laneKey x row 0) / 4 = 0 := by simp only [laneKey]; omega
  have hle : laneKey x row 0 ≤ laneKey x row l := by simp only [laneKey]; omega
  refine (tfind_filter_key (fun k => !(decide (laneKey x row 0 ≤ k) && (decide (0 ≤ 32 * ((k - laneKey x row 0) / 4)) &&
    decide (32 * ((k - laneKey x row 0) / 4) + 32 ≤ 0 + bs.length)))) s.tileErr _).trans ?_
  simp [hlane, hle, hlen]

/-- The rows `seen` have been visited in the pass. -/
def State.withVisited (s : State) (seen : List (Nat × Nat)) : State := { s with tb := { s.tb with visited := seen } }

/-- A visited row counts in its pass, and the pass when it is complete. -/
theorem scrubNote_spec (s : State) (t row : Nat) :
    let u := s.scrubNote t row
    let seen := addVisit (t * 65536 + row) s.tb.visited
    u.tile = s.tile ∧ u.tileErr = s.tileErr ∧ u.tb.scrubReq = s.tb.scrubReq ∧
      if (s.withVisited seen).passDone then u.tb.visited = [] ∧ u.ctr (tbA 0x828) = s.ctr (tbA 0x828) + 1
      else u.tb.visited = seen ∧ u.ctr (tbA 0x828) = s.ctr (tbA 0x828) := by
  intro u seen
  simp only [u, seen, State.scrubNote, State.withVisited]
  split
  · rw [State.count_tb]
    exact ⟨State.count_tile _ _ _, State.count_tileErr _ _ _, rfl, rfl, (State.ctr_count _ _ _ _).trans (if_pos rfl)⟩
  · exact ⟨rfl, rfl, rfl, rfl, rfl⟩

theorem passDone_withVisited_tileW (s : State) (x row off : Nat) (bs : List Byte) (seen : List (Nat × Nat)) :
    ((s.tileW x row off bs).withVisited seen).passDone = (s.withVisited seen).passDone := rfl

/-- Whether a pass is complete depends on the rows visited and the tiles failed. -/
theorem passDone_withVisited {s t : State} (seen : List (Nat × Nat)) (h : t.failedTile = s.failedTile) :
    (t.withVisited seen).passDone = (s.withVisited seen).passDone := by
  have hfailed : (t.withVisited seen).failedTile = (s.withVisited seen).failedTile := h
  have hvisited : (t.withVisited seen).tb.visited = (s.withVisited seen).tb.visited := rfl
  simp only [State.passDone, hfailed, hvisited]

/-- What a visit leaves of a row that no table owns. -/
theorem scrubStep_unowned {s : State} {x row : Nat} (hx : x < 32) (hmem : (x, row) ∈ s.tb.scrubReq)
    (honly : ∀ y ∈ s.tb.scrubReq, y.1 = x → y = (x, row)) (hown : s.rowOwner x row = none)
    (hgood : ∀ l, l < 4 → tfind s.tileErr (laneKey x row l) ≠ some true) (hwf : s.tile.wf 0 = true) :
    let u := s.scrubStep x
    let seen := addVisit (x * 65536 + row) s.tb.visited
    u.tb.scrubReq = s.tb.scrubReq.erase (x, row) ∧ (∀ l, l < 4 → tfind u.tileErr (laneKey x row l) = none) ∧
      rows u x row 1 = rows s x row 1 ∧
      if (s.withVisited seen).passDone then u.tb.visited = [] ∧ u.ctr (tbA 0x828) = s.ctr (tbA 0x828) + 1
      else u.tb.visited = seen ∧ u.ctr (tbA 0x828) = s.ctr (tbA 0x828) := by
  have hgrant : TileWork s (s.grant x 13) := TileWork.grant s x 13
  have hown' : ({ s.grant x 13 with tb := { (s.grant x 13).tb with scrubReq := s.tb.scrubReq.erase (x, row) } } : State).rowOwner x row =
      none := (congrFun (congrFun hgrant.rowOwner x) row).trans hown
  obtain ⟨v, hwork, hrow⟩ := scrubRow_unowned hx hown' hgood
  obtain ⟨htile, herr, hreq, hpass⟩ := scrubNote_spec (v.tileW x row 0 (rows s x row 1)) x row
  have hlen : (rows s x row 1).length = 32 := by rw [rows_one, mread_length]
  have hfailed : v.failedTile = s.failedTile := hwork.failed.trans hgrant.failed
  have hctr : v.ctr (tbA 0x828) = s.ctr (tbA 0x828) := hwork.ctr _ (by simp [IsTileCtr, tbA])
  intro u seen
  have hu : u = (v.tileW x row 0 (rows s x row 1)).scrubNote x row := (scrubStep_eq hmem honly).trans hrow
  have hvisited : v.tb.visited = s.tb.visited := hwork.visited
  rw [hu]
  refine ⟨hreq.trans hwork.scrubReq, fun l hl => ?_, ?_, ?_⟩
  · rw [herr]
    exact tileErr_tileW_row v hl hlen
  · have hread := mread_mwrite 0 (rows s x row 1) s.tile (tlA x row 0) hwf
    rw [hlen] at hread
    rw [rows_one, htile, tile_tileW, show v.tile = s.tile from hwork.tile]
    exact hread
  · rw [tileW_tb, ctr_tileW, passDone_withVisited_tileW, hvisited, passDone_withVisited seen hfailed, hctr] at hpass
    exact hpass

/-! ### INSERT_SEQUENCER (R302) -/

/-- An insert that finds no way free writes nothing. -/
theorem tile_insert_full {s u : State} {t : Nat} {bank : Bool} {key data : List Byte} (h : s.insert t bank key data = (.full, u)) :
    u.tile = s.tile := by
  have hscan : (s.scan t bank (s.cands t key)).2.2.tile = s.tile := (TileRead.scan s t bank _).tile
  simp only [State.insert] at h
  split at h
  · cases h
  · split at h
    · cases h
    · split at h
      · cases h
        exact hscan
      · cases h

/-- The operation has left the sequencer. -/
def TOp.unqueued (o : TOp) : TOp := { o with seqHalf := none, hint := [] }

/-- It writes entry `e`, which its search has found. -/
def TOp.atEntry (o : TOp) (e : Nat) : TOp := { o.unqueued with idx := e, phase := 1 }

/-- What the sequencer does with an insert, by its search. -/
def seqInsert (o : TOp) : Ins × State → State
  | (.ue, v) => v.failOp o
  | (.written a, v) => v.wrote o.unqueued a a.tag a.data 1
  | (.full, v) => (v.count (tbA 0x818)).finOp o 0 []
  | (.present e, v) =>
    let a := v.wrAcc (o.atEntry e) e 0 o.data
    if o.kind = .lrn then v.finOp o 0 []
    else if (v.lockOf o.table e).any (fun l => l.owner ≠ o.src) then v.putOp { o.atEntry e with acc := [a] }
    else (v.tileW a.tile a.row a.tag a.data).wrote (o.atEntry e) a a.tag a.data 1

section
variable {s : State} {half : Fin 2} {o : TOp} (hhead : s.seqHead half.val = some o) (hdead : s.tDead o.table (o.bank = 1) = false)
include hhead hdead

/-- An insert that has not its turn at all its tiles waits. -/
theorem insertSequencer_waits (hwins : s.winsAll o.req (s.seqTiles o) = false) : exec (.insertSequencer half) s = .next s := by
  change execInsertSequencer half s = _
  simp [execInsertSequencer, hhead, hdead, hwins]

variable (hwins : s.winsAll o.req (s.seqTiles o) = true)
include hwins

/-- One that has it inserts, after its grants. -/
theorem insertSequencer_inserts {x : Ins} {u : State}
    (hins : (forEach (s.seqTiles o) s (fun t s => s.grant t o.req)).insert o.table (o.bank = 1) o.key o.data = (x, u)) :
    exec (.insertSequencer half) s = .next (seqInsert o (x, u)) := by
  change execInsertSequencer half s = _
  simp only [execInsertSequencer, hhead, hdead, hwins, Bool.not_true, Bool.false_eq_true, if_false, hins]
  cases x <;> rfl

end

section
variable {u : State} {o : TOp} (horphan : o.orphan = false) (hkind : o.kind = .upd ∨ o.kind = .lrn)
include horphan hkind

/-- An insert that is written ends with result 1, after its second copy where there is one. -/
theorem seqInsert_written (hphase : o.phase ≠ 200) (hfin : o.fin = false) (a : Acc) :
    ∃ p ∈ (seqInsert o (.written a, u)).tb.ops, p.id = o.id ∧ (seqInsert o (.written a, u)).tile = u.tile ∧ p.res = 1 ∧
      opWrote u (seqInsert o (.written a, u)) o a.tile a.row a.tag a.data.length 1 := by
  have hcopy : o.unqueued.kind ≠ .copy := by rcases hkind with h | h <;> rw [TOp.unqueued, h] <;> decide
  have hrows : o.unqueued.onRows = false := by rcases hkind with h | h <;> rw [TOp.onRows, TOp.unqueued, h] <;> decide
  obtain ⟨p, hp, hid, hres⟩ := wrote_lists (s := u) hcopy horphan hrows hphase a a.tag a.data 1
  have hwrote := opWrote_wrote (s := u) hcopy horphan hrows hphase hfin a a.tag a.data 1
  refine ⟨p, ?_, hid, ?_, hres, hwrote⟩
  · rw [seqInsert, hp]
    exact mem_putOp _ _
  · rw [seqInsert, hp]
    rfl

theorem finOp_ended (res : Nat) : ∃ p ∈ (u.finOp o res []).tb.ops, p.id = o.id ∧ p.fin = true ∧ p.res = BitVec.ofNat 32 res ∧
    (u.finOp o res []).tile = u.tile ∧ (u.finOp o res []).counters = u.counters := by
  rw [finOp_lists u (by rcases hkind with h | h <;> rw [h] <;> decide) horphan]
  exact ⟨_, mem_putOp _ _, rfl, rfl, rfl, rfl, rfl⟩

omit hkind in
/-- An UPD of a key that is present writes its entry, where nobody else has it locked. -/
theorem seqInsert_updates (hupd : o.kind = .upd) (hfin : o.fin = false) {e : Nat}
    (hfree : ∀ l, u.lockOf o.table e = some l → l.owner = o.src) (hwf : u.tile.wf 0 = true) :
    let w := u.entryAt o.table (o.bank = 1) e
    wrote u (seqInsert o (.present e, u)) (u.wrTile o.table w.1) w.2.1 w.2.2 o.data ∧
      opWrote u (seqInsert o (.present e, u)) o (u.wrTile o.table w.1) w.2.1 w.2.2 o.data.length 1 := by
  intro w
  have hcopy : (o.atEntry e).kind ≠ .copy := by rw [TOp.atEntry, TOp.unqueued, hupd]; decide
  have hrows : (o.atEntry e).onRows = false := by rw [TOp.onRows, TOp.atEntry, TOp.unqueued, hupd]; decide
  have hphase : (o.atEntry e).phase ≠ 200 := show (1 : Nat) ≠ 200 by decide
  have hlocked : ((u.lockOf o.table e).any (fun l => l.owner ≠ o.src)) = false := by
    cases hl : u.lockOf o.table e with
    | none => rfl
    | some l => simp [hfree l hl]
  have hins : seqInsert o (.present e, u) = (u.tileW (u.wrTile o.table w.1) w.2.1 w.2.2 o.data).wrote (o.atEntry e)
      ⟨u.wrTile o.table w.1, w.2.1, u.tRows o.table, 1, w.2.2, o.data⟩ w.2.2 o.data 1 := by
    rw [seqInsert, if_neg (by rw [hupd]; decide), if_neg (by rw [hlocked]; decide)]
    rfl
  obtain ⟨p, hp, -⟩ := wrote_lists (s := u.tileW (u.wrTile o.table w.1) w.2.1 w.2.2 o.data) hcopy horphan hrows hphase
    ⟨u.wrTile o.table w.1, w.2.1, u.tRows o.table, 1, w.2.2, o.data⟩ w.2.2 o.data 1
  rw [hins]
  refine ⟨wrote_of_mwrite hwf ?_, ?_⟩
  · rw [hp]
    rfl
  · exact opWrote_tileW (a := ⟨u.wrTile o.table w.1, w.2.1, u.tRows o.table, 1, w.2.2, o.data⟩) (o := o.atEntry e)
      (w := u.tileW (u.wrTile o.table w.1) w.2.1 w.2.2 o.data) (TileWork.refl u) horphan hcopy hrows hphase hfin rfl _ _ _

end

/-! ### TBL_ROUND_OPEN and PLIVE_CLEAR (R311–R314) -/

/-- The bank of a DUAL table in use becomes PREV's, and the other one CUR's where the table is staged. -/
def State.flipBank (s : State) (t : Nat) (staged : Bool) : State :=
  { s with tb := { s.tb with pbank := tset s.tb.pbank t (s.abank t),
                             abank := if staged then tset s.tb.abank t (!s.abank t) else s.tb.abank } }

theorem abank_flipBank (s : State) (t : Nat) (staged : Bool) (x : Nat) :
    (s.flipBank t staged).abank x = if x = t ∧ staged = true then !s.abank t else s.abank x := by
  cases staged with
  | false => simp [State.flipBank, State.abank]
  | true => simp [State.flipBank, State.abank, tget_tset]

theorem pbank_flipBank (s : State) (t : Nat) (staged : Bool) (x : Nat) :
    (s.flipBank t staged).pbank x = if x = t then s.abank t else s.pbank x := tget_tset _ _ _ _ _

/-- Flipping the banks of different tables, one after the other, flips each once, and changes nothing else. -/
theorem flipBanks_spec (staged : Nat → Bool) {l : List Nat} (hl : l.Nodup) (s : State) :
    let u := forEach l s (fun t s => s.flipBank t (staged t))
    { u with tb := { u.tb with abank := s.tb.abank, pbank := s.tb.pbank } } = s ∧
      ∀ t, (t ∈ l → u.pbank t = s.abank t ∧ u.abank t = if staged t then !s.abank t else s.abank t) ∧
        (t ∉ l → u.pbank t = s.pbank t ∧ u.abank t = s.abank t) := by
  induction l generalizing s with
  | nil => exact ⟨rfl, fun t => ⟨fun h => absurd h List.not_mem_nil, fun _ => ⟨rfl, rfl⟩⟩⟩
  | cons x l ih =>
    obtain ⟨hx, hl⟩ := List.nodup_cons.mp hl
    obtain ⟨hframe, hbanks⟩ := ih hl (s.flipBank x (staged x))
    simp only [abank_flipBank, pbank_flipBank] at hbanks
    refine ⟨?_, fun t => ⟨fun ht => ?_, fun ht => ?_⟩⟩
    · exact congrArg (fun v : State => { v with tb := { v.tb with abank := s.tb.abank, pbank := s.tb.pbank } }) hframe
    · obtain rfl | htl := List.mem_cons.mp ht
      · simpa using (hbanks t).2 hx
      · have htx : t ≠ x := fun h => hx (h ▸ htl)
        simpa [htx] using (hbanks t).1 htl
    · obtain ⟨htx, htl⟩ := not_or.mp (fun h => ht (List.mem_cons.mpr h))
      simpa [htx] using (hbanks t).2 htl

/-- The round after CUR begins at time `now` (R314). -/
def State.nextCur (s : State) (now : Nat) : State :=
  { s with tb := { s.tb with prev := s.tb.cur, cur := s.tb.cur + 1, plive := true, refused := false, roundAt := now } }

/-- A round that opens: CUR advances, the DUAL tables' banks turn, and the staging registers are clear. -/
theorem openRound_opens {s : State} (hplive : s.tb.plive = false) :
    let u := s.openRound
    u.dbg = s.dbg ∧ u.tb.cur = s.tb.cur + 1 ∧ u.tb.prev = s.tb.cur ∧ u.tb.plive = true ∧ u.tb.refused = false ∧ u.tb.roundAt = s.now ∧
      (∀ t, t < 256 → s.tDual t = true → u.pbank t = s.abank t ∧
        u.abank t = if bit (s.reg (tbA (0x20 + 4 * (t / 32)))) (t % 32) then !s.abank t else s.abank t) ∧
      ∀ k, k < 8 → u.reg (tbA (0x20 + 4 * k)) = 0 := by
  obtain ⟨staged, hstaged⟩ : ∃ f : Nat → Bool, f = fun t => bit (s.reg (tbA (0x20 + 4 * (t / 32)))) (t % 32) := ⟨_, rfl⟩
  obtain ⟨v, hv⟩ : ∃ v, v = forEach ((List.range 256).filter (fun t => s.tDual t)) s (fun t x => x.flipBank t (staged t)) := ⟨_, rfl⟩
  obtain ⟨hflipped, hbanks⟩ := flipBanks_spec staged (l := (List.range 256).filter (fun t => s.tDual t)) (List.nodup_range.filter _) s
  rw [← hv] at hflipped hbanks
  obtain ⟨hcleared, hregs⟩ := setRegs_spec 0x20 (fun _ => 0) (v.nextCur s.now) 8
  intro u
  have hu : u = forEach (List.range 8) (v.nextCur s.now) (fun i s => s.setReg (tbA (0x20 + 4 * i)) 0) := by
    rw [hv, hstaged]
    exact if_neg (by rw [hplive]; decide)
  have htb : u.tb = (v.nextCur s.now).tb := by
    rw [hu]
    exact (congrArg State.tb hcleared :)
  have hcur : v.tb.cur = s.tb.cur := (congrArg (fun x : State => x.tb.cur) hflipped :)
  rw [htb]
  refine ⟨?_, congrArg (· + 1) hcur, hcur, rfl, rfl, rfl, fun t ht hdual => ?_, fun k hk => ?_⟩
  · rw [hu]
    exact (congrArg State.dbg hcleared :).trans (congrArg State.dbg hflipped :)
  · have hbank := (hbanks t).1 (List.mem_filter.mpr ⟨List.mem_range.mpr ht, hdual⟩)
    rw [hstaged] at hbank
    have hnew : u.abank = v.abank ∧ u.pbank = v.pbank := by
      refine ⟨funext fun x => ?_, funext fun x => ?_⟩
      · rw [State.abank, htb]
        rfl
      · rw [State.pbank, htb]
        rfl
    rw [hnew.1, hnew.2]
    exact hbank
  · rw [hu]
    exact hregs k hk

theorem pliveClear_eq {s : State} (hruns : s.runs dTblN = true) (hplive : s.tb.plive = true) : exec .pliveClear s =
    .next (if s.roundCount s.tb.prev = 0 ∧ s.tb.roundAt + 20 ≤ s.now then { s with tb := { s.tb with plive := false } } else s) := by
  change execPliveClear s = _
  simp only [execPliveClear, hruns, hplive, Bool.and_eq_true, decide_eq_true_eq, Bool.true_and]

/-- Settles O46: a transaction by what `performAcc` leaves after the grant, a scrub visit by `scrubStep_unowned`, the sequencer by what
`seqInsert` makes of its search, a round by `openRound_opens`. -/
theorem tableUnits : Obligations.TableUnits := by
  unfold Obligations.TableUnits
  refine ⟨fun s t hruns hfailed => ⟨fun h => tileTransaction_idle hruns hfailed h, ?_, ?_, ?_, ?_, ?_, ?_⟩, ?_, ?_,
    fun s hruns hplive => pliveClear_eq hruns hplive⟩
  · intro q o a hwin hpres hread horphan
    refine ⟨fun hn hacc hkind hsrc hphase hgone => ?_, fun hn => overhold_short hruns hfailed hwin hpres hn, fun hn hkind => ?_⟩
    · exact tileTransaction_look hruns hfailed hwin hpres hread horphan hn hacc hkind hsrc hphase hgone
    · obtain ⟨v, hexec, hreg⟩ := overhold_read hruns hfailed hwin hpres hn hread
      rw [finOp_lists v hkind horphan] at hexec
      exact ⟨_, _, hexec, mem_putOp _ _, rfl, rfl, rfl, rfl, hreg⟩
  · intro q o a hwin hpres horphan hn hgone hwf
    obtain ⟨htile, hfin⟩ := presented_spec hpres
    have hexec := tileTransaction_performs hruns hfailed hwin hpres hn hgone
    have hgrant := TileWork.grant s t.val q
    rw [← htile]
    refine ⟨fun hwrite hkind hphase => ?_, fun hwrite hphase hkind => ?_, fun hrmw hkind hphase => ?_⟩
    · exact ⟨_, hexec, performAcc_writes (o := { o with hint := tdel o.hint t.val }) hgrant hwf horphan hwrite hkind hphase hfin⟩
    · exact ⟨_, hexec, performAcc_second (o := { o with hint := tdel o.hint t.val }) hgrant hwf horphan hwrite hkind hphase⟩
    · obtain ⟨hnone, hsome⟩ := performAcc_cas (o := { o with hint := tdel o.hint t.val }) hgrant hwf horphan
        (htile ▸ t.isLt) hrmw hkind hphase hfin
      intro home
      split
      · next h => exact ⟨_, hexec, hnone h⟩
      · next e h =>
        obtain ⟨hwindow, hdiffers, htakes, hwaits⟩ := hsome e h
        exact ⟨fun hk => ⟨_, hexec, hwindow hk⟩, fun hk hne => ⟨_, hexec, hdiffers hk hne⟩,
          fun hk heq hroom hsrc => ⟨_, hexec, htakes hk heq hroom hsrc⟩, fun hk heq hfull => ⟨_, hexec, hwaits hk heq hfull⟩⟩
  · exact ⟨_, tileFail_parity hruns, failTile_failed, failCause_failTile hfailed, reg_failTile hfailed⟩
  · exact fun h => ⟨_, tileFail_rows hruns h, failTile_failed, failCause_failTile hfailed⟩
  · exact fun h => tileFail_fewRows hruns h
  · intro row hscrub hscrubLeave hleave x s1 seen
    have hexec := scrubVisit_eq row hruns hfailed ((ready_iff s _).mpr ⟨hscrub, hscrubLeave⟩) hleave
    refine ⟨fun hwins => hexec.trans (congrArg Host.Outcome.next (if_neg (Bool.eq_false_iff.mp hwins))),
      fun hwins honly hown hgood hwf => ?_⟩
    have honly' : ∀ y ∈ (s.scrubAsked x).tb.scrubReq, y.1 = t.val → y = x := fun y hy hyt =>
      (mem_of_scrubAsked hy).elim (fun hmem => honly y hmem hyt) id
    exact ⟨_, hexec.trans (congrArg Host.Outcome.next (if_pos hwins)),
      scrubStep_unowned (s := s.scrubAsked x) t.isLt (mem_scrubAsked s x) honly' hown hgood hwf⟩
  · intro s half o hhead hdead ts s1
    have hfin : o.fin = false := by
      have hqueued := List.find?_some hhead
      simp only [Bool.and_eq_true, Bool.not_eq_true'] at hqueued
      exact hqueued.1
    refine ⟨insertSequencer_waits hhead hdead, fun hwins horphan hkind hphase u => ⟨fun a hins => ?_, fun hins => ?_, fun e hins => ⟨?_, ?_⟩⟩⟩
    · obtain ⟨p, hp⟩ := seqInsert_written (u := u) horphan hkind hphase hfin a
      exact ⟨_, p, insertSequencer_inserts hhead hdead hwins hins, hp⟩
    · obtain ⟨p, hp, hid, hpfin, hres, htile, hcounters⟩ := finOp_ended (u := u.count (tbA 0x818)) horphan hkind 0
      refine ⟨_, p, insertSequencer_inserts hhead hdead hwins hins, hp, hid, hpfin, hres, htile.trans ?_, ?_⟩
      · rw [State.count_tile, tile_insert_full hins]
        exact (TileWork.grants s ts o.req).tile
      · exact (congrArg (fun c => tget 0 c (tbA 0x818)) hcounters).trans ((State.ctr_count _ _ _ _).trans (if_pos rfl))
    · intro hlrn
      obtain ⟨p, hp, hid, hpfin, hres, htile, -⟩ := finOp_ended (u := u) horphan hkind 0
      have hexec := (insertSequencer_inserts hhead hdead hwins hins).trans (congrArg Host.Outcome.next (if_pos hlrn))
      exact ⟨_, p, hexec, hp, hid, hpfin, hres, htile⟩
    · exact fun hupd hfree hwf => ⟨_, insertSequencer_inserts hhead hdead hwins hins, seqInsert_updates horphan hupd hfin hfree hwf⟩
  · refine fun s q hq => ⟨fun hplive => ?_, fun hplive => ?_⟩
    · have hrefused : s.openRound = { s with tb := { s.tb with refused := true } } := if_pos hplive
      refine congrArg Host.Outcome.next ((writeCmd_of_MayWrite hq _ ?_).trans (congrArg (acked q _) hrefused))
      rw [hrefused]
    · obtain ⟨hdbg, hcur, hprev, hlive, hrefused, hat, hbanks, hregs⟩ := openRound_opens hplive
      refine ⟨_, congrArg Host.Outcome.next (writeCmd_of_MayWrite hq _ (congrArg Dbg.level hdbg)), ?_⟩
      rw [tb_acked]
      refine ⟨hcur, hprev, hlive, hrefused, hat, fun t ht hdual => ?_, fun k hk => ?_⟩
      · rw [pbank_acked, abank_acked]
        exact hbanks t ht hdual
      · rw [reg_acked]
        exact hregs k hk

end Sys2Proof.Machine
end

section
/-! Bits and fields of words, and the registers of a rank's seats (00 R7; 11 R332–R342, R354–R356). -/

namespace Sys2Proof.Machine
open Sys2Proof.Claim

/-! ### Bits and fields of words -/

theorem bit_eq_getLsbD (w : Word) (i : Nat) : bit w i = w.getLsbD i := Nat.testBit_eq_decide_div_mod_eq.symm

@[simp] theorem bit_or (v w : Word) (i : Nat) : bit (v ||| w) i = (bit v i || bit w i) := by simp [bit_eq_getLsbD]

theorem bit_and (v w : Word) (i : Nat) : bit (v &&& w) i = (bit v i && bit w i) := by simp [bit_eq_getLsbD]

@[simp] theorem bit_andNot (v w : Word) (i : Nat) : bit (v &&& ~~~w) i = (bit v i && !bit w i) := by
  by_cases hi : i < 32
  · simp [bit_eq_getLsbD, hi]
  · simp [bit_eq_getLsbD, BitVec.getLsbD_of_ge _ _ (Nat.le_of_not_lt hi)]

theorem bit_ofNat_two_pow (k i : Nat) : bit (BitVec.ofNat 32 (2 ^ k)) i = (decide (i < 32) && decide (k = i)) := by
  rw [bit_eq_getLsbD, BitVec.getLsbD_ofNat, Nat.testBit_two_pow]

/-! A bit of a word that is set or cleared by a mask `m`. -/

section
variable {m : Word} {i : Nat} (w : Word)

theorem bit_set (h : bit m i = true) : bit (w ||| m) i = true := by rw [bit_or, h, Bool.or_true]
theorem bit_set_other (h : bit m i = false) : bit (w ||| m) i = bit w i := by rw [bit_or, h, Bool.or_false]
theorem bit_clear (h : bit m i = true) : bit (w &&& ~~~m) i = false := by rw [bit_andNot, h, Bool.not_true, Bool.and_false]
theorem bit_clear_other (h : bit m i = false) : bit (w &&& ~~~m) i = bit w i := by
  rw [bit_andNot, h, Bool.not_false, Bool.and_true]

end

/-- Bit `j` of a field. -/
theorem testBit_bits (w : Word) (hi lo j : Nat) : (bits w hi lo).testBit j = (decide (j < hi + 1 - lo) && bit w (lo + j)) := by
  rw [bits, Nat.testBit_mod_two_pow, Nat.testBit_div_two_pow, bit_eq_getLsbD, Nat.add_comm j lo]
  rfl

/-- A word with the field at bits `hi` down to `lo` replaced. -/
def withFld (w : Word) (hi lo v : Nat) : Word :=
  (w &&& ~~~ BitVec.ofNat 32 ((2 ^ (hi + 1 - lo) - 1) * 2 ^ lo)) ||| BitVec.ofNat 32 (v % 2 ^ (hi + 1 - lo) * 2 ^ lo)

theorem bit_withFld (w : Word) (v i : Nat) {hi lo : Nat} (h : hi < 32) (hlo : lo ≤ hi) :
    bit (withFld w hi lo v) i = if lo ≤ i ∧ i ≤ hi then v.testBit (i - lo) else bit w i := by
  have hmask : bit (BitVec.ofNat 32 ((2 ^ (hi + 1 - lo) - 1) * 2 ^ lo)) i = decide (lo ≤ i ∧ i ≤ hi) := by
    rw [bit_eq_getLsbD, BitVec.getLsbD_ofNat, Nat.testBit_mul_two_pow, Nat.testBit_two_pow_sub_one, Bool.eq_iff_iff]
    simp only [Bool.and_eq_true, decide_eq_true_eq]
    omega
  have hnew : bit (BitVec.ofNat 32 (v % 2 ^ (hi + 1 - lo) * 2 ^ lo)) i = (decide (lo ≤ i ∧ i ≤ hi) && v.testBit (i - lo)) := by
    rw [bit_eq_getLsbD, BitVec.getLsbD_ofNat, Nat.testBit_mul_two_pow, Nat.testBit_mod_two_pow, ← Bool.and_assoc, ← Bool.and_assoc]
    refine congrArg (· && v.testBit (i - lo)) (Bool.eq_iff_iff.mpr ?_)
    simp only [Bool.and_eq_true, decide_eq_true_eq]
    omega
  rw [withFld, bit_or, bit_andNot, hmask, hnew]
  by_cases hin : lo ≤ i ∧ i ≤ hi <;> simp [hin]

/-- The field that was replaced. -/
theorem bits_withFld_same (w : Word) (v : Nat) {hi lo : Nat} (h : hi < 32) (hlo : lo ≤ hi) :
    bits (withFld w hi lo v) hi lo = v % 2 ^ (hi + 1 - lo) := by
  refine Nat.eq_of_testBit_eq fun j => ?_
  rw [testBit_bits, bit_withFld w v _ h hlo, Nat.testBit_mod_two_pow]
  by_cases hj : j < hi + 1 - lo
  · rw [if_pos (by omega), Nat.add_sub_cancel_left]
  · simp [hj]

/-- A field clear of the one that was replaced. -/
theorem bits_withFld_ne (w : Word) (v : Nat) {hi lo hi' lo' : Nat} (h : hi < 32) (hlo : lo ≤ hi) (hne : hi' < lo ∨ hi < lo') :
    bits (withFld w hi lo v) hi' lo' = bits w hi' lo' := by
  refine Nat.eq_of_testBit_eq fun j => ?_
  rw [testBit_bits, testBit_bits, bit_withFld w v _ h hlo]
  by_cases hj : j < hi' + 1 - lo'
  · rw [if_neg (by omega)]
  · simp [hj]

/-- The number whose bits below `n` are those that `p` names. -/
theorem foldl_two_pow (p : Nat → Prop) [DecidablePred p] (n : Nat) :
    (List.range n).foldl (fun a b => if p b then a + 2 ^ b else a) 0 < 2 ^ n ∧
    ∀ i, ((List.range n).foldl (fun a b => if p b then a + 2 ^ b else a) 0).testBit i = decide (i < n ∧ p i) := by
  induction n with
  | zero => simp
  | succ n ih =>
    obtain ⟨hlt, hbit⟩ := ih
    simp only [List.range_succ, List.foldl_append, List.foldl_cons, List.foldl_nil]
    generalize (List.range n).foldl (fun a b => if p b then a + 2 ^ b else a) 0 = m at hlt hbit ⊢
    have hpow : 2 ^ (n + 1) = 2 ^ n + 2 ^ n := by omega
    by_cases hp : p n
    · simp only [if_pos hp, Nat.add_comm m]
      refine ⟨by omega, fun i => ?_⟩
      rcases Nat.lt_trichotomy i n with h | rfl | h
      · rw [Nat.testBit_two_pow_add_gt h, hbit]; simp [h, Nat.lt_succ_of_lt h]
      · rw [Nat.testBit_two_pow_add_eq, hbit]; simp [hp]
      · have hout : 2 ^ n + m < 2 ^ i := by
          have := Nat.pow_le_pow_right (n := 2) (by omega) h
          omega
        rw [Nat.testBit_lt_two_pow hout]; simp [show ¬ i < n + 1 by omega]
    · simp only [if_neg hp]
      refine ⟨by omega, fun i => ?_⟩
      rw [hbit]
      rcases Nat.lt_trichotomy i n with h | rfl | h
      · simp [h, Nat.lt_succ_of_lt h]
      · simp [hp]
      · simp [Nat.not_lt.mpr h.le, show ¬ i < n + 1 by omega]

/-! ### Stored registers after their updates -/

theorem State.reg_setReg (s : State) (k j : Nat) (w : Word) : (s.setReg k w).reg j = if j = k then w else s.reg j := by
  split
  · next h => rw [h, State.reg_setReg_same]
  · next h => exact State.reg_setReg_ne s k j w h

theorem State.setRegN_eq (s : State) (a n : Nat) : s.setRegN a n = s.setReg a (BitVec.ofNat 32 n) := rfl
theorem State.orReg_eq (s : State) (a n : Nat) : s.orReg a n = s.setReg a (s.reg a ||| BitVec.ofNat 32 n) := rfl
theorem State.clrReg_eq (s : State) (a n : Nat) : s.clrReg a n = s.setReg a (s.reg a &&& ~~~ BitVec.ofNat 32 n) := rfl
theorem State.setFld_eq (s : State) (a hi lo v : Nat) : s.setFld a hi lo v = s.setReg a (withFld (s.reg a) hi lo v) := rfl

@[simp] theorem rkA_inj (r a b : Nat) : rkA r a = rkA r b ↔ a = b := by simp [rkA]
@[simp] theorem spHid_inj (r t i j : Nat) : spHid r t i = spHid r t j ↔ i = j := by simp [spHid]

/-- What the block keeps for a seat lies outside the ranks' address maps. -/
theorem rkA_lt_spHid (r : Rank) {a : Nat} (r' t i : Nat) (ha : a < 0x100000) : rkA r.val a < spHid r' t i := by
  have := r.isLt
  simp only [rkA, spHid]
  omega

section
variable (r : Rank) (t : Seat) (i : Nat)

@[simp] theorem spOwn_ne_spHid : spOwn r.val t.val ≠ spHid r.val t.val i := (rkA_lt_spHid r _ _ _ (by omega)).ne
@[simp] theorem spHid_ne_spOwn : spHid r.val t.val i ≠ spOwn r.val t.val := (rkA_lt_spHid r _ _ _ (by omega)).ne'
@[simp] theorem spSt_ne_spHid : spSt r.val t.val ≠ spHid r.val t.val i := (rkA_lt_spHid r _ _ _ (by omega)).ne
@[simp] theorem spHid_ne_spSt : spHid r.val t.val i ≠ spSt r.val t.val := (rkA_lt_spHid r _ _ _ (by omega)).ne'

end

@[simp] theorem spOwn_ne_spSt (r t : Nat) : spOwn r t ≠ spSt r t := by simp [spOwn, spSt]
@[simp] theorem spSt_ne_spOwn (r t : Nat) : spSt r t ≠ spOwn r t := by simp [spOwn, spSt]

/-! ### Timed work of a rank -/

theorem rank_setDue (s : State) (r k t : Nat) : (s.setDue r k t).rank r = { s.rank r with due := tset (s.rank r).due k t } :=
  State.rank_setRank_same _ _ _

theorem rank_endDue (s : State) (r k : Nat) : (s.endDue r k).rank r = { s.rank r with due := tdel (s.rank r).due k } :=
  State.rank_setRank_same _ _ _

@[simp] theorem reg_setDue (s : State) (r k t a : Nat) : (s.setDue r k t).reg a = s.reg a := rfl
@[simp] theorem reg_endDue (s : State) (r k a : Nat) : (s.endDue r k).reg a = s.reg a := rfl

/-! ### What an acknowledged write leaves -/

@[simp] theorem rank_acked (q : Req) (a r : Nat) (s : State) : (acked q a s).rank r = s.rank r := by cases q <;> rfl
@[simp] theorem core_acked (q : Req) (a ck : Nat) (s : State) : (acked q a s).core ck = s.core ck := by cases q <;> rfl
@[simp] theorem csErr_acked (q : Req) (a : Nat) (s : State) : (acked q a s).csErr = s.csErr := by cases q <;> rfl

end Sys2Proof.Machine
end

section
/-! The bytes and check bits of a core's scratchpad under clears, the background test, full tests and steward accesses
(11 R331–R342). -/

namespace Sys2Proof.Machine
open Sys2Proof.Claim

/-! ### Banks that are made zero (R338, R342) -/

theorem tfind_tkeep_key {α : Type} (t : Tab α) (q : Nat → Bool) (k : Nat) :
    tfind (tkeep t (fun w _ => q w)) k = if q k then tfind t k else none := tfind_filter_key q t k

/-- The bytes of the banks read 0, every other byte as before. -/
theorem mget_zeroBanks (s : State) (ck : Nat) (p : Nat → Bool) (a : Nat) :
    mget 0 (s.zeroBanks ck p).sp a =
      if spA ck 0 ≤ a ∧ a < spA (ck + 1) 0 ∧ p (a / 8 % 8) = true then 0 else mget 0 s.sp a := by
  have hfind := tfind_filter_key (fun a => !(decide (spA ck 0 ≤ a) && decide (a < spA (ck + 1) 0) && p (a / 8 % 8))) s.sp a
  rw [mget, tget, State.zeroBanks, hfind]
  by_cases h : spA ck 0 ≤ a ∧ a < spA (ck + 1) 0 ∧ p (a / 8 % 8) = true
  · simp [h]
  · have hkept : (!(decide (spA ck 0 ≤ a) && decide (a < spA (ck + 1) 0) && p (a / 8 % 8))) = true := by
      simpa only [Bool.not_eq_true', Bool.and_eq_false_iff, decide_eq_false_iff_not, not_and_or, Bool.not_eq_true, or_assoc] using h
    rw [if_neg h, if_pos hkept]
    rfl

theorem spR_one (s : State) (ck x : Nat) : s.spR ck x 1 = [mget 0 s.sp (spA ck x)] := rfl

theorem spR_add (s : State) (ck x n k : Nat) : s.spR ck x (n + k) = s.spR ck x n ++ s.spR ck (x + n) k := by
  rw [State.spR, mread_add]
  simp only [State.spR, spA, Nat.add_assoc]

theorem spR_zeroBanks (s : State) (ck : Nat) (p : Nat → Bool) {x : Nat} (hx : x < 0x40000) :
    (s.zeroBanks ck p).spR ck x 1 = if p (x / 8 % 8) then [0] else s.spR ck x 1 := by
  have hbank : spA ck x / 8 % 8 = x / 8 % 8 := by simp only [spA]; omega
  have hin : spA ck 0 ≤ spA ck x ∧ spA ck x < spA (ck + 1) 0 := by simp only [spA]; omega
  rw [spR_one, spR_one, mget_zeroBanks, hbank]
  by_cases hp : p (x / 8 % 8) = true
  · rw [if_pos ⟨hin.1, hin.2, hp⟩, if_pos hp]
  · rw [if_neg (fun h => hp h.2.2), if_neg hp]

/-- The words of the banks have good check bits. -/
theorem spErr_zeroBanks_all (s : State) {ck w : Nat} (hlo : spWord ck 0 ≤ w) (hhi : w < spWord (ck + 1) 0) :
    tfind (s.zeroBanks ck (fun _ => true)).spErr w = none := by
  refine (tfind_tkeep_key s.spErr (fun w => !(decide (spWord ck 0 ≤ w) && decide (w < spWord (ck + 1) 0) && true)) w).trans (if_neg ?_)
  simp [hlo, hhi]

/-! ### SP_CLEAR_END (R338) -/

/-- What one turn brings about and every turn keeps, holds in the end. -/
theorem forEach_reaches {α σ : Type} {P : σ → Prop} {f : α → σ → σ} {l : List α} {a : α} (ha : a ∈ l) (hset : ∀ s, P (f a s))
    (hkeep : ∀ b s, P s → P (f b s)) (s : σ) : P (forEach l s f) := by
  induction l generalizing s with
  | nil => cases ha
  | cons b l ih =>
    rcases List.mem_cons.mp ha with rfl | hmem
    · exact forEach_keeps P l f hkeep _ (hset s)
    · exact ih hmem _

/-- The next packet of each context of core `c` takes slot 0 (03 R74). -/
def State.forgetSlots (s : State) (r c : Nat) : State :=
  forEach (List.range 8) s (fun k s => s.setCtx (pk r c k) { s.ctx (pk r c k) with lastSlot := none })

theorem lastSlot_forgetSlots (s : State) (r c : Nat) {k : Nat} (hk : k < 8) : ((s.forgetSlots r c).ctx (pk r c k)).lastSlot = none := by
  refine forEach_reaches (P := fun u : State => (u.ctx (pk r c k)).lastSlot = none) (List.mem_range.mpr hk) (fun u => ?_)
    (fun j u hu => ?_) s
  · rw [State.ctx_setCtx_same]
  · by_cases hj : pk r c k = pk r c j
    · rw [hj, State.ctx_setCtx_same]
    · rw [State.ctx_setCtx_ne _ _ _ _ hj, hu]

theorem forgetSlots_sp (s : State) (r c : Nat) : (s.forgetSlots r c).sp = s.sp := by
  unfold State.forgetSlots
  refine forEach_keeps (fun u : State => u.sp = s.sp) _ _ (fun k u hu => ?_) s rfl
  exact hu

section
variable {s : State} {r : Rank} {cn : CoreNo}

/-- The state at the end of a clear. -/
def State.cleared (s : State) (r c : Nat) : State :=
  let t := s.seatNo r c
  ((((s.forgetSlots r c).endDue r (32 + c)).zeroBanks (r * 13 + c) (fun _ => true)).setReg (spOwn r t) 0).clrReg (spSt r t) (2 ^ 31)

theorem spClearEnd_eq (hr : s.runs r.val = true) (hdue : s.dueNow r.val (32 + cn.val) = true) :
    exec (.spClearEnd r cn) s = .next (s.cleared r.val cn.val) := by
  change execSpClearEnd r cn s = _
  rw [execSpClearEnd, if_neg (by simp [hr, hdue])]
  rfl

theorem cleared_clears (s : State) (r c : Nat) :
    let ck := r * 13 + c
    let t := s.cleared r c
    (∀ x, x < 0x40000 → t.spR ck x 1 = [0]) ∧
    (∀ w, spWord ck 0 ≤ w → w < spWord (ck + 1) 0 → tfind t.spErr w = none) ∧
    (∀ x, x < spA ck 0 ∨ spA (ck + 1) 0 ≤ x → mget 0 t.sp x = mget 0 s.sp x) ∧
    t.reg (spOwn r (s.seatNo r c)) = 0 ∧ bit (t.reg (spSt r (s.seatNo r c))) 31 = false ∧
    (∀ k, k < 8 → (t.ctx (pk r c k)).lastSlot = none) := by
  intro ck t
  let u := (s.forgetSlots r c).endDue r (32 + c)
  have hbytes : t.sp = (u.zeroBanks ck (fun _ => true)).sp := rfl
  have hmarks : t.spErr = (u.zeroBanks ck (fun _ => true)).spErr := rfl
  have hctxs : t.ctxs = (s.forgetSlots r c).ctxs := rfl
  refine ⟨fun x hx => ?_, fun w hlo hhi => ?_, fun x hx => ?_, ?_, ?_, fun k hk => ?_⟩
  · rw [spR_one, hbytes, ← spR_one, spR_zeroBanks u ck _ hx]
    simp only [if_true]
  · rw [hmarks, spErr_zeroBanks_all u hlo hhi]
  · rw [hbytes, mget_zeroBanks, if_neg (by omega)]
    exact congrArg (mget 0 · x) (forgetSlots_sp s r c)
  · simp only [t, State.cleared, State.clrReg_eq, State.reg_setReg, if_neg (spOwn_ne_spSt _ _), if_true]
  · simp only [t, State.cleared, State.clrReg_eq, State.reg_setReg_same]
    exact bit_clear _ (by decide)
  · rw [State.ctx, hctxs]
    exact lastSlot_forgetSlots s r c hk

/-! ### ECC_WRITEBACK (R331) -/

theorem eccWriteback_writes (hr : s.runs r.val = true) {b : Fin 8} {w : Nat}
    (hwb : tfind (s.core (r.val * 13 + cn.val)).wb b.val = some w) :
    let ck := r.val * 13 + cn.val
    ∃ t, exec (.eccWriteback r cn b) s = .next t ∧ tfind (t.core ck).wb b.val = none ∧ t.sp = s.sp ∧
      (tfind s.spErr (spWord ck (8 * w)) = some false → tfind t.spErr (spWord ck (8 * w)) = none) := by
  let ck := r.val * 13 + cn.val
  let s1 := s.setCore ck { s.core ck with wb := tdel (s.core ck).wb b.val }
  have hempty : tfind (s1.core ck).wb b.val = none := by rw [State.core_setCore_same]; exact tfind_tdel_same _ _
  have hexec : exec (.eccWriteback r cn b) s =
      .next (if tfind s.spErr (spWord ck (8 * w)) = some false then { s1 with spErr := tdel s1.spErr (spWord ck (8 * w)) } else s1) := by
    change execEccWriteback r cn b s = _
    simp only [execEccWriteback, hwb, hr, Bool.not_true, Bool.false_eq_true, if_false]
    rfl
  refine ⟨_, hexec, ?_⟩
  split
  · exact ⟨hempty, rfl, fun _ => tfind_tdel_same _ _⟩
  · next h => exact ⟨hempty, rfl, fun he => absurd he h⟩

end

/-! ### The background test (R340, R341) -/

/-- A read of a word that is not uncorrectable answers so and leaves the bytes and the marks. -/
theorem spTouch_correctable {s : State} {ck x : Nat} (h : tfind s.spErr (spWord ck x) ≠ some true) (agent : Nat) :
    (s.spTouch ck x agent).1 = false ∧ (s.spTouch ck x agent).2.spErr = s.spErr ∧ (s.spTouch ck x agent).2.sp = s.sp := by
  unfold State.spTouch
  split
  · exact ⟨rfl, rfl, rfl⟩
  · next hue => exact absurd hue h
  · simp

theorem spTouchN_correctable {s : State} {ck : Nat} {ws : List Nat} (h : ∀ w ∈ ws, tfind s.spErr (spWord ck (w * 8)) ≠ some true)
    (agent : Nat) : (s.spTouchN ck agent ws).1 = false ∧ (s.spTouchN ck agent ws).2.spErr = s.spErr ∧
      (s.spTouchN ck agent ws).2.sp = s.sp := by
  induction ws generalizing s with
  | nil => exact ⟨rfl, rfl, rfl⟩
  | cons w ws ih =>
    obtain ⟨hw, hws⟩ := List.forall_mem_cons.mp h
    obtain ⟨hgood, herr, hsp⟩ := spTouch_correctable hw agent
    obtain ⟨hgoods, herrs, hsps⟩ := ih (s := (s.spTouch ck (w * 8) agent).2) (by rwa [herr])
    exact ⟨by simp only [State.spTouchN, hgood, hgoods, Bool.or_self], herrs.trans herr, hsps.trans hsp⟩

/-- The ECC keys of the eight words of region `rg`. -/
def regionWords (ck rg : Nat) : List Nat := (List.range 8).map (fun i => spWord ck (64 * rg + 8 * i))

/-- The words of a region, made good. -/
theorem tfind_region_good (t : Tab Bool) (ck rg : Nat) {i : Nat} (hi : i < 8) :
    tfind (tkeep t (fun w _ => !(regionWords ck rg).contains w)) (spWord ck (64 * rg + 8 * i)) = none := by
  refine (tfind_tkeep_key t _ _).trans (if_neg ?_)
  simpa [regionWords] using ⟨i, hi, rfl⟩

/-- A faulty row changes the repair map, the seats marked full and a log alone. -/
theorem faultyRow_frame (s : State) (r t bank row : Nat) :
    ∃ m f l, s.faultyRow r t bank row = { s with ao := m, spFull := f, logs := l } := by
  have hlog : ∀ (u : State) (a n e : Nat), ∃ l, u.logAdd a n e = { u with logs := l } := fun u a n e => by
    unfold State.logAdd
    dsimp only
    split <;> exact ⟨_, rfl⟩
  have hrepair : ∃ m, (s.repairSp r t bank row).2 = { s with ao := m } := by
    unfold State.repairSp
    dsimp only
    split
    · exact ⟨_, rfl⟩
    · split <;> exact ⟨_, rfl⟩
  obtain ⟨m, hm⟩ := hrepair
  simp only [State.faultyRow, hm]
  split
  · obtain ⟨l, hl⟩ := hlog { s with ao := m, spFull := s.spFull ++ [(r, t)] } _ _ _
    exact ⟨_, _, _, hl⟩
  · obtain ⟨l, hl⟩ := hlog { s with ao := m } _ _ _
    exact ⟨_, _, _, hl⟩

theorem findRows_frame (s : State) (r t ck : Nat) (p : Nat → Nat → Bool) :
    ∃ m f l, s.findRows r t ck p = { s with ao := m, spFull := f, logs := l } := by
  refine forEach_keeps (fun u : State => ∃ m f l, u = { s with ao := m, spFull := f, logs := l }) _ _ ?_ s ⟨_, _, _, rfl⟩
  rintro e u ⟨m, f, l, rfl⟩
  obtain ⟨m', f', l', h⟩ := faultyRow_frame { s with ao := m, spFull := f, logs := l } r t e.1 e.2
  exact ⟨m', f', l', h⟩

section
variable (s : State) (r t ck : Nat) (p : Nat → Nat → Bool)

@[simp] theorem reg_findRows (a : Nat) : (s.findRows r t ck p).reg a = s.reg a := by
  obtain ⟨m, f, l, h⟩ := findRows_frame s r t ck p; rw [h]; rfl
@[simp] theorem core_findRows (k : Nat) : (s.findRows r t ck p).core k = s.core k := by
  obtain ⟨m, f, l, h⟩ := findRows_frame s r t ck p; rw [h]; rfl
@[simp] theorem findRows_sp : (s.findRows r t ck p).sp = s.sp := by
  obtain ⟨m, f, l, h⟩ := findRows_frame s r t ck p; rw [h]
@[simp] theorem findRows_spErr : (s.findRows r t ck p).spErr = s.spErr := by
  obtain ⟨m, f, l, h⟩ := findRows_frame s r t ck p; rw [h]
@[simp] theorem spR_findRows (k x n : Nat) : (s.findRows r t ck p).spR k x n = s.spR k x n := by
  rw [State.spR, findRows_sp, State.spR]

end

section
variable {s : State} {r : Rank} {cn : CoreNo}

/-- Taking a region changes registers and a counter alone. -/
theorem bgtTake_frame (s : State) (r t : Nat) : { s.bgtTake r t with regs := s.regs, counters := s.counters } = s := by
  unfold State.bgtTake
  dsimp only
  split
  · exact count_frame s (rkA r 0x180) 1
  · rfl

/-- The region is taken, and its next one is due after `n` cycles. -/
def State.regionTaken (s : State) (r t c n : Nat) : State := (s.bgtTake r t).setDue r (64 + c) (s.rankAfter r n)

/-- The eight words of region `rg` are read. -/
def State.regionRead (s : State) (ck rg : Nat) : Bool × State := s.spTouchN ck 3 ((List.range 8).map (fun i => 8 * rg + i))

/-- Region `rg` is in the save buffer, its words corrected. -/
def State.regionSaved (s : State) (ck rg : Nat) : State :=
  let s1 := { s with spErr := tkeep s.spErr (fun w _ => !(regionWords ck rg).contains w) }
  s1.setCore ck { s1.core ck with bgt := some (rg, s1.spR ck (64 * rg) 64) }

theorem regionTaken_keeps (s : State) (r t c n : Nat) :
    (s.regionTaken r t c n).sp = s.sp ∧ (s.regionTaken r t c n).spErr = s.spErr :=
  ⟨(congrArg State.sp (bgtTake_frame s r t) :), (congrArg State.spErr (bgtTake_frame s r t) :)⟩

theorem regionRead_correctable {s : State} {ck rg : Nat}
    (h : ∀ i, i < 8 → tfind s.spErr (spWord ck (64 * rg + 8 * i)) ≠ some true) :
    (s.regionRead ck rg).1 = false ∧ (s.regionRead ck rg).2.sp = s.sp := by
  have hws : ∀ w ∈ (List.range 8).map (fun i => 8 * rg + i), tfind s.spErr (spWord ck (w * 8)) ≠ some true := fun w hw => by
    obtain ⟨i, hi, rfl⟩ := List.mem_map.mp hw
    rw [show (8 * rg + i) * 8 = 64 * rg + 8 * i by omega]
    exact h i (List.mem_range.mp hi)
  obtain ⟨hgood, -, hsp⟩ := spTouchN_correctable hws 3
  exact ⟨hgood, hsp⟩

/-- What becomes of region `rg` once its words are read: one with an uncorrectable word is skipped. -/
def State.regionAfter (ck rg : Nat) (p : Bool × State) : State := if p.1 then p.2 else p.2.regionSaved ck rg

/-- A region is taken where nothing stands in the way. -/
theorem bgtRegionStart_eq {seat : Nat} (hr : s.runs r.val = true) (hseat : s.seatOf r.val cn.val = some seat)
    (hiv : s.fld (rkA r.val 0x3014) 15 0 ≠ 0) (hlive : (s.core (r.val * 13 + cn.val)).retired = false)
    (hidle : (s.core (r.val * 13 + cn.val)).bgt = none) (hown : s.reg (spOwn r.val seat) = 0)
    (hdue : ∀ d, tfind (s.rank r.val).due (64 + cn.val) = some d → d ≤ s.now) :
    exec (.bgtRegionStart r cn) s = .next (State.regionAfter (r.val * 13 + cn.val) (s.bgtNext r.val seat)
      ((s.regionTaken r.val seat cn.val (s.fld (rkA r.val 0x3014) 15 0)).regionRead (r.val * 13 + cn.val) (s.bgtNext r.val seat))) := by
  change execBgtRegionStart r cn s = _
  unfold execBgtRegionStart
  extract_lets r' ck iv
  split
  · next h => exact absurd (hseat.symm.trans h) nofun
  · next t h =>
    obtain rfl : seat = t := Option.some.inj (hseat.symm.trans h)
    refine congrArg Host.Outcome.next ((if_neg ?_).trans ?_)
    · simp only [r', ck, iv, hr, hiv, hlive, hidle, hown, Bool.not_true, decide_false, Option.isSome_none, ne_eq, not_true_eq_false,
        Bool.or_self, Bool.false_or]
      split
      · next d hd => simpa using hdue d hd
      · simp
    · extract_lets rg s1
      split
      next ue s2 hp =>
      have hread : (s.regionTaken r.val seat cn.val (s.fld (rkA r.val 0x3014) 15 0)).regionRead (r.val * 13 + cn.val)
          (s.bgtNext r.val seat) = (ue, s2) := hp
      rw [hread]
      rfl

theorem bgtRegionStart_saves {seat : Nat} (hr : s.runs r.val = true) (hseat : s.seatOf r.val cn.val = some seat)
    (hiv : s.fld (rkA r.val 0x3014) 15 0 ≠ 0) (hlive : (s.core (r.val * 13 + cn.val)).retired = false)
    (hidle : (s.core (r.val * 13 + cn.val)).bgt = none) (hown : s.reg (spOwn r.val seat) = 0)
    (hdue : ∀ d, tfind (s.rank r.val).due (64 + cn.val) = some d → d ≤ s.now) :
    let ck := r.val * 13 + cn.val
    let rg := s.bgtNext r.val seat
    (∀ i, i < 8 → tfind s.spErr (spWord ck (64 * rg + 8 * i)) ≠ some true) →
    ∃ t, exec (.bgtRegionStart r cn) s = .next t ∧ (t.core ck).bgt = some (rg, s.spR ck (64 * rg) 64) ∧ t.sp = s.sp ∧
      (∀ i, i < 8 → tfind t.spErr (spWord ck (64 * rg + 8 * i)) = none) := by
  intro ck rg hgood
  obtain ⟨hsp1, herr1⟩ := regionTaken_keeps s r.val seat cn.val (s.fld (rkA r.val 0x3014) 15 0)
  obtain ⟨hue, hsp2⟩ := regionRead_correctable (ck := ck) (rg := rg) (by rwa [herr1])
  have hexec := bgtRegionStart_eq hr hseat hiv hlive hidle hown hdue
  rw [State.regionAfter, if_neg (by simp [ck, rg, hue])] at hexec
  have hsp := hsp2.trans hsp1
  generalize State.regionRead _ ck rg = p at hexec hsp
  refine ⟨_, hexec, ?_, hsp, fun i hi => tfind_region_good p.2.spErr ck rg hi⟩
  rw [State.regionSaved, State.core_setCore_same, State.spR, State.spR, ← hsp]

theorem bgtRegionComplete_ends {rg : Nat} {sv : List Byte} (hr : s.runs r.val = true)
    (hbgt : (s.core (r.val * 13 + cn.val)).bgt = some (rg, sv)) :
    let ck := r.val * 13 + cn.val
    ∃ t, exec (.bgtRegionComplete r cn) s = .next t ∧ (t.core ck).bgt = none ∧ t.sp = s.sp ∧
      ∀ i, i < 8 → tfind t.spErr (spWord ck (64 * rg + 8 * i)) = none := by
  intro ck
  let s1 := s.setCore ck { s.core ck with bgt := none }
  let s2 := { s1 with spErr := tkeep s1.spErr (fun w _ => !(regionWords ck rg).contains w) }
  have hexec : exec (.bgtRegionComplete r cn) s =
      .next (s2.findRows r.val (s.seatNo r.val cn.val) ck (fun _ w => decide (w = rg))) := by
    change execBgtRegionComplete r cn s = _
    simp only [execBgtRegionComplete, hbgt, hr, Bool.not_true, Bool.false_eq_true, if_false]
    rfl
  refine ⟨_, hexec, ?_, findRows_sp _ _ _ _ _, fun i hi => ?_⟩
  · rw [core_findRows]
    exact congrArg Core.bgt (State.core_setCore_same s ck { s.core ck with bgt := none })
  · rw [findRows_spErr]
    exact tfind_region_good s1.spErr ck rg hi

end

end Sys2Proof.Machine
end

section
/-! RANK_SP_OWNER_WRITE, SP_HANDOVER_EFFECT, the full test and the steward accesses of a seat (11 R332, R334, R342). -/

namespace Sys2Proof.Machine
open Sys2Proof.Claim

section
variable {s : State} {q : Req} {r : Rank} {seat : Seat}

/-! ### Owners (R332, R334) -/

theorem rankSpOwnerWrite_refused (hw : MayWrite s q (spOwn r.val seat.val)) (w : Word) (h : s.mayHand r.val seat.val = false) :
    exec (.rankSpOwnerWrite q r seat w) s = .next (acked q (spOwn r.val seat.val)
      (s.setReg (spSt r.val seat.val) (s.reg (spSt r.val seat.val) ||| 0x2000000))) := by
  have hrefused : s.ownerWrite r.val seat.val w =
      s.setReg (spSt r.val seat.val) (s.reg (spSt r.val seat.val) ||| 0x2000000) := if_pos (by simp [h])
  refine congrArg Host.Outcome.next ((writeCmd_of_MayWrite hw _ ?_).trans (congrArg (acked q _) hrefused))
  rw [hrefused]
  rfl

/-- PEND of a write of owners `w`: the banks whose owner changes. -/
def changedBanks (w own : Word) : Nat := (List.range 8).foldl (fun n b => if ownerOf w b ≠ ownerOf own b then n + 2 ^ b else n) 0

/-- The state once the owners `w` have been asked for. -/
def State.ownersAsked (s : State) (r t : Nat) (w : Word) : State :=
  ((s.setReg (spHid r t 0) w).clrReg (spSt r t) (2 ^ 25)).setFld (spSt r t) 23 16 (changedBanks w (s.reg (spOwn r t)))

theorem rankSpOwnerWrite_accepted (hw : MayWrite s q (spOwn r.val seat.val)) (w : Word) (h : s.mayHand r.val seat.val = true) :
    exec (.rankSpOwnerWrite q r seat w) s = .next (acked q (spOwn r.val seat.val) (s.ownersAsked r.val seat.val w)) := by
  have haccepted : s.ownerWrite r.val seat.val w = s.ownersAsked r.val seat.val w := if_neg (by simp [h])
  refine congrArg Host.Outcome.next ((writeCmd_of_MayWrite hw _ ?_).trans (congrArg (acked q _) haccepted))
  rw [haccepted]
  rfl

theorem ownersAsked_spec (s : State) (r : Rank) (seat : Seat) (w : Word) :
    let t := s.ownersAsked r.val seat.val w
    let own := s.reg (spOwn r.val seat.val)
    bit (t.reg (spSt r.val seat.val)) 25 = false ∧ t.reg (spOwn r.val seat.val) = own ∧
      ∀ b, b < 8 → (bit (t.reg (spSt r.val seat.val)) (16 + b) = true ↔ ownerOf w b ≠ ownerOf own b) := by
  intro t own
  have hst : t.reg (spSt r.val seat.val) =
      withFld (s.reg (spSt r.val seat.val) &&& ~~~ BitVec.ofNat 32 (2 ^ 25)) 23 16 (changedBanks w own) := by
    simp only [t, own, State.ownersAsked, State.setFld_eq, State.clrReg_eq, State.reg_setReg_same, State.reg_setReg, spSt_ne_spHid,
      if_false]
  refine ⟨?_, ?_, fun b hb => ?_⟩
  · rw [hst, bit_withFld _ _ _ (by omega) (by omega), if_neg (by omega)]
    exact bit_clear _ (by decide)
  · simp only [t, own, State.ownersAsked, State.setFld_eq, State.clrReg_eq, State.reg_setReg, spOwn_ne_spHid, spOwn_ne_spSt, if_false]
  · rw [hst, bit_withFld _ _ _ (by omega) (by omega), if_pos (by omega), Nat.add_sub_cancel_left, changedBanks, (foldl_two_pow _ 8).2,
      decide_eq_true_eq]
    exact and_iff_right hb

theorem spHandoverEffect_eq (hr : s.runs r.val = true) {b : Fin 8} (hpend : bit (s.reg (spSt r.val seat.val)) (16 + b.val) = true)
    (hquiet : s.bankQuiet r.val seat.val b.val = true) :
    exec (.spHandoverEffect r seat b) s =
      .next ((s.setFld (spOwn r.val seat.val) (2 * b.val + 1) (2 * b.val) (ownerOf (s.reg (spHid r.val seat.val 0)) b.val)).clrReg
        (spSt r.val seat.val) (2 ^ (16 + b.val))) :=
  congrArg Host.Outcome.next (if_neg (by simp [hr, hpend, hquiet]))

theorem spHandoverEffect_hands (hr : s.runs r.val = true) {b : Fin 8} (hpend : bit (s.reg (spSt r.val seat.val)) (16 + b.val) = true)
    (hquiet : s.bankQuiet r.val seat.val b.val = true) :
    ∃ t, exec (.spHandoverEffect r seat b) s = .next t ∧ bit (t.reg (spSt r.val seat.val)) (16 + b.val) = false ∧
      ownerOf (t.reg (spOwn r.val seat.val)) b.val = ownerOf (s.reg (spHid r.val seat.val 0)) b.val ∧
      (∀ d : Fin 8, d ≠ b → ownerOf (t.reg (spOwn r.val seat.val)) d.val = ownerOf (s.reg (spOwn r.val seat.val)) d.val) := by
  have hb := b.isLt
  refine ⟨_, spHandoverEffect_eq hr hpend hquiet, ?_, ?_, fun d hd => ?_⟩
  · rw [State.clrReg_eq, State.reg_setReg_same, bit_andNot, bit_ofNat_two_pow, decide_eq_true (show 16 + b.val < 32 by omega)]
    simp
  · rw [State.clrReg_eq, State.reg_setReg_ne _ _ _ _ (spOwn_ne_spSt _ _), State.setFld_eq, State.reg_setReg_same, ownerOf,
      bits_withFld_same _ _ (by omega) (by omega)]
    exact Nat.mod_mod _ _
  · have hne := Fin.val_ne_of_ne hd
    rw [State.clrReg_eq, State.reg_setReg_ne _ _ _ _ (spOwn_ne_spSt _ _), State.setFld_eq, State.reg_setReg_same]
    exact bits_withFld_ne _ _ (by omega) (by omega) (by omega)

/-! ### The full test (R342) -/

/-- The full test has begun: its banks are those that TEST owns. -/
def State.testBegun (s : State) (r t : Nat) : State :=
  ((s.orReg (spSt r t) (2 ^ 30)).setRegN (spHid r t 6) (((s.testBanks r t).map (2 ^ ·)).foldl (· + ·) 0)).setDue r (16 + t)
    (s.rankAfter r 40960)

theorem spTestStart_eq (hw : MayWrite s q (rkA r.val (0x3118 + 0x40 * seat.val))) (hidle : bit (s.reg (spSt r.val seat.val)) 30 = false) :
    exec (.spTestStart q r seat) s = .next (acked q (rkA r.val (0x3118 + 0x40 * seat.val)) (s.testBegun r.val seat.val)) := by
  have hbegun : s.testStart r.val seat.val = s.testBegun r.val seat.val := if_neg (by simp [hidle])
  refine congrArg Host.Outcome.next ((writeCmd_of_MayWrite hw _ ?_).trans (congrArg (acked q _) hbegun))
  rw [hbegun]
  rfl

theorem bit_testBanks (s : State) (r t : Nat) {b : Nat} (hb : b < 8) :
    bit (BitVec.ofNat 32 (((s.testBanks r t).map (2 ^ ·)).foldl (· + ·) 0)) b = decide (ownerOf (s.reg (spOwn r t)) b = 2) := by
  rw [State.testBanks, List.foldl_map, List.foldl_filter, bit_eq_getLsbD, BitVec.getLsbD_ofNat,
    (foldl_two_pow (fun b => decide (ownerOf (s.reg (spOwn r t)) b = 2) = true) 8).2]
  simp [hb, show b < 32 by omega]

theorem spTestStart_begins (hw : MayWrite s q (rkA r.val (0x3118 + 0x40 * seat.val)))
    (hidle : bit (s.reg (spSt r.val seat.val)) 30 = false) :
    ∃ t, exec (.spTestStart q r seat) s = .next t ∧ t.reg (spSt r.val seat.val) = (s.reg (spSt r.val seat.val) ||| 0x40000000) ∧
      tfind (t.rank r.val).due (16 + seat.val) = some (s.rankAfter r.val 40960) ∧
      (∀ b, b < 8 → bit (t.reg (spHid r.val seat.val 6)) b = decide (ownerOf (s.reg (spOwn r.val seat.val)) b = 2)) := by
  refine ⟨_, spTestStart_eq hw hidle, ?_, ?_, fun b hb => ?_⟩
  · rw [reg_acked, State.testBegun, reg_setDue, State.setRegN_eq, State.reg_setReg_ne _ _ _ _ (spSt_ne_spHid _ _ _), State.orReg_eq,
      State.reg_setReg_same]
    rfl
  · rw [rank_acked, State.testBegun, rank_setDue]
    exact tfind_tset_same _ _ _
  · rw [reg_acked, State.testBegun, reg_setDue, State.setRegN_eq, State.reg_setReg_same, bit_testBanks s _ _ hb]

/-- The banks of the full test in progress. -/
def State.testedBanks (s : State) (r t : Nat) : List Nat := (List.range 8).filter (fun b => bit (s.reg (spHid r t 6)) b)

theorem contains_testedBanks (s : State) (r t b : Nat) :
    (s.testedBanks r t).contains b = true ↔ b < 8 ∧ bit (s.reg (spHid r t 6)) b = true := by
  simp [State.testedBanks]

/-- A faulty word of the tested banks is not on a spare row. -/
def State.testFails (s : State) (r t : Nat) : Bool := !(s.faults (s.seatKey r t) (fun b _ => (s.testedBanks r t).contains b)).isEmpty

theorem testFails_iff (s : State) (r t : Nat) :
    s.testFails r t = true ↔ ∃ e ∈ s.spFaulty, e.1 = s.seatKey r t ∧ (e.2.1 < 8 ∧ bit (s.reg (spHid r t 6)) e.2.1 = true) ∧
      e ∉ (s.rank (s.seatKey r t / 13)).spares := by
  have hmem : ∀ e : Nat × Nat × Nat, (decide (e.1 = s.seatKey r t) && !(s.rank (s.seatKey r t / 13)).spares.contains e &&
      (s.testedBanks r t).contains e.2.1) = true ↔ e.1 = s.seatKey r t ∧ (e.2.1 < 8 ∧ bit (s.reg (spHid r t 6)) e.2.1 = true) ∧
        e ∉ (s.rank (s.seatKey r t / 13)).spares := fun e => by
    rw [Bool.and_eq_true, Bool.and_eq_true, contains_testedBanks, decide_eq_true_eq, Bool.not_eq_true', List.contains_eq_mem,
      decide_eq_false_iff_not, and_assoc]
    exact and_congr_right fun _ => and_comm
  rw [State.testFails, State.faults, List.isEmpty_map, Bool.not_eq_true', List.isEmpty_eq_false_iff_exists_mem]
  simp only [List.mem_filter, hmem]

/-- The state at the end of a full test, before its faulty rows are logged. -/
def State.testEnded (s : State) (r t : Nat) : State :=
  let s1 := ((s.endDue r (16 + t)).clrReg (spSt r t) (2 ^ 30 + 2 ^ 26)).zeroBanks (s.seatKey r t) (fun b => (s.testedBanks r t).contains b)
  if s.testFails r t then s1.orReg (spSt r t) (2 ^ 26) else s1

theorem reg_testEnded (s : State) (r t : Nat) : (s.testEnded r t).reg (spSt r t) =
    if s.testFails r t then (s.reg (spSt r t) &&& ~~~ BitVec.ofNat 32 (2 ^ 30 + 2 ^ 26)) ||| BitVec.ofNat 32 (2 ^ 26)
    else s.reg (spSt r t) &&& ~~~ BitVec.ofNat 32 (2 ^ 30 + 2 ^ 26) := by
  let s1 := (s.endDue r (16 + t)).clrReg (spSt r t) (2 ^ 30 + 2 ^ 26)
  have hs1 : (s1.zeroBanks (s.seatKey r t) (fun b => (s.testedBanks r t).contains b)).reg (spSt r t) =
      s.reg (spSt r t) &&& ~~~ BitVec.ofNat 32 (2 ^ 30 + 2 ^ 26) := State.reg_setReg_same _ _ _
  simp only [State.testEnded]
  split
  · rw [State.orReg_eq, State.reg_setReg_same, hs1]
  · exact hs1

theorem sp_testEnded (s : State) (r t : Nat) :
    (s.testEnded r t).sp = (s.zeroBanks (s.seatKey r t) (fun b => (s.testedBanks r t).contains b)).sp := by
  simp only [State.testEnded]
  split <;> rfl

theorem spTestComplete_eq (hr : s.runs r.val = true) (hdue : s.dueNow r.val (16 + seat.val) = true) :
    ∃ p, exec (.spTestComplete r seat) s = .next ((s.testEnded r.val seat.val).findRows r.val seat.val (s.seatKey r.val seat.val) p) :=
  ⟨_, congrArg Host.Outcome.next (if_neg (by simp [hr, hdue]))⟩

theorem spTestComplete_ends (hr : s.runs r.val = true) (hdue : s.dueNow r.val (16 + seat.val) = true) :
    let sk := s.seatKey r.val seat.val
    let tested := fun b => b < 8 ∧ bit (s.reg (spHid r.val seat.val 6)) b = true
    ∃ t, exec (.spTestComplete r seat) s = .next t ∧ bit (t.reg (spSt r.val seat.val)) 30 = false ∧
      (bit (t.reg (spSt r.val seat.val)) 26 = true ↔ ∃ e ∈ s.spFaulty, e.1 = sk ∧ tested e.2.1 ∧ e ∉ (s.rank (sk / 13)).spares) ∧
      (∀ x, x < 0x40000 → tested (x / 8 % 8) → t.spR sk x 1 = [0]) ∧
      (∀ x, x < 0x40000 → ¬ tested (x / 8 % 8) → t.spR sk x 1 = s.spR sk x 1) := by
  intro sk tested
  obtain ⟨p, hexec⟩ := spTestComplete_eq hr hdue
  have hread : ∀ x, x < 0x40000 → (s.testEnded r.val seat.val).spR sk x 1 =
      if (s.testedBanks r.val seat.val).contains (x / 8 % 8) then [0] else s.spR sk x 1 := fun x hx => by
    rw [spR_one, sp_testEnded, ← spR_one, spR_zeroBanks s _ _ hx]
  refine ⟨_, hexec, ?_, ?_, fun x hx htested => ?_, fun x hx htested => ?_⟩
  · rw [reg_findRows, reg_testEnded]
    split
    · rw [bit_set_other _ (by decide), bit_clear _ (by decide)]
    · exact bit_clear _ (by decide)
  · rw [reg_findRows, reg_testEnded, ← testFails_iff]
    split
    · next h => simp only [h, bit_set _ (show bit (BitVec.ofNat 32 (2 ^ 26)) 26 = true by decide)]
    · next h => simp only [h, bit_clear _ (show bit (BitVec.ofNat 32 (2 ^ 30 + 2 ^ 26)) 26 = true by decide)]
  · rw [spR_findRows, hread x hx, if_pos ((contains_testedBanks _ _ _ _).mpr htested)]
  · rw [spR_findRows, hread x hx, if_neg (fun h => htested ((contains_testedBanks _ _ _ _).mp h))]

/-! ### Steward accesses (R332) -/

/-- The address of a steward access: that of a word of the scratchpad. -/
def State.accAddr (s : State) (r t : Nat) : Nat := (s.reg (rkA r (0x3108 + 0x40 * t))).toNat / 8 % 0x8000 * 8

/-- The access `op` of a seat is in progress, with its address and data. -/
def State.accBegun (s : State) (r t op : Nat) : State :=
  let s1 := ((s.clrReg (spSt r t) (2 ^ 28)).orReg (spSt r t) (2 ^ 29)).setRegN (spHid r t 2) op
  ((s1.setRegN (spHid r t 3) (s.accAddr r t)).setReg (spHid r t 4) (s.reg (rkA r (0x3110 + 0x40 * t)))).setReg (spHid r t 5)
    (s.reg (rkA r (0x3114 + 0x40 * t)))

theorem accCmd_refused (hidle : bit (s.reg (spSt r.val seat.val)) 29 = false)
    (hown : ownerOf (s.reg (spOwn r.val seat.val)) (s.accAddr r.val seat.val / 8 % 8) ≠ 3) (op : Nat) :
    s.accCmd r.val seat.val op = s.setReg (spSt r.val seat.val) (s.reg (spSt r.val seat.val) ||| 0x10000000) :=
  (if_neg (by simp [hidle])).trans (if_pos hown)

theorem accCmd_begins (hidle : bit (s.reg (spSt r.val seat.val)) 29 = false)
    (hown : ownerOf (s.reg (spOwn r.val seat.val)) (s.accAddr r.val seat.val / 8 % 8) = 3) (op : Nat) :
    s.accCmd r.val seat.val op = s.accBegun r.val seat.val op := by
  have hdata0 : 0x3110 + 0x40 * seat.val = 0x3108 + 0x40 * seat.val + 8 := by omega
  have hdata1 : 0x3114 + 0x40 * seat.val = 0x3108 + 0x40 * seat.val + 12 := by omega
  refine (if_neg (by simp [hidle])).trans ((if_neg (fun h => h hown)).trans ?_)
  rw [State.accBegun, hdata0, hdata1]
  rfl

section
variable (hw : MayWrite s q (rkA r.val (0x310C + 0x40 * seat.val))) (hidle : bit (s.reg (spSt r.val seat.val)) 29 = false)
include hw hidle

/-- A write of RANK_SP_ACC_CMD: `op` 1 by SP_ACC_READ, 2 by SP_ACC_WRITE. -/
theorem accWrite_refused (hown : ownerOf (s.reg (spOwn r.val seat.val)) (s.accAddr r.val seat.val / 8 % 8) ≠ 3) (op : Nat) :
    s.writeCmd q (rkA r.val (0x310C + 0x40 * seat.val)) (fun s => s.accCmd r.val seat.val op) =
      acked q (rkA r.val (0x310C + 0x40 * seat.val))
        (s.setReg (spSt r.val seat.val) (s.reg (spSt r.val seat.val) ||| 0x10000000)) := by
  have hrefused := accCmd_refused hidle hown op
  rw [writeCmd_of_MayWrite hw _ (by rw [hrefused]; rfl), hrefused]

theorem accWrite_begins (hown : ownerOf (s.reg (spOwn r.val seat.val)) (s.accAddr r.val seat.val / 8 % 8) = 3) (op : Nat) :
    s.writeCmd q (rkA r.val (0x310C + 0x40 * seat.val)) (fun s => s.accCmd r.val seat.val op) =
      acked q (rkA r.val (0x310C + 0x40 * seat.val)) (s.accBegun r.val seat.val op) := by
  have hbegun := accCmd_begins hidle hown op
  rw [writeCmd_of_MayWrite hw _ (by rw [hbegun]; rfl), hbegun]

end

theorem accBegun_spec (s : State) (r : Rank) (seat : Seat) {op : Nat} (hop : op < 4294967296) :
    let t := s.accBegun r.val seat.val op
    bit (t.reg (spSt r.val seat.val)) 29 = true ∧ bit (t.reg (spSt r.val seat.val)) 28 = false ∧
      (t.reg (spHid r.val seat.val 2)).toNat = op ∧ (t.reg (spHid r.val seat.val 3)).toNat = s.accAddr r.val seat.val ∧
      t.reg (spHid r.val seat.val 4) = s.reg (rkA r.val (0x3110 + 0x40 * seat.val)) ∧
      t.reg (spHid r.val seat.val 5) = s.reg (rkA r.val (0x3114 + 0x40 * seat.val)) := by
  intro t
  have hst : t.reg (spSt r.val seat.val) =
      (s.reg (spSt r.val seat.val) &&& ~~~ BitVec.ofNat 32 (2 ^ 28)) ||| BitVec.ofNat 32 (2 ^ 29) := by
    simp only [t, State.accBegun, State.setRegN_eq, State.orReg_eq, State.clrReg_eq, State.reg_setReg, spSt_ne_spHid, if_false, if_true]
  refine ⟨?_, ?_, ?_, ?_, ?_, ?_⟩
  · rw [hst, bit_set _ (by decide)]
  · rw [hst, bit_set_other _ (by decide), bit_clear _ (by decide)]
  · simp [t, State.accBegun, State.setRegN_eq, State.reg_setReg, hop]
  · have hlt : s.accAddr r.val seat.val < 4294967296 := by simp only [State.accAddr]; omega
    simp [t, State.accBegun, State.setRegN_eq, State.reg_setReg, hlt]
  · simp [t, State.accBegun, State.reg_setReg]
  · simp [t, State.accBegun]

/-- The access of a seat that is over: a read delivers two words and UE, a write stores its data. -/
theorem spAccComplete_read (hr : s.runs r.val = true) (hacc : bit (s.reg (spSt r.val seat.val)) 29 = true)
    (hop : (s.reg (spHid r.val seat.val 2)).toNat = 1) :
    let sk := s.seatKey r.val seat.val
    let x := (s.reg (spHid r.val seat.val 3)).toNat
    tfind s.spErr (spWord sk x) = none →
    ∃ t, exec (.spAccComplete r seat) s = .next t ∧ bit (t.reg (spSt r.val seat.val)) 29 = false ∧
      bit (t.reg (spSt r.val seat.val)) 27 = false ∧ t.sp = s.sp ∧
      t.reg (rkA r.val (0x3110 + 0x40 * seat.val)) = BitVec.ofNat 32 (leNat (s.spR sk x 4)) ∧
      t.reg (rkA r.val (0x3114 + 0x40 * seat.val)) = BitVec.ofNat 32 (leNat (s.spR sk (x + 4) 4)) := by
  intro sk x hgood
  let bs := s.spR sk x 8
  let u := (((s.clrReg (spSt r.val seat.val) (2 ^ 29)).setRegN (rkA r.val (0x3110 + 0x40 * seat.val)) (leNat (bs.take 4))).setRegN
    (rkA r.val (0x3114 + 0x40 * seat.val)) (leNat (bs.drop 4)))
  have htouch : (s.clrReg (spSt r.val seat.val) (2 ^ 29)).spTouch sk x 3 = (false, s.clrReg (spSt r.val seat.val) (2 ^ 29)) := by
    have hgood' : tfind (s.clrReg (spSt r.val seat.val) (2 ^ 29)).spErr (spWord sk x) = none := hgood
    simp only [State.spTouch, hgood']
  have hexec : exec (.spAccComplete r seat) s = .next (u.setFld (spSt r.val seat.val) 27 27 0) := by
    change execSpAccComplete r seat s = _
    simp only [execSpAccComplete, hr, hacc, Bool.not_true, Bool.or_self, Bool.false_eq_true, if_false, hop, if_true]
    rw [htouch]
    rfl
  have hbytes : s.spR sk x 4 ++ s.spR sk (x + 4) 4 = bs := (spR_add s sk x 4 4).symm
  have hlen : (s.spR sk x 4).length = 4 := mread_length _ _ _ _
  have hst : (u.setFld (spSt r.val seat.val) 27 27 0).reg (spSt r.val seat.val) =
      withFld (s.reg (spSt r.val seat.val) &&& ~~~ BitVec.ofNat 32 (2 ^ 29)) 27 27 0 := by
    simp [u, State.setFld_eq, State.setRegN_eq, State.clrReg_eq, State.reg_setReg, spSt]
  refine ⟨_, hexec, ?_, ?_, rfl, ?_, ?_⟩
  · rw [hst, bit_withFld _ _ _ (by omega) (by omega), if_neg (by omega), bit_clear _ (by decide)]
  · rw [hst, bit_withFld _ _ _ (by omega) (by omega), if_pos (by omega), Nat.zero_testBit]
  · simp [u, State.setFld_eq, State.setRegN_eq, State.reg_setReg, spSt, ← hbytes, hlen]
  · simp [u, State.setFld_eq, State.setRegN_eq, State.reg_setReg, spSt, ← hbytes, hlen]

theorem spAccComplete_write (hr : s.runs r.val = true) (hacc : bit (s.reg (spSt r.val seat.val)) 29 = true)
    (hop : (s.reg (spHid r.val seat.val 2)).toNat = 2) (hwf : s.sp.wf 0 = true) :
    let sk := s.seatKey r.val seat.val
    let x := (s.reg (spHid r.val seat.val 3)).toNat
    ∃ t, exec (.spAccComplete r seat) s = .next t ∧ bit (t.reg (spSt r.val seat.val)) 29 = false ∧
      t.spR sk x 8 = leBytes 4 (s.reg (spHid r.val seat.val 4)).toNat ++ leBytes 4 (s.reg (spHid r.val seat.val 5)).toNat := by
  intro sk x
  let bs := leBytes 4 (s.reg (spHid r.val seat.val 4)).toNat ++ leBytes 4 (s.reg (spHid r.val seat.val 5)).toNat
  have hlen : bs.length = 8 := by simp only [bs, List.length_append, leBytes_length]
  have hexec : exec (.spAccComplete r seat) s =
      .next ((s.clrReg (spSt r.val seat.val) (2 ^ 29)).spStore sk x bs) := by
    refine congrArg Host.Outcome.next ((if_neg (by simp [hr, hacc])).trans (if_neg ?_))
    rw [hop]
    decide
  refine ⟨_, hexec, ?_, ?_⟩
  · change bit ((s.clrReg (spSt r.val seat.val) (2 ^ 29)).reg (spSt r.val seat.val)) 29 = false
    rw [State.clrReg_eq, State.reg_setReg_same, bit_clear _ (by decide)]
  · have hread := mread_mwrite 0 bs s.sp (spA sk x) hwf
    rw [hlen] at hread
    exact hread

end

/-- Settles O48: each command by the state it leaves, the banks' bytes by `spR_zeroBanks`, owners and status by the bits of their words. -/
theorem scratchpadResult : Obligations.ScratchpadResult := by
  intro s r cn hr ck co
  refine ⟨fun hdue => ⟨_, spClearEnd_eq hr hdue, cleared_clears s r.val cn.val⟩, fun b w hwb => eccWriteback_writes hr hwb,
    fun seat hseat hiv hlive hidle hown hdue => bgtRegionStart_saves hr hseat hiv hlive hidle hown hdue,
    fun rg sv hbgt => bgtRegionComplete_ends hr hbgt, fun seat => ?_⟩
  intro st own sk tested
  refine ⟨fun q w hw => ⟨rankSpOwnerWrite_refused hw w, fun hmay => ?_⟩, fun b hpend hquiet => spHandoverEffect_hands hr hpend hquiet,
    fun q hw hidle => spTestStart_begins hw hidle, fun hdue => spTestComplete_ends hr hdue, fun q hw hidle => ?_,
    fun hacc => ⟨spAccComplete_read hr hacc, spAccComplete_write hr hacc⟩⟩
  · refine ⟨_, rankSpOwnerWrite_accepted hw w hmay, ?_⟩
    simp only [reg_acked]
    exact ownersAsked_spec s r seat w
  · intro x bad
    refine ⟨fun hown => ?_, fun hown => ⟨?_, ?_⟩⟩
    · exact ⟨congrArg Host.Outcome.next (accWrite_refused hw hidle hown 1), congrArg Host.Outcome.next (accWrite_refused hw hidle hown 2)⟩
    · obtain ⟨hbusy, hok, hop, haddr, -, -⟩ := accBegun_spec s r seat (op := 1) (by decide)
      refine ⟨_, congrArg Host.Outcome.next (accWrite_begins hw hidle hown 1), ?_⟩
      simp only [reg_acked]
      exact ⟨hbusy, hok, hop, haddr⟩
    · refine ⟨_, congrArg Host.Outcome.next (accWrite_begins hw hidle hown 2), ?_⟩
      simp only [reg_acked]
      exact accBegun_spec s r seat (op := 2) (by decide)

end Sys2Proof.Machine
end

section
/-! Which core sits in which seat, and what the retirement of a core leaves (11 R346, R353; 17 R469, R472). -/

namespace Sys2Proof.Machine
open Sys2Proof.Claim

/-! ### Seats (17 R472) -/

theorem seatCore_of_getElem? {s : State} {r t c : Nat} (h : (s.rank r).seats[t]? = some c) :
    s.seatCore r t = if c < 13 then some c else none := by
  simp only [State.seatCore, h]

theorem seatCore_congr {s u : State} {r : Nat} (h : (u.rank r).seats = (s.rank r).seats) (t : Nat) : u.seatCore r t = s.seatCore r t := by
  simp only [State.seatCore, h]

theorem seatOf_congr {s u : State} {r : Nat} (h : (u.rank r).seats = (s.rank r).seats) (c : Nat) : u.seatOf r c = s.seatOf r c := by
  simp only [State.seatOf, seatCore_congr h]

/-- An occupied seat is one of the rank's, and its core is one of the thirteen. -/
theorem seatCore_some {s : State} {r t c : Nat} (h : s.seatCore r t = some c) : t < (s.rank r).seats.length ∧ c < 13 := by
  unfold State.seatCore at h
  split at h
  · next d hd =>
    split at h
    · next hlt => exact ⟨(List.getElem?_eq_some_iff.mp hd).1, Option.some.inj h ▸ hlt⟩
    · cases h
  · cases h

/-- The seat that a core reports holds it. -/
theorem seatCore_of_seatOf {s : State} {r c t : Nat} (h : s.seatOf r c = some t) : s.seatCore r t = some c := by
  simpa using List.find?_some h

theorem seatNo_of_seatOf {s : State} {r c t : Nat} (h : s.seatOf r c = some t) : s.seatNo r c = t := by rw [State.seatNo, h]; rfl

theorem rank_putSeat (s : State) (r t c : Nat) : (s.putSeat r t c).rank r = { s.rank r with seats := (s.rank r).seats.set t c } := by
  rw [← lset_eq_set]
  exact State.rank_setRank_same s r { s.rank r with seats := lset (s.rank r).seats t c }

/-! ### What a retirement keeps (17 R469) -/

/-- A counter that the loss of a core's packets uses: those of `IsMarkCtr` and that of replays (04 R132). -/
def IsReplayCtr (a : Nat) : Prop := IsMarkCtr a ∨ a % 0x100000 = 0x1A8

theorem isReplayCtr_rkA {r x : Nat} : IsReplayCtr (rkA r x) ↔ x % 0x100000 ∈ [0x110, 0x150, 0x1B0] ∨ x % 0x100000 = 0x1A8 := by
  have hx : rkA r x % 0x100000 = x % 0x100000 := by simp only [rkA]; omega
  rw [IsReplayCtr, isMarkCtr_rkA, hx]

/-- `t` has the seats, the logs and the other counters of `s`, and its retired cores. -/
structure SeatsKept (s t : State) : Prop where
  seats : ∀ j, (t.rank j).seats = (s.rank j).seats
  logs : t.logs = s.logs
  ctr : ∀ a, ¬ IsReplayCtr a → t.ctr a = s.ctr a
  retired : ∀ j, (s.core j).retired = true → (t.core j).retired = true

namespace SeatsKept

variable {s t u : State}

theorem refl (s : State) : SeatsKept s s := ⟨fun _ => rfl, rfl, fun _ _ => rfl, fun _ h => h⟩

theorem trans (h : SeatsKept s t) (h' : SeatsKept t u) : SeatsKept s u where
  seats := fun j => (h'.seats j).trans (h.seats j)
  logs := h'.logs.trans h.logs
  ctr := fun a ha => (h'.ctr a ha).trans (h.ctr a ha)
  retired := fun j hj => h'.retired j (h.retired j hj)

theorem forEach {α : Type} (l : List α) (s : State) {f : α → State → State} (h : ∀ a s, SeatsKept s (f a s)) :
    SeatsKept s (Machine.forEach l s f) :=
  forEach_keeps (SeatsKept s) l f (fun a _ hs => hs.trans (h a _)) s (refl s)

/-- An update of other parts of the state. -/
theorem of_eq (hr : t.ranks = s.ranks) (hl : t.logs = s.logs) (hc : t.counters = s.counters) (hk : t.cores = s.cores) : SeatsKept s t :=
  ⟨fun j => congrArg (fun x => (tget RankSt.init x j).seats) hr, hl, fun a _ => congrArg (tget 0 · a) hc,
    fun j hj => (congrArg (fun x => (tget Core.init x j).retired) hk).trans hj⟩

theorem count (s : State) {a : Nat} (n : Nat) (h : IsReplayCtr a) : SeatsKept s (s.count a n) where
  seats := fun j => by simp
  logs := State.count_logs s a n
  ctr := fun b hb => by rw [State.ctr_count, if_neg (fun hba : b = a => hb (hba ▸ h))]
  retired := fun j hj => by simpa using hj

theorem setRank (s : State) (r : Nat) {x : RankSt} (h : x.seats = (s.rank r).seats) : SeatsKept s (s.setRank r x) where
  seats := fun j => by
    by_cases hj : j = r
    · rw [hj, State.rank_setRank_same, h]
    · rw [State.rank_setRank_ne _ _ _ _ hj]
  logs := rfl
  ctr := fun _ _ => rfl
  retired := fun _ h => h

theorem setCore (s : State) (ck : Nat) {co : Core} (h : (s.core ck).retired = true → co.retired = true) : SeatsKept s (s.setCore ck co) where
  seats := fun _ => rfl
  logs := rfl
  ctr := fun _ _ => rfl
  retired := fun j hj => by
    by_cases hjk : j = ck
    · rw [hjk, State.core_setCore_same]; exact h (hjk ▸ hj)
    · rwa [State.core_setCore_ne _ _ _ _ hjk]

theorem setReg (s : State) (a : Nat) (w : Word) : SeatsKept s (s.setReg a w) := of_eq rfl rfl rfl rfl
theorem setCtx (s : State) (key : Nat) (c : Ctx) : SeatsKept s (s.setCtx key c) := of_eq rfl rfl rfl rfl
theorem endDue (s : State) (r k : Nat) : SeatsKept s (s.endDue r k) := setRank s r rfl
theorem setDue (s : State) (r k t : Nat) : SeatsKept s (s.setDue r k t) := setRank s r rfl

/-! ### The packets of the core (03 R83, R91–R94; 04 R132) -/

theorem lmsg (s : State) (r : Nat) (m : LMsg) : SeatsKept s (s.lmsg r m) := by
  unfold State.lmsg
  dsimp only
  split
  · exact refl s
  · exact setRank s r rfl

theorem markPassed (s : State) (r : Nat) (m : Mark) : SeatsKept s (s.markPassed r m) := by
  have hcount := count s 1 (.inl ((isMarkCtr_rkA (r := r) (x := 0x110)).mpr (by decide)))
  unfold State.markPassed
  dsimp only
  split
  · exact hcount.trans (lmsg _ _ _)
  · exact hcount

theorem addMark_entry (s : State) (r i : Nat) (m : Mark) (reinj : Bool) : SeatsKept s (s.addMark r m reinj (some i)) := by
  unfold State.addMark
  dsimp only
  split
  · refine trans ?_ (markPassed _ r m)
    exact setRank s r rfl
  · split
    · refine trans ?_ (count _ 1 (.inl ((isMarkCtr_rkA (x := 0x1B0)).mpr (by decide))))
      exact setRank s r rfl
    · exact setRank s r rfl

theorem settle (x : RankSt) (n : Nat) : (x.settle n).seats = x.seats :=
  settle_keeps (P := fun y => y.seats = x.seats) (fun _ _ h => h) (fun _ _ _ _ h => h) n rfl

theorem freeChain (owner : Nat) (m : Meta) (s : State) : SeatsKept s (freeChain owner m s) := by
  obtain ⟨q, n, h⟩ := freeChain_eq owner m s
  rw [h]
  exact of_eq rfl rfl rfl rfl

theorem replay (s : State) (r i : Nat) : SeatsKept s (s.replay r i) := by
  unfold State.replay
  split
  · exact refl s
  · next e _ =>
    extract_lets s1 x s2 md
    have h1 : SeatsKept s s1 := lmsg s r _
    have h2 : SeatsKept s1 s2 := (freeChain _ _ s1).trans (addMark_entry _ r i _ _)
    split
    · exact h1.trans (h2.trans (setRank s2 r (settle _ _)))
    · refine h1.trans (trans ?_ (count _ 1 (isReplayCtr_rkA (x := 0x1A8) |>.mpr (by decide))))
      exact setRank s1 r rfl

/-! ### The core's contexts and its work -/

theorem killHelpers (s : State) (key : Nat) (only : HCmd → Bool) : SeatsKept s (s.killHelpers key only) := by
  unfold State.killHelpers
  extract_lets c r live x ck co isK kills hs s1 s2 s3
  have h1 : SeatsKept s s1 := setCtx s key _
  have h2 : SeatsKept s1 s2 := setRank s1 r rfl
  have h3 : SeatsKept s2 s3 := setCore s2 ck fun h => h
  exact h1.trans (h2.trans (h3.trans (count s3 _ (.inl (isMarkCtr_rkA.mpr (by decide))))))

theorem dropLocks (s : State) (key : Nat) : SeatsKept s (s.dropLocks key) := of_eq rfl rfl rfl rfl
theorem disownOps (s : State) (key : Nat) : SeatsKept s (s.disownOps key) := of_eq rfl rfl rfl rfl
theorem dropSlots (s : State) (key : Nat) : SeatsKept s (s.dropSlots key false) := setCore s _ fun h => h

theorem freeCtx (s : State) (key : Nat) : SeatsKept s (s.freeCtx key) := by
  have hkill := killHelpers s key fun _ => true
  unfold State.freeCtx
  extract_lets s1 s2
  exact hkill.trans ((dropLocks _ key).trans ((disownOps _ key).trans ((dropSlots s1 key).trans (setCtx s2 key _))))

theorem dropService (s : State) (r c : Nat) : SeatsKept s (s.dropService r c) := by
  unfold State.dropService
  dsimp only
  split
  · exact refl s
  · split <;> exact of_eq rfl rfl rfl rfl

theorem dropSeatWork (s : State) (r c : Nat) : SeatsKept s (s.dropSeatWork r c) := by
  unfold State.dropSeatWork
  extract_lets t s1
  have h1 : SeatsKept s s1 := (endDue s r _).trans ((endDue _ r _).trans (endDue _ r _))
  exact h1.trans ((setReg s1 _ _).trans (setReg _ _ _))

theorem stopCore (s : State) (r c : Nat) : SeatsKept s (s.stopCore r c) ∧ ((s.stopCore r c).core (r * 13 + c)).retired = true := by
  unfold State.stopCore
  extract_lets ck held s1 s2 co s3
  have h1 : SeatsKept s s1 := ((dropService s r c).trans (dropSeatWork _ r c)).trans (forEach _ _ fun k u => freeCtx u (pk r c k))
  have h3 : SeatsKept s2 s3 := setCore s2 ck fun _ => rfl
  have hreplay := forEach held s3 fun (e : Nat × Nat) u => replay u r e.1
  refine ⟨h1.trans ((setCtx s1 _ _).trans (h3.trans hreplay)), hreplay.retired ck ?_⟩
  simp only [s3, State.core_setCore_same]

theorem seatLost (s : State) (r t : Nat) : SeatsKept s (s.seatLost r t) := by
  have hrefuse : ∀ (u : State) (n : Nat), SeatsKept u (u.seatRefuse r n) := fun u n => (setReg u _ _).trans (setReg _ _ _)
  have hend : ∀ x : RankSt, x.seats = (s.rank r).seats → SeatsKept s ((s.setRank r x).endDue r 0) := fun x h =>
    (setRank s r h).trans (endDue _ r 0)
  unfold State.seatLost
  extract_lets x s1
  split
  · split
    · refine trans ?_ (hrefuse _ _)
      exact hend _ rfl
    · exact hend _ rfl
  · split
    · refine trans ?_ (hrefuse _ _)
      exact hend _ rfl
    · split
      · refine trans ?_ (setDue _ r 0 _)
        exact setRank s r rfl
      · exact refl s

end SeatsKept

/-- Seat `t`, whose core `c` has stopped, is empty, and a rotation or the reserve knows of it (17 R469). -/
def State.seatEmptied (s : State) (r c t : Nat) : State := ((s.putSeat r t 15).orReg (coreMap r) (2 ^ c)).seatLost r t

theorem retire_eq {s : State} {r c t : Nat} (hseat : s.seatOf r c = some t) (hlive : (s.core (r * 13 + c)).retired = false) :
    ∃ k, s.retire r c = { (((s.stopCore r c).seatEmptied r c t).orReg (rkA r 0x3020) 3).count (rkA r 0x1A0) with stkErr := k } := by
  unfold State.retire
  split
  · next h => exact absurd (hseat.symm.trans h) nofun
  · next t' h =>
    obtain rfl : t = t' := Option.some.inj (hseat.symm.trans h)
    rw [if_neg (by simp [hlive])]
    exact ⟨_, rfl⟩

theorem seatEmptied_spec {s : State} {r t : Nat} (c : Nat) (ht : t < (s.rank r).seats.length) :
    (s.seatEmptied r c t).seatCore r t = none ∧ (s.seatEmptied r c t).logs = s.logs ∧
      (∀ a, ¬ IsReplayCtr a → (s.seatEmptied r c t).ctr a = s.ctr a) ∧
      ∀ j, (s.core j).retired = true → ((s.seatEmptied r c t).core j).retired = true := by
  have hlost := SeatsKept.seatLost ((s.putSeat r t 15).orReg (coreMap r) (2 ^ c)) r t
  refine ⟨?_, hlost.logs, hlost.ctr, hlost.retired⟩
  have hseats : ((s.putSeat r t 15).rank r).seats[t]? = some 15 := by rw [rank_putSeat, List.getElem?_set_self ht]
  exact (seatCore_of_getElem? (c := 15) ((congrArg (·[t]?) (hlost.seats r)).trans hseats)).trans rfl

/-- A retirement: the core is retired and its seat empty, and it counts in RANK_RETIRE. -/
theorem retire_seated {s : State} {r c t : Nat} (hseat : s.seatOf r c = some t) (hlive : (s.core (r * 13 + c)).retired = false) :
    ((s.retire r c).core (r * 13 + c)).retired = true ∧ (s.retire r c).seatCore r t = none ∧ (s.retire r c).logs = s.logs ∧
      ∀ a, ¬ IsReplayCtr a → (s.retire r c).ctr a = s.ctr a + if a = rkA r 0x1A0 then 1 else 0 := by
  obtain ⟨hstop, hretired⟩ := SeatsKept.stopCore s r c
  obtain ⟨k, hretire⟩ := retire_eq hseat hlive
  have hlen : t < ((s.stopCore r c).rank r).seats.length := by rw [hstop.seats]; exact (seatCore_some (seatCore_of_seatOf hseat)).1
  obtain ⟨hempty, hlogs, hctr, hkept⟩ := seatEmptied_spec c hlen
  generalize (s.stopCore r c).seatEmptied r c t = u at hretire hempty hlogs hctr hkept
  let v := (u.orReg (rkA r 0x3020) 3).count (rkA r 0x1A0)
  rw [hretire]
  refine ⟨?_, ?_, ?_, fun a ha => ?_⟩
  · change (v.core (r * 13 + c)).retired = true
    rw [State.core_count]
    exact hkept _ hretired
  · have hv : v.seatCore r t = u.seatCore r t := seatCore_congr (congrArg RankSt.seats (State.rank_count _ _ _ r)) t
    exact hv.trans hempty
  · change v.logs = s.logs
    rw [State.count_logs]
    exact hlogs.trans hstop.logs
  · change v.ctr a = _
    rw [count_ctr, show (u.orReg (rkA r 0x3020) 3).ctr a = u.ctr a from rfl, hctr a ha, hstop.ctr a ha]
    rfl

end Sys2Proof.Machine
end

section
/-! MACHINE_CHECK and RETIRED_CORE_GATED (11 R353; 17 R469, R470, R478). -/

namespace Sys2Proof.Machine
open Sys2Proof.Claim

theorem checkDue_iff (s : State) (ck cause ua : Nat) : s.checkDue ck cause ua = true ↔ checkDue (s.core ck) cause ua := by
  simp only [State.checkDue, checkDue, Bool.or_eq_true, Bool.and_eq_true, decide_eq_true_eq, Option.isNone_iff_eq_none, or_assoc]

theorem storeCheck_iff (s : State) (r c : Nat) :
    s.storeCheck r c = true ↔ s.seatCore r 12 = some c ∧ ((s.rank r).rot = 3 ∨ (s.rank r).repl ≠ []) := by
  simp only [State.storeCheck, Bool.and_eq_true, Bool.or_eq_true, decide_eq_true_eq, Bool.not_eq_true', List.isEmpty_eq_false_iff, ne_eq]

/-! ### A check on a packet core -/

/-- A check is logged, counted, and retires its core (R353). -/
theorem machineCheck_retires {s : State} {r c t : Nat} (cause ua : Nat) (hseat : s.seatOf r c = some t)
    (hlive : (s.core (r * 13 + c)).retired = false) :
    let u := s.machineCheck r c cause ua
    (u.core (r * 13 + c)).retired = true ∧ u.seatCore r t = none ∧ u.ctr (rkA r 0x198) = s.ctr (rkA r 0x198) + 1 ∧
      u.ctr (rkA r 0x1A0) = s.ctr (rkA r 0x1A0) + 1 ∧
      ((s.log (rkA r 0x3008)).ents.length < 4 → (u.log (rkA r 0x3008)).ents =
        (s.log (rkA r 0x3008)).ents ++ [BitVec.ofNat 32 (2 ^ 31 + t * 2 ^ 24 + cause * 2 ^ 20 + ua)]) ∧
      (4 ≤ (s.log (rkA r 0x3008)).ents.length → (u.log (rkA r 0x3008)).ovf = true) := by
  intro u
  let e := 2 ^ 31 + t * 2 ^ 24 + cause * 2 ^ 20 + ua
  let v := (s.logAdd (rkA r 0x3008) 4 e).count (rkA r 0x198)
  have hu : u = v.retire r c := by
    simp only [u, State.machineCheck, seatNo_of_seatOf hseat]
    rfl
  have hseat' : v.seatOf r c = some t := by
    rw [seatOf_congr (u := v) (s := s) (by simp [v])]
    exact hseat
  have hlive' : (v.core (r * 13 + c)).retired = false := by simpa [v] using hlive
  have hctr : ∀ a, v.ctr a = s.ctr a + if a = rkA r 0x198 then 1 else 0 := fun a => by
    rw [count_ctr, State.ctr, State.logAdd_counters]
    rfl
  have hlog : ∀ a, v.log a = (s.logAdd (rkA r 0x3008) 4 e).log a := fun a => by rw [State.log, State.count_logs, State.log]
  obtain ⟨hretired, hempty, hlogs, hcounts⟩ := retire_seated hseat' hlive'
  have hulog : u.log (rkA r 0x3008) = (s.logAdd (rkA r 0x3008) 4 e).log (rkA r 0x3008) := by rw [← hlog, hu, State.log, hlogs, State.log]
  rw [← hu] at hretired hempty hcounts
  refine ⟨hretired, hempty, ?_, ?_, fun h => ?_, fun h => ?_⟩
  · rw [hcounts _ (by rw [isReplayCtr_rkA]; decide), hctr]
    simp
  · rw [hcounts _ (by rw [isReplayCtr_rkA]; decide), hctr]
    simp
  · rw [hulog, logAdd_room _ _ _ _ h]
  · rw [hulog, logAdd_full _ _ _ _ h]

section
variable {s : State} {r : Rank} {cn : CoreNo} {cause : Fin 16} {ua : BitVec 10}

/-- A check can come now on core `cn`: that of seat 12's store, or one that its sequencer makes. -/
def State.checkComes (s : State) (r cn cause ua : Nat) : Prop :=
  (cause = 7 ∧ s.seatCore r 12 = some cn ∧ ((s.rank r).rot = 3 ∨ (s.rank r).repl ≠ [])) ∨
    (cause ≠ 7 ∧ Sys2Proof.Claim.checkDue (s.core (r * 13 + cn)) cause ua)

theorem machineCheck_core {t : Nat} (hr : s.runs r.val = true) (hseat : s.seatOf r.val cn.val = some t)
    (hlive : (s.core (r.val * 13 + cn.val)).retired = false) :
    (¬ s.checkComes r.val cn.val cause.val ua.toNat → exec (.machineCheck (.core r cn) cause ua) s = .next s) ∧
    (s.checkComes r.val cn.val cause.val ua.toNat → exec (.machineCheck (.core r cn) cause ua) s =
      .next (s.machineCheck r.val cn.val cause.val (if cause.val = 7 then 0 else ua.toNat))) := by
  have hseated : s.seated r.val cn.val = true := by simp [State.seated, hseat, hlive]
  have hexec : exec (.machineCheck (.core r cn) cause ua) s = .next (if cause.val = 7 then
      (if s.storeCheck r.val cn.val then s.machineCheck r.val cn.val 7 0 else s)
      else if s.checkDue (r.val * 13 + cn.val) cause.val ua.toNat then s.machineCheck r.val cn.val cause.val ua.toNat else s) :=
    congrArg Host.Outcome.next (if_neg (by simp [hr, hseated]))
  by_cases h7 : cause.val = 7
  · rw [hexec, if_pos h7, if_pos h7, h7, State.checkComes, ← storeCheck_iff]
    refine ⟨fun h => congrArg _ (if_neg fun hs => h (.inl ⟨rfl, hs⟩)), fun h => congrArg _ (if_pos ?_)⟩
    exact (h.resolve_right fun hn => hn.1 rfl).2
  · rw [hexec, if_neg h7, if_neg h7, State.checkComes, ← checkDue_iff]
    refine ⟨fun h => congrArg _ (if_neg fun hs => h (.inr ⟨h7, hs⟩)), fun h => congrArg _ (if_pos ?_)⟩
    exact (h.resolve_left fun hn => h7 hn.1).2

/-! ### RETIRED_CORE_GATED (17 R470) -/

theorem retiredCoreGated_eq (hr : s.runs r.val = true) (hretired : (s.core (r.val * 13 + cn.val)).retired = true)
    (hrunning : (s.core (r.val * 13 + cn.val)).gated = false) :
    exec (.retiredCoreGated r cn) s = .next (if (s.rank r.val).boundOn cn.val then s else
      s.setCore (r.val * 13 + cn.val) { s.core (r.val * 13 + cn.val) with gated := true }) := by
  change execRetiredCoreGated r cn s = _
  simp only [execRetiredCoreGated, hr, hretired, hrunning, Bool.not_true, Bool.or_self, Bool.false_or]

end

/-! ### A check on a steward (17 R478) -/

theorem stwFault_faulted (s : State) (i cause : Nat) : ((s.stwFault i cause).stwd i).faulted = true := by
  unfold State.stwFault
  extract_lets key c x s1 s2 ic s3 cfg s4 a
  have h4 : s4.stw = s2.stw := by
    simp only [s4]
    split <;> rfl
  rw [State.stwd_count]
  change (tget Stw.init s4.stw i).faulted = true
  rw [h4]
  exact congrArg Stw.faulted (State.stwd_setStw_same s1 i _)

theorem machineCheck_stw {s : State} {i : StwNo} {cause : Fin 16} {ua : BitVec 10} (hr : s.runs dStw = true)
    (hstarted : (s.stwd i.val).started = true) (hlive : (s.stwd i.val).faulted = false) :
    (checkDue (s.core (156 + i.val)) cause.val ua.toNat →
      ∃ u, exec (.machineCheck (.stw i) cause ua) s = .next u ∧ (u.stwd i.val).faulted = true) ∧
    (¬ checkDue (s.core (156 + i.val)) cause.val ua.toNat → exec (.machineCheck (.stw i) cause ua) s = .next s) := by
  rw [← checkDue_iff]
  refine ⟨fun h => ⟨_, congrArg Host.Outcome.next (if_neg ?_), stwFault_faulted s i.val 4⟩, fun h => congrArg Host.Outcome.next (if_pos ?_)⟩
  · simp [hr, hstarted, hlive, h]
  · simp [hr, hstarted, hlive, h]

end Sys2Proof.Machine
end

section
/-! The rotation of seats and the reserve: SEAT_DRAIN to SEAT_CANCEL, RESERVE_TAKES_SEAT (11 R355, R356; 17 R469). -/

namespace Sys2Proof.Machine
open Sys2Proof.Claim

/-! ### Cores that change seats -/

/-- `t` has the rank `r` of `s` but for its timed work, and the time and the domains of `s`. -/
def DueMoved (r : Nat) (s t : State) : Prop := (∃ d, t.rank r = { s.rank r with due := d }) ∧ t.now = s.now ∧ t.dom = s.dom

namespace DueMoved

variable {r : Nat} {s t u : State}

theorem of_eq (hr : t.ranks = s.ranks) (hn : t.now = s.now) (hd : t.dom = s.dom) : DueMoved r s t :=
  ⟨⟨(s.rank r).due, congrArg (tget RankSt.init · r) hr⟩, hn, hd⟩

theorem trans (h : DueMoved r s t) (h' : DueMoved r t u) : DueMoved r s u := by
  obtain ⟨⟨d, hd⟩, hn, hdom⟩ := h
  obtain ⟨⟨d', hd'⟩, hn', hdom'⟩ := h'
  exact ⟨⟨d', by rw [hd', hd]⟩, hn'.trans hn, hdom'.trans hdom⟩

theorem setDue (s : State) (r k n : Nat) : DueMoved r s (s.setDue r k n) := ⟨⟨_, rank_setDue s r k n⟩, rfl, rfl⟩
theorem endDue (s : State) (r k : Nat) : DueMoved r s (s.endDue r k) := ⟨⟨_, rank_endDue s r k⟩, rfl, rfl⟩

/-- Timed work changes places with the seats. -/
theorem swapSeats (s : State) (r t : Nat) : DueMoved r s (s.swapSeats r t) := by
  unfold State.swapSeats
  extract_lets sw s1 put
  have hsw : ∀ f u, DueMoved r u (sw f u) := fun f u => of_eq rfl rfl rfl
  have h1 : DueMoved r s s1 := forEach_keeps (DueMoved r s) (List.range 7) (fun i u => sw (fun j => spHid r j i) u)
    (fun i u hu => hu.trans (hsw (fun j => spHid r j i) u)) (sw (spSt r) (sw (spOwn r) s)) ((hsw _ s).trans (hsw _ _))
  have hput : ∀ k d u, DueMoved r u (put k d u) := fun k d u => by
    cases d with
    | none => exact endDue u r k
    | some v => exact setDue u r k v
  exact h1.trans ((hput _ _ _).trans (hput _ _ _))

end DueMoved

/-- The time `n` cycles from now, by the time and the rank's P-level alone. -/
theorem rankAfter_congr {s u : State} (hn : u.now = s.now) (hd : u.dom = s.dom) (r n : Nat) : u.rankAfter r n = s.rankAfter r n := by
  simp only [State.rankAfter, State.rankHalf, State.pdom, hn, hd]

/-- The core of seat 12 is in seat `t`. -/
theorem seatReserve_moves {s : State} {r n : Nat} (t : Nat) (h : s.seatCore r 12 = some n) :
    (∃ d, (s.seatReserve r t).rank r = { s.rank r with seats := ((s.rank r).seats.set 12 15).set t n, due := d }) ∧
      (s.seatReserve r t).now = s.now ∧ (s.seatReserve r t).dom = s.dom := by
  obtain ⟨⟨d, hd⟩, hnow, hdom⟩ := DueMoved.swapSeats ((s.putSeat r 12 15).putSeat r t n) r t
  have heq : s.seatReserve r t = ((s.putSeat r 12 15).putSeat r t n).swapSeats r t := by simp only [State.seatReserve, h]
  rw [heq]
  refine ⟨⟨d, ?_⟩, hnow, hdom⟩
  rw [hd, rank_putSeat, rank_putSeat]

theorem rank_clearReserve (s : State) (r c : Nat) :
    (s.clearReserve r c).rank r = { s.rank r with due := tset (s.rank r).due (32 + c) (s.rankAfter r 4096) } :=
  rank_setDue ((s.setReg (spOwn r (s.seatNo r c)) 0x5555).setReg (spSt r (s.seatNo r c)) 0x80000000) r (32 + c) (s.rankAfter r 4096)

section
variable {s : State} {r : Rank}

/-! ### SEAT_DRAINED (R355) -/

theorem seatDrained_eq {c : Nat} (hr : s.runs r.val = true) (hrot : (s.rank r.val).rot = 1)
    (hcore : s.seatCore r.val (s.rank r.val).rotSeat = some c) :
    exec (.seatDrained r) s = .next (if ((s.core (r.val * 13 + c)).halted ||
      (List.range 8).any (fun k => (s.ctx (pk r.val c k)).st ≠ .free) || (s.rank r.val).boundOn c) = true then s
      else s.setRank r.val { s.rank r.val with rot := 2 }) := by
  change execSeatDrained r s = _
  simp only [execSeatDrained, hcore, hr, hrot, ne_eq, not_true_eq_false, decide_false, Bool.not_true, Bool.or_self, Bool.false_or]

/-- A seat whose core is halted or has a bound slot is not yet drained (18 R507). -/
theorem seatDrained_waits {c : Nat} (hr : s.runs r.val = true) (hrot : (s.rank r.val).rot = 1)
    (hcore : s.seatCore r.val (s.rank r.val).rotSeat = some c)
    (h : (s.core (r.val * 13 + c)).halted = true ∨ (s.rank r.val).boundOn c = true) : exec (.seatDrained r) s = .next s := by
  rw [seatDrained_eq hr hrot hcore, if_pos]
  rcases h with h | h <;> rw [h] <;> simp

theorem seatDrained_drains {c : Nat} (hr : s.runs r.val = true) (hrot : (s.rank r.val).rot = 1)
    (hcore : s.seatCore r.val (s.rank r.val).rotSeat = some c) (hrunning : (s.core (r.val * 13 + c)).halted = false)
    (hfree : ∀ k, k < 8 → (s.ctx (pk r.val c k)).st = .free) (hunbound : (s.rank r.val).boundOn c = false) :
    exec (.seatDrained r) s = .next (s.setRank r.val { s.rank r.val with rot := 2 }) := by
  rw [seatDrained_eq hr hrot hcore, if_neg]
  simpa [hrunning, hunbound] using hfree

/-! ### SEAT_ROTATION_COMPLETE (R355) -/

theorem seatRotationComplete_rotates {n c : Nat} (hr : s.runs r.val = true) (hrot : (s.rank r.val).rot = 3)
    (hseat : (s.rank r.val).rotSeat < 12) (hreserve : s.seatCore r.val 12 = some n)
    (hdrained : s.seatCore r.val (s.rank r.val).rotSeat = some c) (hdue : s.dueNow r.val 0 = true)
    (hgood : s.storeGood (r.val * 13 + n) = true) :
    ∃ u, exec (.seatRotationComplete r) s = .next u ∧ u.seatCore r.val (s.rank r.val).rotSeat = some n ∧
      u.seatCore r.val 12 = some c ∧ (u.rank r.val).rot = 0 ∧ tfind (u.rank r.val).due (32 + c) = some (s.rankAfter r.val 4096) := by
  let x := s.rank r.val
  let v := (s.endDue r.val 0).setRank r.val { (s.endDue r.val 0).rank r.val with rot := 0 }
  let w := (v.seatReserve r.val x.rotSeat).putSeat r.val 12 c
  have hexec : exec (.seatRotationComplete r) s = .next (w.clearReserve r.val c) := by
    change execSeatRotationComplete r s = _
    simp only [execSeatRotationComplete, hreserve, hdrained]
    rw [if_neg (by simp [hr, hrot, hdue]), if_neg (by simp [hgood])]
  have hv : v.rank r.val = { x with rot := 0, due := tdel x.due 0 } := by
    rw [State.rank_setRank_same, rank_endDue]
  obtain ⟨⟨d, hd⟩, hnow, hdom⟩ := seatReserve_moves (s := v) x.rotSeat ((seatCore_congr (by rw [hv]) 12).trans hreserve)
  have hw : w.rank r.val = { x with rot := 0, due := d, seats := ((x.seats.set 12 15).set x.rotSeat n).set 12 c } := by
    rw [rank_putSeat, hd, hv]
  have hu := rank_clearReserve w r.val c
  rw [hw] at hu
  obtain ⟨h12, hn⟩ := seatCore_some hreserve
  obtain ⟨ht, hc⟩ := seatCore_some hdrained
  refine ⟨_, hexec, ?_, ?_, by rw [hu], ?_⟩
  · have hget : ((w.clearReserve r.val c).rank r.val).seats[x.rotSeat]? = some n := by
      rw [hu]
      simp only
      rw [List.getElem?_set_ne (Nat.ne_of_gt hseat), List.getElem?_set_self (by rw [List.length_set]; exact ht)]
    rw [seatCore_of_getElem? hget, if_pos hn]
  · have hget : ((w.clearReserve r.val c).rank r.val).seats[12]? = some c := by
      rw [hu]
      simp only
      rw [List.getElem?_set_self (by simpa using h12)]
    rw [seatCore_of_getElem? hget, if_pos hc]
  · rw [hu]
    simp only
    rw [tfind_tset_same, rankAfter_congr (u := w) (s := s) hnow hdom]

/-! ### RESERVE_TAKES_SEAT (17 R469) -/

theorem reserveTakesSeat_takes {t c : Nat} {rest : List Nat} (hr : s.runs r.val = true) (hrepl : (s.rank r.val).repl = t :: rest)
    (ht : t < 12) (hreserve : s.seatCore r.val 12 = some c) (hdue : s.dueNow r.val 0 = true)
    (hgood : s.storeGood (r.val * 13 + c) = true) :
    ∃ u, exec (.reserveTakesSeat r) s = .next u ∧ u.seatCore r.val t = some c ∧ u.seatCore r.val 12 = none ∧
      (u.rank r.val).repl = [] := by
  let x := s.rank r.val
  let v := (s.endDue r.val 0).setRank r.val { (s.endDue r.val 0).rank r.val with repl := [] }
  have hexec : exec (.reserveTakesSeat r) s = .next (v.seatReserve r.val t) := by
    change execReserveTakesSeat r s = _
    simp only [execReserveTakesSeat, hrepl, hreserve]
    rw [if_neg (by simp [hr, hdue]), if_pos hgood]
  have hv : v.rank r.val = { x with repl := [], due := tdel x.due 0 } := by
    rw [State.rank_setRank_same, rank_endDue]
  obtain ⟨⟨d, hu⟩, -, -⟩ := seatReserve_moves (s := v) t ((seatCore_congr (by rw [hv]) 12).trans hreserve)
  rw [hv] at hu
  obtain ⟨h12, hc⟩ := seatCore_some hreserve
  have hlen : t < x.seats.length := Nat.lt_trans ht h12
  refine ⟨_, hexec, ?_, ?_, by rw [hu]⟩
  · have hget : ((v.seatReserve r.val t).rank r.val).seats[t]? = some c := by
      rw [hu]
      simp only
      rw [List.getElem?_set_self (by rwa [List.length_set])]
    rw [seatCore_of_getElem? hget, if_pos hc]
  · have hget : ((v.seatReserve r.val t).rank r.val).seats[12]? = some 15 := by
      rw [hu]
      simp only
      rw [List.getElem?_set_ne (by omega), List.getElem?_set_self h12]
    exact (seatCore_of_getElem? hget).trans rfl

end

/-! ### RANK_SEAT_CMD (R355, R356) -/

/-- RANK_SEAT_STATUS after a command on seat `t`: accepted with reason 0. -/
def seatWord (t n : Nat) : Word := BitVec.ofNat 32 ((if n = 0 then 0 else 2 ^ 29) + n * 2 ^ 26 + t)

theorem seatStatus_eq (s : State) (r t n : Nat) : s.seatStatus r t n = s.setReg (rkA r 0x3004) (seatWord t n) := by
  by_cases h : n = 0
  · subst h; rfl
  · simp only [State.seatStatus, State.setRegN_eq, seatWord, at_, b2n, h, ne_eq, not_false_eq_true, decide_true, if_true, if_false,
      Nat.one_mul]

/-- Why a drain of seat `t` is refused (log entry 37 of a seat without a core). -/
def State.drainReason (s : State) (r t : Nat) : Nat :=
  if (s.rank r).rot ≠ 0 then 1 else if s.hasReserve r = false then 2 else if 11 < t then 3 else if s.seatCore r t = none then 6 else 0

/-- Why a rotation of seat `t` is refused. -/
def State.rotateReason (s : State) (r t : Nat) : Nat :=
  if (s.rank r).rot = 3 then 1 else if (s.rank r).rot ≠ 2 ∨ (s.rank r).rotSeat ≠ t then 4 else if s.seatCore r 12 = none then 2 else 0

theorem seatDrain_eq (s : State) (r t : Nat) : s.seatDrain r t = if s.drainReason r t ≠ 0 then
      s.setReg (rkA r 0x3004) (seatWord t (s.drainReason r t))
    else (s.setReg (rkA r 0x3004) (seatWord t 0)).setRank r { s.rank r with rot := 1, rotSeat := t } := by
  unfold State.seatDrain
  extract_lets x reason s1
  have hreason : reason = s.drainReason r t := by
    simp only [reason, x, State.drainReason, Bool.not_eq_true', Option.isNone_iff_eq_none]
  rw [show s1 = _ from seatStatus_eq s r t reason, hreason]
  split
  · rfl
  · next h => rw [not_not.mp h]

theorem seatRotate_eq (s : State) (r t : Nat) : s.seatRotate r t = if s.rotateReason r t ≠ 0 then
      s.setReg (rkA r 0x3004) (seatWord t (s.rotateReason r t))
    else (((s.setReg (rkA r 0x3004) (seatWord t 0)).setRank r { s.rank r with rot := 3 }).patchReserve r).setDue r 0
      (s.rankAfter r 1040) := by
  unfold State.seatRotate
  extract_lets x reason s1
  have hreason : reason = s.rotateReason r t := by
    simp only [reason, x, State.rotateReason, Option.isNone_iff_eq_none]
  rw [show s1 = _ from seatStatus_eq s r t reason, hreason]
  split
  · rfl
  · next h => rw [not_not.mp h]

/-- The library's patch changes one core's patch, its errors and the records of SRAM errors. -/
theorem patchReserve_frame (s : State) (r : Nat) :
    ∃ k e m n, s.patchReserve r = { s with cores := k, csErr := e, sramErr := m, counters := n } := by
  have hsweep : ∃ m n, s.srSweep libPatch 3208 = { s with sramErr := m, counters := n } := by
    unfold State.srSweep State.count
    dsimp only
    split_ifs <;> exact ⟨_, _, rfl⟩
  have hmicro : ∀ (u : State) ck, ∃ k e, u.libMicro ck = { u with cores := k, csErr := e } := fun u ck => by
    unfold State.libMicro
    dsimp only
    split <;> exact ⟨_, _, rfl⟩
  unfold State.patchReserve
  dsimp only
  split
  · obtain ⟨m, n, hm⟩ := hsweep
    obtain ⟨k, e, hk⟩ := hmicro (s.srSweep libPatch 3208) (s.seatKey r 12)
    exact ⟨k, e, m, n, by rw [hk, hm]⟩
  · exact ⟨s.cores, s.csErr, s.sramErr, s.counters, rfl⟩

section
variable {s : State} {q : Req} {r : Rank} {t : Fin 16} (hw : MayWrite s q (rkA r.val 0x3000))
include hw

theorem seatDrain_refused (h : s.drainReason r.val t.val ≠ 0) : exec (.seatDrain q r t) s =
    .next (acked q (rkA r.val 0x3000) (s.setReg (rkA r.val 0x3004) (seatWord t.val (s.drainReason r.val t.val)))) := by
  have heq := (seatDrain_eq s r.val t.val).trans (if_pos h)
  refine congrArg Host.Outcome.next ((writeCmd_of_MayWrite hw _ ?_).trans (congrArg (acked q _) heq))
  rw [heq]
  rfl

theorem seatDrain_accepted (h : s.drainReason r.val t.val = 0) : exec (.seatDrain q r t) s =
    .next (acked q (rkA r.val 0x3000)
      ((s.setReg (rkA r.val 0x3004) (seatWord t.val 0)).setRank r.val { s.rank r.val with rot := 1, rotSeat := t.val })) := by
  have heq := (seatDrain_eq s r.val t.val).trans (if_neg (not_not.mpr h))
  refine congrArg Host.Outcome.next ((writeCmd_of_MayWrite hw _ ?_).trans (congrArg (acked q _) heq))
  rw [heq]
  rfl

theorem seatRotate_refused (h : s.rotateReason r.val t.val ≠ 0) : exec (.seatRotate q r t) s =
    .next (acked q (rkA r.val 0x3000) (s.setReg (rkA r.val 0x3004) (seatWord t.val (s.rotateReason r.val t.val)))) := by
  have heq := (seatRotate_eq s r.val t.val).trans (if_pos h)
  refine congrArg Host.Outcome.next ((writeCmd_of_MayWrite hw _ ?_).trans (congrArg (acked q _) heq))
  rw [heq]
  rfl

/-- The check of seat 12 has begun, with the library's patch where the reserve needs it (log entry 102). -/
theorem seatRotate_accepted (h : s.rotateReason r.val t.val = 0) :
    ∃ u, exec (.seatRotate q r t) s = .next u ∧ u.reg (rkA r.val 0x3004) = seatWord t.val 0 ∧ (u.rank r.val).rot = 3 ∧
      tfind (u.rank r.val).due 0 = some (s.rankAfter r.val 1040) := by
  let v := (s.setReg (rkA r.val 0x3004) (seatWord t.val 0)).setRank r.val { s.rank r.val with rot := 3 }
  obtain ⟨k, e, m, n, hframe⟩ := patchReserve_frame v r.val
  have heq : s.seatRotate r.val t.val = (v.patchReserve r.val).setDue r.val 0 (s.rankAfter r.val 1040) :=
    (seatRotate_eq s r.val t.val).trans (if_neg (not_not.mpr h))
  have hdbg : (v.patchReserve r.val).dbg = v.dbg := by rw [hframe]
  have hregs : (v.patchReserve r.val).regs = v.regs := by rw [hframe]
  have hranks : (v.patchReserve r.val).ranks = v.ranks := by rw [hframe]
  generalize v.patchReserve r.val = u at heq hdbg hregs hranks
  have hrank : u.rank r.val = { s.rank r.val with rot := 3 } :=
    (congrArg (tget RankSt.init · r.val) hranks).trans (State.rank_setRank_same _ _ _)
  have hreg : u.reg (rkA r.val 0x3004) = seatWord t.val 0 := by
    rw [State.reg, hregs, ← State.reg, State.reg_setRank, State.reg_setReg_same]
  refine ⟨_, congrArg Host.Outcome.next ((writeCmd_of_MayWrite hw _ ?_).trans (congrArg (acked q _) heq)), ?_, ?_, ?_⟩
  · rw [heq]
    exact congrArg Dbg.level hdbg
  · rw [reg_acked, reg_setDue, hreg]
  · rw [rank_acked, rank_setDue, hrank]
  · rw [rank_acked, rank_setDue]
    exact tfind_tset_same _ _ _

theorem seatCancel_ends : ∃ u, exec (.seatCancel q r t) s = .next u ∧ u.reg (rkA r.val 0x3004) = seatWord t.val 0 ∧
    (u.rank r.val).rot = 0 := by
  let s1 := s.setReg (rkA r.val 0x3004) (seatWord t.val 0)
  have heq : s.seatCancel r.val t.val = if (s1.rank r.val).rot = 0 then s1
      else (s1.setRank r.val { s1.rank r.val with rot := 0 }).endDue r.val 0 := by
    simp only [State.seatCancel, seatStatus_eq]
    rfl
  have hspec : (s.seatCancel r.val t.val).dbg = s.dbg ∧ (s.seatCancel r.val t.val).reg (rkA r.val 0x3004) = seatWord t.val 0 ∧
      ((s.seatCancel r.val t.val).rank r.val).rot = 0 := by
    rw [heq]
    split
    · next h => exact ⟨rfl, State.reg_setReg_same _ _ _, h⟩
    · refine ⟨rfl, State.reg_setReg_same _ _ _, ?_⟩
      rw [rank_endDue, State.rank_setRank_same]
  obtain ⟨hdbg, hreg, hrot⟩ := hspec
  refine ⟨_, congrArg Host.Outcome.next (writeCmd_of_MayWrite hw _ (congrArg Dbg.level hdbg)), ?_, ?_⟩
  · rw [reg_acked, hreg]
  · rw [rank_acked, hrot]

end

end Sys2Proof.Machine
end

section
/-! The patch commands on seat 12 and the machine checks, seats and patches together (11 R350, R354). -/

namespace Sys2Proof.Machine
open Sys2Proof.Claim

/-! ### The registers of patch commands -/

@[simp] theorem mcData_inj (r t i j : Nat) : mcData r t i = mcData r t j ↔ i = j := by simp [mcData]
@[simp] theorem mcData_ne_mcSt (r t i : Nat) : mcData r t i ≠ mcSt r t := by simp only [mcData, mcSt, rkA]; omega
@[simp] theorem mcSt_ne_mcData (r t i : Nat) : mcSt r t ≠ mcData r t i := (mcData_ne_mcSt r t i).symm

section
variable (s : State) (r t : Nat) (w : Word)

@[simp] theorem reg_mcData_setReg_mcSt (i : Nat) : (s.setReg (mcSt r t) w).reg (mcData r t i) = s.reg (mcData r t i) :=
  State.reg_setReg_ne _ _ _ _ (mcData_ne_mcSt r t i)

theorem reg_mcAddr_setReg_mcSt : (s.setReg (mcSt r t) w).reg (rkA r (0x3120 + 0x40 * t)) = s.reg (rkA r (0x3120 + 0x40 * t)) :=
  State.reg_setReg_ne _ _ _ _ (by simp only [mcSt, rkA]; omega)

@[simp] theorem mcMap_setReg_mcSt : (s.setReg (mcSt r t) w).mcMap r t = s.mcMap r t := by
  simp only [State.mcMap, reg_mcAddr_setReg_mcSt]

@[simp] theorem mcIdx_setReg_mcSt : (s.setReg (mcSt r t) w).mcIdx r t = s.mcIdx r t := by
  simp only [State.mcIdx, State.fld, reg_mcAddr_setReg_mcSt]

end

/-- The three data words of a patch word. -/
theorem threeWords (w : BitVec 96) : (w >>> 64).setWidth 32 ++ (w >>> 32).setWidth 32 ++ w.setWidth 32 = w := by
  refine BitVec.eq_of_getLsbD_eq fun i hi => ?_
  rw [BitVec.getLsbD_append, BitVec.getLsbD_append, BitVec.getLsbD_setWidth, BitVec.getLsbD_setWidth, BitVec.getLsbD_setWidth,
    BitVec.getLsbD_ushiftRight, BitVec.getLsbD_ushiftRight]
  by_cases h1 : i < 32
  · simp [h1]
  · by_cases h2 : i < 64
    · simp [h1, show i - 32 < 32 by omega, show 32 + (i - 32) = i by omega]
    · simp [h1, show ¬ i - 32 < 32 by omega, show i - 32 - 32 < 32 by omega, show 64 + (i - 32 - 32) = i by omega]

/-! ### Refusals (R354) -/

section
variable {s : State} {r t : Nat}

/-- On another seat than 12 a patch command is refused with reason 1. -/
theorem mcCmd_refused (ht : t ≠ 12) (op : Nat) (f : State → Nat → Core → State) : s.mcCmd r t op f = s.setReg (mcSt r t) 0x48000000 := by
  have hreason : s.mcReason r t op = 1 := if_pos (.inl ht)
  simp only [State.mcCmd, hreason]
  rfl

/-- A patch command that is not refused has its effect. -/
theorem mcCmd_accepted {op : Nat} (h : s.mcReason r t op = 0) (f : State → Nat → Core → State) :
    s.mcCmd r t op f = f (s.setReg (mcSt r t) 0) (s.seatKey r t) (s.core (s.seatKey r t)) := by
  simp only [State.mcCmd, h]
  rfl

section
variable (ht : t = 12) (hres : s.hasReserve r = true) (hrot : (s.rank r).rot = 0)
include ht hres hrot

theorem mcReason_accepted {op : Nat} (h : op = 1 → s.mcMap r t = false) : s.mcReason r t op = 0 := by
  have hop : ¬ (op = 1 ∧ s.mcMap r t = true) := fun hop => by simp [h hop.1] at hop
  rw [State.mcReason, if_neg (by simp [ht, hres]), if_neg (by simp [hrot]), if_neg hop]

/-- An entry is written where its target is a ROM word that no valid entry names. -/
theorem mcReason_entry (hmap : s.mcMap r t = true) (hrom : bits (s.reg (mcData r t 0)) 25 16 ≤ 767)
    (hfresh : ∀ e ∈ (s.core (s.seatKey r t)).pmap, bit e.2 31 = true → bits e.2 25 16 ≠ bits (s.reg (mcData r t 0)) 25 16) :
    s.mcReason r t 1 = 0 := by
  rw [State.mcReason, if_neg (by simp [ht, hres]), if_neg (by simp [hrot]), if_pos ⟨rfl, hmap⟩]
  refine (if_neg fun h => ?_).trans (if_neg (by omega))
  obtain ⟨e, he, hsame⟩ := List.any_eq_true.mp h.2
  simp only [Bool.and_eq_true, decide_eq_true_eq] at hsame
  exact hfresh e he hsame.1.2 hsame.2

end

end

/-! ### The commands -/

section
variable {s : State} {q : Req} {r : Rank} {t : Seat} (hw : MayWrite s q (mcCmdA r.val t.val))
include hw

theorem patchCmd_refused (ht : t.val ≠ 12) {i : Instr}
    (hi : i ∈ [Instr.mcPatchWrite q r t, .mcPatchRead q r t, .mcPatchSetLevel q r t, .mcPatchInvalidate q r t]) :
    exec i s = .next (acked q (mcCmdA r.val t.val) (s.setReg (mcSt r.val t.val) 0x48000000)) := by
  have hcmd : ∀ op f, s.writeCmd q (mcCmdA r.val t.val) (fun s => s.mcCmd r.val t.val op f) =
      acked q (mcCmdA r.val t.val) (s.setReg (mcSt r.val t.val) 0x48000000) := fun op f => by
    have hrefused := mcCmd_refused (s := s) (r := r.val) ht op f
    rw [writeCmd_of_MayWrite hw _ (by rw [hrefused]; rfl), hrefused]
  simp only [List.mem_cons, List.not_mem_nil, or_false] at hi
  rcases hi with rfl | rfl | rfl | rfl
  · exact congrArg Host.Outcome.next (hcmd 1 _)
  · exact congrArg Host.Outcome.next (hcmd 2 _)
  · exact congrArg Host.Outcome.next (hcmd 3 _)
  · exact congrArg Host.Outcome.next (hcmd 4 _)

/-- A patch command that is not refused has its effect and leaves status 0. -/
theorem patchCmd_accepted {op : Nat} (h : s.mcReason r.val t.val op = 0) {f : State → Nat → Core → State} {u : State}
    (hu : f (s.setReg (mcSt r.val t.val) 0) (s.seatKey r.val t.val) (s.core (s.seatKey r.val t.val)) = u)
    (hdbg : u.dbg = s.dbg) :
    s.writeCmd q (mcCmdA r.val t.val) (fun s => s.mcCmd r.val t.val op f) = acked q (mcCmdA r.val t.val) u := by
  have heq := (mcCmd_accepted h f).trans hu
  rw [writeCmd_of_MayWrite hw _ (by rw [heq, hdbg]), heq]

section
variable (ht : t.val = 12) (hres : s.hasReserve r.val = true) (hrot : (s.rank r.val).rot = 0)
include ht hres hrot

theorem mcPatchSetLevel_sets : ∃ u, exec (.mcPatchSetLevel q r t) s = .next u ∧ u.reg (mcSt r.val t.val) = 0 ∧
    (u.core (s.seatKey r.val t.val)).plevel = (s.reg (mcData r.val t.val 0)).setWidth 16 := by
  have hcmd := patchCmd_accepted hw (mcReason_accepted ht hres hrot (op := 3) nofun)
    (f := fun s ck co => s.mcLevel r.val t.val ck co) rfl rfl
  refine ⟨_, congrArg Host.Outcome.next hcmd, ?_, ?_⟩
  · rw [reg_acked]
    exact State.reg_setReg_same s _ _
  · rw [core_acked, State.mcLevel, State.core_setCore_same, reg_mcData_setReg_mcSt]

theorem mcPatchInvalidate_drops : ∃ u, exec (.mcPatchInvalidate q r t) s = .next u ∧ u.reg (mcSt r.val t.val) = 0 ∧
    (u.core (s.seatKey r.val t.val)).plevel = 0 ∧ (∀ e ∈ (u.core (s.seatKey r.val t.val)).pmap, bit e.2 31 = false) ∧
    (∀ w ∈ u.csErr, w / 2048 = s.seatKey r.val t.val → w % 2048 < 1024) := by
  let co := s.core (s.seatKey r.val t.val)
  let co' := { co with pmap := tmap co.pmap (fun _ w => w &&& 0x7FFFFFFF), plevel := 0 }
  have hcmd := patchCmd_accepted hw (mcReason_accepted ht hres hrot (op := 4) nofun) (f := fun s ck co => s.mcDrop ck co) rfl rfl
  have hcore : ((((s.setReg (mcSt r.val t.val) 0).mcDrop (s.seatKey r.val t.val) co)).core (s.seatKey r.val t.val)) = co' :=
    State.core_setCore_same (s.setReg (mcSt r.val t.val) 0) _ co'
  refine ⟨_, congrArg Host.Outcome.next hcmd, ?_, ?_, ?_, ?_⟩
  · rw [reg_acked]
    exact State.reg_setReg_same s _ _
  · rw [core_acked, hcore]
  · rw [core_acked, hcore]
    intro e he
    obtain ⟨x, -, rfl⟩ := List.mem_map.mp he
    rw [bit_and, show bit 0x7FFFFFFF 31 = false by decide, Bool.and_false]
  · rw [csErr_acked]
    intro w hmem hck
    have hkept := (List.mem_filter.mp hmem).2
    simpa [hck] using hkept

theorem mcPatchWrite_word (hmap : s.mcMap r.val t.val = false) :
    ∃ u, exec (.mcPatchWrite q r t) s = .next u ∧ u.reg (mcSt r.val t.val) = 0 ∧
      tget 0 (u.core (s.seatKey r.val t.val)).patch (s.mcIdx r.val t.val) =
        s.reg (mcData r.val t.val 2) ++ s.reg (mcData r.val t.val 1) ++ s.reg (mcData r.val t.val 0) := by
  let ck := s.seatKey r.val t.val
  let v := (s.setReg (mcSt r.val t.val) 0).setCore ck { s.core ck with
    patch := tset (s.core ck).patch (s.mcIdx r.val t.val)
      (s.reg (mcData r.val t.val 2) ++ s.reg (mcData r.val t.val 1) ++ s.reg (mcData r.val t.val 0)) }
  have hwrite : (s.setReg (mcSt r.val t.val) 0).mcWrite r.val t.val ck (s.core ck) =
      { v with csErr := v.csErr.filter (fun w => w ≠ ck * 2048 + 768 + s.mcIdx r.val t.val) } := by
    simp only [State.mcWrite, mcMap_setReg_mcSt, mcIdx_setReg_mcSt, reg_mcData_setReg_mcSt, hmap, Bool.false_eq_true, if_false]
    rfl
  have hcmd := patchCmd_accepted hw (mcReason_accepted ht hres hrot (op := 1) fun _ => hmap)
    (f := fun s ck co => s.mcWrite r.val t.val ck co) hwrite rfl
  refine ⟨_, congrArg Host.Outcome.next hcmd, ?_, ?_⟩
  · rw [reg_acked]
    exact State.reg_setReg_same s _ _
  · rw [core_acked]
    refine (congrArg (fun c : Core => tget 0 c.patch (s.mcIdx r.val t.val)) (State.core_setCore_same _ _ _)).trans ?_
    exact tget_tset_same _ _ _ _

theorem mcPatchRead_word (hmap : s.mcMap r.val t.val = false) :
    ∃ u, exec (.mcPatchRead q r t) s = .next u ∧ u.reg (mcSt r.val t.val) = 0 ∧
      u.reg (mcData r.val t.val 2) ++ u.reg (mcData r.val t.val 1) ++ u.reg (mcData r.val t.val 0) =
        tget 0 (s.core (s.seatKey r.val t.val)).patch (s.mcIdx r.val t.val) := by
  let ck := s.seatKey r.val t.val
  let w := tget 0 (s.core ck).patch (s.mcIdx r.val t.val)
  have hread : (s.setReg (mcSt r.val t.val) 0).mcRead r.val t.val ck (s.core ck) =
      (((s.setReg (mcSt r.val t.val) 0).setReg (mcData r.val t.val 0) (w.setWidth 32)).setReg (mcData r.val t.val 1)
        ((w >>> 32).setWidth 32)).setReg (mcData r.val t.val 2) ((w >>> 64).setWidth 32) := by
    simp only [State.mcRead, mcMap_setReg_mcSt, mcIdx_setReg_mcSt, hmap, Bool.false_eq_true, if_false]
    rfl
  have hcmd := patchCmd_accepted hw (mcReason_accepted ht hres hrot (op := 2) nofun)
    (f := fun s ck co => s.mcRead r.val t.val ck co) hread rfl
  refine ⟨_, congrArg Host.Outcome.next hcmd, ?_, ?_⟩
  · simp [State.reg_setReg]
  · simp [State.reg_setReg]
    exact threeWords w

theorem mcPatchWrite_entry (hmap : s.mcMap r.val t.val = true) (hidx : s.mcIdx r.val t.val < 32)
    (hrom : bits (s.reg (mcData r.val t.val 0)) 25 16 ≤ 767)
    (hfresh : ∀ e ∈ (s.core (s.seatKey r.val t.val)).pmap, bit e.2 31 = true →
      bits e.2 25 16 ≠ bits (s.reg (mcData r.val t.val 0)) 25 16) :
    ∃ u, exec (.mcPatchWrite q r t) s = .next u ∧
      tget 0 (u.core (s.seatKey r.val t.val)).pmap (s.mcIdx r.val t.val) = s.reg (mcData r.val t.val 0) &&& 0x83FF00FF := by
  let ck := s.seatKey r.val t.val
  let v := (s.setReg (mcSt r.val t.val) 0).setCore ck { s.core ck with
    pmap := tset (s.core ck).pmap (s.mcIdx r.val t.val) (s.reg (mcData r.val t.val 0) &&& 0x83FF00FF) }
  have hwrite : (s.setReg (mcSt r.val t.val) 0).mcWrite r.val t.val ck (s.core ck) =
      { v with csErr := v.csErr.filter (fun w => w ≠ ck * 2048 + 1024 + s.mcIdx r.val t.val) } := by
    simp only [State.mcWrite, mcMap_setReg_mcSt, mcIdx_setReg_mcSt, reg_mcData_setReg_mcSt, hmap, if_true,
      if_neg (show ¬ 31 < s.mcIdx r.val t.val by omega)]
    rfl
  have hcmd := patchCmd_accepted hw (mcReason_entry ht hres hrot hmap hrom hfresh)
    (f := fun s ck co => s.mcWrite r.val t.val ck co) hwrite rfl
  refine ⟨_, congrArg Host.Outcome.next hcmd, ?_⟩
  rw [core_acked]
  refine (congrArg (fun c : Core => tget 0 c.pmap (s.mcIdx r.val t.val)) (State.core_setCore_same _ _ _)).trans ?_
  exact tget_tset_same _ _ _ _

theorem mcPatchRead_entry (hmap : s.mcMap r.val t.val = true) (hidx : s.mcIdx r.val t.val < 32) :
    ∃ u, exec (.mcPatchRead q r t) s = .next u ∧
      u.reg (mcData r.val t.val 0) = tget 0 (s.core (s.seatKey r.val t.val)).pmap (s.mcIdx r.val t.val) := by
  let ck := s.seatKey r.val t.val
  have hread : (s.setReg (mcSt r.val t.val) 0).mcRead r.val t.val ck (s.core ck) =
      (s.setReg (mcSt r.val t.val) 0).setReg (mcData r.val t.val 0) (tget 0 (s.core ck).pmap (s.mcIdx r.val t.val)) := by
    simp only [State.mcRead, mcMap_setReg_mcSt, mcIdx_setReg_mcSt, hmap, if_true, if_neg (show ¬ 31 < s.mcIdx r.val t.val by omega)]
  have hcmd := patchCmd_accepted hw (mcReason_accepted ht hres hrot (op := 2) nofun)
    (f := fun s ck co => s.mcRead r.val t.val ck co) hread rfl
  refine ⟨_, congrArg Host.Outcome.next hcmd, ?_⟩
  rw [reg_acked, State.reg_setReg_same]

end

end

/-- Settles O49: a due check by `machineCheck_retires`, the rotation and the reserve by what `seatReserve` makes of the seats, a refusal
by its reason, the patch commands by what they write. -/
theorem seatsResult : Obligations.SeatsResult := by
  intro s r x status
  refine ⟨fun hr => ⟨fun cn cause ua t hseat hlive => ?_, fun cn hretired hrunning => retiredCoreGated_eq hr hretired hrunning,
      fun c hrot hcore => ?_, fun n c hrot hseat hreserve hdrained hdue hgood =>
        seatRotationComplete_rotates hr hrot hseat hreserve hdrained hdue hgood,
      fun t rest c hrepl ht hreserve hdue hgood => reserveTakesSeat_takes hr hrepl ht hreserve hdue hgood⟩,
    fun i cause ua hr hstarted hlive => machineCheck_stw hr hstarted hlive, fun q t hw => ?_, fun q t hw => ?_⟩
  · obtain ⟨hidle, hcheck⟩ := machineCheck_core (cause := cause) (ua := ua) hr hseat hlive
    exact ⟨hidle, fun hdue => ⟨_, hcheck hdue, machineCheck_retires _ _ hseat hlive⟩⟩
  · exact ⟨fun h => seatDrained_waits hr hrot hcore (.inl h), seatDrained_drains hr hrot hcore,
      fun h => seatDrained_waits hr hrot hcore (.inr h)⟩
  · exact ⟨seatDrain_refused hw, seatDrain_accepted hw, seatRotate_refused hw, seatRotate_accepted hw, seatCancel_ends hw⟩
  · refine ⟨fun ht i hi => patchCmd_refused hw ht hi, fun ht hres hrot => ⟨mcPatchSetLevel_sets hw ht hres hrot,
      mcPatchInvalidate_drops hw ht hres hrot,
      fun hmap => ⟨mcPatchWrite_word hw ht hres hrot hmap, mcPatchRead_word hw ht hres hrot hmap⟩,
      fun hmap hidx => ⟨mcPatchWrite_entry hw ht hres hrot hmap hidx, mcPatchRead_entry hw ht hres hrot hmap hidx⟩⟩⟩

end Sys2Proof.Machine
end

section
/-! The loads and stores by address as one access of their operands (05 R147, R153, R154). -/

namespace Sys2Proof.Machine
open Sys2Proof.Claim

/-! ### The bytes of a value -/

theorem leNat_lt {bs : List Byte} {n : Nat} (h : bs.length = n) : leNat bs < 2 ^ (8 * n) := by
  induction bs generalizing n with
  | nil => exact Nat.two_pow_pos _
  | cons b bs ih =>
    obtain rfl : bs.length + 1 = n := h
    have hb : b.toNat < 256 := b.isLt
    have hbs := ih rfl
    rw [leNat, Nat.mul_add, Nat.pow_add]
    omega

/-- `k` bytes hold a number modulo 256^k. -/
theorem leBytes_mod (k n : Nat) : leBytes k (n % 256 ^ k) = leBytes k n := by
  induction k generalizing n with
  | zero => rfl
  | succ k ih =>
    have hbyte : BitVec.ofNat 8 (n % 256 ^ (k + 1)) = BitVec.ofNat 8 n :=
      BitVec.eq_of_toNat_eq (Nat.mod_mod_of_dvd n (Nat.pow_dvd_pow 256 (Nat.le_add_left 1 k)))
    rw [leBytes, leBytes, hbyte, Nat.pow_succ', Nat.mod_mul_right_div_self, ih]

/-- The value of a sign-extended load of `w` bits. -/
theorem sext_eq_ofInt {w v : Nat} (hw : w ≠ 0) (hv : v < 2 ^ w) :
    sext w v = BitVec.ofInt 32 (if v < 2 ^ (w - 1) then (v : Int) else (v : Int) - 2 ^ w) := by
  have htwo : 2 ^ w = 2 * 2 ^ (w - 1) := by rw [← Nat.pow_succ', Nat.succ_eq_add_one, Nat.sub_add_cancel (Nat.one_le_iff_ne_zero.mpr hw)]
  have htoNat : (BitVec.ofNat w v).toNat = v := Nat.mod_eq_of_lt hv
  rw [sext, BitVec.signExtend, BitVec.toInt_eq_toNat_cond, htoNat]
  congr 1
  by_cases h : v < 2 ^ (w - 1)
  · rw [if_pos h, if_pos (by omega)]
  · rw [if_neg h, if_neg (by omega)]
    push_cast
    rfl

/-! ### The loads -/

/-- The context after a load of `w`: `pops` cells are gone and `w` is on top, A and B are `ra` and `rb`. -/
def Ctx.loaded (c : Ctx) (pops : Nat) (ra rb w : Word) : Ctx := { c with os := w :: c.os.drop pops, a := ra, b := rb }

/-- The context after a store. -/
def Ctx.stored (c : Ctx) (pops : Nat) (ra rb : Word) : Ctx := { c with os := c.os.drop pops, a := ra, b := rb }

/-- Instruction `i` issues as a plain instruction of `len` bytes whose body, with its operands there and room for its value, is one load of
`n` bytes at `a` that leaves `val` of the bytes. -/
def LoadsAs (i : Instr) (key : Nat) (c : Ctx) (x : Iss) (len : Nat) (a : Word) (n : Nat) (val : List Byte → Word) (pops : Nat) (ra rb : Word) :
    Prop :=
  ∃ (body : State → Nat → Ctx → R) (ext : Nat → Word), (∀ s, exec i s = .next (s.issue x .plain len true body)) ∧
    (∀ bs, bs.length = n → ext (leNat bs) = val bs) ∧
    (stkErr key c pops 1 = none → ∀ s, body s key c = loadAt a n false (fun v => c.loaded pops ra rb (ext v)) s key c)

/-- Instruction `i` issues as a plain instruction of `len` bytes whose body, with its operands there, is one store of the bytes `bs` at `a`. -/
def StoresAs (i : Instr) (key : Nat) (c : Ctx) (x : Iss) (len : Nat) (a : Word) (bs : List Byte) (pops : Nat) (ra rb : Word) : Prop :=
  ∃ (body : State → Nat → Ctx → R) (v : Word), (∀ s, exec i s = .next (s.issue x .plain len true body)) ∧ bs = leBytes bs.length v.toNat ∧
    (stkErr key c pops 0 = none → ∀ s, body s key c = storeAt a bs.length false v (c.stored pops ra rb) s key c)

section
variable {i : Instr} {key n inc len : Nat} {c : Ctx} {x : Iss} {ra rb : Word}

/-- A load whose address is popped. -/
theorem loadsAs_pop {ext : Nat → Word} {val : List Byte → Word} (hexec : ∀ s, exec i s = .next (s.issue x .plain len true (ldPop n ext)))
    (hval : ∀ bs, bs.length = n → ext (leNat bs) = val bs) : LoadsAs i key c x len (c.os.headD 0) n val 1 c.a c.b := by
  refine ⟨ldPop n ext, ext, hexec, hval, fun hstk s => ?_⟩
  rw [ldPop, hstk]
  rfl

/-- A load through A. -/
theorem loadsAs_a (hexec : ∀ s, exec i s = .next (s.issue x .plain len true (ldReg false n inc))) (hra : c.a + BitVec.ofNat 32 inc = ra) :
    LoadsAs i key c x len c.a n le 0 ra c.b := by
  subst hra
  refine ⟨ldReg false n inc, BitVec.ofNat 32, hexec, fun _ _ => rfl, fun hstk s => ?_⟩
  rw [ldReg, hstk]
  rfl

/-- A load through B. -/
theorem loadsAs_b (hexec : ∀ s, exec i s = .next (s.issue x .plain len true (ldReg true n inc))) (hrb : c.b + BitVec.ofNat 32 inc = rb) :
    LoadsAs i key c x len c.b n le 0 c.a rb := by
  subst hrb
  refine ⟨ldReg true n inc, BitVec.ofNat 32, hexec, fun _ _ => rfl, fun hstk s => ?_⟩
  rw [ldReg, hstk]
  rfl

/-- A store whose address is popped. -/
theorem storesAs_pop (hexec : ∀ s, exec i s = .next (s.issue x .plain len true (stPop n))) :
    StoresAs i key c x len (c.os.headD 0) (leBytes n (c.os.getD 1 0).toNat) 2 c.a c.b := by
  refine ⟨stPop n, c.os.getD 1 0, hexec, by rw [leBytes_length], fun hstk s => ?_⟩
  rw [stPop, hstk, leBytes_length]
  rfl

/-- A store through A. -/
theorem storesAs_a (hexec : ∀ s, exec i s = .next (s.issue x .plain len true (stReg false n inc))) (hra : c.a + BitVec.ofNat 32 inc = ra) :
    StoresAs i key c x len c.a (leBytes n (c.os.headD 0).toNat) 1 ra c.b := by
  subst hra
  refine ⟨stReg false n inc, c.os.headD 0, hexec, by rw [leBytes_length], fun hstk s => ?_⟩
  rw [stReg, hstk, leBytes_length]
  rfl

/-- A store through B. -/
theorem storesAs_b (hexec : ∀ s, exec i s = .next (s.issue x .plain len true (stReg true n inc))) (hrb : c.b + BitVec.ofNat 32 inc = rb) :
    StoresAs i key c x len c.b (leBytes n (c.os.headD 0).toNat) 1 c.a rb := by
  subst hrb
  refine ⟨stReg true n inc, c.os.headD 0, hexec, by rw [leBytes_length], fun hstk s => ?_⟩
  rw [stReg, hstk, leBytes_length]
  rfl

end

section
variable {i : Instr} {key : Nat} {c : Ctx} {x : Iss} {len n pops : Nat} {a ra rb : Word}

/-- Every load by address is one load, of 1, 2 or 4 bytes. -/
theorem loadsAs_of_loadFx {val : List Byte → Word} (h : loadFx i key c = some (x, len, a, n, val, pops, ra, rb))
    (hform : headForm i = false) : (n = 1 ∨ n = 2 ∨ n = 4) ∧ LoadsAs i key c x len a n val pops ra rb := by
  unfold loadFx at h
  split at h
  case h_1 => cases h; exact ⟨by decide, loadsAs_pop (fun _ => rfl) fun _ _ => rfl⟩
  case h_2 =>
    cases h
    exact ⟨by decide, loadsAs_pop (fun _ => rfl) fun bs hbs => sext_eq_ofInt (w := 8) (by decide) (leNat_lt hbs)⟩
  case h_3 => cases h; exact ⟨by decide, loadsAs_pop (fun _ => rfl) fun _ _ => rfl⟩
  case h_4 =>
    cases h
    exact ⟨by decide, loadsAs_pop (fun _ => rfl) fun bs hbs => sext_eq_ofInt (w := 16) (by decide) (leNat_lt hbs)⟩
  case h_5 => cases h; exact ⟨by decide, loadsAs_pop (fun _ => rfl) fun _ _ => rfl⟩
  case h_6 => cases h; exact ⟨by decide, loadsAs_a (fun _ => rfl) (BitVec.add_zero _)⟩
  case h_7 => cases h; exact ⟨by decide, loadsAs_a (fun _ => rfl) rfl⟩
  case h_8 => cases h; exact ⟨by decide, loadsAs_a (fun _ => rfl) rfl⟩
  case h_9 => cases h; exact ⟨by decide, loadsAs_b (fun _ => rfl) (BitVec.add_zero _)⟩
  case h_10 => cases h; exact ⟨by decide, loadsAs_b (fun _ => rfl) rfl⟩
  case h_11 => cases h; exact ⟨by decide, loadsAs_b (fun _ => rfl) rfl⟩
  case h_16 => cases h
  all_goals cases hform

/-- Every store by address is one store, of 1, 2 or 4 bytes. -/
theorem storesAs_of_storeFx {bs : List Byte} (h : storeFx i key c = some (x, len, a, bs, pops, ra, rb)) (hform : headForm i = false) :
    (bs.length = 1 ∨ bs.length = 2 ∨ bs.length = 4) ∧ StoresAs i key c x len a bs pops ra rb := by
  unfold storeFx at h
  split at h
  case h_1 => cases h; exact ⟨.inl (leBytes_length _ _), storesAs_pop fun _ => rfl⟩
  case h_2 => cases h; exact ⟨.inr (.inl (leBytes_length _ _)), storesAs_pop fun _ => rfl⟩
  case h_3 => cases h; exact ⟨.inr (.inr (leBytes_length _ _)), storesAs_pop fun _ => rfl⟩
  case h_4 => cases h; exact ⟨.inr (.inr (leBytes_length _ _)), storesAs_a (fun _ => rfl) (BitVec.add_zero _)⟩
  case h_5 => cases h; exact ⟨.inr (.inr (leBytes_length _ _)), storesAs_a (fun _ => rfl) rfl⟩
  case h_6 => cases h; exact ⟨.inl (leBytes_length _ _), storesAs_a (fun _ => rfl) rfl⟩
  case h_7 => cases h; exact ⟨.inr (.inr (leBytes_length _ _)), storesAs_b (fun _ => rfl) (BitVec.add_zero _)⟩
  case h_8 => cases h; exact ⟨.inr (.inr (leBytes_length _ _)), storesAs_b (fun _ => rfl) rfl⟩
  case h_9 => cases h; exact ⟨.inl (leBytes_length _ _), storesAs_b (fun _ => rfl) rfl⟩
  case h_14 => cases h
  all_goals cases hform

end

end Sys2Proof.Machine
end

section
/-! A steward's accesses: the shared SRAM, the registers, and what lies outside both (12 R361, R362, R365, R368). -/

namespace Sys2Proof.Machine
open Sys2Proof.Claim

/-! ### The exceptions of an access -/

theorem stwArea_sram {a : Nat} (h : a < 0x200000) : stwArea a = 1 := if_pos h

theorem stwArea_reg {a : Nat} (hlo : 0xF0000000 ≤ a) (hhi : a < 0xF4000000) : stwArea a = 2 := by
  rw [stwArea, if_neg (by omega), if_pos ⟨hlo, hhi⟩]

theorem stwArea_none {a : Nat} (hlo : 0x200000 ≤ a) (h : a < 0xF0000000 ∨ 0xF4000000 ≤ a) : stwArea a = 0 := by
  rw [stwArea, if_neg (by omega), if_neg (by omega)]

theorem stwArea_ne_sram {a : Nat} (h : 0x200000 ≤ a) : stwArea a ≠ 1 := by
  rw [stwArea, if_neg (by omega)]
  split <;> decide

section
variable (s : State) (j : StwNo) (c : Ctx) {a n : Nat}

theorem accErr_sram (h : a < 0x200000) : s.accErr (1404 + j.val) c a n =
    if stwArea (a + n - 1) ≠ 1 then some 5 else if a % n ≠ 0 then some 4 else none := by
  rw [State.accErr, isStw_stw, if_pos rfl, if_pos (stwArea_sram h)]

theorem accErr_reg (hlo : 0xF0000000 ≤ a) (hhi : a < 0xF4000000) : s.accErr (1404 + j.val) c a n =
    if (s.ctlErr (a - 0xF0000000) 0xF).isSome then some 5 else if n ≠ 4 ∨ a % 4 ≠ 0 then some 4 else none := by
  rw [State.accErr, isStw_stw, if_pos rfl, stwArea_reg hlo hhi, if_neg (by decide), if_pos rfl]

theorem accErr_outside (hlo : 0x200000 ≤ a) (h : a < 0xF0000000 ∨ 0xF4000000 ≤ a) : s.accErr (1404 + j.val) c a n = some 5 := by
  rw [State.accErr, isStw_stw, if_pos rfl, stwArea_none hlo h, if_neg (by decide), if_neg (by decide)]

/-- An aligned access of 1, 2 or 4 bytes that begins in the shared SRAM lies in it. -/
theorem accErr_sram_aligned (h : a < 0x200000) (hn : n = 1 ∨ n = 2 ∨ n = 4) (hal : a % n = 0) : s.accErr (1404 + j.val) c a n = none := by
  have hend : a + n - 1 < 0x200000 := by rcases hn with rfl | rfl | rfl <;> omega
  rw [accErr_sram s j c h, stwArea_sram hend, if_neg (by decide), if_neg (not_not_intro hal)]

theorem accErr_reg_aligned (hlo : 0xF0000000 ≤ a) (hhi : a < 0xF4000000) (hal : a % 4 = 0)
    (hctl : s.ctlErr (a - 0xF0000000) 0xF = none) : s.accErr (1404 + j.val) c a 4 = none := by
  rw [accErr_reg s j c hlo hhi, hctl, if_neg (by decide), if_neg (by omega)]

/-- What R361 says of an access of `n` bytes at `a` that raises a vector. -/
theorem accErr_raises (hn : n = 1 ∨ n = 2 ∨ n = 4) :
    (a < 0x200000 → 0x200000 < a + n → s.accErr (1404 + j.val) c a n = some 5) ∧
    (a + n ≤ 0x200000 → a % n ≠ 0 → s.accErr (1404 + j.val) c a n = some 4) ∧
    (0x200000 ≤ a → (a < 0xF0000000 ∨ 0xF4000000 ≤ a) → s.accErr (1404 + j.val) c a n = some 5) ∧
    (0xF0000000 ≤ a → a < 0xF4000000 → s.ctlErr (a - 0xF0000000) 0xF ≠ none → s.accErr (1404 + j.val) c a n = some 5) ∧
    (0xF0000000 ≤ a → a < 0xF4000000 → s.ctlErr (a - 0xF0000000) 0xF = none → (n ≠ 4 ∨ a % 4 ≠ 0) →
      s.accErr (1404 + j.val) c a n = some 4) := by
  refine ⟨fun h hend => ?_, fun hend hal => ?_, accErr_outside s j c, fun hlo hhi hctl => ?_, fun hlo hhi hctl hbad => ?_⟩
  · rw [accErr_sram s j c h, if_pos (stwArea_ne_sram (by omega))]
  · rw [accErr_sram s j c (by omega), stwArea_sram (by omega), if_neg (by decide), if_pos hal]
  · rw [accErr_reg s j c hlo hhi, if_pos (Option.isSome_iff_ne_none.mpr hctl)]
  · rw [accErr_reg s j c hlo hhi, hctl, if_neg (by decide), if_pos hbad]

end

/-! ### Loads and stores -/

section
variable {s : State} {key n : Nat} {c c' : Ctx} {a : Word} {v : Nat} {w : Word} {wire : Bool} {fin : Nat → Ctx}

theorem loadAt_exc (h : s.accErr key c a.toNat n = some v) : loadAt a n wire fin s key c = .exc s v a := by rw [loadAt, h]

theorem storeAt_exc (h : s.accErr key c a.toNat n = some v) : storeAt a n wire w c' s key c = .exc s v a := by rw [storeAt, h]

end

/-- Words without a recorded error are read as they are. -/
theorem srTouch_good {s : State} {ws : List Nat} (h : ∀ w ∈ ws, tfind s.sramErr w = none) : s.srTouch ws = (false, s) := by
  induction ws with
  | nil => rfl
  | cons w ws ih =>
    rw [State.srTouch, h w List.mem_cons_self]
    simp only [ih fun v hv => h v (List.mem_cons_of_mem w hv), Bool.or_self]

/-- A store to the shared SRAM that may write there writes its bytes and makes good the words it touches. -/
theorem srStore_writes {s : State} {a : Nat} {bs : List Byte} (hbs : bs ≠ []) (h : 0xE0000 ≤ a ∨ bit (s.reg (swA 0x10)) 0 = true) :
    s.srStore a bs = { s.srW a bs with sramErr := tkeep s.sramErr (fun w _ => !(wordsOf a bs.length).contains w) } := by
  have hskip : (if bit (s.reg (swA 0x10)) 0 then 0 else min (0xE0000 - a) bs.length) = 0 := by
    rcases h with h | h
    · split <;> omega
    · exact if_pos h
  simp only [State.srStore, hskip, Nat.add_zero, List.drop_zero, List.isEmpty_iff, hbs, if_false]

/-- A store to the program library without WREN has no effect. -/
theorem srStore_library {s : State} {a : Nat} {bs : List Byte} (hwren : bit (s.reg (swA 0x10)) 0 = false) (hend : a + bs.length ≤ 0xE0000) :
    s.srStore a bs = s := by
  have hskip : min (0xE0000 - a) bs.length = bs.length := by omega
  simp only [State.srStore, hwren, Bool.false_eq_true, if_false, hskip, List.drop_length, List.isEmpty_nil, if_true]

theorem dataMatch_none {s : State} {key : Nat} {a : Word} {load : Bool} (h : s.matches key a false load = []) (c : Ctx) :
    s.dataMatch key a load c = (s, { c with trig := (s.ctx key).trig }) := by
  rw [State.dataMatch, h]
  rfl

section
variable {s : State} {j : StwNo} {c c' : Ctx} {a : Word} {n : Nat} {v : Word} {fin : Nat → Ctx}

theorem loadAt_sram (hsram : a.toNat < 0x200000) (hacc : s.accErr (1404 + j.val) c a.toNat n = none)
    (hgood : ∀ w ∈ wordsOf a.toNat n, tfind s.sramErr w = none) (hm : s.matches (1404 + j.val) a false true = []) :
    loadAt a n false fin s (1404 + j.val) c =
      .ok s { fin (leNat (s.srR a.toNat n)) with trig := (s.ctx (1404 + j.val)).trig } := by
  simp only [loadAt, hacc, isStw_stw, stwArea_sram hsram, srTouch_good hgood, dataMatch_none hm, accVal]
  rfl

theorem storeAt_sram (hsram : a.toNat < 0x200000) (hacc : s.accErr (1404 + j.val) c a.toNat n = none)
    (hm : (s.srStore a.toNat (leBytes n v.toNat)).matches (1404 + j.val) a false false = []) :
    storeAt a n false v c' s (1404 + j.val) c =
      .ok (s.srStore a.toNat (leBytes n v.toNat))
        { c' with trig := ((s.srStore a.toNat (leBytes n v.toNat)).ctx (1404 + j.val)).trig } := by
  simp only [storeAt, hacc, isStw_stw, stwArea_sram hsram, accBytes, Bool.false_eq_true, if_false, leBytes_mod, dataMatch_none hm]
  rfl

variable (hlo : 0xF0000000 ≤ a.toNat) (hhi : a.toNat < 0xF4000000) (hacc : s.accErr (1404 + j.val) c a.toNat n = none)
include hlo hhi hacc

theorem loadAt_reg : loadAt a n false fin s (1404 + j.val) c = .sleep (s.setStw j.val { s.stwd j.val with
      acc := some ⟨false, BitVec.ofNat 26 (a.toNat - 0xF0000000), 0, (fin 0).os.drop 1, (fin 0).a, (fin 0).b⟩ })
    { c with wait := .fabric } := by
  simp only [loadAt, hacc, isStw_stw, stwArea_reg hlo hhi, if_true, Nat.add_sub_cancel_left]

theorem storeAt_reg : storeAt a n false v c' s (1404 + j.val) c = .sleep (s.setStw j.val { s.stwd j.val with
      acc := some ⟨true, BitVec.ofNat 26 (a.toNat - 0xF0000000), v, c'.os, c'.a, c'.b⟩ })
    { c with wait := .fabric } := by
  simp only [storeAt, hacc, isStw_stw, stwArea_reg hlo hhi, if_true, Nat.add_sub_cancel_left]

end

/-! ### The instructions -/

section
variable {i : Instr} {s0 s : State} {j : StwNo} {g : Guard} {len n pops : Nat} {a ra rb : Word}
  (hready : Ready s0 s ⟨.stw j, g⟩ len) (hform : headForm i = false)
  (hfloor : (stkFloors (s.ctx (1404 + j.val))).1 + pops ≤ (s.ctx (1404 + j.val)).os.length)
include hready hform hfloor

section
variable {val : List Byte → Word}
  (hload : loadFx i (1404 + j.val) (s.ctx (1404 + j.val)) = some (⟨.stw j, g⟩, len, a, n, val, pops, ra, rb))
  (hroom : (s.ctx (1404 + j.val)).os.length + 1 ≤ (stkLimits (1404 + j.val) (s.ctx (1404 + j.val))).1 + pops)
include hload hroom

/-- A load of the shared SRAM. -/
theorem stwLoad_sram (hal : a.toNat % n = 0) (hsram : a.toNat < 0x200000) (hgood : ∀ w ∈ wordsOf a.toNat n, tfind s.sramErr w = none)
    (hm : s.matches (1404 + j.val) a false true = []) :
    exec i s0 = .next (retire s (1404 + j.val) ((s.ctx (1404 + j.val)).loaded pops ra rb (val (s.srR a.toNat n)))
      (after s ⟨.stw j, g⟩ len)) := by
  obtain ⟨hn, body, ext, hexec, hext, hbody⟩ := loadsAs_of_loadFx hload hform
  have hval : ext (leNat (s.srR a.toNat n)) = val (s.srR a.toNat n) := hext _ (mread_length _ _ _ _)
  have hload' := loadAt_sram (fin := fun v => (s.ctx (1404 + j.val)).loaded pops ra rb (ext v)) hsram
    (accErr_sram_aligned s j (s.ctx (1404 + j.val)) hsram hn hal) hgood hm
  rw [hexec, ← hval]
  exact congrArg _ (issue_ok hready (issues_plain _) ((hbody (stkErr_none hfloor hroom) s).trans hload') rfl rfl)

/-- A load of a register: its access waits for the register fabric. -/
theorem stwLoad_reg (hal : a.toNat % n = 0) (hlo : 0xF0000000 ≤ a.toNat) (hhi : a.toNat < 0xF4000000) (hn : n = 4)
    (hctl : s.ctlErr (a.toNat - 0xF0000000) 0xF = none) :
    exec i s0 = .next (((s.setStw j.val { s.stwd j.val with
        acc := some ⟨false, BitVec.ofNat 26 (a.toNat - 0xF0000000), 0, (s.ctx (1404 + j.val)).os.drop pops, ra, rb⟩ }).setCtx (1404 + j.val)
      (asleep (s.ctx (1404 + j.val)) .fabric (guardLen g + len))).issued (1404 + j.val)) := by
  obtain ⟨-, body, ext, hexec, -, hbody⟩ := loadsAs_of_loadFx hload hform
  subst hn
  rw [hexec]
  exact congrArg _ (issue_sleep hready (issues_plain _) ((hbody (stkErr_none hfloor hroom) s).trans
    (loadAt_reg hlo hhi (accErr_reg_aligned s j _ hlo hhi hal hctl))))

/-- A load that raises a vector. -/
theorem stwLoad_exc {v : Nat} (h : s.accErr (1404 + j.val) (s.ctx (1404 + j.val)) a.toNat n = some v) :
    exec i s0 = .next ((s.excAt (1404 + j.val) v a).issued (1404 + j.val)) := by
  obtain ⟨-, body, ext, hexec, -, hbody⟩ := loadsAs_of_loadFx hload hform
  rw [hexec]
  exact congrArg _ (issue_exc hready (issues_plain _) ((hbody (stkErr_none hfloor hroom) s).trans (loadAt_exc h)))

end

section
variable {bs : List Byte}
  (hstore : storeFx i (1404 + j.val) (s.ctx (1404 + j.val)) = some (⟨.stw j, g⟩, len, a, bs, pops, ra, rb))
  (hroom : (s.ctx (1404 + j.val)).os.length ≤ (stkLimits (1404 + j.val) (s.ctx (1404 + j.val))).1 + pops)
include hstore hroom

/-- A store to the shared SRAM leaves what `srStore` leaves. -/
theorem stwStore_sram {u : State} (hal : a.toNat % bs.length = 0) (hsram : a.toNat < 0x200000) (hu : s.srStore a.toNat bs = u)
    (hm : u.matches (1404 + j.val) a false false = []) (hctx : u.ctx (1404 + j.val) = s.ctx (1404 + j.val)) :
    exec i s0 = .next (retire u (1404 + j.val) ((s.ctx (1404 + j.val)).stored pops ra rb) (after s ⟨.stw j, g⟩ len)) := by
  obtain ⟨hn, body, v, hexec, hbs, hbody⟩ := storesAs_of_storeFx hstore hform
  rw [hbs] at hu
  subst hu
  have hstore' := storeAt_sram (c' := (s.ctx (1404 + j.val)).stored pops ra rb) hsram
    (accErr_sram_aligned s j (s.ctx (1404 + j.val)) hsram hn hal) hm
  rw [hctx] at hstore'
  rw [hexec]
  exact congrArg _ (issue_ok hready (issues_plain _) ((hbody (stkErr_none hfloor hroom) s).trans hstore') rfl rfl)

/-- A store to a register: its access waits for the register fabric. -/
theorem stwStore_reg (hal : a.toNat % bs.length = 0) (hlo : 0xF0000000 ≤ a.toNat) (hhi : a.toNat < 0xF4000000) (hn : bs.length = 4)
    (hctl : s.ctlErr (a.toNat - 0xF0000000) 0xF = none) :
    ∃ v, leBytes 4 v.toNat = bs ∧ exec i s0 = .next (((s.setStw j.val { s.stwd j.val with
        acc := some ⟨true, BitVec.ofNat 26 (a.toNat - 0xF0000000), v, (s.ctx (1404 + j.val)).os.drop pops, ra, rb⟩ }).setCtx (1404 + j.val)
      (asleep (s.ctx (1404 + j.val)) .fabric (guardLen g + len))).issued (1404 + j.val)) := by
  obtain ⟨-, body, v, hexec, hbs, hbody⟩ := storesAs_of_storeFx hstore hform
  rw [hn] at hbs hbody hal
  refine ⟨v, hbs.symm, ?_⟩
  rw [hexec]
  exact congrArg _ (issue_sleep hready (issues_plain _) ((hbody (stkErr_none hfloor hroom) s).trans
    (storeAt_reg hlo hhi (accErr_reg_aligned s j _ hlo hhi hal hctl))))

/-- A store that raises a vector. -/
theorem stwStore_exc {v : Nat} (h : s.accErr (1404 + j.val) (s.ctx (1404 + j.val)) a.toNat bs.length = some v) :
    exec i s0 = .next ((s.excAt (1404 + j.val) v a).issued (1404 + j.val)) := by
  obtain ⟨-, body, w, hexec, -, hbody⟩ := storesAs_of_storeFx hstore hform
  rw [hexec]
  exact congrArg _ (issue_exc hready (issues_plain _) ((hbody (stkErr_none hfloor hroom) s).trans (storeAt_exc h)))

end

end

/-- Settles O17: an access by address is one `loadAt` or `storeAt`, whose exceptions on a steward are those of `accErr_raises`; a store to the
shared SRAM is what `srStore` makes of it. -/
theorem stewardAccessResult : Obligations.StewardAccessResult := by
  unfold Obligations.StewardAccessResult
  refine ⟨?_, ?_⟩
  · rintro i s0 s ⟨_, g⟩ j len n pops a ra rb val bs key c rfl hform hready hfloor hal
    refine ⟨fun hload hroom => ⟨stwLoad_sram hready hform hfloor hload hroom hal, stwLoad_reg hready hform hfloor hload hroom hal⟩,
      fun hstore hroom hn => ?_⟩
    subst hn
    have hlen := (storesAs_of_storeFx hstore hform).1
    have hbs : bs ≠ [] := fun h => by rw [h] at hlen; simp at hlen
    refine ⟨fun hmay hsram hm => ?_, fun hlib hwren hm => ?_, stwStore_reg hready hform hfloor hstore hroom hal⟩
    · exact stwStore_sram hready hform hfloor hstore hroom hal hsram (srStore_writes hbs hmay) hm rfl
    · have hend : a.toNat + bs.length ≤ 0xE0000 := by rcases hlen with h | h | h <;> rw [h] at hal ⊢ <;> omega
      exact stwStore_sram hready hform hfloor hstore hroom hal (by omega) (srStore_library hwren hend) hm rfl
  · rintro i s0 s ⟨_, g⟩ j len n pops pushes a key c off raises rfl hform hfx hready hfloor hroom
    have hcommon : (n = 1 ∨ n = 2 ∨ n = 4) ∧ ∀ v, s.accErr (1404 + j.val) (s.ctx (1404 + j.val)) a.toNat n = some v → raises v := by
      rcases hfx with ⟨val, ra, rb, hload, rfl⟩ | ⟨bs, ra, rb, hstore, rfl, rfl⟩
      · exact ⟨(loadsAs_of_loadFx hload hform).1, fun v => stwLoad_exc hready hform hfloor hload hroom⟩
      · exact ⟨(storesAs_of_storeFx hstore hform).1, fun v => stwStore_exc hready hform hfloor hstore hroom⟩
    obtain ⟨hn, hraises⟩ := hcommon
    obtain ⟨hpart, hmis, hout, hregion, hreg⟩ := accErr_raises s j (s.ctx (1404 + j.val)) (a := a.toNat) hn
    exact ⟨fun h1 h2 => hraises _ (hpart h1 h2), fun h1 h2 => hraises _ (hmis h1 h2), fun h1 h2 => hraises _ (hout h1 h2),
      fun h1 h2 h3 => hraises _ (hregion h1 h2 h3), fun h1 h2 h3 h4 => hraises _ (hreg h1 h2 h3 h4)⟩

end Sys2Proof.Machine
end

section
/-! Rotations, and what the operations shared by stewards leave: the controller's sample, a steward fault, a write by a steward (12 R362, R375,
R376; 17 R478). -/

namespace Sys2Proof.Machine
open Sys2Proof.Claim

/-! ### Rotations -/

/-- A rotation of `n` that begins after `m` comes to every one of them. -/
theorem mem_rotation {n k : Nat} (m : Nat) : k ∈ (List.range n).map (fun j => (m + 1 + j) % n) ↔ k < n := by
  simp only [List.mem_map, List.mem_range]
  constructor
  · rintro ⟨j, hj, rfl⟩
    exact Nat.mod_lt _ (by omega)
  · intro hk
    obtain ⟨p, rfl⟩ : ∃ p, n = p + 1 := ⟨n - 1, by omega⟩
    refine ⟨(k + p * (m + 1)) % (p + 1), Nat.mod_lt _ (by omega), ?_⟩
    have hsum : m + 1 + (k + p * (m + 1)) = k + (p + 1) * (m + 1) := by rw [Nat.add_mul, Nat.one_mul]; omega
    rw [Nat.add_mod_mod, hsum, Nat.add_mul_mod_self_left, Nat.mod_eq_of_lt hk]

/-- A search to which one element alone can answer finds its answer. -/
theorem findSome?_only {α β : Type} {f : α → Option β} {l : List α} {b : α} (hb : b ∈ l) (h : ∀ x ∈ l, x ≠ b → f x = none) :
    l.findSome? f = f b := by
  cases hfb : f b with
  | none =>
    refine List.findSome?_eq_none_iff.mpr fun x hx => ?_
    by_cases hxb : x = b
    · rw [hxb, hfb]
    · exact h x hx hxb
  | some v =>
    induction l with
    | nil => cases hb
    | cons x l ih =>
      by_cases hxb : x = b
      · rw [hxb, List.findSome?_cons, hfb]
      · rw [List.findSome?_cons, h x List.mem_cons_self hxb]
        exact ih ((List.mem_cons.mp hb).resolve_left (Ne.symm hxb)) fun y hy => h y (List.mem_cons_of_mem x hy)

/-! ### Tables -/

theorem of_tfind_tkeep {α : Type} {t : Tab α} {p : Nat → α → Bool} {k : Nat} {v : α} (h : tfind (tkeep t p) k = some v) : p k v = true :=
  (List.mem_filter.mp (mem_of_tfind_eq_some h)).2

/-- The value at a key after a map that keeps the default. -/
theorem tget_tmap {α : Type} (d : α) (t : Tab α) (f : Nat → α → α) (k : Nat) (hd : f k d = d) : tget d (tmap t f) k = f k (tget d t k) := by
  rw [tget, tfind_tmap, tget]
  cases tfind t k with
  | none => exact hd.symm
  | some v => rfl

/-! ### The controller's sample (R375, R380) -/

/-- A moderation timer of source `n` starts. -/
def State.timerStarted (n : Nat) (s : State) : State := { s with ic := { s.ic with timers := tset s.ic.timers n (1000 * s.srcMod n) } }

/-- A sample changes the controller alone. -/
theorem icSample_frame (s : State) : { s.icSample with ic := s.ic } = s := by
  have h := fun l : List Nat => forEach_keeps (fun u : State => { u with ic := s.ic } = s) l State.timerStarted (fun _ _ h => h) s rfl
  exact h _

/-- What does not read the controller is the same in the sample. -/
theorem icSample_congr {α : Type} (f : State → α) (h : ∀ (t : State) (x : Ic), f { t with ic := x } = f t) (s : State) :
    f s.icSample = f s := (h s.icSample s.ic).symm.trans (congrArg f (icSample_frame s))

@[simp] theorem icSample_ctx (s : State) (key : Nat) : s.icSample.ctx key = s.ctx key := icSample_congr (·.ctx key) (fun _ _ => rfl) s

@[simp] theorem icSample_reg (s : State) (a : Nat) : s.icSample.reg a = s.reg a := icSample_congr (·.reg a) (fun _ _ => rfl) s

/-! ### Writes of a steward -/

/-- A register that only a steward may write is written by one. -/
theorem stw_of_MayWrite {s : State} {q : Req} {a : Nat} (h : MayWrite s q a) (ha : hostMay a = false) : ∃ j, q = .stw j := by
  obtain ⟨-, h⟩ := h
  cases q with
  | ctl => exact absurd (h.symm.trans ha) (by decide)
  | stw j => exact ⟨j, rfl⟩
  | dbg => exact absurd (h.2.symm.trans ha) (by decide)

/-- A steward's write that reaches the register has its effect and nothing more. -/
theorem writeCmd_stw {s : State} {j : StwNo} {a : Nat} (h : MayWrite s (.stw j) a) (f : State → State) : s.writeCmd (.stw j) a f = f s := by
  obtain ⟨⟨hreq, herr, hserves⟩, -⟩ := h
  exact onReach_ok _ _ _ _ _ hreq herr hserves

/-! ### Steward faults (17 R478) -/

/-- The bits below 31 of a word replaced by a number. -/
theorem withLow_eq_or (w : Word) {n : Nat} (h : n < 2 ^ 31) :
    BitVec.ofNat 32 (w.toNat / 2 ^ 31 * 2 ^ 31 + n) = (w &&& 0x80000000) ||| BitVec.ofNat 32 n := by
  have hw := w.isLt
  refine BitVec.eq_of_toNat_eq ?_
  have hhigh : w.toNat &&& 0x80000000 = 2 ^ 31 * (w.toNat / 2 ^ 31) := by
    have hbit : w.toNat.testBit 31 = decide (w.toNat / 2 ^ 31 % 2 = 1) := Nat.testBit_eq_decide_div_mod_eq
    rw [show (0x80000000 : Nat) = 2 ^ 31 from rfl, Nat.and_two_pow, hbit, Nat.mod_eq_of_lt (by omega : w.toNat / 2 ^ 31 < 2), Nat.mul_comm]
    rcases (by omega : w.toNat / 2 ^ 31 = 0 ∨ w.toNat / 2 ^ 31 = 1) with h0 | h1
    · rw [h0]; rfl
    · rw [h1]; rfl
  rw [BitVec.toNat_or, BitVec.toNat_and, BitVec.toNat_ofNat, BitVec.toNat_ofNat, Nat.mod_eq_of_lt (by omega), Nat.mod_eq_of_lt (by omega),
    Nat.mul_comm, show (0x80000000 : Word).toNat = 0x80000000 from rfl, hhigh, Nat.two_pow_add_eq_or_of_lt h]

/-- The word that a fault of cause `cause` at `pc` leaves in FLT_STW_CAUSE. -/
def faultWord (old : Word) (cause : Nat) (pc : Word) : Word :=
  BitVec.ofNat 32 (old.toNat / 2 ^ 31 * 2 ^ 31 + at_ cause 24 + pc.toNat % 0x40000)

/-- What a steward fault leaves. -/
theorem stwFault_eq (s : State) (i cause : Nat) : s.stwFault i cause =
    { s with
      ctxs := tset s.ctxs (1404 + i) { s.ctx (1404 + i) with st := .stopped, wait := .none }
      stw := tset s.stw i { s.stwd i with faulted := true, acc := none }
      dom := tmap s.dom (fun _ d => { d with vote := d.vote &&& ~~~ BitVec.ofNat 8 (2 ^ i) })
      sems := tmap s.sems (fun _ o => if o.toNat = i + 1 then 0 else o)
      ic := { s.ic with bind := tkeep s.ic.bind (fun _ t => t ≠ i) }
      cfg := if i = 0 ∧ s.cfg.phase = 2 then { s.cfg with phase := 5 } else s.cfg
      regs := tset s.regs (swA (0x310 + 4 * i)) (faultWord (s.reg (swA (0x310 + 4 * i))) cause (s.ctx (1404 + i)).pc)
      counters := tset s.counters (swA 0x248) (s.ctr (swA 0x248) + 1) } := by
  unfold State.stwFault
  split <;> rfl

section
variable (s : State) (i cause : Nat)

theorem ctx_stwFault : (s.stwFault i cause).ctx (1404 + i) = { s.ctx (1404 + i) with st := .stopped, wait := .none } := by
  rw [stwFault_eq]
  exact tget_tset_same _ _ _ _

theorem stwd_stwFault : (s.stwFault i cause).stwd i = { s.stwd i with faulted := true, acc := none } := by
  rw [stwFault_eq]
  exact tget_tset_same _ _ _ _

theorem reg_stwFault : (s.stwFault i cause).reg (swA (0x310 + 4 * i)) =
    faultWord (s.reg (swA (0x310 + 4 * i))) cause (s.ctx (1404 + i)).pc := by
  rw [stwFault_eq]
  exact tget_tset_same _ _ _ _

/-- CAUSE of FLT_STW_CAUSE. -/
theorem bits_faultWord (old pc : Word) {cause : Nat} (h : cause < 16) : bits (faultWord old cause pc) 27 24 = cause := by
  simp only [bits, faultWord, at_, BitVec.toNat_ofNat]
  omega

end

end Sys2Proof.Machine
end

section
/-! The interrupt controller: binding and moderation, vector 19, the priority stack, masks, latches and sources; LIB_STATUS_CLEAR (12
R369–R383, 16 R455). -/

namespace Sys2Proof.Machine
open Sys2Proof.Claim

/-! ### Binding (R376, R380, R381) -/

/-- The search for a target is the library's search for the lowest running level. -/
theorem pickStw_eq (s : State) (n : Nat) (p : Nat → Bool) : s.pickStw n p =
    (((List.range 4).map (fun j => (s.ic.lastStw + 1 + j) % 4)).filter (fun i => s.stwEligible i && s.srcTarget n i && p i)).argmin
      s.running := by
  refine List.foldl_hom (init := none) id fun b i => ?_
  cases b <;> rfl

/-- The target found is one of those asked for, and none of them runs at a lower level. -/
theorem pickStw_spec {s : State} {n i : Nat} {p : Nat → Bool} (h : s.pickStw n p = some i) :
    (i < 4 ∧ s.stwEligible i = true ∧ s.srcTarget n i = true ∧ p i = true) ∧
    ∀ j, j < 4 → s.stwEligible j = true → s.srcTarget n j = true → p j = true → s.running i ≤ s.running j := by
  rw [pickStw_eq] at h
  have hmem := List.argmin_mem h
  rw [List.mem_filter, mem_rotation] at hmem
  refine ⟨⟨hmem.1, by simpa [and_assoc] using hmem.2⟩, fun j hj helig htgt hp => ?_⟩
  exact List.le_of_mem_argmin (List.mem_filter.mpr ⟨(mem_rotation _).mpr hj, by simp [helig, htgt, hp]⟩) h

/-- A source that can be bound is ready and not bound; one held by moderation goes to a steward in WAIT. -/
theorem route_spec {s : State} {n i : Nat} (h : s.route n = some i) :
    s.boundTo n = none ∧ s.srcReady n = true ∧ i < 4 ∧ s.stwEligible i = true ∧ s.srcTarget n i = true ∧
    (s.srcHeld n = false → ∀ j, j < 4 → s.stwEligible j = true → s.srcTarget n j = true → s.running i ≤ s.running j) ∧
    (s.srcHeld n = true → s.inWait i = true) := by
  unfold State.route at h
  split at h
  · cases h
  · next hfree =>
    simp only [Bool.or_eq_true, Bool.not_eq_true', not_or, Bool.not_eq_true, Bool.not_eq_false, Option.isSome_eq_false_iff,
      Option.isNone_iff_eq_none] at hfree
    obtain ⟨hbound, hready⟩ := hfree
    split at h
    · next hheld =>
      obtain ⟨⟨hi, helig, htgt, hwait⟩, -⟩ := pickStw_spec h
      exact ⟨hbound, hready, hi, helig, htgt, fun hn => absurd (hheld.symm.trans hn) (by decide), fun _ => hwait⟩
    · next hheld =>
      obtain ⟨⟨hi, helig, htgt, -⟩, hlow⟩ := pickStw_spec h
      exact ⟨hbound, hready, hi, helig, htgt, fun _ j hj he ht => hlow j hj he ht rfl, fun hh => absurd hh hheld⟩

section
variable {s : State} (hruns : s.runs dStw = true)
include hruns

theorem interruptBind_idle (h : (List.range 256).find? (fun n => (s.icSample.route n).isSome) = none) :
    exec .interruptBind s = .next s.icSample := by
  change execInterruptBind s = _
  simp only [execInterruptBind, hruns, Bool.not_true, Bool.false_eq_true, if_false, h]

/-- The first source that can be bound is bound, its timer ends, and nothing but the controller changes. -/
theorem interruptBind_binds {n i : Nat} (h : (List.range 256).find? (fun n => (s.icSample.route n).isSome) = some n)
    (hroute : s.icSample.route n = some i) :
    ∃ t, exec .interruptBind s = .next t ∧ t.boundTo n = some i ∧ tfind t.ic.timers n = none ∧ t.ic.lastStw = i ∧
      { t with ic := s.ic } = s := by
  have hexec : exec .interruptBind s = .next { s.icSample with ic := { s.icSample.ic with
      bind := tset s.icSample.ic.bind n i, timers := tdel s.icSample.ic.timers n, lastStw := i } } := by
    change execInterruptBind s = _
    simp only [execInterruptBind, hruns, Bool.not_true, Bool.false_eq_true, if_false, h, hroute]
  exact ⟨_, hexec, tfind_tset_same _ _ _, tfind_tdel_same _ _, rfl, icSample_frame s⟩

/-- A timer that has run out ends; any other goes on. -/
theorem moderationExpiry_eq {n : Byte} {t0 : Nat} (h : tfind s.ic.timers n.toNat = some t0) : exec (.moderationExpiry n) s =
    .next (if t0 = 0 then { s with ic := { s.ic with timers := tdel s.ic.timers n.toNat } } else s) := by
  change execModerationExpiry n s = _
  simp only [execModerationExpiry, h, hruns, Bool.not_true, Bool.false_or, decide_eq_true_eq, ite_not]

end

/-! ### Vector 19 (R369–R371) -/

/-- A store of a steward to the shared SRAM changes nothing but its bytes and their marks. -/
theorem srStore_frame (s : State) (a : Nat) (bs : List Byte) : ∃ m e, s.srStore a bs = { s with sram := m, sramErr := e } := by
  unfold State.srStore
  extract_lets n a1 b1 t
  split
  · exact ⟨s.sram, s.sramErr, rfl⟩
  · exact ⟨_, _, rfl⟩

theorem srStore_vectorOf (s : State) (a : Nat) (bs : List Byte) (key v : Nat) : (s.srStore a bs).vectorOf key v = s.vectorOf key v := by
  obtain ⟨m, e, h⟩ := srStore_frame s a bs
  rw [h]
  rfl

/-- The context that has entered the handler of vector 19 at `pc`. -/
def Ctx.inIrq (c : Ctx) (pc : Word) : Ctx :=
  { c with st := .run, exc := none, useq := none, wait := .none, wlen := 0, msp := BitVec.ofNat 32 (c.msp.toNat - 0x80), ls := [],
           grp := { c.grp with left := 0, flow := 0 }, cause := 19, faultaddr := 0, pc := pc,
           floors := (c.os.length, c.rs.length) :: c.floors, ie := false }

/-- With room for its frame vector 19 is entered. -/
theorem ctx_enter_irq (s : State) (i : StwNo) {c : Ctx} (ret : Word) (hpush : pushOk (1404 + i.val) c.msp = true) :
    (s.enter (1404 + i.val) c ⟨19, 0, ret, false, false⟩).ctx (1404 + i.val) = c.inIrq (s.vectorOf (1404 + i.val) 19) := by
  simp only [State.enter, hpush, State.portBad, State.portW, isStw_stw, srStore_vectorOf, Bool.not_true, Bool.false_eq_true, if_false,
    if_true, decide_true, Bool.and_self, State.ctx_count, State.ctx_setCtx_same]
  rfl

section
variable {s : State} {i : StwNo} (hissue : s.canIssue (1404 + i.val) = true) (hie : (s.ctx (1404 + i.val)).ie = true)
  (hdue : s.icSample.irqDue i.val = true) (hroom : (s.ctx (1404 + i.val)).floors.length < 15)
  (hgrp : (s.ctx (1404 + i.val)).grp.left = 0 ∨ (s.ctx (1404 + i.val)).pc ≠ (s.ctx (1404 + i.val)).grp.next)
include hissue hie hdue hroom hgrp

/-- What an entry that is due does. -/
theorem stewardInterruptEntry_eq : exec (.stewardInterruptEntry i) s = .next (
    if (s.ctx (1404 + i.val)).elev = 2 then s.icSample.stwFault i.val 1
    else match s.icSample.sequence (1404 + i.val) .excEntry with
      | (false, s2) => s2
      | (true, s2) => s2.enter (1404 + i.val) (s.ctx (1404 + i.val)) ⟨19, 0, (s.ctx (1404 + i.val)).pc, false, false⟩) := by
  have hboundary : (s.ctx (1404 + i.val)).inGroup = false := by
    simp only [Ctx.inGroup, Bool.and_eq_false_iff, decide_eq_false_iff_not, not_not]
    exact hgrp
  have hlen : decide (15 ≤ (s.ctx (1404 + i.val)).floors.length) = false := decide_eq_false (by omega)
  change execStewardInterruptEntry i s = _
  simp only [execStewardInterruptEntry, stwKey, icSample_ctx, hissue, hie, hdue, hlen, hboundary, Bool.not_true, Bool.or_self,
    Bool.false_eq_true, if_false] <;> rfl

/-- At ELEV 2 it is a steward fault of cause 1. -/
theorem stewardInterruptEntry_faults (helev : (s.ctx (1404 + i.val)).elev = 2) :
    ∃ t, exec (.stewardInterruptEntry i) s = .next t ∧ (t.stwd i.val).faulted = true ∧ (t.ctx (1404 + i.val)).st = .stopped ∧
      t.fld (swA (0x310 + 4 * i.val)) 27 24 = 1 := by
  refine ⟨_, stewardInterruptEntry_eq hissue hie hdue hroom hgrp, ?_⟩
  rw [if_pos helev]
  refine ⟨stwFault_faulted _ _ _, congrArg Ctx.st (ctx_stwFault _ _ _), ?_⟩
  rw [State.fld, reg_stwFault, bits_faultWord _ _ (by decide)]

/-- Below it, with room for the frame, the handler of vector 19 begins. -/
theorem stewardInterruptEntry_enters (helev : (s.ctx (1404 + i.val)).elev ≠ 2)
    (hpush : pushOk (1404 + i.val) (s.ctx (1404 + i.val)).msp = true) (hclean : s.microClean (156 + i.val) = true) :
    ∃ t, exec (.stewardInterruptEntry i) s = .next t ∧
      t.ctx (1404 + i.val) = (s.ctx (1404 + i.val)).inIrq (s.vectorOf (1404 + i.val) 19) := by
  have hclean' : s.icSample.microClean (coreOf (1404 + i.val)) = true := by
    rw [coreOf_stw]
    exact (icSample_congr (·.microClean (156 + i.val)) (fun _ _ => rfl) s).trans hclean
  refine ⟨_, stewardInterruptEntry_eq hissue hie hdue hroom hgrp, ?_⟩
  rw [if_neg helev, sequence_of_clean hclean', ← icSample_congr (·.vectorOf (1404 + i.val) 19) (fun _ _ => rfl) s]
  exact ctx_enter_irq _ i _ hpush

end

/-! ### The priority stack (R378, R379) -/

/-- Steward `i` whose priority stack has frozen with a cause and a level. -/
def State.frozenStk (s : State) (i lvl cause : Nat) : State :=
  { s.setStw i { s.stwd i with frozen := true, fcause := cause, flevel := lvl } with
    counters := tset s.counters (swA 0x230) (s.ctr (swA 0x230) + 1) }

section
variable {s : State} {i lvl : Nat}

theorem icPush_frozen (h : (s.stwd i).frozen = true) : s.icPush i lvl = s := if_pos h

theorem icPush_above (hfree : (s.stwd i).frozen = false) (h : (s.stwd i).prio.headD 0 < lvl) :
    s.icPush i lvl = s.setStw i { s.stwd i with prio := lvl :: (s.stwd i).prio } := by
  rw [State.icPush, if_neg (by rw [hfree]; decide), if_pos ⟨by omega, h⟩]

theorem icPush_below (hfree : (s.stwd i).frozen = false) (h : lvl ≤ (s.stwd i).prio.headD 0) :
    s.icPush i lvl = s.frozenStk i lvl 1 := by
  have hnot : ¬ (1 ≤ lvl ∧ s.running i < lvl) := fun hp => absurd hp.2 (Nat.not_lt.mpr h)
  rw [State.icPush, if_neg (by rw [hfree]; decide), if_neg hnot]
  rfl

theorem icPop_top (hfree : (s.stwd i).frozen = false) {rest : List Nat} (h : (s.stwd i).prio = lvl :: rest) :
    s.icPop i lvl = s.setStw i { s.stwd i with prio := rest } := by
  simp only [State.icPop, hfree, h, Bool.false_eq_true, if_false, if_true]

theorem icPop_other (hfree : (s.stwd i).frozen = false) (h : (s.stwd i).prio = [] ∨ (s.stwd i).prio.headD 0 ≠ lvl) :
    s.icPop i lvl = s.frozenStk i lvl 2 := by
  cases hprio : (s.stwd i).prio with
  | nil => simp only [State.icPop, hfree, hprio, Bool.false_eq_true, if_false]; rfl
  | cons t rest =>
    have ht : t ≠ lvl := by simpa [hprio] using h
    simp only [State.icPop, hfree, hprio, ht, Bool.false_eq_true, if_false]
    rfl

end

/-- Another writer of a steward's own register changes nothing. -/
theorem writeCmd_notOwn {s : State} {q : Req} {i : StwNo} {a : Nat} (hq : q ≠ .stw i) (h : MayWrite s q a) (f : State → State) :
    s.writeCmd q a (fun s => if reqStw q = some i.val then f s else s) = acked q a s := by
  have hown : reqStw q ≠ some i.val := by
    cases q with
    | ctl => nofun
    | stw j => exact fun he => hq (congrArg Req.stw (Fin.ext (Option.some.inj he)))
    | dbg => nofun
  have hid : (fun s => if reqStw q = some i.val then f s else s) = id := funext fun s => if_neg hown
  rw [hid]
  exact writeCmd_of_MayWrite h _ rfl

/-- The steward itself has the effect. -/
theorem writeCmd_own {s : State} {i : StwNo} {a : Nat} (h : MayWrite s (.stw i) a) (f : State → State) :
    s.writeCmd (.stw i) a (fun s => if reqStw (.stw i) = some i.val then f s else s) = f s := (writeCmd_stw h _).trans (if_pos rfl)

/-! ### Masks, latches and sources (R374, R376, R383) -/

theorem icPendSet_eq (s : State) (q : Req) (w : Half) : s.icPendSet q w =
    { s with ic := { s.ic with latches := s.ic.latches |||
      (w &&& (if (match q with | .stw _ => true | _ => false) then 0xFF00 else 0x00FF)) } } := by
  cases q <;> rfl

/-- What a write of source `n`'s configuration, whose level was `old`, asks of a binding of source `k` that stays. -/
def State.keepsBound (s : State) (n old k i : Nat) : Bool := decide (k ≠ n) || (s.srcTarget n i && decide (s.srcLevel n = old))

/-- A write of a source's configuration: a steward that stays bound is a target still, at the level as it was. -/
theorem srcWrite_bound {s : State} {n i : Nat} {w : Word} (h : (s.srcWrite n w).boundTo n = some i) :
    (s.srcWrite n w).srcTarget n i = true ∧ (s.srcWrite n w).srcLevel n = s.srcLevel n := by
  have hkept : (s.srcWrite n w).keepsBound n (s.srcLevel n) n i = true :=
    of_tfind_tkeep (t := s.ic.bind) (p := (s.srcWrite n w).keepsBound n (s.srcLevel n)) h
  simpa only [State.keepsBound, ne_eq, not_true_eq_false, decide_false, Bool.false_or, Bool.and_eq_true, decide_eq_true_eq] using hkept

theorem icSrcCfgWrite_spec {s : State} {q : Req} {n : Byte} (w : Word) (h : MayWrite s q (icA (0x1000 + 4 * n.toNat))) :
    ∃ t, exec (.icSrcCfgWrite q n w) s = .next t ∧ t.reg (icA (0x1000 + 4 * n.toNat)) = w &&& 0x03FF0F0F ∧
      (∀ i, t.boundTo n.toNat = some i → t.srcTarget n.toNat i = true ∧ t.srcLevel n.toNat = s.srcLevel n.toNat) := by
  have hn := n.isLt
  have hhost : hostMay (icA (0x1000 + 4 * n.toNat)) = false := by
    simp only [hostMay, Bool.or_eq_false_iff, Bool.and_eq_false_iff, decide_eq_false_iff_not]
    simp only [icA, pmA, inA, rkA]
    omega
  obtain ⟨j, rfl⟩ := stw_of_MayWrite h hhost
  have hlevel : s.icSample.srcLevel n.toNat = s.srcLevel n.toNat := icSample_congr (·.srcLevel n.toNat) (fun _ _ => rfl) s
  exact ⟨_, congrArg Host.Outcome.next (writeCmd_stw h _), State.reg_setReg_same _ _ _,
    fun i hb => ⟨(srcWrite_bound hb).1, (srcWrite_bound hb).2.trans hlevel⟩⟩

theorem icHostDbSet_eq {s : State} {q : Req} (b : Byte) (h : MayWrite s q (icA 0x88)) :
    exec (.icHostDbSet q b) s = .next (acked q (icA 0x88) (s.setReg (icA 0x8C) (s.reg (icA 0x8C) ||| b.setWidth 32))) := by
  rw [← BitVec.ofNat_toNat]
  exact congrArg Host.Outcome.next (writeCmd_of_MayWrite h _ rfl)

/-! ### LIB_STATUS_CLEAR (16 R455) -/

/-- A domain whose BAD a write of STW_LIB_STATUS has cleared: a new vote event. -/
def PDom.libCleared (x : PDom) : PDom := { x with bad := false, latch := x.latch || x.bad }

theorem pdom_setDom_same (s : State) (d : Nat) (x : PDom) : (s.setDom d x).pdom d = x := tget_tset_same _ _ _ _

theorem pdom_setDom_ne (s : State) {d j : Nat} (x : PDom) (h : j ≠ d) : (s.setDom d x).pdom j = s.pdom j := tget_tset_ne _ _ _ _ _ h

/-- The state with the BAD of domain `r` cleared. -/
def State.libDomCleared (r : Nat) (s : State) : State := s.setDom r (s.pdom r).libCleared

/-- Clearing leaves the registers as they were. -/
theorem reg_forEach_libDomCleared (l : List Nat) (s : State) (a : Nat) : (forEach l s State.libDomCleared).reg a = s.reg a :=
  forEach_keeps (fun u : State => u.reg a = s.reg a) l State.libDomCleared (fun _ _ h => h) s rfl

/-- A domain that is not named is as it was. -/
theorem pdom_forEach_libDomCleared_ne {l : List Nat} {d : Nat} (hd : d ∉ l) (s : State) :
    (forEach l s State.libDomCleared).pdom d = s.pdom d := by
  induction l generalizing s with
  | nil => rfl
  | cons r l ih =>
    rw [List.mem_cons, not_or] at hd
    exact (ih hd.2 _).trans (pdom_setDom_ne _ _ hd.1)

/-- A domain that is named is not BAD. -/
theorem bad_forEach_libDomCleared {l : List Nat} {d : Nat} (hd : d ∈ l) (s : State) :
    ((forEach l s State.libDomCleared).pdom d).bad = false := by
  refine forEach_reaches (P := fun u : State => (u.pdom d).bad = false) (f := State.libDomCleared) hd
    (fun u => congrArg PDom.bad (pdom_setDom_same _ _ _)) (fun r u hu => ?_) s
  by_cases hr : d = r
  · rw [hr]
    exact congrArg PDom.bad (pdom_setDom_same _ _ _)
  · rw [State.libDomCleared, pdom_setDom_ne _ _ hr, hu]

theorem libClear_spec (s : State) (w : Word) :
    (s.libClear w).reg (swA 0x14) = s.reg (swA 0x14) &&& ~~~ BitVec.ofNat 32 (w.toNat % 4096) ∧
    (∀ r, r < 12 → bit w r = true → bit (s.reg (swA 0x14)) r = true → ((s.libClear w).pdom r).bad = false) ∧
    (∀ r, bit w r = false → (s.libClear w).pdom r = s.pdom r) := by
  refine ⟨(reg_forEach_libDomCleared _ _ _).trans (State.reg_setReg_same _ _ _), fun r hr hw hs => ?_, fun r hw => ?_⟩
  · exact bad_forEach_libDomCleared (List.mem_filter.mpr ⟨List.mem_range.mpr hr, by rw [hw, hs]; rfl⟩) _
  · exact pdom_forEach_libDomCleared_ne (fun hmem => by simpa [hw] using (List.mem_filter.mp hmem).2) _

theorem libStatusClear_spec {s : State} {q : Req} (w : Word) (h : MayWrite s q (swA 0x14)) :
    ∃ t, exec (.libStatusClear q w) s = .next t ∧ t.reg (swA 0x14) = s.reg (swA 0x14) &&& ~~~ BitVec.ofNat 32 (w.toNat % 4096) ∧
      (∀ r, r < 12 → bit w r = true → bit (s.reg (swA 0x14)) r = true → (t.pdom r).bad = false) ∧
      (∀ r, bit w r = false → t.pdom r = s.pdom r) := by
  obtain ⟨j, rfl⟩ := stw_of_MayWrite h rfl
  exact ⟨_, congrArg Host.Outcome.next (writeCmd_stw h _), libClear_spec s w⟩

/-- Settles O51: a binding by `route_spec`, an entry by `stewardInterruptEntry_eq`, the priority stack by what `icPush` and `icPop` do, the
other rows by their one write. -/
theorem interruptController : Obligations.InterruptController := by
  unfold Obligations.InterruptController
  refine ⟨fun s hruns => ⟨interruptBind_idle hruns, fun n i hfind hroute => ⟨interruptBind_binds hruns hfind hroute, route_spec hroute⟩⟩,
    fun s n t0 hruns => moderationExpiry_eq hruns, fun s i hissue hie hdue hroom hgrp => ⟨?_, fun helev hpush hclean => ?_⟩,
    fun s i lvl => ?_, fun s q k w => ⟨?_, ?_⟩, fun s q w => ⟨fun h => ?_, ?_⟩, fun s q n w => icSrcCfgWrite_spec w,
    fun s q b => icHostDbSet_eq b, fun s q w => libStatusClear_spec w⟩
  · exact stewardInterruptEntry_faults hissue hie hdue hroom hgrp
  · obtain ⟨t, hexec, hctx⟩ := stewardInterruptEntry_enters hissue hie hdue hroom hgrp helev hpush hclean
    refine ⟨t, hexec, ?_⟩
    rw [hctx]
    exact ⟨rfl, rfl, rfl, rfl, rfl, rfl, rfl, rfl, rfl, rfl⟩
  · refine ⟨fun h hfree => ⟨fun hlt => ?_, fun hle => ?_⟩, fun h hfree => ⟨fun rest hprio => ?_, fun hprio => ?_⟩,
      fun q hq h => congrArg _ (writeCmd_notOwn hq h _), fun q hq h => congrArg _ (writeCmd_notOwn hq h _), fun hfrozen h => ?_,
      fun q h => congrArg Host.Outcome.next (writeCmd_of_MayWrite h _ rfl)⟩
    · exact congrArg _ ((writeCmd_own h _).trans (icPush_above hfree hlt))
    · exact congrArg _ ((writeCmd_own h _).trans (icPush_below hfree hle))
    · exact congrArg _ ((writeCmd_own h _).trans (icPop_top hfree hprio))
    · exact congrArg _ ((writeCmd_own h _).trans (icPop_other hfree hprio))
    · exact congrArg _ ((writeCmd_own h _).trans (icPush_frozen hfrozen))
  · exact fun h => congrArg Host.Outcome.next (writeCmd_of_MayWrite h _ rfl)
  · exact fun h => congrArg Host.Outcome.next (writeCmd_of_MayWrite h _ rfl)
  · have hlevel : (s.icPendSet q w).dbg.level = s.dbg.level := by rw [icPendSet_eq]
    exact congrArg Host.Outcome.next ((writeCmd_of_MayWrite h _ hlevel).trans (congrArg (acked q (icA 0x80)) (icPendSet_eq s q w)))
  · exact fun h => congrArg Host.Outcome.next (writeCmd_of_MayWrite h _ rfl)

end Sys2Proof.Machine
end

section
/-! The register fabric's turns, the control port's and a steward's access; semaphores, steward faults and restarts (12 R362, R366; 17
R477–R479; 19 R509–R513). -/

namespace Sys2Proof.Machine
open Sys2Proof.Claim

/-! ### Turns of the fabric (12 R362, 19 R509) -/

/-- The control port after the acknowledge has ended, with the request that is outstanding then. -/
def State.ctlTaken (s : State) (p : Option CtlReq) : State :=
  { s with fab := { s.fab with ctl := p, ack := false, err := false, rdata := 0 } }

/-- The fabric performs one access, of the requester whose turn it is. -/
def State.fabTurn (s : State) : State :=
  (((List.range 3).map (fun j => (s.fab.last + 1 + j) % 3)).findSome? s.fabServe).getD s

/-- With no request outstanding the port takes what is presented. -/
theorem registerFabricAccess_eq {s : State} (hctl : s.fab.ctl = none) {p : Option CtlReq} (hp : p = none ∨ s.isOn dCfg = true) :
    exec (.registerFabricAccess p) s = .next (s.ctlTaken p).fabTurn := by
  have htaken : (if (s.isOn dCfg && s.fab.ctl.isNone) = true then s.ctlTaken p else s.ctlTaken s.fab.ctl) = s.ctlTaken p := by
    rw [hctl]
    rcases hp with rfl | hon
    · exact ite_self _
    · rw [hon]; rfl
  exact congrArg (fun t => Host.Outcome.next (State.fabTurn t)) htaken

section
variable {s : State}

/-- Where at most one requester is to be served, the turn is its. -/
theorem fabTurn_only {k : Nat} (hk : k < 3) (h : ∀ j, j < 3 → j ≠ k → s.fabServe j = none) : s.fabTurn = (s.fabServe k).getD s :=
  congrArg (Option.getD · s) (findSome?_only ((mem_rotation _).mpr hk) fun j hj => h j ((mem_rotation _).mp hj))

theorem fabSteward_none (h : ∀ i, i < 4 → (s.stwd i).acc = none) : s.fabSteward = none := by
  unfold State.fabSteward
  split
  · rfl
  · refine List.findSome?_eq_none_iff.mpr fun i hi => ?_
    rw [h i ((mem_rotation _).mp hi)]
    rfl

theorem fabSteward_only {j : StwNo} {x : StwAcc} (hacc : (s.stwd j.val).acc = some x)
    (h : ∀ i, i < 4 → i ≠ j.val → (s.stwd i).acc = none) (hruns : s.runs dStw = true) (hserves : s.serves x.addr.toNat = true) :
    s.fabSteward = some (j.val, x) := by
  rw [State.fabSteward, hruns, Bool.not_true, if_neg Bool.false_ne_true]
  refine (findSome?_only ((mem_rotation _).mpr j.isLt) fun i hi hij => ?_).trans ?_
  · rw [h i ((mem_rotation _).mp hi) hij]
    rfl
  · rw [hacc, Option.filter_some, hserves]
    rfl

theorem fabServe_cluster_none (h : ∀ i, i < 4 → (s.stwd i).acc = none) : s.fabServe 0 = none :=
  congrArg (Option.map _) (fabSteward_none h)

/-- The steward next in the cluster's turns has its access. -/
theorem fabServe_cluster {i : Nat} {x : StwAcc} (h : s.fabSteward = some (i, x)) :
    s.fabServe 0 = some ({ s with fab := { s.fab with last := 0, lastStw := i } }.fabStw i x) :=
  congrArg (Option.map _) h

theorem fabServe_ctl_none (h : s.fab.ctl = none) : s.fabServe 1 = none := by
  simp only [State.fabServe, h, Option.filter_none, Option.map_none, ite_self, one_ne_zero, if_false, if_true]

theorem fabServe_dbg_none (h : s.fab.dbg = none) : s.fabServe 2 = none := by
  simp only [State.fabServe, h, Option.filter_none, Option.map_none, ite_self, OfNat.ofNat_ne_zero, OfNat.ofNat_ne_one, if_false]

/-- The control port's request in its turn; one to an island that does not serve waits. -/
theorem fabServe_ctl {m : CtlReq} (hctl : s.fab.ctl = some m) (hon : s.isOn dCfg = true) :
    s.fabServe 1 = if s.serves (4 * m.addr.toNat) then some ({ s with fab := { s.fab with last := 1 } }.fabCtl m) else none := by
  simp only [State.fabServe, hctl, hon, Option.filter_some, one_ne_zero, if_false, if_true]
  split <;> rfl

end

/-! ### An access of the control port alone -/

/-- The control port's request `m` is performed and acknowledged with data `w`. -/
def State.ctlAcked (s : State) (w : Word) (e : Bool) : State :=
  { s with fab := { s.fab with ctl := none, ack := true, err := e, rdata := w } }

section
variable {s : State} {m : CtlReq}

theorem fabCtl_fails {n : Nat} (h : s.ctlErr (4 * m.addr.toNat) m.be = some n) :
    s.fabCtl m = (s.ctlFail (4 * m.addr.toNat) n).ctlAcked 0 true := by
  simp only [State.fabCtl, h]
  rfl

theorem fabCtl_reads (h : s.ctlErr (4 * m.addr.toNat) m.be = none) (hwe : m.we = false) (hbe : m.be ≠ 0) :
    s.fabCtl m = (s.readReg .ctl (4 * m.addr.toNat)).2.ctlAcked (s.readReg .ctl (4 * m.addr.toNat)).1 false := by
  simp only [State.fabCtl, h, hwe, hbe, Bool.false_eq_true, if_false]
  rfl

theorem fabCtl_writes (h : s.ctlErr (4 * m.addr.toNat) m.be = none) (hwe : m.we = true) : s.fabCtl m =
    (if hostMay (4 * m.addr.toNat) = true then s.writeReg .ctl (4 * m.addr.toNat) m.wdata m.be else s.count 0x100).ctlAcked 0 false := by
  simp only [State.fabCtl, h, hwe, if_true]
  rfl

/-- The first failure: its reason and its address, which has 26 bits. -/
theorem ctlErrInfo_ctlFail (n : Nat) (h : bit (s.reg 8) 31 = false) :
    (s.ctlFail (4 * m.addr.toNat) n).reg 8 = BitVec.ofNat 32 (2 ^ 31 + n * 2 ^ 28 + 4 * m.addr.toNat) := by
  have haddr : 4 * m.addr.toNat % 2 ^ 26 / 4 * 4 = 4 * m.addr.toNat := by
    have hlt := m.addr.isLt
    omega
  rw [ctlFail_first s _ n h, haddr]
  exact State.reg_setReg_same _ _ _

end

/-- The turn of the control port, which has taken `m`. -/
def State.ctlTurn (s : State) (m : CtlReq) : State :=
  { s with fab := { s.fab with ctl := some m, ack := false, err := false, rdata := 0, last := 1 } }

/-- The turn of steward `i`. -/
def State.stwTurn (s : State) (i : Nat) : State :=
  { s with fab := { s.fab with ctl := none, ack := false, err := false, rdata := 0, last := 0, lastStw := i } }

section
variable {s : State} (hdbg : s.fab.dbg = none) (hctl : s.fab.ctl = none)
include hdbg hctl

/-- With nothing waiting only the acknowledge ends. -/
theorem registerFabricAccess_idle (hacc : ∀ i, i < 4 → (s.stwd i).acc = none) :
    exec (.registerFabricAccess none) s = .next { s with fab := { s.fab with ack := false, err := false, rdata := 0 } } := by
  have hturn : (s.ctlTaken none).fabTurn = _ := fabTurn_only (k := 1) (by decide) fun
    | 0, _, _ => fabServe_cluster_none hacc
    | 1, _, h => absurd rfl h
    | 2, _, _ => fabServe_dbg_none hdbg
  rw [registerFabricAccess_eq hctl (.inl rfl), hturn, fabServe_ctl_none rfl, Option.getD_none, State.ctlTaken, ← hctl]

/-- One request of the control port and nothing else. -/
theorem registerFabricAccess_ctl (hacc : ∀ i, i < 4 → (s.stwd i).acc = none) (m : CtlReq) (hon : s.isOn dCfg = true) :
    exec (.registerFabricAccess (some m)) s = .next (if s.serves (4 * m.addr.toNat) = true
      then (s.ctlTurn m).fabCtl m
      else s.ctlTaken (some m)) := by
  have hturn : (s.ctlTaken (some m)).fabTurn = _ := fabTurn_only (k := 1) (by decide) fun
    | 0, _, _ => fabServe_cluster_none hacc
    | 1, _, h => absurd rfl h
    | 2, _, _ => fabServe_dbg_none hdbg
  have hserve : (s.ctlTaken (some m)).fabServe 1 = _ := fabServe_ctl rfl hon
  rw [registerFabricAccess_eq hctl (.inr hon), hturn, hserve]
  exact congrArg Host.Outcome.next (apply_ite (Option.getD · (s.ctlTaken (some m))) _ _ _)

/-- One access of a steward and nothing else. -/
theorem registerFabricAccess_stw {j : StwNo} {x : StwAcc} (hacc : (s.stwd j.val).acc = some x)
    (h : ∀ i, i < 4 → i ≠ j.val → (s.stwd i).acc = none) (hruns : s.runs dStw = true) (hserves : s.serves x.addr.toNat = true) :
    exec (.registerFabricAccess none) s = .next ((s.stwTurn j.val).fabStw j.val x) := by
  have hturn : (s.ctlTaken none).fabTurn = _ := fabTurn_only (k := 0) (by decide) fun
    | 0, _, h => absurd rfl h
    | 1, _, _ => fabServe_ctl_none rfl
    | 2, _, _ => fabServe_dbg_none hdbg
  have hnext : (s.ctlTaken none).fabSteward = some (j.val, x) := fabSteward_only hacc h hruns hserves
  rw [registerFabricAccess_eq hctl (.inl rfl), hturn, fabServe_cluster hnext]
  rfl

end

/-! ### A steward's access -/

/-- The steward's access has been taken from it. -/
def State.accTaken (s : State) (i : Nat) : State := s.setStw i { s.stwd i with acc := none }

/-- The effect of a steward's access, and the value of a read. -/
def State.accDo (s : State) (i : Nat) (x : StwAcc) : Word × State :=
  if x.we then (0, s.writeReg (.stw ⟨i % 4, Nat.mod_lt _ (by decide)⟩) x.addr.toNat x.data 0xF)
  else s.readReg (.stw ⟨i % 4, Nat.mod_lt _ (by decide)⟩) x.addr.toNat

/-- The context of a steward whose access has given `w`. -/
def Ctx.accDone (c : Ctx) (x : StwAcc) (w : Word) : Ctx :=
  { c with os := if x.we then x.os else w :: x.os, a := x.a, b := x.b }

/-- The load or store that waits for an access that has given `w` ends. -/
def State.accEnd (s : State) (key : Nat) (x : StwAcc) (w : Word) : State :=
  let c := s.ctx key
  if c.st = .sleep && decide (c.wait = .fabric) then
    let (s1, c1) := s.dataMatch key (BitVec.ofNat 32 (0xF0000000 + x.addr.toNat)) (!x.we) (c.accDone x w)
    s1.complete key c1 (c.pc + BitVec.ofNat 32 c.wlen)
  else s

section
variable {s : State} {j : StwNo} {x : StwAcc}

/-- An access that is refused raises vector 5. -/
theorem fabStw_raises (h : s.ctlErr x.addr.toNat 0xF ≠ none) : s.fabStw j.val x =
    (s.accTaken j.val).stwRaise j.val ⟨5, BitVec.ofNat 32 (0xF0000000 + x.addr.toNat), (s.ctx (1404 + j.val)).pc, false, false⟩ := by
  rw [State.fabStw, if_pos (Option.isSome_iff_ne_none.mpr h)]
  simp only [State.excAt, stwKey, State.raise, isFlt_stw, isStw_stw, Nat.add_sub_cancel_left, Bool.false_eq_true, if_false, if_true]
  rfl

/-- Below ELEV 2 the exception waits in ENTRY. -/
theorem entry_stwRaise {e : Exc} (he : stackVec e.vec = false) (h : (s.ctx (1404 + j.val)).elev ≠ 2) :
    ((s.stwRaise j.val e).ctx (1404 + j.val)).st = .entry ∧ ((s.stwRaise j.val e).ctx (1404 + j.val)).exc = some e := by
  rw [stwRaise_enters s j.val e he h, State.ctx_setCtx_same]
  exact ⟨rfl, rfl⟩

/-- An exception gives the steward no access. -/
theorem acc_stwRaise (s : State) (e : Exc) (h : (s.stwd j.val).acc = none) : ((s.stwRaise j.val e).stwd j.val).acc = none := by
  unfold State.stwRaise
  extract_lets c
  split
  · exact congrArg Stw.acc (stwd_stwFault _ _ _)
  · exact h

/-- An access that is allowed is performed, and what waits for it ends. -/
theorem fabStw_performs (h : s.ctlErr x.addr.toNat 0xF = none) : s.fabStw j.val x =
    ((s.accTaken j.val).accDo j.val x).2.accEnd (1404 + j.val) x ((s.accTaken j.val).accDo j.val x).1 := by
  rw [State.fabStw, h]
  rfl

/-- A load or store that waits for its access ends, and the steward goes on; registers and accesses stay. -/
theorem accEnd_waiting {w : Word} (hm : s.matches (1404 + j.val) (BitVec.ofNat 32 (0xF0000000 + x.addr.toNat)) false (!x.we) = [])
    (hst : (s.ctx (1404 + j.val)).st = .sleep) (hwait : (s.ctx (1404 + j.val)).wait = .fabric)
    (hpend : (s.ctx (1404 + j.val)).v11pend = false) (htrig : (s.ctx (1404 + j.val)).trig = false) :
    ∃ c, s.accEnd (1404 + j.val) x w = s.setCtx (1404 + j.val) c ∧ c.st = .run ∧ c.os = (if x.we then x.os else w :: x.os) ∧
      c.a = x.a ∧ c.b = x.b := by
  have hend := State.complete_idle s (1404 + j.val) ((s.ctx (1404 + j.val)).accDone x w)
    ((s.ctx (1404 + j.val)).pc + BitVec.ofNat 32 (s.ctx (1404 + j.val)).wlen) hpend htrig
  rw [Ctx.goto_frame] at hend
  refine ⟨_, Eq.trans ?_ hend, rfl, rfl, rfl, rfl⟩
  simp only [State.accEnd, hst, hwait, decide_true, Bool.and_self, if_true, dataMatch_none hm]
  rfl

/-- TIME_ADJ_NS reads as it was written, with no effect. -/
theorem readReg_timeAdjNs (s : State) (q : Req) : s.readReg q (tmA 0x24) = (s.reg (tmA 0x24), s) :=
  congrArg (·, s) ((BitVec.ofNat_toNat _ _).trans (BitVec.setWidth_eq _))

section
variable (herr : s.ctlErr x.addr.toNat 0xF = none) (hst : (s.ctx (1404 + j.val)).st = .sleep)
  (hwait : (s.ctx (1404 + j.val)).wait = .fabric) (hpend : (s.ctx (1404 + j.val)).v11pend = false)
  (htrig : (s.ctx (1404 + j.val)).trig = false)
include herr hst hwait hpend htrig

/-- A load of TIME_ADJ_NS ends with its value. -/
theorem fabStw_load (hwe : x.we = false) (hm : s.matches (1404 + j.val) (BitVec.ofNat 32 (0xF0000000 + x.addr.toNat)) false true = [])
    (haddr : x.addr.toNat = tmA 0x24) :
    ∃ c, s.fabStw j.val x = (s.accTaken j.val).setCtx (1404 + j.val) c ∧ c.st = .run ∧ c.os = s.reg (tmA 0x24) :: x.os ∧ c.a = x.a ∧
      c.b = x.b := by
  have hdo : (s.accTaken j.val).accDo j.val x = (s.reg (tmA 0x24), s.accTaken j.val) := by
    rw [State.accDo, hwe, haddr, readReg_timeAdjNs]
    rfl
  have hend := accEnd_waiting (s := s.accTaken j.val) (w := s.reg (tmA 0x24)) (by rw [hwe]; exact hm) hst hwait hpend htrig
  rw [hwe] at hend
  rwa [fabStw_performs herr, hdo]

/-- A store of TIME_ADJ_NS ends with its effect. -/
theorem fabStw_store (hwe : x.we = true) (hm : s.matches (1404 + j.val) (BitVec.ofNat 32 (0xF0000000 + x.addr.toNat)) false false = [])
    (haddr : x.addr.toNat = tmA 0x24) :
    ∃ c, s.fabStw j.val x = ((s.accTaken j.val).setReg (tmA 0x24) x.data).setCtx (1404 + j.val) c ∧ c.st = .run ∧ c.os = x.os := by
  have hdo : (s.accTaken j.val).accDo j.val x = (0, (s.accTaken j.val).setReg (tmA 0x24) x.data) := by
    rw [State.accDo, hwe, haddr, writeReg_timeAdjNs]
    rfl
  obtain ⟨c, hend, hrun, hos, -⟩ := accEnd_waiting (s := (s.accTaken j.val).setReg (tmA 0x24) x.data) (w := 0)
    (by rw [hwe]; exact hm) hst hwait hpend htrig
  rw [hwe] at hos
  exact ⟨c, by rw [fabStw_performs herr, hdo]; exact hend, hrun, hos⟩

end

end

/-! ### Semaphores (12 R366) -/

section
variable {s : State} {i : Fin 32} {j : StwNo} (h : Reaches s (.stw j) (swA (0x100 + 4 * i.val)))
include h

theorem stwSemRead_eq : exec (.stwSemRead (.stw j) i) s = .next (((s.semRead (.stw j) i.val).2.lwKeep (swA (0x100 + 4 * i.val))
    (s.semRead (.stw j) i.val).1).answer (.stw j) (s.semRead (.stw j) i.val).1) :=
  congrArg Host.Outcome.next (readLw_reaches h (by nofun) _)

/-- A free semaphore goes to the steward that reads it. -/
theorem stwSemRead_claims (hfree : tget 0 s.sems i.val = 0) :
    ∃ t, exec (.stwSemRead (.stw j) i) s = .next t ∧ (t.stwd j.val).rd = BitVec.ofNat 32 (2 ^ 31 + j.val + 1) ∧
      t.sems = tset s.sems i.val (BitVec.ofNat 3 (j.val + 1)) := by
  have hread : s.semRead (.stw j) i.val =
      (BitVec.ofNat 32 (2 ^ 31 + (BitVec.ofNat 3 (j.val + 1)).toNat), { s with sems := tset s.sems i.val (BitVec.ofNat 3 (j.val + 1)) }) :=
    if_pos hfree
  have hnum : (BitVec.ofNat 3 (j.val + 1)).toNat = j.val + 1 := Nat.mod_eq_of_lt (by omega)
  refine ⟨_, stwSemRead_eq h, (congrArg Stw.rd (tget_tset_same _ _ _ _)).trans ?_, ?_⟩
  · rw [hread, hnum, Nat.add_assoc]
  · rw [hread]
    rfl

/-- A semaphore that is taken gives its owner. -/
theorem stwSemRead_taken (htaken : tget 0 s.sems i.val ≠ 0) :
    ∃ t, exec (.stwSemRead (.stw j) i) s = .next t ∧ (t.stwd j.val).rd = (tget 0 s.sems i.val).setWidth 32 ∧ t.sems = s.sems := by
  have hread : s.semRead (.stw j) i.val = ((tget 0 s.sems i.val).setWidth 32, s) := if_neg htaken
  refine ⟨_, stwSemRead_eq h, (congrArg Stw.rd (tget_tset_same _ _ _ _)).trans ?_, ?_⟩ <;> rw [hread]
  rfl

end

/-! ### Steward faults (17 R478) -/

/-- A cause from 1 to 5 of a steward that runs stops it. -/
theorem stewardFault_eq {s : State} {i : StwNo} {cause : Fin 16} (hlive : s.stwLive i.val = true) (h0 : cause.val ≠ 0)
    (h5 : cause.val ≤ 5) : exec (.stewardFault i cause) s = .next (s.stwFault i.val cause.val) := by
  refine congrArg Host.Outcome.next (if_neg ?_)
  rw [hlive]
  simp only [Bool.not_true, Bool.false_or, Bool.or_eq_true, decide_eq_true_eq]
  omega

/-- FLT_STW_CAUSE keeps REFUSED, with the cause and the address. -/
theorem faultWord_eq_or (old pc : Word) {cause : Nat} (h : cause < 16) :
    faultWord old cause pc = (old &&& 0x80000000) ||| BitVec.ofNat 32 (cause * 2 ^ 24 + pc.toNat % 0x40000) := by
  rw [faultWord, Nat.add_assoc]
  exact withLow_eq_or old (by simp only [at_]; omega)

section
variable (s : State) (i : StwNo) (cause : Nat)

/-- A domain without the steward's vote. -/
def PDom.unvoted (d : PDom) (i : Nat) : PDom := { d with vote := d.vote &&& ~~~ BitVec.ofNat 8 (2 ^ i) }

/-- The steward's votes are cleared. -/
theorem vote_stwFault (d : Nat) : ((s.stwFault i.val cause).pdom d).vote.getLsbD i.val = false := by
  have hdom : (s.stwFault i.val cause).pdom d = (s.pdom d).unvoted i.val := by
    rw [stwFault_eq]
    exact tget_tmap PDom.init s.dom (fun _ x => x.unvoted i.val) d 
      (congrArg (fun v => { PDom.init with vote := v }) (BitVec.zero_and (x := ~~~BitVec.ofNat 8 (2 ^ i.val))))
  rw [hdom, PDom.unvoted, BitVec.getLsbD_and, BitVec.getLsbD_not, BitVec.getLsbD_ofNat, Nat.testBit_two_pow_self]
  simp [(by omega : i.val < 8)]

/-- Semaphore `k` is free, or another's. -/
theorem sems_stwFault (k : Nat) : (tget 0 (s.stwFault i.val cause).sems k).toNat ≠ i.val + 1 := by
  have hsem : tget 0 (s.stwFault i.val cause).sems k = if (tget 0 s.sems k).toNat = i.val + 1 then 0 else tget 0 s.sems k := by
    rw [stwFault_eq]
    exact tget_tmap 0 s.sems (fun _ o => if o.toNat = i.val + 1 then 0 else o) k (ite_self _)
  rw [hsem]
  split
  · nofun
  · assumption

/-- No source is bound to the steward. -/
theorem bind_stwFault (n : Nat) : tfind (s.stwFault i.val cause).ic.bind n ≠ some i.val := by
  rw [stwFault_eq]
  intro h
  have hne : decide (i.val ≠ i.val) = true := of_tfind_tkeep (p := fun _ t => decide (t ≠ i.val)) h
  exact of_decide_eq_true hne rfl

end

/-! ### Restarts (17 R478, R479) -/

section
variable {s : State} {i : StwNo}

/-- The core of a steward that has been reset. -/
def Core.stwReset (co : Core) : Core := { co with wdog := 0, sbuf := [], beq := [], mcheck := none, uaddr := 0, ustk := [] }

/-- A steward that has been reset, its priority stack empty. -/
def Stw.reset (x : Stw) : Stw :=
  { x with prio := [], frozen := false, fcause := 0, flevel := 0, started := true, faulted := false, acc := none }

/-- The steward runs again, without an access. -/
def State.stwUp (s : State) (i : Nat) : State := s.setStw i { s.stwd i with started := true, faulted := false, acc := none }

/-- The steward's core is reset. -/
def State.stwCoreReset (s : State) (i : Nat) : State := s.setCore (156 + i) (s.core (156 + i)).stwReset

/-- The state after a steward's reset, before its control store loads its context. -/
def State.stwReset (s : State) (i : Nat) : State := (((s.disownOps (1404 + i)).stkInit i).stwUp i).stwCoreReset i

/-- Registers, code and the marks of the control stores are as before. -/
structure RestartKept (s t : State) : Prop where
  regs : t.regs = s.regs
  stwCode : t.stwCode = s.stwCode
  csErr : t.csErr = s.csErr

theorem RestartKept.trans {s t u : State} (h : RestartKept s t) (h' : RestartKept t u) : RestartKept s u :=
  ⟨h'.regs.trans h.regs, h'.stwCode.trans h.stwCode, h'.csErr.trans h.csErr⟩

theorem restartKept_disownOps (s : State) (key : Nat) : RestartKept s (s.disownOps key) := ⟨rfl, rfl, rfl⟩
theorem restartKept_stkInit (s : State) (i : Nat) : RestartKept s (s.stkInit i) := ⟨rfl, rfl, rfl⟩
theorem restartKept_stwUp (s : State) (i : Nat) : RestartKept s (s.stwUp i) := ⟨rfl, rfl, rfl⟩
theorem restartKept_stwCoreReset (s : State) (i : Nat) : RestartKept s (s.stwCoreReset i) := ⟨rfl, rfl, rfl⟩

theorem restartKept_setCtx (s : State) (key : Nat) (c : Ctx) : RestartKept s (s.setCtx key c) := ⟨rfl, rfl, rfl⟩

theorem restartKept_stwReset (s : State) (i : Nat) : RestartKept s (s.stwReset i) :=
  (((restartKept_disownOps s _).trans (restartKept_stkInit _ i)).trans (restartKept_stwUp _ i)).trans (restartKept_stwCoreReset _ i)

theorem stwd_stwReset : (s.stwReset i.val).stwd i.val = (s.stwd i.val).reset := by
  rw [State.stwReset, State.stwCoreReset, State.stwd_setCore, State.stwUp, State.stwd_setStw_same, State.stkInit, State.stwd_setStw_same]
  rfl

theorem core_stwReset : (s.stwReset i.val).core (156 + i.val) = (s.core (156 + i.val)).stwReset := by
  rw [State.stwReset, State.stwCoreReset, State.core_setCore_same, State.stwUp, State.core_setStw, State.stkInit, State.core_setStw]
  rfl

/-- The vector table is read from VBASE and the code alone. -/
theorem vectorOf_stw_congr {s t : State} {i : StwNo} (hcore : (t.core (156 + i.val)).vbase = (s.core (156 + i.val)).vbase)
    (hcode : t.stwCode = s.stwCode) (v : Nat) : t.vectorOf (1404 + i.val) v = s.vectorOf (1404 + i.val) v := by
  simp only [State.vectorOf, State.codeByte, isStw_stw, coreOf_stw, if_true, hcore, hcode]

/-- The reset keeps the vector table. -/
theorem vectorOf_stwReset (v : Nat) : (s.stwReset i.val).vectorOf (1404 + i.val) v = s.vectorOf (1404 + i.val) v :=
  vectorOf_stw_congr ((congrArg Core.vbase core_stwReset).trans rfl) (restartKept_stwReset s i.val).stwCode v

/-- With the control store as released the context is loaded at once. -/
theorem stwLoad_clean (h : s.microClean (156 + i.val) = true) :
    s.stwLoad i.val = s.setCtx (1404 + i.val) { s.ctx (1404 + i.val) with st := .run, useq := none } := by
  rw [State.stwLoad, stwKey, sequence_of_clean (by rwa [coreOf_stw])]

/-- The context with which a steward starts. -/
def State.stwLoading (s : State) (i : Nat) : State :=
  s.setCtx (1404 + i) { Ctx.init (1404 + i) with st := .loading, pc := s.vectorOf (1404 + i) 0 }

theorem stwStart_eq (s : State) (i : Nat) : s.stwStart i = ((s.stwReset i).stwLoading i).stwLoad i := rfl

/-- With the control store as released a steward starts at once, at its entry 0. -/
theorem stwStart_clean (h : s.microClean (156 + i.val) = true) :
    s.stwStart i.val = (s.stwReset i.val).setCtx (1404 + i.val) { Ctx.init (1404 + i.val) with st := .run, pc := s.vectorOf (1404 + i.val) 0 } := by
  have hclean : ((s.stwReset i.val).stwLoading i.val).microClean (156 + i.val) = true := by
    rw [State.microClean, State.stwLoading, State.core_setCtx, core_stwReset, State.setCtx_csErr, (restartKept_stwReset s i.val).csErr]
    exact h
  rw [stwStart_eq, stwLoad_clean hclean, State.stwLoading, State.ctx_setCtx_same, vectorOf_stwReset, setCtx_setCtx_same]
  rfl

/-- A steward that starts: its context, its priority stack and that it runs; registers, code and vector table are as before. -/
theorem stwStart_spec (h : s.microClean (156 + i.val) = true) :
    (s.stwStart i.val).ctx (1404 + i.val) = { Ctx.init (1404 + i.val) with st := .run, pc := s.vectorOf (1404 + i.val) 0 } ∧
    (s.stwStart i.val).stwd i.val = (s.stwd i.val).reset ∧ RestartKept s (s.stwStart i.val) ∧
    (s.stwStart i.val).vectorOf (1404 + i.val) 0 = s.vectorOf (1404 + i.val) 0 := by
  rw [stwStart_clean h]
  refine ⟨State.ctx_setCtx_same _ _ _, ?_, (restartKept_stwReset s i.val).trans (restartKept_setCtx _ _ _), ?_⟩
  · rw [State.stwd_setCtx, stwd_stwReset]
  · refine (vectorOf_stw_congr ?_ (restartKept_setCtx _ _ _).stwCode 0).trans (vectorOf_stwReset 0)
    rw [State.core_setCtx]

end

/-- A refused restart sets REFUSED only. -/
theorem restart_refused {s : State} {j : StwNo} {i : StwNo} (h : MayWrite s (.stw j) (swA 0x308)) {f : State → State}
    (hf : f s = s.orReg (swA (0x310 + 4 * i.val)) (2 ^ 31)) : s.writeCmd (.stw j) (swA 0x308) f =
      acked (.stw j) (swA 0x308) (s.setReg (swA (0x310 + 4 * i.val)) (s.reg (swA (0x310 + 4 * i.val)) ||| 0x80000000)) :=
  (writeCmd_stw h f).trans hf

section
variable {s : State} {i : StwNo}

theorem stwRestart_unfaulted (h : (s.stwd i.val).faulted = false) : s.stwRestart i.val = s.orReg (swA (0x310 + 4 * i.val)) (2 ^ 31) :=
  if_pos (by rw [State.restartBad, h]; rfl)

theorem stwReload_unfaulted (src : Nat) (h : (s.stwd i.val).faulted = false) :
    s.stwReload i.val src = s.orReg (swA (0x310 + 4 * i.val)) (2 ^ 31) :=
  if_pos (by rw [State.restartBad, h]; rfl)

/-- After a machine check only a reload starts the steward. -/
theorem stwRestart_mcheck (h : s.fld (swA (0x310 + 4 * i.val)) 27 24 = 3) :
    s.stwRestart i.val = s.orReg (swA (0x310 + 4 * i.val)) (2 ^ 31) :=
  if_pos (by simp only [State.restartBad, stwCause, h, decide_true, Bool.not_false, Bool.and_self, Bool.or_true])

theorem stwRestart_starts (h : (s.stwd i.val).faulted = true) (h3 : s.fld (swA (0x310 + 4 * i.val)) 27 24 ≠ 3) :
    s.stwRestart i.val = (s.clrReg (swA (0x310 + 4 * i.val)) (2 ^ 31)).stwStart i.val :=
  if_neg (by simp only [State.restartBad, stwCause, h, h3, decide_false, Bool.not_true, Bool.and_false, Bool.or_self, Bool.false_eq_true,
    not_false_eq_true])

end

/-! ### Restart with a reload (12 R363, 17 R478) -/

/-- The steward's code has been loaded from the shared SRAM at byte `x`. -/
def State.stwReloaded (s : State) (i x : Nat) : State :=
  ((s.clrReg (stwCause i) (2 ^ 31)).srSweep x (min 0x40000 (0x200000 - x))).scW i 0 (s.reloadBytes x)

/-- `n` of the model's free choices have been made. -/
def State.freed (s : State) (n : Nat) : State := { s with freeCount := n }

theorem microClean_freed (s : State) (n k : Nat) : (s.freed n).microClean k = s.microClean k := rfl
theorem stwCode_freed (s : State) (n : Nat) : (s.freed n).stwCode = s.stwCode := rfl

section
variable {s : State} {i : StwNo} {x : Nat}

theorem csErr_srSweep (s : State) (a n : Nat) : (s.srSweep a n).csErr = s.csErr := by
  rw [State.srSweep, State.count_csErr, State.count_csErr]

theorem core_srSweep (s : State) (a n k : Nat) : (s.srSweep a n).core k = s.core k := by
  rw [State.srSweep, State.core_count, State.core_count]
  rfl

theorem stwCode_srSweep (s : State) (a n : Nat) : (s.srSweep a n).stwCode = s.stwCode := by
  rw [State.srSweep, State.count_stwCode, State.count_stwCode]

theorem csErr_scW (s : State) (i x : Nat) (bs : List Byte) : (s.scW i x bs).csErr = s.csErr := rfl
theorem core_scW (s : State) (i x : Nat) (bs : List Byte) (k : Nat) : (s.scW i x bs).core k = s.core k := rfl
theorem stwCode_scW (s : State) (i x : Nat) (bs : List Byte) : (s.scW i x bs).stwCode = mwrite 0xFF s.stwCode (scA i x) bs := rfl

theorem csErr_stwReloaded : (s.stwReloaded i.val x).csErr = s.csErr := by
  rw [State.stwReloaded, csErr_scW, csErr_srSweep, State.clrReg, State.setReg_csErr]

theorem core_stwReloaded (k : Nat) : (s.stwReloaded i.val x).core k = s.core k := by
  rw [State.stwReloaded, core_scW, core_srSweep, State.clrReg, State.core_setReg]

theorem microClean_stwReloaded (k : Nat) : (s.stwReloaded i.val x).microClean k = s.microClean k := by
  rw [State.microClean, State.microClean, core_stwReloaded, csErr_stwReloaded]

theorem stwCode_stwReloaded : (s.stwReloaded i.val x).stwCode = mwrite 0xFF s.stwCode (scA i.val 0) (s.reloadBytes x) := by
  rw [State.stwReloaded, stwCode_scW, stwCode_srSweep, State.clrReg, State.setReg_stwCode]

/-- What is written from an address is read back from it. -/
theorem mread_mwrite_length (d : Byte) {bs : List Byte} {m : Mem} (a : Nat) {n : Nat} (h : m.wf d = true) (hn : bs.length = n) :
    mread d (mwrite d m a bs) a n = bs := by
  subst hn
  exact mread_mwrite d bs m a h

/-- The steward's code is what the shared SRAM holds. -/
theorem scR_stwReloaded (hx : x + 0x40000 ≤ 0x200000) (h : s.stwCode.wf 0xFF = true) :
    (s.stwReloaded i.val x).scR i.val 0 0x40000 = s.srR x 0x40000 := by
  have hbytes : s.reloadBytes x = s.srR x 0x40000 := if_pos hx
  rw [State.scR, stwCode_stwReloaded, hbytes]
  exact mread_mwrite_length 0xFF _ h (mread_length _ _ _ _)

/-- A reload loads the code, and the steward starts. -/
theorem stwReload_starts (src : Nat) (h : (s.stwd i.val).faulted = true) : s.stwReload i.val src =
    ((s.stwReloaded i.val (src * 4096)).freed
      ((s.stwReloaded i.val (src * 4096)).freeCount + (src * 4096 + 0x40000 - 0x200000))).stwStart i.val :=
  if_neg (by simp only [State.restartBad, h, Bool.not_true, Bool.false_and, Bool.or_self, Bool.false_eq_true, not_false_eq_true])

/-- A steward stopped by a fault other than a machine check starts at its entry 0. -/
theorem restart_spec {q : Req} (h : MayWrite s q (swA 0x308)) (hfault : (s.stwd i.val).faulted = true)
    (h3 : s.fld (swA (0x310 + 4 * i.val)) 27 24 ≠ 3) (hclean : s.microClean (156 + i.val) = true) :
    ∃ t, exec (.stwRestart q i) s = .next t ∧ (t.stwd i.val).started = true ∧ (t.stwd i.val).faulted = false ∧
      (t.stwd i.val).prio = [] ∧ bit (t.reg (swA (0x310 + 4 * i.val))) 31 = false ∧
      t.ctx (1404 + i.val) = { Ctx.init (1404 + i.val) with st := .run, pc := s.vectorOf (1404 + i.val) 0 } := by
  obtain ⟨j, rfl⟩ := stw_of_MayWrite h rfl
  obtain ⟨hctx, hstwd, hkept, -⟩ := stwStart_spec (s := s.clrReg (swA (0x310 + 4 * i.val)) (2 ^ 31)) (i := i) hclean
  have hvec : (s.clrReg (swA (0x310 + 4 * i.val)) (2 ^ 31)).vectorOf (1404 + i.val) 0 = s.vectorOf (1404 + i.val) 0 :=
    vectorOf_stw_congr rfl rfl 0
  refine ⟨_, congrArg Host.Outcome.next ((writeCmd_stw h _).trans (stwRestart_starts hfault h3)), ?_⟩
  rw [hstwd, hctx, hvec, State.reg, hkept.regs]
  refine ⟨rfl, rfl, rfl, ?_, rfl⟩
  rw [← State.reg, State.clrReg, State.reg_setReg_same]
  exact bit_clear _ rfl

/-- A steward stopped by a fault starts with the code of the shared SRAM. -/
theorem reloadRestart_spec {q : Req} (h : MayWrite s q (swA 0x308)) (src : Fin 512) (hfault : (s.stwd i.val).faulted = true)
    (hsrc : src.val * 4096 + 0x40000 ≤ 0x200000) (hwf : s.stwCode.wf 0xFF = true) (hclean : s.microClean (156 + i.val) = true) :
    ∃ t, exec (.stwReloadRestart q i src) s = .next t ∧ (t.stwd i.val).started = true ∧ (t.stwd i.val).faulted = false ∧
      t.scR i.val 0 0x40000 = s.srR (src.val * 4096) 0x40000 ∧
      t.ctx (1404 + i.val) = { Ctx.init (1404 + i.val) with st := .run, pc := t.vectorOf (1404 + i.val) 0 } := by
  obtain ⟨j, rfl⟩ := stw_of_MayWrite h rfl
  have hload : ∀ n, ((s.stwReloaded i.val (src.val * 4096)).freed n).microClean (156 + i.val) = true := fun n => by
    rw [microClean_freed, microClean_stwReloaded, hclean]
  have hexec : exec (.stwReloadRestart (.stw j) i src) s = .next (s.stwReload i.val src.val) :=
    congrArg Host.Outcome.next (writeCmd_stw h (fun s => s.stwReload i.val src.val))
  rw [stwReload_starts src.val hfault] at hexec
  obtain ⟨hctx, hstwd, hkept, hvec⟩ := stwStart_spec (hload _)
  refine ⟨_, hexec, ?_⟩
  rw [hstwd, hvec, State.scR, hkept.stwCode, stwCode_freed]
  exact ⟨rfl, rfl, scR_stwReloaded hsrc hwf, hctx⟩

end

/-- Settles O50: the fabric's turn by `fabTurn_only`, the control port's access by the `fabCtl` lemmas, a steward's by `fabStw_raises`,
`fabStw_load` and `fabStw_store`, a fault by what `stwFault` leaves, a restart by `stwStart_spec`. -/
theorem fabricAndStewards : Obligations.FabricAndStewards := by
  unfold Obligations.FabricAndStewards
  refine ⟨fun s hdbg hctl => ⟨fun hacc => ⟨registerFabricAccess_idle hdbg hctl hacc, fun m hon _ => ?_⟩,
      fun j x hacc hothers hruns hserves => ?_⟩,
    fun s i j h => ⟨fun hfree => ?_, stwSemRead_taken h⟩, fun s i j h => congrArg Host.Outcome.next (writeCmd_stw h _),
    fun s i cause hlive h0 h5 => ?_, fun s q i h => ⟨fun hrun src => ?_, fun _ h3 => ?_, restart_spec h, reloadRestart_spec h⟩⟩
  · have haccess := registerFabricAccess_ctl hdbg hctl hacc m hon
    refine ⟨fun hserves => ?_, fun hserves => ?_⟩
    · rw [haccess, hserves]
      rfl
    rw [if_pos hserves] at haccess
    refine ⟨fun n herr => ?_, fun herr hwe hbe => ?_, fun herr hwe hmay => ?_, fun herr hwe hmay => ?_⟩
    · exact ⟨_, haccess.trans (congrArg _ (fabCtl_fails (s := s.ctlTurn m) herr)), rfl, rfl, rfl, ctlErrInfo_ctlFail (s := s.ctlTurn m) n⟩
    · exact haccess.trans (congrArg _ (fabCtl_reads (s := s.ctlTurn m) herr hwe hbe))
    · exact haccess.trans (congrArg _ ((fabCtl_writes (s := s.ctlTurn m) herr hwe).trans (by rw [if_pos hmay]; rfl)))
    · exact haccess.trans (congrArg _ ((fabCtl_writes (s := s.ctlTurn m) herr hwe).trans (by rw [hmay]; rfl)))
  · have haccess := registerFabricAccess_stw hdbg hctl hacc hothers hruns hserves
    refine ⟨fun herr => ?_, fun herr hst hwait hpend htrig hwe hm haddr => ?_, fun herr hst hwait hpend htrig hwe hm haddr => ?_⟩
    · exact ⟨_, haccess.trans (congrArg _ (fabStw_raises (s := s.stwTurn j.val) herr)),
        acc_stwRaise _ _ (congrArg Stw.acc (State.stwd_setStw_same _ _ _)), entry_stwRaise (s := (s.stwTurn j.val).accTaken j.val) rfl⟩
    · obtain ⟨c, hend, hc⟩ := fabStw_load (s := s.stwTurn j.val) herr hst hwait hpend htrig hwe hm haddr
      refine ⟨_, haccess.trans (congrArg _ hend), congrArg Stw.acc (State.stwd_setStw_same _ _ _), ?_⟩
      rwa [State.ctx_setCtx_same]
    · obtain ⟨c, hend, hrun, hos⟩ := fabStw_store (s := s.stwTurn j.val) herr hst hwait hpend htrig hwe hm haddr
      refine ⟨_, haccess.trans (congrArg _ hend), congrArg Stw.acc (State.stwd_setStw_same _ _ _), ?_⟩
      rw [State.ctx_setCtx_same]
      exact ⟨hrun, hos, State.reg_setReg_same _ _ _⟩
  · obtain ⟨t, hexec, hrd, hsems⟩ := stwSemRead_claims h hfree
    refine ⟨t, hexec, hrd, ?_, fun k hk => ?_⟩ <;> rw [hsems]
    · exact tget_tset_same _ _ _ _
    · exact tget_tset_ne _ _ _ _ _ hk
  · refine ⟨_, stewardFault_eq hlive h0 h5, ?_, ?_, (reg_stwFault _ _ _).trans (faultWord_eq_or _ _ cause.isLt), vote_stwFault s i _,
      sems_stwFault s i _, bind_stwFault s i _, ?_, ?_⟩
    · rw [stwd_stwFault]
    · rw [ctx_stwFault]
    · rw [stwFault_eq]
      exact tget_tset_same _ _ _ _
    · rw [stwFault_eq]
      exact apply_ite Cfg.phase _ _ _
  · obtain ⟨j, rfl⟩ := stw_of_MayWrite h rfl
    exact ⟨congrArg Host.Outcome.next (restart_refused h (stwRestart_unfaulted hrun)),
      congrArg Host.Outcome.next (restart_refused h (stwReload_unfaulted src.val hrun))⟩
  · obtain ⟨j, rfl⟩ := stw_of_MayWrite h rfl
    exact congrArg Host.Outcome.next (restart_refused h (stwRestart_mcheck h3))

end Sys2Proof.Machine
end
